-- ==== Sys2Proof/Word.lean ====
section
/-! DEFINITION. The word types of the XN960-A (spec/02 R42, spec/03 R82): bytes, 32-bit registers, 64-bit pairs and masks. -/

namespace Sys2Proof

/-- One byte of memory or scratch (R2). -/
abbrev Byte := BitVec 8

/-- One 32-bit register. -/
abbrev Word := BitVec 32

/-- A register pair, a control register, an address or a lane mask. -/
abbrev Dword := BitVec 64

/-- A mask with one bit for each of the 64 lanes of a group. -/
abbrev Mask := BitVec 64

/-- Bit `i` of a mask. -/
abbrev Mask.has (m : Mask) (i : Nat) : Bool := m.getLsbD i

/-- The mask of lane `i` alone. -/
abbrev Mask.bit (i : Nat) : Mask := BitVec.ofNat 64 (2 ^ i)

/-- The pair whose low register is `lo` and whose high register is `hi` (R51). -/
abbrev Dword.mk (lo hi : Word) : Dword := hi ++ lo

/-- The low register of a pair. -/
abbrev Dword.lo (x : Dword) : Word := x.setWidth 32

/-- The high register of a pair. -/
abbrev Dword.hi (x : Dword) : Word := x.extractLsb' 32 32

end Sys2Proof
end

