-- ==== Sys2Proof/Syntax.lean ====
section
/-! DEFINITION. The instructions and events of the XN960-A: one constructor of `Instr` for each row of
spec/opcode_table.json, over operand, type and modifier fields named as spec/02 R43 to R71 names them. -/

namespace Sys2Proof

/-- Instruction lengths (R42). -/
inductive Len where
  | two | three | four
  deriving DecidableEq, Repr

/-- Length in bytes. -/
def Len.bytes : Len → Nat
  | .two => 8
  | .three => 12
  | .four => 16

/-- The special operands of R41. -/
inductive Special where
  | lane | grp | team | core | zero | nteam | cyc | tb
  deriving DecidableEq, Repr

/-- The operand codes of R50. -/
inductive Opd where
  /-- 0x00-0x3F: a window register. -/
  | v (n : BitVec 6)
  /-- 0x40-0x57: a group register. -/
  | g (n : Fin 24)
  /-- 0x58-0x5F: a predicate. -/
  | p (n : BitVec 3)
  /-- 0x60-0x67: a special operand. -/
  | sp (s : Special)
  /-- 0x7F: the immediate. -/
  | imm
  deriving DecidableEq, Repr

/-- The operand types of R67. -/
inductive Ty where
  | i32 | z32 | i64 | z64 | i8 | f32 | f16 | bf16
  /-- A binary8 format: precision, unsigned, finite. -/
  | b8 (p : BitVec 3) (uns fin : Bool)
  deriving DecidableEq, Repr

/-- Rounding modes (R68). -/
inductive Rnd where
  | rne | rtz | rup | rdn | sr
  deriving DecidableEq, Repr

/-- Relations of the compares (R69). -/
inductive Cmp where
  | eq | ne | lt | le | gt | ge | ord | uno
  deriving DecidableEq, Repr

/-- ORD of the memory layout (R70). -/
inductive MemOrd where
  | none | acq | rel | acqrel
  deriving DecidableEq, Repr

/-- SCOPE of the memory layout (R70). -/
inductive Scope where
  | fib | grp | team | die | dev | sys
  deriving DecidableEq, Repr

/-- SIZE of the memory layout (R70). -/
inductive Size where
  | sz1 | sz2 | sz4 | sz8 | sz16
  deriving DecidableEq, Repr

/-- Access size in bytes. -/
def Size.bytes : Size → Nat
  | .sz1 => 1
  | .sz2 => 2
  | .sz4 => 4
  | .sz8 => 8
  | .sz16 => 16

/-- The scratch windows (R178). -/
inductive Win where
  | gen | wgt | act | erg
  deriving DecidableEq, Repr

/-- The fields every instruction has: length, STALL, GUARD and the bits above 63 (R42 to R44, R56). -/
structure Hdr where
  len : Len
  stall : BitVec 4
  /-- GUARD[19]. -/
  neg : Bool
  /-- GUARD[18:16]. -/
  pred : BitVec 3
  /-- Bits [127:64]; zero above the length. -/
  ext : BitVec 64
  deriving DecidableEq, Repr

/-- An instruction of the typed MOD layout (R66). `mode` is bits [61:58]: SAT and RND, or CMP, or OP. -/
structure TI where
  h : Hdr
  var : BitVec 2
  mode : BitVec 4
  ty : Ty
  d : Opd
  a : Opd
  b : Opd
  c : Opd
  deriving DecidableEq, Repr

/-- An instruction of the memory MOD layout (R70). -/
structure MI where
  h : Hdr
  opx : BitVec 4
  ord : MemOrd
  scope : Scope
  size : Size
  d : Opd
  a : Opd
  b : Opd
  c : Opd
  deriving DecidableEq, Repr

/-- An instruction whose MOD is laid out by its own entry (R71). -/
structure EI where
  h : Hdr
  mod : BitVec 12
  d : Opd
  a : Opd
  b : Opd
  c : Opd
  deriving DecidableEq, Repr

/-- The outcome of one training attempt of a link, as its state beat carries it (R422). -/
structure TrainResult where
  att : Nat
  map : BitVec 4
  speed : Nat
  width : Nat
  deriving DecidableEq, Repr

/-- What a fabric request asks of its target (R250, R279 to R281, R449). -/
inductive PeerKind where
  /-- Write bytes to an exported window and count them at a GEN offset there (CPYR.TO). -/
  | scratchWrite (w : Win) (bar : Nat)
  /-- Read bytes of an exported window (CPYR.FROM). -/
  | scratchRead (w : Win)
  /-- Reduce into an exported window and count there (CPYRED.TO): element code, bytes of data. -/
  | scratchReduce (w : Win) (op : Nat) (bar : Nat)
  /-- Write peer memory. -/
  | memWrite
  /-- Read peer memory. -/
  | memRead
  /-- An atomic on peer memory: operation code of R224; the data holds the operand, then the compare value. -/
  | memAtomic (op : Nat)
  /-- Reduce into peer memory: element code. -/
  | memReduce (op : Nat)
  /-- A copy's line has met a fatal fault at its sender: FAULT is set on the counting barrier at a GEN offset (R256). -/
  | scratchFault (bar : Nat)
  deriving DecidableEq, Repr

/-- A fabric request as the target port of this device receives it (R258 to R260, R269). -/
structure PeerReq where
  src : Nat
  ctx : Nat
  fkey : BitVec 16
  port : Nat
  tag : Nat
  gen : Nat
  /-- The sender's deadline in timebase ns. -/
  deadline : Nat
  kind : PeerKind
  /-- Export slot and CORE value of a scratch handle (R259). -/
  exp : Nat
  core : Nat
  /-- Window offset, or physical address. -/
  addr : Nat
  size : Nat
  data : List Byte
  /-- The bytes are poisoned (R254). -/
  pois : Bool := false
  /-- Which copy of the sender the request belongs to (R256), its line, the sector of the line, its lane, and how many
  requests the line sends for that sector (R250, R252). -/
  copy : Nat := 0
  line : Nat := 0
  sec : Nat := 0
  lane : Nat := 0
  parts : Nat := 1
  deriving DecidableEq, Repr

/-- A fabric reply as this device receives it (R268). -/
structure Reply where
  port : Nat
  tag : Nat
  gen : Nat
  /-- Refused by the target port (R260, R385). -/
  refused : Bool
  data : List Byte
  /-- The bytes are poisoned (R254). -/
  pois : Bool := false
  /-- The window offset lies outside its window (R257). -/
  window : Bool := false
  deriving DecidableEq, Repr

/-- A flush marker of a CPYSIG (R246): from which device, over which plane, for which signal. -/
structure Marker where
  src : Nat
  ctx : Nat
  fkey : BitVec 16
  plane : Nat
  /-- Planes that appear in the sender's plane table. -/
  planes : List Nat
  /-- Which signal of the sender the marker belongs to. -/
  sig : Nat
  exp : Nat
  core : Nat
  off : Nat
  arrivals : Nat
  bytes : Nat
  /-- The sender's timebase at sending (R361). -/
  stamp : Nat
  /-- The sender's deadline in timebase ns (R269). -/
  deadline : Nat
  deriving DecidableEq, Repr

/-- A power intent flit (R358): the sender and its planned rates in W for ten intervals. -/
structure Intent where
  dev : Nat
  plan : List Nat
  deriving DecidableEq, Repr

/-- The AtomicOps that the device completes for the host (R226, R428). -/
inductive BarAtomic where
  | fetchAdd
  | swap
  | cas
  deriving DecidableEq, Repr

/-- An access of the host through BAR4 (R428) to local physical memory: a read, a write, or an AtomicOp with its operand in
`data` and, for CAS, its comparand in `cmp`. -/
structure BarAccess where
  addr : Nat
  write : Bool
  data : List Byte
  size : Nat
  atomic : Option BarAtomic := none
  cmp : List Byte := []
  deriving DecidableEq, Repr

/-- The steps of the part: an instruction of a group, or an event of the table. -/
inductive Instr where
  /-- R113: Adds two 32-bit integers in each participant, wrapping or saturating into the destination type. -/
  | iadd (t : TI)
  /-- R113: Subtracts two 32-bit integers in each participant, wrapping or saturating into the destination type. -/
  | isub (t : TI)
  /-- R113: Multiplies two 32-bit integers and keeps the low 32 bits, or the saturated product with .SAT. -/
  | imul (t : TI)
  /-- R113: Writes bits [63:32] of the exact signed or unsigned 32-bit product. -/
  | imulh (t : TI)
  /-- R113: Computes A×B+C with a single wrap or saturation. -/
  | imad (t : TI)
  /-- R113: Writes the lesser of two integers, compared signed or unsigned. -/
  | imin (t : TI)
  /-- R113: Writes the greater of two integers, compared signed or unsigned. -/
  | imax (t : TI)
  /-- R113: Writes the absolute value of a 32-bit signed integer, optionally saturating. -/
  | iabs (t : TI)
  /-- R113: Writes the negation of a 32-bit signed integer, optionally saturating. -/
  | ineg (t : TI)
  /-- R113: Writes the bitwise AND of two operands, predicates included. -/
  | and (t : TI)
  /-- R113: Writes the bitwise OR of two operands. -/
  | or (t : TI)
  /-- R113: Writes the bitwise XOR of two operands. -/
  | xor (t : TI)
  /-- R113: Writes A AND NOT B. -/
  | andn (t : TI)
  /-- R113: Shifts A left by B, giving 0 for counts of 32 or more. -/
  | shl (t : TI)
  /-- R113: Shifts A right with zero fill. -/
  | shr (t : TI)
  /-- R113: Shifts A right with sign fill. -/
  | sar (t : TI)
  /-- R113: Rotates A left by B mod 32. -/
  | rot (t : TI)
  /-- R114: Extracts a bit field and sign- or zero-extends it. -/
  | bfx (t : TI)
  /-- R114: Inserts the low bits of B into a field of A. -/
  | bfi (t : TI)
  /-- R113: Counts the 1 bits of A. -/
  | popc (t : TI)
  /-- R113: Counts the leading zero bits of A. -/
  | clz (t : TI)
  /-- R113: Counts the trailing zero bits of A. -/
  | ctz (t : TI)
  /-- R113: Reverses the 32 bits of A. -/
  | brev (t : TI)
  /-- R115: Compares two 32-bit integers and writes 1 or 0 to a predicate or register. -/
  | icmp (t : TI)
  /-- R115: Selects A or B according to predicate C. -/
  | sel (t : TI)
  /-- R113: Copies A to D. -/
  | mov (t : TI)
  /-- R116: Adds the sum of absolute byte differences of A and B to C. -/
  | sad (t : TI)
  /-- R116: Adds the four-way byte dot product of A and B to C. -/
  | dp4 (t : TI)
  /-- R117: Adds two 64-bit pairs. -/
  | iadd64 (t : TI)
  /-- R117: Subtracts two 64-bit pairs. -/
  | isub64 (t : TI)
  /-- R117: Computes a 32×32 product plus a 64-bit addend. -/
  | imad64 (t : TI)
  /-- R117: Shifts a 64-bit pair left. -/
  | shl64 (t : TI)
  /-- R117: Shifts a 64-bit pair right, with sign fill for I64. -/
  | shr64 (t : TI)
  /-- R117: Forms a 64-bit address A + ext(B)×scale. -/
  | lea (t : TI)
  /-- R117: Copies a 64-bit pair. -/
  | mov64 (t : TI)
  /-- R117: Compares two 64-bit pairs and writes 1 or 0. -/
  | icmp64 (t : TI)
  /-- R118: Writes the bank, row and byte of a scratch window offset. -/
  | spmap (t : TI)
  /-- R119: Adds two F32 values with one rounding. -/
  | fadd (t : TI)
  /-- R119: Subtracts two F32 values with one rounding. -/
  | fsub (t : TI)
  /-- R119: Multiplies two F32 values with one rounding. -/
  | fmul (t : TI)
  /-- R119: Computes the fused multiply-add a×b+c with one rounding. -/
  | ffma (t : TI)
  /-- R120: Writes the lesser F32 operand under the NaN rules. -/
  | fmin (t : TI)
  /-- R120: Writes the greater F32 operand under the NaN rules. -/
  | fmax (t : TI)
  /-- R121: Compares two float operands and writes 1 or 0. -/
  | fcmp (t : TI)
  /-- R119: Rounds an F32 value to an integral value in the chosen direction. -/
  | frnd (t : TI)
  /-- R119: Adds packed F16 or BF16 element pairs. -/
  | hadd2 (t : TI)
  /-- R119: Multiplies packed F16 or BF16 element pairs. -/
  | hmul2 (t : TI)
  /-- R119: Computes a packed fused multiply-add per element. -/
  | hfma2 (t : TI)
  /-- R119: Computes a × 2^b with one rounding. -/
  | fscale (t : TI)
  /-- R122: Writes a one-hot class code of a float operand. -/
  | fclass (t : TI)
  /-- R124: Converts one element between integer and float types. -/
  | cvt (t : TI) (src : Ty)
  /-- R126: Packs a quad of F32 values into four binary8 codes under one scale. -/
  | pkb8 (t : TI)
  /-- R126: Unpacks four binary8 codes under a scale into a quad of F32 values. -/
  | upkb8 (t : TI)
  /-- R125: Chooses an SC8 block scale for each aligned four of lanes. -/
  | bscale (t : TI)
  /-- R127: Computes the F32 reciprocal. -/
  | rcp (t : TI)
  /-- R127: Computes the F32 reciprocal square root. -/
  | rsq (t : TI)
  /-- R127: Computes the F32 square root. -/
  | sqrt (t : TI)
  /-- R127: Computes 2^a in F32. -/
  | exp2 (t : TI)
  /-- R127: Computes log2 a in F32. -/
  | log2 (t : TI)
  /-- R127: Computes sin(2πa) in F32. -/
  | sint (t : TI)
  /-- R127: Computes cos(2πa) in F32. -/
  | cost (t : TI)
  /-- R127: Computes tanh a in F32. -/
  | tanh (t : TI)
  /-- R129: Moves A from an indexed lane of the segment. -/
  | shflIdx (t : TI)
  /-- R129: Moves A from a lower lane of the segment. -/
  | shflUp (t : TI)
  /-- R129: Moves A from a higher lane of the segment. -/
  | shflDn (t : TI)
  /-- R129: Moves A from the lane given by an XOR of the lane number. -/
  | shflXor (t : TI)
  /-- R130: Writes the 64-bit mask of participants whose predicate holds. -/
  | ballot (t : TI)
  /-- R131: Evaluates ALL, ANY or UNI of a predicate over the participants and sets GF. -/
  | vote (t : TI)
  /-- R130: Counts the mask bits below the issuing lane. -/
  | mpopc (t : TI)
  /-- R132: Reduces A over all participants and writes the result to every participant. -/
  | redux (t : TI)
  /-- R130: Writes the mask of participants whose A equals the issuing lane's A. -/
  | matchOp (t : TI)
  /-- R134: Adds two values once for the group into g registers. -/
  | gadd (t : TI)
  /-- R134: Subtracts two values once for the group. -/
  | gsub (t : TI)
  /-- R134: Multiplies two values once for the group. -/
  | gmul (t : TI)
  /-- R134: Computes a bitwise operation once for the group. -/
  | glog (t : TI)
  /-- R134: Shifts or rotates once for the group. -/
  | gshf (t : TI)
  /-- R134: Copies a value into g registers. -/
  | gmov (t : TI)
  /-- R135: Sets the GF flags Z, N, C and V from A − B. -/
  | gcmp (t : TI)
  /-- R136: Loads 4 or 8 bytes from memory once for the group into g registers. -/
  | gld (t : TI)
  /-- R137: Copies one lane's v register into g registers. -/
  | rdln (t : TI)
  /-- R296: Moves every carried fibre to the target. -/
  | bra (t : EI)
  /-- R297: Branches the carried fibres when a GF condition holds. -/
  | brc (t : EI)
  /-- R298: Branches each participant in join mode. -/
  | brp (t : EI)
  /-- R300: Pushes a join-stack entry, or merges the carried fibres into the top entry. -/
  | mark (t : EI)
  /-- R301: Parks the carried fibres at the top join entry's rejoin address. -/
  | join (t : EI)
  /-- R302: Writes a link, moves the window base up by k and branches. -/
  | call (t : EI)
  /-- R302: Calls through a register-held address. -/
  | callr (t : EI)
  /-- R303: Restores the window base from the link and returns. -/
  | ret (t : EI)
  /-- R304: Frees each participant's fibre slot and checks join completion. -/
  | exit (t : EI)
  /-- R305: Starts a child fibre in the lowest free lane for each participant. -/
  | fork (t : EI)
  /-- R306: Lets the other Ready groups of the slot issue first and reloads the slice budget. -/
  | yield (t : EI)
  /-- R306: Has no effect beyond its issue and stall. -/
  | nop (t : EI)
  /-- R307: Raises TRAPI with TVAL n. -/
  | trap (t : EI)
  /-- R307: Raises BRKPT with TVAL n. -/
  | brk (t : EI)
  /-- R308: Ends the current trap and resumes the trapped fibres at TEPC, or after it with .SKIP. -/
  | tret (t : EI)
  /-- R299: Branches on whether a send-allowance slot has room. -/
  | braAlw (t : EI)
  /-- R197: Loads from global memory in each participant, after the grant checks. -/
  | ld (t : MI)
  /-- R197: Stores to global memory in each participant. -/
  | st (t : MI)
  /-- R198: Loads from a scratch window of the issuing core. -/
  | lds (t : MI)
  /-- R198: Stores to a scratch window of the issuing core. -/
  | sts (t : MI)
  /-- R198: Loads from the scratch window of another core of the team. -/
  | ldsr (t : MI)
  /-- R198: Stores to the scratch window of another core of the team. -/
  | stsr (t : MI)
  /-- R199: Prefetches a line into the L2 or L1, or takes ownership of it. -/
  | pref (t : MI)
  /-- R200: Starts a gather stream of indexed global loads into the group's queue. -/
  | gath (t : MI)
  /-- R201: Pops the head gather queue entry into the participants. -/
  | qpop (t : MI)
  /-- R225: Performs a global atomic read-modify-write per participant and returns the old value. -/
  | atom (t : MI)
  /-- R225: Performs a global atomic reduction without a result. -/
  | red (t : MI)
  /-- R225: Performs an atomic on the GEN window of the issuing core. -/
  | atoms (t : MI)
  /-- R219: Initialises a barrier word, optionally as the baton, and re-registers pending waits. -/
  | binit (t : EI)
  /-- R219: Applies one arrival with declared bytes for the whole issue, releasing for every participant. -/
  | barvOne (t : EI)
  /-- R219: Applies one arrival per participant in ascending lane order. -/
  | barvEach (t : EI)
  /-- R219: Declares expected bytes on a barrier. -/
  | bexp (t : EI)
  /-- R219: Registers a wait for a barrier phase, with an optional limit. -/
  | bwait (t : EI)
  /-- R219: Tests whether a barrier reads a given phase, acquiring on 1. -/
  | btest (t : EI)
  /-- R219: Reads the 16 barrier bytes at one instant. -/
  | brd (t : EI)
  /-- R219: Binds a region slot to a range of lines and a barrier. -/
  | rbind (t : EI)
  /-- R219: Frees a region slot and updates its barrier's tag. -/
  | rfree (t : EI)
  /-- R221: Orders the participant's accesses as an acquire and/or release at a scope. -/
  | fence (t : MI)
  /-- R222: Holds its fibres until the named engine paths are complete. -/
  | drain (t : EI)
  /-- R278: Issues per-lane copy requests between scratch and global memory, counted on a barrier. -/
  | cpy (t : EI)
  /-- R279: Copies to or from a peer device's scratch through a handle. -/
  | cpyr (t : EI)
  /-- R280: Copies with an atomic add at each destination element. -/
  | cpyred (t : EI)
  /-- R281: Sends a SYS-scope release signal to a barrier on a peer device. -/
  | cpysig (t : EI)
  /-- R282: Binds a send-allowance slot to a peer device. -/
  | alwb (t : EI)
  /-- R283: Reads a send-allowance slot into g registers and sets GF. -/
  | alwr (t : EI)
  /-- R153: Records the weight latch descriptor and loads the weights into the inactive buffer. -/
  | mxlw (t : EI)
  /-- R154: Injects one activation row per participant and accumulates the block sums. -/
  | mxrow (t : EI)
  /-- R155: Clears a run of accumulator rows, and optionally their flags. -/
  | mxzero (t : EI)
  /-- R157: Reads accumulator column slices into lane registers. -/
  | mxrd (t : EI)
  /-- R157: Writes lane registers into accumulator column slices. -/
  | mxwr (t : EI)
  /-- R158: Converts accumulator rows and stores them into ACT. -/
  | mxst (t : EI)
  /-- R159: Reads one row's flags per participant. -/
  | mxflgRd (t : EI)
  /-- R159: Clears the flags of a run of rows. -/
  | mxflgClr (t : EI)
  /-- R159: Writes the OR of a run of rows' flags to a g register. -/
  | mxflgOrr (t : EI)
  /-- R174: Compares current tiles with kept slots and writes skip bits and status. -/
  | ergc (t : EI)
  /-- R175: Keeps an input tile in a slot with its sums. -/
  | ergkIn (t : EI)
  /-- R175: Keeps an output tile in a slot. -/
  | ergkOut (t : EI)
  /-- R175: Restores a kept tile from its slot to ACT. -/
  | ergkRst (t : EI)
  /-- R175: Invalidates a slot's descriptor. -/
  | ergkInv (t : EI)
  /-- R176: Turns skip bits into a per-lane predicate. -/
  | ergt (t : EI)
  /-- R177: Reads 64 skip bits into a g pair. -/
  | ergmRd (t : EI)
  /-- R177: Writes 64 skip bits from a g pair. -/
  | ergmWr (t : EI)
  /-- R177: Clears a run of skip bits. -/
  | ergmClr (t : EI)
  /-- R177: Reads a slot descriptor into a g pair. -/
  | ergmDesc (t : EI)
  /-- R337: Enqueues a child slice record into the pool, the overflow ring or a reserved entry. -/
  | enq (t : EI)
  /-- R343: Reads the slice's budget left, issues used or energy into a g pair. -/
  | budr (t : EI)
  /-- R401: Reads a control register at one instant. -/
  | crd (t : EI)
  /-- R401: Writes a control register that has no behaviour of its own, subject to access and range checks. -/
  | cwr (t : EI)
  /-- R402: Reads a trapped fibre's stack register in a system handler. -/
  | crdStk (t : EI)
  /-- R402: Writes a trapped fibre's stack register in a system handler. -/
  | cwrStk (t : EI)
  /-- R402: Reads a word of a resident join-stack entry. -/
  | crdJs (t : EI)
  /-- R402: Removes the 16 oldest resident join entries and adds 16 to JSD. -/
  | cwrJs (t : EI)
  /-- R402: Reads a word of the trap state. -/
  | crdTs (t : EI)
  /-- R402: Writes a word of the trap state, applied at TRET. -/
  | cwrTs (t : EI)
  /-- R415: Scrubs one HBM row, counts its errors and steps the patrol cursor. -/
  | scrbRow (t : EI)
  /-- R415: Returns a row's repair status without reading it. -/
  | scrbQry (t : EI)
  /-- R416: Starts the copy of an HBM row onto the lowest unused spare. -/
  | rspr (t : EI)
  /-- R403: Invalidates covered translations and lines on the whole device. -/
  | tlbi (t : EI)
  /-- R399: Halts the target groups at instruction boundaries. -/
  | haltcHalt (t : EI)
  /-- R399: Clears the halt of the target groups. -/
  | haltcResume (t : EI)
  /-- R399: Lets each halted target form exactly one issue. -/
  | haltcStep (t : EI)
  /-- R97: Writing SRSEED resets every lane's rounding generator state. -/
  | cwrSrseed (t : EI)
  /-- R101: Writing FSTAT performs after the earlier flag updates of the group. -/
  | cwrFstat (t : EI)
  /-- R33: Writing a SKIPW word overwrites skip bits in the register's single order. -/
  | cwrSkipw (t : EI)
  /-- R145: Writing MXCAD sets the cadence from the next row pass. -/
  | cwrMxcad (t : EI)
  /-- R263: Writing a plane table entry remaps it after in-flight traffic drains, or is rejected for a dead plane. -/
  | cwrPlane (t : EI)
  /-- R34: Writing CHECKSB enables or disables STALLSHORT checking for later issues. -/
  | cwrChecksb (t : EI)
  /-- R369: Writing UVEN enables undervolting, and a write of EN = 1 clears TRIP. -/
  | cwrUven (t : EI)
  /-- R356: A level-S write of the site allocation takes effect at the next governor step. -/
  | cwrSiteal (t : EI)
  /-- R356: Writing the slew bound takes effect at the next governor step. -/
  | cwrSlew (t : EI)
  /-- R347: Writing a price-table entry applies it to later issues. -/
  | cwrPriced (t : EI)
  /-- R38: A W1C write clears the sticky rejected-write flag. -/
  | cwrCrwrej (t : EI)
  /-- R272: A level-S write of all ones clears a fabric count field. -/
  | cwrFabstat (t : EI)
  /-- R425: A level-S write clears MCLOST, MCE or REPLAY. -/
  | cwrHealth (t : EI)
  /-- R185: A level-S write of all ones clears a bank-conflict count. -/
  | cwrSpconf (t : EI)
  /-- R329: Each free issue slot chooses a group, forms its issue and takes its price from the core bucket. -/
  | issueCycle (core : Nat) (slot : Nat)
  /-- R350: Credits refill tokens to the core bucket at each timebase nanosecond boundary, paying any debt first. -/
  | tokenRefill
  /-- R195: The translation and permission answer for an access arrives, and the access proceeds or traps. -/
  | memoryGrant (op : Nat)
  /-- R196: Load data returns and writes the destination, or raises POISON. -/
  | loadDataReturn (op : Nat)
  /-- R235: A write performs at its home slice for every agent of the device. -/
  | globalWritePerform (op : Nat) (sector : Nat)
  /-- R228: An atomic performs at its home or in the requester's cache. -/
  | atomicPerform (op : Nat)
  /-- R181: A scratch access takes granules from its request list in one service cycle. -/
  | scratchServiceCycle (op : Nat)
  /-- R200: The gather engine reads elements and fills a queue entry or a fault mark. -/
  | gatherElementRead (grp : Nat)
  /-- R205: The barrier unit performs one arrival, declaration or byte count on a barrier. -/
  | barrierApply (op : Nat)
  /-- R208: A registered wait sees its phase, completes and acquires. -/
  | bwaitComplete (op : Nat)
  /-- R208: A wait on a barrier with a freeze flag set traps BARFAULT. -/
  | bwaitBarfault (op : Nat)
  /-- R208: The timebase reaches a wait's limit and the wait ends unsatisfied. -/
  | bwaitLimitExpire (op : Nat)
  /-- R222: Every named DRAIN path completes and the fibres continue. -/
  | drainEnd (op : Nat)
  /-- R221: A fence's ordering conditions are met and its fibres continue. -/
  | fenceEnd (op : Nat)
  /-- R418: An observable effect leaves the core at its issue cycle + 4. -/
  | commitGateRelease (core : Nat)
  /-- R252: A copy destination sector lands and its bytes are counted on the barrier. -/
  | copySectorLand (line : Nat) (sector : Nat)
  /-- R256: A line operation's fault becomes fatal: its remaining sectors do not land, and FAULT and FFO are set. -/
  | copyLineFault (line : Nat)
  /-- R265: A parked copy or remote issue proceeds once every named peer has enough allowance. -/
  | parkedIssueProceed (grp : Nat)
  /-- R269: A target port admits and performs a fabric request before its deadline and replies. -/
  | peerRequestReceive (r : PeerReq)
  /-- R269: A request still unstarted at its deadline is discarded unanswered. -/
  | portRequestDiscard (r : PeerReq)
  /-- R268: A reply arrives at the sender, frees its tag and updates the congestion state. -/
  | fabricReplyReceive (r : Reply)
  /-- R270: A request without a reply RQTMO after sending times out and sets TIMEOUT. -/
  | requestTimeout (tag : Nat)
  /-- R263: A line operation held with no live plane for RQTMO times out without being sent. -/
  | unsentTimeout (req : Nat)
  /-- R270: A timeout notice sets TIMEOUT on a counting barrier of the peer. -/
  | timeoutNoticeReceive (fkey : BitVec 16) (handle : Nat) (off : Nat)
  /-- R268: A tag freed by timeout becomes reusable after 2 × RQTMO. -/
  | tagQuarantineExpire (tag : Nat)
  /-- R246: The target port gathers a CPYSIG flush marker from one plane. -/
  | flushMarkerReceive (m : Marker)
  /-- R263: A changed plane entry takes effect once in-flight requests on the old plane have ended. -/
  | planeEntrySwitch (entry : Nat)
  /-- R421: A flit that fails CRC is resent from the replay buffer. -/
  | linkFlitResend (port : Nat)
  /-- R421: A port retrains after repeated resend failures, lost lock or a controller request. -/
  | linkRetrain (port : Nat)
  /-- R423: Comparing the two training outcomes brings the link up, falls back, or declares the port down. -/
  | linkTrainingBeat (port : Nat) (mine : TrainResult) (theirs : TrainResult)
  /-- R273: After a light-traffic SHEDT interval, a port halves its width. -/
  | laneShed (port : Nat)
  /-- R273: A port whose queue exceeds 8 flits per lane returns to ×4. -/
  | laneRegain (port : Nat)
  /-- R142: A queued matrix operation starts on the engine in issue order. -/
  | matrixOpStart (core : Nat)
  /-- R144: An accumulator row or matrix operation completes and writes its results. -/
  | matrixRowComplete (core : Nat)
  /-- R172: An Erg operation completes for a participant and writes its slot, skip bit or ACT rows. -/
  | ergOpComplete (core : Nat)
  /-- R352: Every 100 ns the governor sets a slew-bounded package rate and the core refill rates. -/
  | governorStep
  /-- R358: Every 10 µs each member sends its planned rates to the group. -/
  | powerIntentSend
  /-- R358: A member records a received power intent. -/
  | powerIntentReceive (m : Intent)
  /-- R360: A received lease raises EALLOC until its expiry. -/
  | leaseReceive (alloc : BitVec 64) (expires : BitVec 64)
  /-- R360: A lease stops counting at its receiver, or is restored at its sender. -/
  | leaseExpire
  /-- R361: A pacing hint caps the clock of the signalling slice's cores for 100 µs. -/
  | pacingHintReceive (slice : Nat) (h : BitVec 64)
  /-- R361: After 100 µs a pacing hint ceases to apply. -/
  | pacingExpire (core : Nat)
  /-- R364: Supply droop raises the alarm that narrows the core's engine. -/
  | droopAlarmRaise (core : Nat)
  /-- R364: The droop alarm clears after 2 µs above threshold. -/
  | droopAlarmClear (core : Nat)
  /-- R364: Stored charge below 25 % of CAPM narrows every engine. -/
  | storageAlarmRaise
  /-- R364: The storage alarm clears when LEVEL reaches 50 % of CAPM. -/
  | storageAlarmClear
  /-- R367: At each 1,000 µs window an island steps its voltage by the count of corrected errors. -/
  | undervoltWindowEnd (core : Nat)
  /-- R411: RSPR copies one codeword into the spare, and after the last one the row is remapped. -/
  | spareRowCopyStep (bank : Nat)
  /-- R417: A timing detection discards later issues and reissues from the named cycle. -/
  | timingErrorReplay (core : Nat)
  /-- R419: A late detection retires the core island and ends its slices. -/
  | lateTimingError (core : Nat)
  /-- R424: A pseudo-channel that fails retraining marks its stack degraded. -/
  | stackDegraded (stack : Nat)
  /-- R312: The command processor reads a VALID packet, takes it into the pool and clears VALID. -/
  | packetTakeIn (ctx : Nat) (queue : Nat)
  /-- R325: Dispatch places a team whole when its resources are free, or makes it a waiting gang. -/
  | teamPlace (slice : Nat) (cluster : Nat)
  /-- R304: A group with an empty active mask retires once its operations complete. -/
  | groupRetire (grp : Nat)
  /-- R394: Stops the slice's groups and saves each team into a save record. -/
  | preempt (slice : Nat)
  /-- R397: Places a saved team whole, restores its record and resumes pending work. -/
  | contextRestore (team : Nat) (cluster : Nat)
  /-- R337: A blocked ENQ is retried when an entry or ring page becomes available. -/
  | enqRetry (op : Nat)
  /-- R339: Every 10 µs the command processor retries an unmapped overflow ring page. -/
  | ringPageRetry (ctx : Nat)
  /-- R313: The host writes WIDX of a queue, and the queue descriptor is reread. -/
  | hostNotifyWrite (ctx : Nat) (queue : Nat) (widx : BitVec 32)
  /-- R429: GO starts serving queues and sets READY. -/
  | hctlGo
  /-- R434: CRST requests a cold reset. -/
  | hctlCrst
  /-- R430: Delivers a retry or fatal verdict to the access that holds the token. -/
  | sfqverdWrite (v : BitVec 64)
  /-- R430: The host consumes fault-queue entries, freeing room for held entries. -/
  | sfqidxTailWrite (v : BitVec 64)
  /-- R430: The host consumes machine-check records. -/
  | mcridxTailWrite (v : BitVec 64)
  /-- R451: Sets the ballast list, effective at the next governor step. -/
  | ballstWrite (v : BitVec 64)
  /-- R429: A whole-word write to a BAR0 host register that has no row of its own. -/
  | hostRegisterWrite (off : Nat) (v : BitVec 64)
  /-- R428: A host access to local HBM through the coherent BAR4 window. -/
  | hostBar4Access (acc : BarAccess)
  /-- R22: An alignment pulse aligns the timebase to the domain reference. -/
  | tbsyncPulse (adjust : Int)
  /-- R358: The system runtime writes the power-group member list through the management controller, and the group takes effect at the next 10 µs intent interval. -/
  | powerGroupMemberListWrite (members : List Nat)
  /-- R433: The management host reads an alert record, and ALERT_N deasserts. -/
  | mgmtAlertRead
  /-- R434: RST_N or PERST_N returns every register to reset and starts bring-up. -/
  | coldReset
  /-- R435: The device and controller finish bring-up steps 1–6 and set MCUP. -/
  | bringUpComplete
  /-- R427: FREEZE stops every ring oscillator within 50 ns. -/
  | freezeAssert
  /-- R434: Releasing FREEZE lets a pending reset proceed and does not restart the device. -/
  | freezeRelease
  /-- R433: A die rises above 110 °C, THERMTRIP_N is driven, core power is removed and the controller asserts ALERT_N with an alert record. -/
  | thermtrip
  deriving DecidableEq, Repr

end Sys2Proof
end

