-- ==== Sys2Proof/WellFormed.lean ====
section
/-! DEFINITION. What an encoding must satisfy beside naming an instruction (spec/02 R45 to R58 check 5, and the
operand and MOD limits of each entry): `Instr.wf`. -/

namespace Sys2Proof

/-- What an operand field may hold. A 64-bit operand is an even register (R51), a quad a multiple of 4 (R108). -/
inductive Kind where
  /-- The entry does not use the field (R46). -/
  | none
  /-- Any 32-bit source, with predicates (R53) when the flag holds. -/
  | s32 (preds : Bool)
  /-- Any 64-bit source. -/
  | s64
  /-- Any 32-bit source but a predicate or the immediate (R193, R276). -/
  | s32n
  /-- One window register. -/
  | vReg
  /-- A window pair. -/
  | vPair
  /-- A window quad. -/
  | vQuad
  /-- A group register. -/
  | gReg
  /-- A group pair. -/
  | gPair
  /-- A predicate code. -/
  | pred
  /-- A window register or a predicate (R115, R121). -/
  | vOrP
  /-- A window register, or a predicate when the flag holds (R53). -/
  | d32 (preds : Bool)
  /-- A v pair or a g pair. -/
  | handle
  /-- A v pair, a g pair or ZERO (R193). -/
  | gaddr
  /-- A g pair or ZERO. -/
  | gaddrU
  /-- Store data of one register: v, g or ZERO (R193). -/
  | data32
  /-- Store data of a pair. -/
  | data64
  /-- Store data of a quad. -/
  | data128
  /-- Uniform (R151): g, ZERO, GRP, TEAM, CORE, NTEAM or the immediate. -/
  | uni
  /-- Uniform but not the immediate. -/
  | uniN
  /-- A group-pipe source (R134) of 32 bits. -/
  | gs32
  /-- A group-pipe source of 64 bits. -/
  | gs64
  /-- CRD's destination: a v pair or a g pair (R401). -/
  | vgPair
  deriving DecidableEq, Repr

/-- Is the register number of a v operand a multiple of `k`? -/
def vAligned (n : BitVec 6) (k : Nat) : Bool := n.toNat % k == 0

/-- Is the special operand uniform under R151? -/
def Special.uniform : Special → Bool
  | .zero | .grp | .team | .core | .nteam => true
  | .lane | .cyc | .tb => false

/-- Does the operand suit the kind? -/
def Kind.ok : Kind → Opd → Bool
  | .none, o => o == .v 0
  | .s32 _, .v _ | .s32 _, .g _ | .s32 _, .sp _ | .s32 _, .imm => true
  | .s32 ps, .p _ => ps
  | .s64, .v n => vAligned n 2
  | .s64, .g n => n.val % 2 == 0
  | .s64, .sp _ | .s64, .imm => true
  | .s64, .p _ => false
  | .s32n, .v _ | .s32n, .g _ | .s32n, .sp _ => true
  | .s32n, _ => false
  | .vReg, .v _ => true
  | .vReg, _ => false
  | .vPair, .v n => vAligned n 2
  | .vPair, _ => false
  | .vQuad, .v n => vAligned n 4
  | .vQuad, _ => false
  | .gReg, .g _ => true
  | .gReg, _ => false
  | .gPair, .g n => n.val % 2 == 0
  | .gPair, _ => false
  | .pred, .p _ => true
  | .pred, _ => false
  | .vOrP, .v _ | .vOrP, .p _ => true
  | .vOrP, _ => false
  | .d32 _, .v _ => true
  | .d32 ps, .p _ => ps
  | .d32 _, _ => false
  | .handle, .v n => vAligned n 2
  | .handle, .g n => n.val % 2 == 0
  | .handle, _ => false
  | .gaddr, .v n => vAligned n 2
  | .gaddr, .g n => n.val % 2 == 0
  | .gaddr, .sp s => s == .zero
  | .gaddr, _ => false
  | .gaddrU, .g n => n.val % 2 == 0
  | .gaddrU, .sp s => s == .zero
  | .gaddrU, _ => false
  | .data32, .v _ | .data32, .g _ => true
  | .data32, .sp s => s == .zero
  | .data32, _ => false
  | .data64, .v n => vAligned n 2
  | .data64, .g n => n.val % 2 == 0
  | .data64, .sp s => s == .zero
  | .data64, _ => false
  | .data128, .v n => vAligned n 4
  | .data128, .sp s => s == .zero
  | .data128, _ => false
  | .uni, .g _ | .uni, .imm => true
  | .uni, .sp s => s.uniform
  | .uni, _ => false
  | .uniN, .g _ => true
  | .uniN, .sp s => s.uniform
  | .uniN, _ => false
  | .gs32, .g _ | .gs32, .imm => true
  | .gs32, .sp s => s != .lane
  | .gs32, _ => false
  | .gs64, .g n => n.val % 2 == 0
  | .gs64, .imm => true
  | .gs64, .sp s => s != .lane
  | .gs64, _ => false
  | .vgPair, .v n => vAligned n 2
  | .vgPair, .g n => n.val % 2 == 0
  | .vgPair, _ => false

/-- How many registers an operand of the kind names. -/
def Kind.regs : Kind → Nat
  | .s64 | .vPair | .gPair | .handle | .gaddr | .gaddrU | .data64 | .gs64 | .vgPair => 2
  | .vQuad | .data128 => 4
  | _ => 1

/-- The use an entry makes of the bits above 63 (R45). -/
inductive ExtUse where
  /-- Only as the immediate of an operand field that holds 0x7F. -/
  | imm
  /-- A control displacement (R295). -/
  | target
  /-- A byte displacement (R193, R136). -/
  | disp
  /-- A control register number (R401). -/
  | crnum
  /-- The word number of a trap-state form (R402). -/
  | tsword
  /-- Must be zero in every length (R402). -/
  | zero
  /-- A line count (R219). -/
  | lines
  deriving DecidableEq, Repr

/-- What the entry of an instruction asks of its encoding. -/
structure Sig where
  d : Kind := .none
  a : Kind := .none
  b : Kind := .none
  c : Kind := .none
  /-- Acts once for the group: GUARD must be 0b0111 (R57). -/
  once : Bool := false
  /-- Needs a converged group (R111, R151). -/
  conv : Bool := false
  /-- Has no 64-bit form (R47). -/
  long : Bool := false
  ext : ExtUse := .imm
  /-- The MOD codes are ones the entry allows. -/
  mod : Bool := true
  deriving DecidableEq, Repr

/-- Is the type a 64-bit integer? -/
def Ty.is64 : Ty → Bool
  | .i64 | .z64 => true
  | _ => false

/-- I32 or Z32. -/
def Ty.isInt32 : Ty → Bool
  | .i32 | .z32 => true
  | _ => false

/-- Is the type a binary8 format? -/
def Ty.isB8 : Ty → Bool
  | .b8 .. => true
  | _ => false

/-- F16 or BF16. -/
def Ty.isHalf : Ty → Bool
  | .f16 | .bf16 => true
  | _ => false

/-- Types held in less than 32 bits (R123). -/
def Ty.narrow : Ty → Bool
  | .i8 | .f16 | .bf16 => true
  | .b8 .. => true
  | _ => false

/-- Signed integer types. -/
def Ty.signed : Ty → Bool
  | .i32 | .i64 | .i8 => true
  | _ => false

/-- A type that has a code under R67: binary8 precision 0 has none. -/
def Ty.legal : Ty → Bool
  | .b8 p _ _ => p != 0
  | _ => true

/-- The TYPE codes of R67. -/
def Ty.code : Ty → BitVec 6
  | .i32 => 0x00
  | .z32 => 0x01
  | .i64 => 0x02
  | .z64 => 0x03
  | .i8 => 0x04
  | .f32 => 0x08
  | .f16 => 0x09
  | .bf16 => 0x0A
  | .b8 p u f => 1#1 ++ BitVec.ofBool u ++ BitVec.ofBool f ++ p

/-- The type of a TYPE code, if it has one (R67). -/
def Ty.ofCode (c : BitVec 6) : Option Ty :=
  if c.getLsbD 5 then
    let p : BitVec 3 := c.extractLsb' 0 3
    if p = 0 then none else some (.b8 p (c.getLsbD 4) (c.getLsbD 3))
  else match c.toNat with
    | 0x00 => some .i32
    | 0x01 => some .z32
    | 0x02 => some .i64
    | 0x03 => some .z64
    | 0x04 => some .i8
    | 0x08 => some .f32
    | 0x09 => some .f16
    | 0x0A => some .bf16
    | _ => none

/-- SAT of the typed layout (R66). -/
def TI.sat (t : TI) : Bool := t.mode.getLsbD 3

/-- RND of the typed layout as bits. -/
def TI.rndBits (t : TI) : BitVec 3 := t.mode.extractLsb' 0 3

/-- The rounding mode of a RND code (R68). -/
def Rnd.ofCode (c : BitVec 3) : Option Rnd :=
  match c.toNat with
  | 0 => some .rne
  | 1 => some .rtz
  | 2 => some .rup
  | 3 => some .rdn
  | 4 => some .sr
  | _ => none

/-- The rounding mode of a typed instruction; RNE stands for a code that is not legal. -/
def TI.rnd (t : TI) : Rnd := (Rnd.ofCode t.rndBits).getD .rne

/-- The relation of a CMP code (R69). -/
def Cmp.ofCode (c : BitVec 4) : Option Cmp :=
  match c.toNat with
  | 0 => some .eq
  | 1 => some .ne
  | 2 => some .lt
  | 3 => some .le
  | 4 => some .gt
  | 5 => some .ge
  | 6 => some .ord
  | 7 => some .uno
  | _ => none

/-- The relation of a compare; EQ stands for a code that is not legal. -/
def TI.cmp (t : TI) : Cmp := (Cmp.ofCode t.mode).getD .eq

/-- The TYPE that a per-entry MOD holds in its low six bits. -/
def EI.ty? (t : EI) : Option Ty := Ty.ofCode (t.mod.extractLsb' 0 6)

/-- That TYPE; F32 stands for a code that is not legal. -/
def EI.ty (t : EI) : Ty := t.ty?.getD .f32

/-- Bits [63:62] of a per-entry MOD. -/
def EI.var (t : EI) : BitVec 2 := t.mod.extractLsb' 10 2

/-- One bit of MOD, counted from bit 52 of the word. -/
def EI.bit (t : EI) (i : Nat) : Bool := t.mod.getLsbD i

/-- Bits [60:58] of a per-entry MOD. -/
def EI.rndBits (t : EI) : BitVec 3 := t.mod.extractLsb' 6 3

/-- The rounding mode of a per-entry MOD. -/
def EI.rnd (t : EI) : Rnd := (Rnd.ofCode t.rndBits).getD .rne

/-- Bits [61:58] of a per-entry MOD (PITCH of R165). -/
def EI.pitchBits (t : EI) : BitVec 4 := t.mod.extractLsb' 6 4

/-- IMM32. -/
def Hdr.imm32 (h : Hdr) : Word := h.ext.setWidth 32

/-- IMM32 sign-extended, a displacement (R49, R194). -/
def Hdr.disp (h : Hdr) : Dword := h.imm32.signExtend 64

/-- The control register number (R401). -/
def Hdr.crnum (h : Hdr) : Nat := (h.ext.extractLsb' 0 12).toNat

/-- GUARD 0b0111, always (R56). -/
def Hdr.always (h : Hdr) : Bool := !h.neg && h.pred == 7

/-- No SAT, no RND. -/
def TI.plainMode (t : TI) : Bool := t.mode == 0

/-- SAT allowed, RND RES0. -/
def TI.satMode (t : TI) : Bool := t.rndBits == 0

/-- RND of RNE to RDN, SAT allowed. -/
def TI.roundMode (t : TI) : Bool := t.rndBits.toNat ≤ 3

/-- An integer compare code. -/
def TI.intCmp (t : TI) : Bool := t.mode.toNat ≤ 5

/-- A float compare code. -/
def TI.floatCmp (t : TI) : Bool := t.mode.toNat ≤ 7

/-- I32 or Z32 with two sources. -/
def sigInt2 (t : TI) (sat : Bool) : Sig :=
  { d := .d32 true, a := .s32 true, b := .s32 true
    mod := t.ty.isInt32 && t.var == 0 && if sat then t.satMode else t.plainMode }

/-- I32 or Z32 with one source. -/
def sigInt1 (t : TI) : Sig :=
  { d := .d32 true, a := .s32 true, mod := t.ty.isInt32 && t.var == 0 && t.plainMode }

/-- I64 or Z64 with two pair sources. -/
def sigLong2 (t : TI) : Sig :=
  { d := .vPair, a := .s64, b := .s64, mod := t.ty.is64 && t.var == 0 && t.satMode }

/-- F32 with two sources and rounding. -/
def sigF2 (t : TI) : Sig :=
  { d := .vReg, a := .s32 false, b := .s32 false, mod := t.ty == .f32 && t.var == 0 && t.roundMode }

/-- Packed halves with two sources and rounding. -/
def sigH2 (t : TI) : Sig :=
  { d := .vReg, a := .s32 false, b := .s32 false, mod := t.ty.isHalf && t.var == 0 && t.roundMode }

/-- A special function (R127). -/
def sigSfu (t : TI) : Sig :=
  { d := .vReg, a := .s32 false, mod := t.ty == .f32 && t.var == 0 && t.plainMode }

/-- A shuffle (R129). -/
def sigShfl (t : TI) : Sig :=
  if t.ty.is64 then { d := .vPair, a := .s64, b := .s32 false, mod := t.plainMode }
  else { d := .d32 t.ty.isInt32, a := .s32 t.ty.isInt32, b := .s32 false
         mod := (t.ty.isInt32 || t.ty == .f32) && t.plainMode }

/-- A group-pipe source of the width of the type. -/
def gsrc (t : TI) : Kind := if t.ty.is64 then .gs64 else .gs32

/-- A group-pipe destination of the width of the type. -/
def gdst (t : TI) : Kind := if t.ty.is64 then .gPair else .gReg

/-- The integer types of the group pipe. -/
def Ty.isInt (t : Ty) : Bool := t.isInt32 || t.is64

/-- A group-pipe instruction with two sources. -/
def sigG2 (t : TI) (mod : Bool) : Sig :=
  { d := gdst t, a := gsrc t, b := gsrc t, once := true, conv := true, mod := t.ty.isInt && mod }

/-- The data register kind of an access size, as a destination. -/
def Size.dst : Size → Kind
  | .sz1 | .sz2 | .sz4 => .vReg
  | .sz8 => .vPair
  | .sz16 => .vQuad

/-- The data register kind of an access size, as store data. -/
def Size.src : Size → Kind
  | .sz1 | .sz2 | .sz4 => .data32
  | .sz8 => .data64
  | .sz16 => .data128

/-- SCOPE is RES0 when ORD is none (R70). -/
def MI.scopeOk (t : MI) : Bool := t.ord != .none || t.scope == .fib

/-- Scratch scopes stop at TEAM (R193). -/
def MI.scratchScope (t : MI) : Bool :=
  match t.scope with
  | .fib | .grp | .team => true
  | .die | .dev | .sys => false

/-- ORD of a load. -/
def MI.loadOrd (t : MI) : Bool := t.scopeOk && (t.ord == .none || t.ord == .acq)

/-- ORD of a store. -/
def MI.storeOrd (t : MI) : Bool := t.scopeOk && (t.ord == .none || t.ord == .rel)

/-- No ORD and no SCOPE. -/
def MI.noOrd (t : MI) : Bool := t.ord == .none && t.scope == .fib

/-- SZ4 or SZ8. -/
def Size.is48 : Size → Bool
  | .sz4 | .sz8 => true
  | _ => false

/-- The size of an atomic operation (R224). -/
def MI.atomSize (t : MI) : Bool :=
  if t.opx.toNat < 12 then t.size.is48 else t.size == .sz4

/-- The sign-extension suffix only with one or two bytes (R197). -/
def MI.signOk (t : MI) (s : Bool) : Bool :=
  !s || match t.size with
    | .sz1 | .sz2 => true
    | _ => false

/-- The width VAR of MXRD and MXWR (R157) as a register kind. -/
def EI.mxKind (t : EI) : Kind :=
  if t.var == 2 then .vQuad else if t.var == 1 then .vPair else .vReg

/-- The width in registers of MXRD and MXWR (R157). -/
def EI.mxWidth (t : EI) : Nat := 2 ^ t.var.toNat

/-- A column operand known at decode is a multiple of the width (R157). -/
def EI.colOk (t : EI) (o : Opd) : Bool :=
  o != .imm || t.h.imm32.toNat % t.mxWidth == 0

/-- A TYPE of a matrix operand (R153, R154). -/
def EI.mxType (t : EI) : Bool :=
  match t.ty? with
  | some (.b8 ..) | some .f16 | some .bf16 | some .i8 => true
  | _ => false

/-- A TYPE of an Erg tile (R173). -/
def EI.ergType (t : EI) : Bool :=
  match t.ty? with
  | some (.b8 ..) | some .f16 | some .bf16 => true
  | _ => false

/-- The barrier MOD layout (R216): bits below TC are zero and TC is zero when REM is 0. -/
def EI.barMod (t : EI) : Bool :=
  t.mod.extractLsb' 0 7 == 0 && (t.bit 9 || t.mod.extractLsb' 7 2 == 0)

/-- The barrier MOD layout without a variant. -/
def EI.barMod0 (t : EI) : Bool := t.barMod && t.var == 0

/-- DS of the copy layout (R275). -/
def EI.ds (t : EI) : Bool := t.bit 11

/-- SS of the copy layout. -/
def EI.ss (t : EI) : Bool := t.bit 10

/-- DW of the copy layout. -/
def EI.dw (t : EI) : BitVec 2 := t.mod.extractLsb' 8 2

/-- SW of the copy layout. -/
def EI.sw (t : EI) : BitVec 2 := t.mod.extractLsb' 6 2

/-- RM of the copy layout. -/
def EI.rm (t : EI) : Bool := t.bit 5

/-- OP of the copy layout. -/
def EI.cop (t : EI) : BitVec 2 := t.mod.extractLsb' 3 2

/-- SIZE of the copy layout. -/
def EI.csize (t : EI) : BitVec 3 := t.mod.extractLsb' 0 3

/-- What the copy layout asks of every copy instruction (R275). -/
def EI.copyMod (t : EI) : Bool :=
  (t.csize == 2 || t.csize == 3 || t.csize == 4) && t.dw != 3 && t.sw != 3 &&
  (t.ds || t.dw == 0) && (t.ss || t.sw == 0)

/-- A global or scratch side of a copy (R276). -/
def sideKind (scratch : Bool) : Kind := if scratch then .s32n else .gaddr

/-- The control registers that have a row of their own in the opcode table. -/
def crNamed (n : Nat) : Bool :=
  n == 0x000 || n == 0x002 || n == 0x003 || n == 0x00F || n == 0x100 || (0x140 ≤ n && n ≤ 0x17F) ||
  n == 0x210 || (0x218 ≤ n && n ≤ 0x21F) || n == 0x303 || n == 0x304 || n == 0x305 || n == 0x308 ||
  n == 0x309 || n == 0x400

/-- CWR in its .CR form (R401). -/
def sigCwr (t : EI) (num : Bool) : Sig :=
  { b := .gaddrU, once := true, conv := true, long := true, ext := .crnum, mod := t.mod == 0 && num }

/-- The source operand width of CVT (R123). -/
def cvtSrc (t : TI) (src : Ty) : Kind := if src.is64 then .s64 else .s32 t.ty.isInt32

/-- The element of CVT is one that its narrow sides hold (R123). -/
def cvtElem (t : TI) (src : Ty) : Bool :=
  if t.ty.narrow || src.narrow then
    !(t.ty.isHalf || src.isHalf) || t.var.toNat ≤ 1
  else t.var == 0

/-- What each instruction's entry asks of its encoding; none for the events, which have no encoding. -/
def sig : Instr → Option Sig
  | .iadd t | .isub t | .imul t => some (sigInt2 t true)
  | .imad t => some { sigInt2 t true with c := .s32 true }
  | .imulh t | .imin t | .imax t | .and t | .or t | .xor t | .andn t | .shl t | .shr t | .sar t | .rot t =>
      some (sigInt2 t false)
  | .iabs t | .ineg t =>
      some { d := .d32 true, a := .s32 true, mod := t.ty == .i32 && t.var == 0 && t.satMode }
  | .bfx t | .bfi t => some { sigInt2 t false with c := .s32 true }
  | .popc t | .clz t | .ctz t | .brev t => some (sigInt1 t)
  | .icmp t => some { d := .vOrP, a := .s32 true, b := .s32 true, mod := t.ty.isInt32 && t.var == 0 && t.intCmp }
  | .sel t =>
      some { d := .d32 t.ty.isInt32, a := .s32 t.ty.isInt32, b := .s32 t.ty.isInt32, c := .pred
             mod := (t.ty.isInt32 || t.ty == .f32) && t.var == 0 && t.plainMode }
  | .mov t =>
      some { d := .d32 t.ty.isInt32, a := .s32 t.ty.isInt32
             mod := (t.ty.isInt32 || t.ty == .f32) && t.var == 0 && t.plainMode }
  | .sad t | .dp4 t =>
      some { d := .vReg, a := .s32 false, b := .s32 false, c := .s32 false, mod := t.ty == .i8 && t.satMode }
  | .iadd64 t | .isub64 t => some (sigLong2 t)
  | .imad64 t => some { d := .vPair, a := .s32 false, b := .s32 false, c := .s64, mod := (sigLong2 t).mod }
  | .shl64 t | .shr64 t =>
      some { d := .vPair, a := .s64, b := .s32 false, mod := t.ty.is64 && t.var == 0 && t.plainMode }
  | .lea t => some { d := .vPair, a := .s64, b := .s32 false, mod := t.ty.is64 && t.plainMode }
  | .mov64 t => some { d := .vPair, a := .s64, mod := t.ty.is64 && t.var == 0 && t.plainMode }
  | .icmp64 t => some { d := .vOrP, a := .s64, b := .s64, mod := t.ty.is64 && t.var == 0 && t.intCmp }
  | .spmap t => some { d := .d32 true, a := .s32 true, mod := t.ty == .z32 && t.var == 0 && t.plainMode }
  | .fadd t | .fsub t | .fmul t | .fscale t => some (sigF2 t)
  | .ffma t => some { sigF2 t with c := .s32 false }
  | .fmin t | .fmax t =>
      some { d := .vReg, a := .s32 false, b := .s32 false, mod := t.ty == .f32 && t.var == 0 && t.plainMode }
  | .fcmp t =>
      some { d := .vOrP, a := .s32 false, b := .s32 false
             mod := t.floatCmp && (t.ty == .f32 && t.var == 0 || t.ty.isHalf && t.var.toNat ≤ 1) }
  | .frnd t =>
      some { d := .vReg, a := .s32 false, mod := t.ty == .f32 && t.var == 0 && t.roundMode && !t.sat }
  | .hadd2 t | .hmul2 t => some (sigH2 t)
  | .hfma2 t => some { sigH2 t with c := .s32 false }
  | .fclass t =>
      some { d := .vReg, a := .s32 false
             mod := t.plainMode && (t.ty == .f32 && t.var == 0 || t.ty.isHalf && t.var.toNat ≤ 1) }
  | .cvt t src =>
      some { d := if t.ty.is64 then .vPair else .d32 t.ty.isInt32, a := cvtSrc t src
             mod := src.legal && t.ty != src && cvtElem t src && t.rndBits.toNat ≤ 4 &&
               (t.rndBits != 4 || t.ty.isHalf || t.ty.isB8) }
  | .pkb8 t => some { d := .vReg, a := .vQuad, b := .s32 false, mod := t.ty.isB8 && t.var == 0 && t.rndBits.toNat ≤ 4 }
  | .upkb8 t => some { d := .vQuad, a := .s32 false, b := .s32 false, mod := t.ty.isB8 && t.var == 0 && t.roundMode }
  | .bscale t => some { d := .vReg, a := .vQuad, mod := t.ty.isB8 && t.var == 0 && t.plainMode }
  | .rcp t | .rsq t | .sqrt t | .exp2 t | .log2 t | .sint t | .cost t | .tanh t => some (sigSfu t)
  | .shflIdx t | .shflUp t | .shflDn t | .shflXor t => some (sigShfl t)
  | .ballot t => some { d := .vPair, a := .pred, mod := t.ty == .z64 && t.var == 0 && t.plainMode }
  | .vote t => some { d := .pred, a := .pred, mod := t.ty == .z32 && t.var != 3 && t.plainMode }
  | .mpopc t => some { d := .vReg, a := .s64, mod := t.ty == .z64 && t.var == 0 && t.plainMode }
  | .redux t =>
      some { d := .d32 t.ty.isInt32, a := .s32 t.ty.isInt32
             mod := t.var == 0 && t.rndBits.toNat ≤ 5 && (t.ty.isInt32 || t.ty == .f32 && t.rndBits.toNat ≤ 2) &&
               (!t.sat || t.rndBits == 0 && t.ty.isInt32) }
  | .matchOp t =>
      some { d := .vPair, a := if t.ty.is64 then .s64 else .s32 true
             mod := (t.ty == .z32 || t.ty == .z64) && t.var == 0 && t.plainMode }
  | .gadd t | .gsub t | .gmul t => some (sigG2 t (t.var == 0 && t.satMode))
  | .glog t => some (sigG2 t t.plainMode)
  | .gshf t => some { sigG2 t t.plainMode with b := .gs32 }
  | .gmov t => some { sigG2 t (t.var == 0 && t.plainMode) with b := .none }
  | .gcmp t => some { sigG2 t (t.var == 0 && t.plainMode) with d := .none }
  | .gld t => some { sigG2 t (t.var == 0 && t.plainMode) with a := .gPair, b := .none, ext := .disp }
  | .rdln t =>
      some { sigG2 t (t.var == 0 && t.plainMode) with a := if t.ty.is64 then .vPair else .vReg, b := .gs32 }
  | .bra t => some { once := true, long := true, ext := .target, mod := t.mod == 0 }
  | .brc t => some { once := true, long := true, ext := .target, mod := t.mod.toNat < 12 }
  | .brp t => some { long := true, ext := .target, mod := t.mod == 0 }
  | .mark t => some { once := true, long := true, ext := .target, mod := t.mod == 0 }
  | .join t => some { once := true, mod := t.mod == 0 }
  | .call t => some { long := true, ext := .target, mod := 2 ≤ t.mod.toNat && t.mod.toNat ≤ 64 }
  | .callr t => some { a := .gaddr, mod := 2 ≤ t.mod.toNat && t.mod.toNat ≤ 64 }
  | .ret t => some { mod := t.mod == 0 }
  | .exit t => some { mod := t.mod == 0 }
  | .fork t => some { d := .vReg, a := .s32n, long := true, ext := .target, mod := t.mod == 0 }
  | .yield t => some { once := true, mod := t.mod == 0 }
  | .nop t => some { mod := t.mod == 0 }
  | .trap _ | .brk _ => some {}
  | .tret t => some { once := true, mod := t.mod.toNat ≤ 1 }
  | .braAlw t => some { b := .uniN, once := true, long := true, ext := .target, mod := t.mod.toNat < 32 }
  | .ld t =>
      some { d := t.size.dst, a := .gaddr, ext := .disp
             mod := t.loadOrd && t.opx.extractLsb' 2 2 != 3 && !t.opx.getLsbD 1 && t.signOk (t.opx.getLsbD 0) }
  | .st t =>
      some { a := .gaddr, b := t.size.src, ext := .disp
             mod := t.storeOrd && t.opx.extractLsb' 2 2 != 3 && t.opx.extractLsb' 0 2 == 0 }
  | .lds t =>
      some { d := t.size.dst, a := .s32n, ext := .disp
             mod := t.loadOrd && t.scratchScope && t.opx.extractLsb' 0 2 != 3 && !t.opx.getLsbD 2 &&
               t.signOk (t.opx.getLsbD 3) }
  | .sts t =>
      some { a := .s32n, b := t.size.src, ext := .disp
             mod := t.storeOrd && t.scratchScope && (t.opx == 0 || t.opx == 2) }
  | .ldsr t =>
      some { d := t.size.dst, a := .s32n, c := .s32n, ext := .disp
             mod := t.loadOrd && t.scratchScope && t.opx.extractLsb' 0 2 != 3 && !t.opx.getLsbD 2 &&
               t.signOk (t.opx.getLsbD 3) }
  | .stsr t =>
      some { a := .s32n, b := t.size.src, c := .s32n, ext := .disp
             mod := t.storeOrd && t.scratchScope && (t.opx == 0 || t.opx == 2) }
  | .pref t => some { a := .gaddr, ext := .disp, mod := t.noOrd && t.opx.toNat ≤ 2 && t.size == .sz1 }
  | .gath t =>
      some { a := .gaddrU, b := .uni, c := .uni, once := true, conv := true
             mod := t.noOrd && t.opx.toNat ≤ 1 && t.size.is48 }
  | .qpop t => some { d := t.size.dst, conv := true, mod := t.noOrd && t.opx == 0 && t.size.is48 }
  | .atom t =>
      some { d := t.size.dst, a := .gaddr, b := t.size.src, c := if t.opx == 9 then t.size.src else .none
             ext := .disp, mod := t.scopeOk && t.atomSize }
  | .red t =>
      some { a := .gaddr, b := t.size.src, ext := .disp
             mod := t.storeOrd && t.atomSize && t.opx != 8 && t.opx != 9 }
  | .atoms t =>
      some { d := t.size.dst, a := .s32n, b := t.size.src, c := if t.opx == 9 then t.size.src else .none
             ext := .disp, mod := t.scopeOk && t.scratchScope && t.atomSize }
  | .binit t =>
      some { a := .uni, b := .uni, once := true, conv := true
             mod := t.barMod && (t.var == 0 || t.var == 1 && !t.bit 9) }
  | .barvOne t => some { a := .uni, b := .uni, c := .uni, once := true, conv := true, mod := t.barMod && t.var == 0 }
  | .barvEach t => some { a := .s32 false, b := .s32 false, c := .s32 false, mod := t.barMod && t.var == 1 }
  | .bexp t => some { a := .uni, b := .uni, once := true, conv := true, mod := t.barMod0 }
  | .bwait t => some { d := .pred, a := .uni, b := .uni, c := .uni, mod := t.barMod0 }
  | .btest t => some { d := .pred, a := .uni, b := .uni, mod := t.barMod0 }
  | .brd t => some { d := .vQuad, a := .uni, mod := t.barMod0 }
  | .rbind t =>
      some { a := .uniN, b := .gaddrU, c := .uniN, once := true, conv := true, long := true, ext := .lines
             mod := t.barMod0 }
  | .rfree t => some { a := .uni, once := true, conv := true, mod := t.mod == 0 }
  | .fence t => some { mod := t.ord != .none && t.opx == 0 && t.size == .sz1 }
  | .drain t => some { mod := t.mod != 0 && t.mod.toNat < 32 }
  | .cpy t =>
      some { a := sideKind t.ds, b := sideKind t.ss, c := .uni
             mod := t.copyMod && (t.ds || t.ss) && !t.rm && t.cop == 0 }
  | .cpyr t =>
      some { a := if t.rm then .handle else sideKind t.ds, b := if t.rm then sideKind t.ss else .handle, c := .uni
             mod := t.copyMod && t.cop == 0 && if t.rm then t.ds else t.ss }
  | .cpyred t =>
      some { a := if t.rm then .handle else sideKind t.ds, b := sideKind t.ss, c := .uni
             mod := t.copyMod && t.cop != 3 && t.dw != 1 && t.sw != 1 && (!t.rm || t.ds) }
  | .cpysig t => some { a := .gPair, b := .uni, c := .uni, once := true, conv := true, mod := t.mod == 0 }
  | .alwb t => some { a := .uni, b := .uni, once := true, conv := true, mod := t.mod == 0 }
  | .alwr t => some { d := .gPair, a := .uni, b := .uni, once := true, conv := true, mod := t.mod == 0 }
  | .mxlw t =>
      some { a := .uni, b := if t.ty.isB8 then .uni else .none, once := true, conv := true
             mod := t.mxType && t.mod.extractLsb' 9 3 == 0 }
  | .mxrow t =>
      some { a := .uni, b := .uni, c := .uni, conv := true
             mod := t.mxType && t.var == 0 && t.rndBits == 0 && (!t.bit 9 || t.ty == .i8) }
  | .mxzero t =>
      some { a := .uni, b := .uni, once := true, conv := true, mod := t.mod.extractLsb' 0 11 == 0 }
  | .mxrd t =>
      some { d := t.mxKind, a := .uni, b := .uni, conv := true
             mod := t.pitchBits == 0 && t.var != 3 && (t.ty? == some .f32 || t.ty? == some .i32) && t.colOk t.b }
  | .mxwr t =>
      some { a := t.mxKind, b := .uni, c := .uni, conv := true
             mod := t.pitchBits == 0 && t.var != 3 && (t.ty? == some .f32 || t.ty? == some .i32) && t.colOk t.c }
  | .mxst t =>
      some { a := .uni, b := .uni, c := .uni, conv := true
             mod := t.var == 0 && match t.ty? with
               | some .f32 | some .i32 => t.pitchBits == 0
               | some .f16 | some .bf16 | some (.b8 ..) => t.rndBits.toNat ≤ 4
               | some .i8 => t.rndBits == 0
               | _ => false }
  | .mxflgRd t =>
      some { d := .vReg, a := .uni, conv := true, mod := t.var == 0 && t.pitchBits == 0 && t.ty? == some .z32 }
  | .mxflgClr t =>
      some { a := .uni, b := .uni, once := true, conv := true
             mod := t.var == 1 && t.pitchBits == 0 && t.ty? == some .z32 }
  | .mxflgOrr t =>
      some { d := .gReg, a := .uni, b := .uni, once := true, conv := true
             mod := t.var == 2 && t.pitchBits == 0 && t.ty? == some .z32 }
  | .ergc t => some { d := .vReg, a := .uni, b := .uni, c := .uni, conv := true, mod := t.var == 0 && t.ty?.isSome }
  | .ergkIn t => some { a := .uni, b := .uni, c := .uni, conv := true, mod := t.var == 0 && t.ty?.isSome }
  | .ergkOut t => some { a := .uni, b := .uni, c := .uni, conv := true, mod := t.var == 1 && t.ty?.isSome }
  | .ergkRst t =>
      some { a := .uni, b := .uni, c := .uni, conv := true, mod := t.var == 2 && t.mod.extractLsb' 0 6 == 0 }
  | .ergkInv t => some { c := .uni, conv := true, mod := t.var == 3 && t.mod.extractLsb' 0 10 == 0 }
  | .ergt t => some { d := .pred, a := .uni, conv := true, mod := t.var != 3 && t.mod.extractLsb' 0 10 == 0 }
  | .ergmRd t => some { d := .gPair, a := .uni, once := true, conv := true, mod := t.mod == 0x000 }
  | .ergmWr t => some { a := .uni, b := .gPair, once := true, conv := true, mod := t.mod == 0x400 }
  | .ergmClr t => some { a := .uni, b := .uni, once := true, conv := true, mod := t.mod == 0x800 }
  | .ergmDesc t => some { d := .gPair, a := .uni, once := true, conv := true, mod := t.mod == 0xC00 }
  | .enq t => some { d := .pred, a := .gPair, once := true, conv := true, mod := t.mod.extractLsb' 0 11 == 0 }
  | .budr t =>
      some { d := .gPair, once := true, conv := true, mod := t.var != 3 && t.mod.extractLsb' 0 10 == 0 }
  | .crd t =>
      some { d := .vgPair, long := true, ext := .crnum, mod := t.mod == 0
             once := match t.d with
               | .g _ => true
               | _ => false
             conv := match t.d with
               | .g _ => true
               | _ => false }
  | .cwr t => some (sigCwr t (!crNamed t.h.crnum))
  | .crdStk t => some { d := .vReg, a := .s32n, long := true, ext := .zero, mod := t.mod == 0x400 }
  | .cwrStk t => some { a := .s32n, b := .vReg, long := true, ext := .zero, mod := t.mod == 0x400 }
  | .crdJs t => some { d := .vReg, a := .uni, long := true, mod := t.mod == 0x800 }
  | .cwrJs t => some { once := true, long := true, mod := t.mod == 0x800 }
  | .crdTs t =>
      some { d := if t.h.imm32 = 3 then .vPair else .vReg, long := true, ext := .tsword, mod := t.mod == 0xC00 }
  | .cwrTs t =>
      some { b := if t.h.imm32 = 3 then .vPair else .vReg, long := true, ext := .tsword, mod := t.mod == 0xC00 }
  | .scrbRow t => some { d := .gPair, a := .uni, once := true, conv := true, mod := t.mod == 0x000 }
  | .scrbQry t => some { d := .gPair, a := .uni, once := true, conv := true, mod := t.mod == 0x400 }
  | .rspr t => some { d := .gPair, a := .uni, once := true, conv := true, mod := t.mod == 0 }
  | .tlbi t =>
      some { a := if t.var == 0 then .none else .uni
             b := if t.var == 2 || t.var == 3 then .gPair else .none
             c := if t.var == 3 then .uni else .none
             once := true, conv := true, mod := t.mod.extractLsb' 0 10 == 0 }
  | .haltcHalt t => some (sigHalt t 0)
  | .haltcResume t => some (sigHalt t 1)
  | .haltcStep t => some (sigHalt t 2)
  | .cwrSrseed t => some (sigCwr t (t.h.crnum == 0x003))
  | .cwrFstat t => some (sigCwr t (t.h.crnum == 0x002))
  | .cwrSkipw t => some (sigCwr t (0x140 ≤ t.h.crnum && t.h.crnum ≤ 0x17F))
  | .cwrMxcad t => some (sigCwr t (t.h.crnum == 0x100))
  | .cwrPlane t => some (sigCwr t (0x218 ≤ t.h.crnum && t.h.crnum ≤ 0x21F))
  | .cwrChecksb t => some (sigCwr t (t.h.crnum == 0x000))
  | .cwrUven t => some (sigCwr t (t.h.crnum == 0x309))
  | .cwrSiteal t => some (sigCwr t (t.h.crnum == 0x305))
  | .cwrSlew t => some (sigCwr t (t.h.crnum == 0x304))
  | .cwrPriced t => some (sigCwr t (t.h.crnum == 0x308))
  | .cwrCrwrej t => some (sigCwr t (t.h.crnum == 0x00F))
  | .cwrFabstat t => some (sigCwr t (t.h.crnum == 0x210))
  | .cwrHealth t => some (sigCwr t (t.h.crnum == 0x303))
  | .cwrSpconf t => some (sigCwr t (t.h.crnum == 0x400))
  | .issueCycle _ _ | .tokenRefill | .memoryGrant _ | .loadDataReturn _ | .globalWritePerform _ _
  | .atomicPerform _ | .scratchServiceCycle _ | .gatherElementRead _ | .barrierApply _ | .bwaitComplete _
  | .bwaitBarfault _ | .bwaitLimitExpire _ | .drainEnd _ | .fenceEnd _ | .commitGateRelease _
  | .copySectorLand _ _ | .copyLineFault _ | .parkedIssueProceed _ | .peerRequestReceive _
  | .portRequestDiscard _ | .fabricReplyReceive _ | .requestTimeout _ | .unsentTimeout _
  | .timeoutNoticeReceive _ _ _ | .tagQuarantineExpire _ | .flushMarkerReceive _ | .planeEntrySwitch _
  | .linkFlitResend _ | .linkRetrain _ | .linkTrainingBeat _ _ _ | .laneShed _ | .laneRegain _
  | .matrixOpStart _ | .matrixRowComplete _ | .ergOpComplete _ | .governorStep | .powerIntentSend
  | .powerIntentReceive _ | .leaseReceive _ _ | .leaseExpire | .pacingHintReceive _ _ | .pacingExpire _
  | .droopAlarmRaise _ | .droopAlarmClear _ | .storageAlarmRaise | .storageAlarmClear | .undervoltWindowEnd _
  | .spareRowCopyStep _ | .timingErrorReplay _ | .lateTimingError _ | .stackDegraded _ | .packetTakeIn _ _
  | .teamPlace _ _ | .groupRetire _ | .preempt _ | .contextRestore _ _ | .enqRetry _ | .ringPageRetry _
  | .hostNotifyWrite _ _ _ | .hctlGo | .hctlCrst | .sfqverdWrite _ | .sfqidxTailWrite _ | .mcridxTailWrite _
  | .ballstWrite _ | .hostRegisterWrite _ _ | .hostBar4Access _ | .mgmtAlertRead | .coldReset
  | .bringUpComplete | .freezeAssert | .freezeRelease | .tbsyncPulse _ | .thermtrip
  | .powerGroupMemberListWrite _ => none
where
  /-- HALTC of one OP (R399). -/
  sigHalt (t : EI) (op : BitVec 2) : Sig :=
    { a := .uni, b := if t.bit 9 then .none else .uni, c := if t.bit 9 then .none else .uni
      once := true, conv := true, mod := t.var == op && t.mod.extractLsb' 0 9 == 0 }

/-- The header of an instruction; none for an event. -/
def hdrOf : Instr → Option Hdr
  | .iadd t => some t.h
  | .isub t => some t.h
  | .imul t => some t.h
  | .imulh t => some t.h
  | .imad t => some t.h
  | .imin t => some t.h
  | .imax t => some t.h
  | .iabs t => some t.h
  | .ineg t => some t.h
  | .and t => some t.h
  | .or t => some t.h
  | .xor t => some t.h
  | .andn t => some t.h
  | .shl t => some t.h
  | .shr t => some t.h
  | .sar t => some t.h
  | .rot t => some t.h
  | .bfx t => some t.h
  | .bfi t => some t.h
  | .popc t => some t.h
  | .clz t => some t.h
  | .ctz t => some t.h
  | .brev t => some t.h
  | .icmp t => some t.h
  | .sel t => some t.h
  | .mov t => some t.h
  | .sad t => some t.h
  | .dp4 t => some t.h
  | .iadd64 t => some t.h
  | .isub64 t => some t.h
  | .imad64 t => some t.h
  | .shl64 t => some t.h
  | .shr64 t => some t.h
  | .lea t => some t.h
  | .mov64 t => some t.h
  | .icmp64 t => some t.h
  | .spmap t => some t.h
  | .fadd t => some t.h
  | .fsub t => some t.h
  | .fmul t => some t.h
  | .ffma t => some t.h
  | .fmin t => some t.h
  | .fmax t => some t.h
  | .fcmp t => some t.h
  | .frnd t => some t.h
  | .hadd2 t => some t.h
  | .hmul2 t => some t.h
  | .hfma2 t => some t.h
  | .fscale t => some t.h
  | .fclass t => some t.h
  | .cvt t _ => some t.h
  | .pkb8 t => some t.h
  | .upkb8 t => some t.h
  | .bscale t => some t.h
  | .rcp t => some t.h
  | .rsq t => some t.h
  | .sqrt t => some t.h
  | .exp2 t => some t.h
  | .log2 t => some t.h
  | .sint t => some t.h
  | .cost t => some t.h
  | .tanh t => some t.h
  | .shflIdx t => some t.h
  | .shflUp t => some t.h
  | .shflDn t => some t.h
  | .shflXor t => some t.h
  | .ballot t => some t.h
  | .vote t => some t.h
  | .mpopc t => some t.h
  | .redux t => some t.h
  | .matchOp t => some t.h
  | .gadd t => some t.h
  | .gsub t => some t.h
  | .gmul t => some t.h
  | .glog t => some t.h
  | .gshf t => some t.h
  | .gmov t => some t.h
  | .gcmp t => some t.h
  | .gld t => some t.h
  | .rdln t => some t.h
  | .bra t => some t.h
  | .brc t => some t.h
  | .brp t => some t.h
  | .mark t => some t.h
  | .join t => some t.h
  | .call t => some t.h
  | .callr t => some t.h
  | .ret t => some t.h
  | .exit t => some t.h
  | .fork t => some t.h
  | .yield t => some t.h
  | .nop t => some t.h
  | .trap t => some t.h
  | .brk t => some t.h
  | .tret t => some t.h
  | .braAlw t => some t.h
  | .ld t => some t.h
  | .st t => some t.h
  | .lds t => some t.h
  | .sts t => some t.h
  | .ldsr t => some t.h
  | .stsr t => some t.h
  | .pref t => some t.h
  | .gath t => some t.h
  | .qpop t => some t.h
  | .atom t => some t.h
  | .red t => some t.h
  | .atoms t => some t.h
  | .binit t => some t.h
  | .barvOne t => some t.h
  | .barvEach t => some t.h
  | .bexp t => some t.h
  | .bwait t => some t.h
  | .btest t => some t.h
  | .brd t => some t.h
  | .rbind t => some t.h
  | .rfree t => some t.h
  | .fence t => some t.h
  | .drain t => some t.h
  | .cpy t => some t.h
  | .cpyr t => some t.h
  | .cpyred t => some t.h
  | .cpysig t => some t.h
  | .alwb t => some t.h
  | .alwr t => some t.h
  | .mxlw t => some t.h
  | .mxrow t => some t.h
  | .mxzero t => some t.h
  | .mxrd t => some t.h
  | .mxwr t => some t.h
  | .mxst t => some t.h
  | .mxflgRd t => some t.h
  | .mxflgClr t => some t.h
  | .mxflgOrr t => some t.h
  | .ergc t => some t.h
  | .ergkIn t => some t.h
  | .ergkOut t => some t.h
  | .ergkRst t => some t.h
  | .ergkInv t => some t.h
  | .ergt t => some t.h
  | .ergmRd t => some t.h
  | .ergmWr t => some t.h
  | .ergmClr t => some t.h
  | .ergmDesc t => some t.h
  | .enq t => some t.h
  | .budr t => some t.h
  | .crd t => some t.h
  | .cwr t => some t.h
  | .crdStk t => some t.h
  | .cwrStk t => some t.h
  | .crdJs t => some t.h
  | .cwrJs t => some t.h
  | .crdTs t => some t.h
  | .cwrTs t => some t.h
  | .scrbRow t => some t.h
  | .scrbQry t => some t.h
  | .rspr t => some t.h
  | .tlbi t => some t.h
  | .haltcHalt t => some t.h
  | .haltcResume t => some t.h
  | .haltcStep t => some t.h
  | .cwrSrseed t => some t.h
  | .cwrFstat t => some t.h
  | .cwrSkipw t => some t.h
  | .cwrMxcad t => some t.h
  | .cwrPlane t => some t.h
  | .cwrChecksb t => some t.h
  | .cwrUven t => some t.h
  | .cwrSiteal t => some t.h
  | .cwrSlew t => some t.h
  | .cwrPriced t => some t.h
  | .cwrCrwrej t => some t.h
  | .cwrFabstat t => some t.h
  | .cwrHealth t => some t.h
  | .cwrSpconf t => some t.h
  | .issueCycle _ _ | .tokenRefill | .memoryGrant _ | .loadDataReturn _ | .globalWritePerform _ _
  | .atomicPerform _ | .scratchServiceCycle _ | .gatherElementRead _ | .barrierApply _ | .bwaitComplete _
  | .bwaitBarfault _ | .bwaitLimitExpire _ | .drainEnd _ | .fenceEnd _ | .commitGateRelease _
  | .copySectorLand _ _ | .copyLineFault _ | .parkedIssueProceed _ | .peerRequestReceive _
  | .portRequestDiscard _ | .fabricReplyReceive _ | .requestTimeout _ | .unsentTimeout _
  | .timeoutNoticeReceive _ _ _ | .tagQuarantineExpire _ | .flushMarkerReceive _ | .planeEntrySwitch _
  | .linkFlitResend _ | .linkRetrain _ | .linkTrainingBeat _ _ _ | .laneShed _ | .laneRegain _
  | .matrixOpStart _ | .matrixRowComplete _ | .ergOpComplete _ | .governorStep | .powerIntentSend
  | .powerIntentReceive _ | .leaseReceive _ _ | .leaseExpire | .pacingHintReceive _ _ | .pacingExpire _
  | .droopAlarmRaise _ | .droopAlarmClear _ | .storageAlarmRaise | .storageAlarmClear | .undervoltWindowEnd _
  | .spareRowCopyStep _ | .timingErrorReplay _ | .lateTimingError _ | .stackDegraded _ | .packetTakeIn _ _
  | .teamPlace _ _ | .groupRetire _ | .preempt _ | .contextRestore _ _ | .enqRetry _ | .ringPageRetry _
  | .hostNotifyWrite _ _ _ | .hctlGo | .hctlCrst | .sfqverdWrite _ | .sfqidxTailWrite _ | .mcridxTailWrite _
  | .ballstWrite _ | .hostRegisterWrite _ _ | .hostBar4Access _ | .mgmtAlertRead | .coldReset
  | .bringUpComplete | .freezeAssert | .freezeRelease | .tbsyncPulse _ | .thermtrip
  | .powerGroupMemberListWrite _ => none

/-- The operand fields of an instruction in the order D, A, B, C; none for an event. -/
def opdsOf : Instr → Option (Opd × Opd × Opd × Opd)
  | .iadd t => some (t.d, t.a, t.b, t.c)
  | .isub t => some (t.d, t.a, t.b, t.c)
  | .imul t => some (t.d, t.a, t.b, t.c)
  | .imulh t => some (t.d, t.a, t.b, t.c)
  | .imad t => some (t.d, t.a, t.b, t.c)
  | .imin t => some (t.d, t.a, t.b, t.c)
  | .imax t => some (t.d, t.a, t.b, t.c)
  | .iabs t => some (t.d, t.a, t.b, t.c)
  | .ineg t => some (t.d, t.a, t.b, t.c)
  | .and t => some (t.d, t.a, t.b, t.c)
  | .or t => some (t.d, t.a, t.b, t.c)
  | .xor t => some (t.d, t.a, t.b, t.c)
  | .andn t => some (t.d, t.a, t.b, t.c)
  | .shl t => some (t.d, t.a, t.b, t.c)
  | .shr t => some (t.d, t.a, t.b, t.c)
  | .sar t => some (t.d, t.a, t.b, t.c)
  | .rot t => some (t.d, t.a, t.b, t.c)
  | .bfx t => some (t.d, t.a, t.b, t.c)
  | .bfi t => some (t.d, t.a, t.b, t.c)
  | .popc t => some (t.d, t.a, t.b, t.c)
  | .clz t => some (t.d, t.a, t.b, t.c)
  | .ctz t => some (t.d, t.a, t.b, t.c)
  | .brev t => some (t.d, t.a, t.b, t.c)
  | .icmp t => some (t.d, t.a, t.b, t.c)
  | .sel t => some (t.d, t.a, t.b, t.c)
  | .mov t => some (t.d, t.a, t.b, t.c)
  | .sad t => some (t.d, t.a, t.b, t.c)
  | .dp4 t => some (t.d, t.a, t.b, t.c)
  | .iadd64 t => some (t.d, t.a, t.b, t.c)
  | .isub64 t => some (t.d, t.a, t.b, t.c)
  | .imad64 t => some (t.d, t.a, t.b, t.c)
  | .shl64 t => some (t.d, t.a, t.b, t.c)
  | .shr64 t => some (t.d, t.a, t.b, t.c)
  | .lea t => some (t.d, t.a, t.b, t.c)
  | .mov64 t => some (t.d, t.a, t.b, t.c)
  | .icmp64 t => some (t.d, t.a, t.b, t.c)
  | .spmap t => some (t.d, t.a, t.b, t.c)
  | .fadd t => some (t.d, t.a, t.b, t.c)
  | .fsub t => some (t.d, t.a, t.b, t.c)
  | .fmul t => some (t.d, t.a, t.b, t.c)
  | .ffma t => some (t.d, t.a, t.b, t.c)
  | .fmin t => some (t.d, t.a, t.b, t.c)
  | .fmax t => some (t.d, t.a, t.b, t.c)
  | .fcmp t => some (t.d, t.a, t.b, t.c)
  | .frnd t => some (t.d, t.a, t.b, t.c)
  | .hadd2 t => some (t.d, t.a, t.b, t.c)
  | .hmul2 t => some (t.d, t.a, t.b, t.c)
  | .hfma2 t => some (t.d, t.a, t.b, t.c)
  | .fscale t => some (t.d, t.a, t.b, t.c)
  | .fclass t => some (t.d, t.a, t.b, t.c)
  | .cvt t _ => some (t.d, t.a, t.b, t.c)
  | .pkb8 t => some (t.d, t.a, t.b, t.c)
  | .upkb8 t => some (t.d, t.a, t.b, t.c)
  | .bscale t => some (t.d, t.a, t.b, t.c)
  | .rcp t => some (t.d, t.a, t.b, t.c)
  | .rsq t => some (t.d, t.a, t.b, t.c)
  | .sqrt t => some (t.d, t.a, t.b, t.c)
  | .exp2 t => some (t.d, t.a, t.b, t.c)
  | .log2 t => some (t.d, t.a, t.b, t.c)
  | .sint t => some (t.d, t.a, t.b, t.c)
  | .cost t => some (t.d, t.a, t.b, t.c)
  | .tanh t => some (t.d, t.a, t.b, t.c)
  | .shflIdx t => some (t.d, t.a, t.b, t.c)
  | .shflUp t => some (t.d, t.a, t.b, t.c)
  | .shflDn t => some (t.d, t.a, t.b, t.c)
  | .shflXor t => some (t.d, t.a, t.b, t.c)
  | .ballot t => some (t.d, t.a, t.b, t.c)
  | .vote t => some (t.d, t.a, t.b, t.c)
  | .mpopc t => some (t.d, t.a, t.b, t.c)
  | .redux t => some (t.d, t.a, t.b, t.c)
  | .matchOp t => some (t.d, t.a, t.b, t.c)
  | .gadd t => some (t.d, t.a, t.b, t.c)
  | .gsub t => some (t.d, t.a, t.b, t.c)
  | .gmul t => some (t.d, t.a, t.b, t.c)
  | .glog t => some (t.d, t.a, t.b, t.c)
  | .gshf t => some (t.d, t.a, t.b, t.c)
  | .gmov t => some (t.d, t.a, t.b, t.c)
  | .gcmp t => some (t.d, t.a, t.b, t.c)
  | .gld t => some (t.d, t.a, t.b, t.c)
  | .rdln t => some (t.d, t.a, t.b, t.c)
  | .bra t => some (t.d, t.a, t.b, t.c)
  | .brc t => some (t.d, t.a, t.b, t.c)
  | .brp t => some (t.d, t.a, t.b, t.c)
  | .mark t => some (t.d, t.a, t.b, t.c)
  | .join t => some (t.d, t.a, t.b, t.c)
  | .call t => some (t.d, t.a, t.b, t.c)
  | .callr t => some (t.d, t.a, t.b, t.c)
  | .ret t => some (t.d, t.a, t.b, t.c)
  | .exit t => some (t.d, t.a, t.b, t.c)
  | .fork t => some (t.d, t.a, t.b, t.c)
  | .yield t => some (t.d, t.a, t.b, t.c)
  | .nop t => some (t.d, t.a, t.b, t.c)
  | .trap t => some (t.d, t.a, t.b, t.c)
  | .brk t => some (t.d, t.a, t.b, t.c)
  | .tret t => some (t.d, t.a, t.b, t.c)
  | .braAlw t => some (t.d, t.a, t.b, t.c)
  | .ld t => some (t.d, t.a, t.b, t.c)
  | .st t => some (t.d, t.a, t.b, t.c)
  | .lds t => some (t.d, t.a, t.b, t.c)
  | .sts t => some (t.d, t.a, t.b, t.c)
  | .ldsr t => some (t.d, t.a, t.b, t.c)
  | .stsr t => some (t.d, t.a, t.b, t.c)
  | .pref t => some (t.d, t.a, t.b, t.c)
  | .gath t => some (t.d, t.a, t.b, t.c)
  | .qpop t => some (t.d, t.a, t.b, t.c)
  | .atom t => some (t.d, t.a, t.b, t.c)
  | .red t => some (t.d, t.a, t.b, t.c)
  | .atoms t => some (t.d, t.a, t.b, t.c)
  | .binit t => some (t.d, t.a, t.b, t.c)
  | .barvOne t => some (t.d, t.a, t.b, t.c)
  | .barvEach t => some (t.d, t.a, t.b, t.c)
  | .bexp t => some (t.d, t.a, t.b, t.c)
  | .bwait t => some (t.d, t.a, t.b, t.c)
  | .btest t => some (t.d, t.a, t.b, t.c)
  | .brd t => some (t.d, t.a, t.b, t.c)
  | .rbind t => some (t.d, t.a, t.b, t.c)
  | .rfree t => some (t.d, t.a, t.b, t.c)
  | .fence t => some (t.d, t.a, t.b, t.c)
  | .drain t => some (t.d, t.a, t.b, t.c)
  | .cpy t => some (t.d, t.a, t.b, t.c)
  | .cpyr t => some (t.d, t.a, t.b, t.c)
  | .cpyred t => some (t.d, t.a, t.b, t.c)
  | .cpysig t => some (t.d, t.a, t.b, t.c)
  | .alwb t => some (t.d, t.a, t.b, t.c)
  | .alwr t => some (t.d, t.a, t.b, t.c)
  | .mxlw t => some (t.d, t.a, t.b, t.c)
  | .mxrow t => some (t.d, t.a, t.b, t.c)
  | .mxzero t => some (t.d, t.a, t.b, t.c)
  | .mxrd t => some (t.d, t.a, t.b, t.c)
  | .mxwr t => some (t.d, t.a, t.b, t.c)
  | .mxst t => some (t.d, t.a, t.b, t.c)
  | .mxflgRd t => some (t.d, t.a, t.b, t.c)
  | .mxflgClr t => some (t.d, t.a, t.b, t.c)
  | .mxflgOrr t => some (t.d, t.a, t.b, t.c)
  | .ergc t => some (t.d, t.a, t.b, t.c)
  | .ergkIn t => some (t.d, t.a, t.b, t.c)
  | .ergkOut t => some (t.d, t.a, t.b, t.c)
  | .ergkRst t => some (t.d, t.a, t.b, t.c)
  | .ergkInv t => some (t.d, t.a, t.b, t.c)
  | .ergt t => some (t.d, t.a, t.b, t.c)
  | .ergmRd t => some (t.d, t.a, t.b, t.c)
  | .ergmWr t => some (t.d, t.a, t.b, t.c)
  | .ergmClr t => some (t.d, t.a, t.b, t.c)
  | .ergmDesc t => some (t.d, t.a, t.b, t.c)
  | .enq t => some (t.d, t.a, t.b, t.c)
  | .budr t => some (t.d, t.a, t.b, t.c)
  | .crd t => some (t.d, t.a, t.b, t.c)
  | .cwr t => some (t.d, t.a, t.b, t.c)
  | .crdStk t => some (t.d, t.a, t.b, t.c)
  | .cwrStk t => some (t.d, t.a, t.b, t.c)
  | .crdJs t => some (t.d, t.a, t.b, t.c)
  | .cwrJs t => some (t.d, t.a, t.b, t.c)
  | .crdTs t => some (t.d, t.a, t.b, t.c)
  | .cwrTs t => some (t.d, t.a, t.b, t.c)
  | .scrbRow t => some (t.d, t.a, t.b, t.c)
  | .scrbQry t => some (t.d, t.a, t.b, t.c)
  | .rspr t => some (t.d, t.a, t.b, t.c)
  | .tlbi t => some (t.d, t.a, t.b, t.c)
  | .haltcHalt t => some (t.d, t.a, t.b, t.c)
  | .haltcResume t => some (t.d, t.a, t.b, t.c)
  | .haltcStep t => some (t.d, t.a, t.b, t.c)
  | .cwrSrseed t => some (t.d, t.a, t.b, t.c)
  | .cwrFstat t => some (t.d, t.a, t.b, t.c)
  | .cwrSkipw t => some (t.d, t.a, t.b, t.c)
  | .cwrMxcad t => some (t.d, t.a, t.b, t.c)
  | .cwrPlane t => some (t.d, t.a, t.b, t.c)
  | .cwrChecksb t => some (t.d, t.a, t.b, t.c)
  | .cwrUven t => some (t.d, t.a, t.b, t.c)
  | .cwrSiteal t => some (t.d, t.a, t.b, t.c)
  | .cwrSlew t => some (t.d, t.a, t.b, t.c)
  | .cwrPriced t => some (t.d, t.a, t.b, t.c)
  | .cwrCrwrej t => some (t.d, t.a, t.b, t.c)
  | .cwrFabstat t => some (t.d, t.a, t.b, t.c)
  | .cwrHealth t => some (t.d, t.a, t.b, t.c)
  | .cwrSpconf t => some (t.d, t.a, t.b, t.c)
  | .issueCycle _ _ | .tokenRefill | .memoryGrant _ | .loadDataReturn _ | .globalWritePerform _ _
  | .atomicPerform _ | .scratchServiceCycle _ | .gatherElementRead _ | .barrierApply _ | .bwaitComplete _
  | .bwaitBarfault _ | .bwaitLimitExpire _ | .drainEnd _ | .fenceEnd _ | .commitGateRelease _
  | .copySectorLand _ _ | .copyLineFault _ | .parkedIssueProceed _ | .peerRequestReceive _
  | .portRequestDiscard _ | .fabricReplyReceive _ | .requestTimeout _ | .unsentTimeout _
  | .timeoutNoticeReceive _ _ _ | .tagQuarantineExpire _ | .flushMarkerReceive _ | .planeEntrySwitch _
  | .linkFlitResend _ | .linkRetrain _ | .linkTrainingBeat _ _ _ | .laneShed _ | .laneRegain _
  | .matrixOpStart _ | .matrixRowComplete _ | .ergOpComplete _ | .governorStep | .powerIntentSend
  | .powerIntentReceive _ | .leaseReceive _ _ | .leaseExpire | .pacingHintReceive _ _ | .pacingExpire _
  | .droopAlarmRaise _ | .droopAlarmClear _ | .storageAlarmRaise | .storageAlarmClear | .undervoltWindowEnd _
  | .spareRowCopyStep _ | .timingErrorReplay _ | .lateTimingError _ | .stackDegraded _ | .packetTakeIn _ _
  | .teamPlace _ _ | .groupRetire _ | .preempt _ | .contextRestore _ _ | .enqRetry _ | .ringPageRetry _
  | .hostNotifyWrite _ _ _ | .hctlGo | .hctlCrst | .sfqverdWrite _ | .sfqidxTailWrite _ | .mcridxTailWrite _
  | .ballstWrite _ | .hostRegisterWrite _ _ | .hostBar4Access _ | .mgmtAlertRead | .coldReset
  | .bringUpComplete | .freezeAssert | .freezeRelease | .tbsyncPulse _ | .thermtrip
  | .powerGroupMemberListWrite _ => none

/-- The bits above 63 suit their use (R45, R295, R401, R402). With a byte displacement, or the line count of RBIND, the
word [127:96] of a 128-bit form is ignored: the manual does not say what it does there (log 64). -/
def extOk (h : Hdr) (u : ExtUse) (imms : Bool) : Bool :=
  let fits := match h.len with
    | .two => h.ext == 0
    | .three => h.ext.extractLsb' 32 32 == 0
    | .four => true
  fits && match u with
    | .imm => imms || h.ext == 0
    | .target =>
        h.ext.extractLsb' 0 2 == 0 &&
        (h.len != .four || h.ext == (h.ext.setWidth 32).signExtend 64)
    | .disp => true
    | .crnum => h.ext.toNat < 0x1000
    | .tsword => h.ext.toNat ≤ 3
    | .zero => h.ext == 0
    | .lines => true

/-- Every check of an encoding that needs the word alone (R58, check 5). -/
def wfSig (h : Hdr) (s : Sig) (o : Opd × Opd × Opd × Opd) : Bool :=
  let (d, a, b, c) := o
  let imms := d == .imm || a == .imm || b == .imm || c == .imm
  s.mod && s.d.ok d && s.a.ok a && s.b.ok b && s.c.ok c &&
  !(h.neg && h.pred == 7) && (!s.once || h.always) &&
  (h.len != .two || !imms && !s.long) && extOk h s.ext imms

/-- The types that a typed instruction names have codes (R67). -/
def tyLegal : Instr → Bool
  | .iadd t => t.ty.legal
  | .isub t => t.ty.legal
  | .imul t => t.ty.legal
  | .imulh t => t.ty.legal
  | .imad t => t.ty.legal
  | .imin t => t.ty.legal
  | .imax t => t.ty.legal
  | .iabs t => t.ty.legal
  | .ineg t => t.ty.legal
  | .and t => t.ty.legal
  | .or t => t.ty.legal
  | .xor t => t.ty.legal
  | .andn t => t.ty.legal
  | .shl t => t.ty.legal
  | .shr t => t.ty.legal
  | .sar t => t.ty.legal
  | .rot t => t.ty.legal
  | .bfx t => t.ty.legal
  | .bfi t => t.ty.legal
  | .popc t => t.ty.legal
  | .clz t => t.ty.legal
  | .ctz t => t.ty.legal
  | .brev t => t.ty.legal
  | .icmp t => t.ty.legal
  | .sel t => t.ty.legal
  | .mov t => t.ty.legal
  | .sad t => t.ty.legal
  | .dp4 t => t.ty.legal
  | .iadd64 t => t.ty.legal
  | .isub64 t => t.ty.legal
  | .imad64 t => t.ty.legal
  | .shl64 t => t.ty.legal
  | .shr64 t => t.ty.legal
  | .lea t => t.ty.legal
  | .mov64 t => t.ty.legal
  | .icmp64 t => t.ty.legal
  | .spmap t => t.ty.legal
  | .fadd t => t.ty.legal
  | .fsub t => t.ty.legal
  | .fmul t => t.ty.legal
  | .ffma t => t.ty.legal
  | .fmin t => t.ty.legal
  | .fmax t => t.ty.legal
  | .fcmp t => t.ty.legal
  | .frnd t => t.ty.legal
  | .hadd2 t => t.ty.legal
  | .hmul2 t => t.ty.legal
  | .hfma2 t => t.ty.legal
  | .fscale t => t.ty.legal
  | .fclass t => t.ty.legal
  | .pkb8 t => t.ty.legal
  | .upkb8 t => t.ty.legal
  | .bscale t => t.ty.legal
  | .rcp t => t.ty.legal
  | .rsq t => t.ty.legal
  | .sqrt t => t.ty.legal
  | .exp2 t => t.ty.legal
  | .log2 t => t.ty.legal
  | .sint t => t.ty.legal
  | .cost t => t.ty.legal
  | .tanh t => t.ty.legal
  | .shflIdx t => t.ty.legal
  | .shflUp t => t.ty.legal
  | .shflDn t => t.ty.legal
  | .shflXor t => t.ty.legal
  | .ballot t => t.ty.legal
  | .vote t => t.ty.legal
  | .mpopc t => t.ty.legal
  | .redux t => t.ty.legal
  | .matchOp t => t.ty.legal
  | .gadd t => t.ty.legal
  | .gsub t => t.ty.legal
  | .gmul t => t.ty.legal
  | .glog t => t.ty.legal
  | .gshf t => t.ty.legal
  | .gmov t => t.ty.legal
  | .gcmp t => t.ty.legal
  | .gld t => t.ty.legal
  | .rdln t => t.ty.legal
  | .cvt t src => t.ty.legal && src.legal
  | .bra _ | .brc _ | .brp _ | .mark _ | .join _ | .call _ | .callr _ | .ret _ | .exit _ | .fork _ | .yield _
  | .nop _ | .trap _ | .brk _ | .tret _ | .braAlw _ | .ld _ | .st _ | .lds _ | .sts _ | .ldsr _ | .stsr _
  | .pref _ | .gath _ | .qpop _ | .atom _ | .red _ | .atoms _ | .binit _ | .barvOne _ | .barvEach _ | .bexp _
  | .bwait _ | .btest _ | .brd _ | .rbind _ | .rfree _ | .fence _ | .drain _ | .cpy _ | .cpyr _ | .cpyred _
  | .cpysig _ | .alwb _ | .alwr _ | .mxlw _ | .mxrow _ | .mxzero _ | .mxrd _ | .mxwr _ | .mxst _ | .mxflgRd _
  | .mxflgClr _ | .mxflgOrr _ | .ergc _ | .ergkIn _ | .ergkOut _ | .ergkRst _ | .ergkInv _ | .ergt _
  | .ergmRd _ | .ergmWr _ | .ergmClr _ | .ergmDesc _ | .enq _ | .budr _ | .crd _ | .cwr _ | .crdStk _
  | .cwrStk _ | .crdJs _ | .cwrJs _ | .crdTs _ | .cwrTs _ | .scrbRow _ | .scrbQry _ | .rspr _ | .tlbi _
  | .haltcHalt _ | .haltcResume _ | .haltcStep _ | .cwrSrseed _ | .cwrFstat _ | .cwrSkipw _ | .cwrMxcad _
  | .cwrPlane _ | .cwrChecksb _ | .cwrUven _ | .cwrSiteal _ | .cwrSlew _ | .cwrPriced _ | .cwrCrwrej _
  | .cwrFabstat _ | .cwrHealth _ | .cwrSpconf _ => true
  | .issueCycle _ _ | .tokenRefill | .memoryGrant _ | .loadDataReturn _ | .globalWritePerform _ _
  | .atomicPerform _ | .scratchServiceCycle _ | .gatherElementRead _ | .barrierApply _ | .bwaitComplete _
  | .bwaitBarfault _ | .bwaitLimitExpire _ | .drainEnd _ | .fenceEnd _ | .commitGateRelease _
  | .copySectorLand _ _ | .copyLineFault _ | .parkedIssueProceed _ | .peerRequestReceive _
  | .portRequestDiscard _ | .fabricReplyReceive _ | .requestTimeout _ | .unsentTimeout _
  | .timeoutNoticeReceive _ _ _ | .tagQuarantineExpire _ | .flushMarkerReceive _ | .planeEntrySwitch _
  | .linkFlitResend _ | .linkRetrain _ | .linkTrainingBeat _ _ _ | .laneShed _ | .laneRegain _
  | .matrixOpStart _ | .matrixRowComplete _ | .ergOpComplete _ | .governorStep | .powerIntentSend
  | .powerIntentReceive _ | .leaseReceive _ _ | .leaseExpire | .pacingHintReceive _ _ | .pacingExpire _
  | .droopAlarmRaise _ | .droopAlarmClear _ | .storageAlarmRaise | .storageAlarmClear | .undervoltWindowEnd _
  | .spareRowCopyStep _ | .timingErrorReplay _ | .lateTimingError _ | .stackDegraded _ | .packetTakeIn _ _
  | .teamPlace _ _ | .groupRetire _ | .preempt _ | .contextRestore _ _ | .enqRetry _ | .ringPageRetry _
  | .hostNotifyWrite _ _ _ | .hctlGo | .hctlCrst | .sfqverdWrite _ | .sfqidxTailWrite _ | .mcridxTailWrite _
  | .ballstWrite _ | .hostRegisterWrite _ _ | .hostBar4Access _ | .mgmtAlertRead | .coldReset
  | .bringUpComplete | .freezeAssert | .freezeRelease | .tbsyncPulse _ | .thermtrip
  | .powerGroupMemberListWrite _ => true

/-- Well-formed: an instruction whose encoding raises no ILLOP by its word alone. Events are never encoded. -/
def Instr.wf (i : Instr) : Bool :=
  match sig i, hdrOf i, opdsOf i with
  | some s, some h, some o => wfSig h s o && tyLegal i
  | _, _, _ => false

/-- Executes only at level S (R27, R400). -/
def Instr.levelS : Instr → Bool
  | .scrbRow _ | .scrbQry _ | .rspr _ | .tlbi _ | .haltcHalt _ | .haltcResume _ | .haltcStep _ => true
  | .crdStk _ | .cwrStk _ | .crdJs _ | .cwrJs _ | .crdTs _ | .cwrTs _ => true
  | _ => false

/-- The forms of R402, which act on the system bank inside a system handler. -/
def Instr.sysForm : Instr → Bool
  | .crdStk _ | .cwrStk _ | .crdJs _ | .cwrJs _ | .crdTs _ | .cwrTs _ => true
  | _ => false

/-- Legal in the reconvergence mode of the slice (R288, R294). -/
def Instr.modeOk (mask : Bool) : Instr → Bool
  | .brp _ | .mark _ | .join _ => !mask
  | .call t | .ret t => !mask || t.h.always
  | .callr t => !mask || t.h.always && match t.a with
      | .v _ => false
      | _ => true
  | _ => true

end Sys2Proof
end

