-- ==== Sys2Proof/Decode.lean ====
section
/-! DEFINITION. Decoding: from the bits of a word (spec/02 R42 to R71) to an instruction or a named refusal, and the
encoder written from the same tables. -/

namespace Sys2Proof

/-- Why a word is no instruction; each raises ILLOP (R58, checks 3 and 5). -/
inductive DecodeErr where
  /-- LEN = 0b11 (R42). -/
  | badLength
  /-- A class and function that R64 does not assign (R65). -/
  | unassigned
  /-- An operand code that R50 does not assign. -/
  | badOperand
  /-- A TYPE, ORD, SCOPE, SIZE or VAR code without a meaning (R67, R70). -/
  | badMod
  /-- A field, guard or immediate that the entry refuses (R45 to R57, R108). -/
  | notWellFormed
  deriving DecidableEq, Repr

/-- The operand of a code (R50). -/
def Opd.ofCode (c : BitVec 8) : Option Opd :=
  if c.toNat < 0x40 then some (.v (c.setWidth 6))
  else if h : 0x40 ≤ c.toNat ∧ c.toNat < 0x58 then some (.g ⟨c.toNat - 0x40, by omega⟩)
  else if c.toNat < 0x58 then none
  else if c.toNat < 0x60 then some (.p (c.setWidth 3))
  else match c.toNat with
    | 0x60 => some (.sp .lane)
    | 0x61 => some (.sp .grp)
    | 0x62 => some (.sp .team)
    | 0x63 => some (.sp .core)
    | 0x64 => some (.sp .zero)
    | 0x65 => some (.sp .nteam)
    | 0x66 => some (.sp .cyc)
    | 0x67 => some (.sp .tb)
    | 0x7F => some .imm
    | _ => none

/-- The code of an operand (R50). -/
def Opd.code : Opd → BitVec 8
  | .v n => n.setWidth 8
  | .g n => BitVec.ofNat 8 (0x40 + n.val)
  | .p n => 0x58 + n.setWidth 8
  | .sp .lane => 0x60
  | .sp .grp => 0x61
  | .sp .team => 0x62
  | .sp .core => 0x63
  | .sp .zero => 0x64
  | .sp .nteam => 0x65
  | .sp .cyc => 0x66
  | .sp .tb => 0x67
  | .imm => 0x7F

/-- ORD codes (R70). -/
def MemOrd.ofCode (c : BitVec 2) : MemOrd :=
  match c.toNat with
  | 0 => .none
  | 1 => .acq
  | 2 => .rel
  | _ => .acqrel

/-- The code of an ORD. -/
def MemOrd.code : MemOrd → BitVec 2
  | .none => 0
  | .acq => 1
  | .rel => 2
  | .acqrel => 3

/-- SCOPE codes (R70). -/
def Scope.ofCode (c : BitVec 3) : Option Scope :=
  match c.toNat with
  | 0 => some .fib
  | 1 => some .grp
  | 2 => some .team
  | 3 => some .die
  | 4 => some .dev
  | 5 => some .sys
  | _ => none

/-- The code of a SCOPE. -/
def Scope.code : Scope → BitVec 3
  | .fib => 0
  | .grp => 1
  | .team => 2
  | .die => 3
  | .dev => 4
  | .sys => 5

/-- SIZE codes (R70). -/
def Size.ofCode (c : BitVec 3) : Option Size :=
  match c.toNat with
  | 0 => some .sz1
  | 1 => some .sz2
  | 2 => some .sz4
  | 3 => some .sz8
  | 4 => some .sz16
  | _ => none

/-- The code of a SIZE. -/
def Size.code : Size → BitVec 3
  | .sz1 => 0
  | .sz2 => 1
  | .sz4 => 2
  | .sz8 => 3
  | .sz16 => 4

/-- LEN codes (R42). -/
def Len.ofCode (c : BitVec 2) : Option Len :=
  match c.toNat with
  | 0 => some .two
  | 1 => some .three
  | 2 => some .four
  | _ => none

/-- The code of a length. -/
def Len.code : Len → BitVec 2
  | .two => 0
  | .three => 1
  | .four => 2

/-- The fields of R43 and R44 before a class gives MOD its layout. -/
structure Raw where
  h : Hdr
  opc : BitVec 10
  mod : BitVec 12
  d : Opd
  a : Opd
  b : Opd
  c : Opd
  deriving DecidableEq, Repr

/-- The bits above 63 that a length holds. -/
def extBits (l : Len) (w : BitVec 128) : BitVec 64 :=
  match l with
  | .two => 0
  | .three => (w.extractLsb' 64 32).setWidth 64
  | .four => w.extractLsb' 64 64

/-- Cut a word into its fields (R43). Bits above the length play no part. -/
def rawOf (w : BitVec 128) : Except DecodeErr Raw :=
  match Len.ofCode (w.extractLsb' 0 2) with
  | none => .error .badLength
  | some l =>
    match Opd.ofCode (w.extractLsb' 20 8), Opd.ofCode (w.extractLsb' 28 8),
        Opd.ofCode (w.extractLsb' 36 8), Opd.ofCode (w.extractLsb' 44 8) with
    | some d, some a, some b, some c =>
        .ok { h := { len := l, stall := w.extractLsb' 12 4, neg := w.getLsbD 19, pred := w.extractLsb' 16 3
                     ext := extBits l w }
              opc := w.extractLsb' 2 10, mod := w.extractLsb' 52 12, d := d, a := a, b := b, c := c }
    | _, _, _, _ => .error .badOperand

/-- The typed layout (R66). -/
def TI.ofRaw (r : Raw) : Option TI :=
  (Ty.ofCode (r.mod.extractLsb' 0 6)).map fun ty =>
    { h := r.h, var := r.mod.extractLsb' 10 2, mode := r.mod.extractLsb' 6 4, ty := ty
      d := r.d, a := r.a, b := r.b, c := r.c }

/-- The memory layout (R70). -/
def MI.ofRaw (r : Raw) : Option MI :=
  match Scope.ofCode (r.mod.extractLsb' 3 3), Size.ofCode (r.mod.extractLsb' 0 3) with
  | some sc, some sz =>
      some { h := r.h, opx := r.mod.extractLsb' 8 4, ord := MemOrd.ofCode (r.mod.extractLsb' 6 2)
             scope := sc, size := sz, d := r.d, a := r.a, b := r.b, c := r.c }
  | _, _ => none

/-- A per-entry layout (R71). -/
def EI.ofRaw (r : Raw) : EI := { h := r.h, mod := r.mod, d := r.d, a := r.a, b := r.b, c := r.c }

/-- CVT, whose C field holds the source TYPE code (R123). -/
def cvtOfRaw (r : Raw) : Option Instr :=
  match TI.ofRaw r, r.c with
  | some t, .v n => (Ty.ofCode n).map fun src => .cvt { t with c := .v 0 } src
  | _, _ => none

/-- CWR of a control register, by the row of the opcode table that the register has (R31). -/
def cwrOf (t : EI) : Instr :=
  let n := t.h.crnum
  if n = 0x000 then .cwrChecksb t
  else if n = 0x002 then .cwrFstat t
  else if n = 0x003 then .cwrSrseed t
  else if n = 0x00F then .cwrCrwrej t
  else if n = 0x100 then .cwrMxcad t
  else if 0x140 ≤ n ∧ n ≤ 0x17F then .cwrSkipw t
  else if n = 0x210 then .cwrFabstat t
  else if 0x218 ≤ n ∧ n ≤ 0x21F then .cwrPlane t
  else if n = 0x303 then .cwrHealth t
  else if n = 0x304 then .cwrSlew t
  else if n = 0x305 then .cwrSiteal t
  else if n = 0x308 then .cwrPriced t
  else if n = 0x309 then .cwrUven t
  else if n = 0x400 then .cwrSpconf t
  else .cwr t

/-- Pick a form by MOD [63:62]. -/
def byVar (t : EI) (f0 f1 f2 f3 : Option (EI → Instr)) : Option Instr :=
  match t.var.toNat with
  | 0 => f0.map (· t)
  | 1 => f1.map (· t)
  | 2 => f2.map (· t)
  | _ => f3.map (· t)

/-- The opcode map (R64): class and function in ten bits. -/
def classify (r : Raw) : Except DecodeErr Instr :=
  let mod (o : Option Instr) : Except DecodeErr Instr := match o with
    | some i => .ok i
    | none => .error .badMod
  let ti (f : TI → Instr) := mod ((TI.ofRaw r).map f)
  let mi (f : MI → Instr) := mod ((MI.ofRaw r).map f)
  let ei (f : EI → Instr) : Except DecodeErr Instr := .ok (f (EI.ofRaw r))
  let v4 (f0 f1 f2 f3 : Option (EI → Instr)) := mod (byVar (EI.ofRaw r) f0 f1 f2 f3)
  match r.opc.toNat with
  | 0x000 => ti .iadd
  | 0x001 => ti .isub
  | 0x002 => ti .imul
  | 0x003 => ti .imulh
  | 0x004 => ti .imad
  | 0x005 => ti .imin
  | 0x006 => ti .imax
  | 0x007 => ti .iabs
  | 0x008 => ti .ineg
  | 0x009 => ti .and
  | 0x00A => ti .or
  | 0x00B => ti .xor
  | 0x00C => ti .andn
  | 0x00D => ti .shl
  | 0x00E => ti .shr
  | 0x00F => ti .sar
  | 0x010 => ti .rot
  | 0x011 => ti .bfx
  | 0x012 => ti .bfi
  | 0x013 => ti .popc
  | 0x014 => ti .clz
  | 0x015 => ti .ctz
  | 0x016 => ti .brev
  | 0x017 => ti .icmp
  | 0x018 => ti .sel
  | 0x019 => ti .mov
  | 0x01A => ti .sad
  | 0x01B => ti .dp4
  | 0x040 => ti .iadd64
  | 0x041 => ti .isub64
  | 0x042 => ti .imad64
  | 0x043 => ti .shl64
  | 0x044 => ti .shr64
  | 0x045 => ti .lea
  | 0x046 => ti .mov64
  | 0x047 => ti .icmp64
  | 0x048 => ti .spmap
  | 0x080 => ti .fadd
  | 0x081 => ti .fsub
  | 0x082 => ti .fmul
  | 0x083 => ti .ffma
  | 0x084 => ti .fmin
  | 0x085 => ti .fmax
  | 0x086 => ti .fcmp
  | 0x087 => ti .frnd
  | 0x088 => ti .hadd2
  | 0x089 => ti .hmul2
  | 0x08A => ti .hfma2
  | 0x08B => ti .fscale
  | 0x08C => ti .fclass
  | 0x0C0 => mod (cvtOfRaw r)
  | 0x0C1 => ti .pkb8
  | 0x0C2 => ti .upkb8
  | 0x0C3 => ti .bscale
  | 0x100 => ti .rcp
  | 0x101 => ti .rsq
  | 0x102 => ti .sqrt
  | 0x103 => ti .exp2
  | 0x104 => ti .log2
  | 0x105 => ti .sint
  | 0x106 => ti .cost
  | 0x107 => ti .tanh
  | 0x140 => ti .shflIdx
  | 0x141 => ti .shflUp
  | 0x142 => ti .shflDn
  | 0x143 => ti .shflXor
  | 0x144 => ti .ballot
  | 0x145 => ti .vote
  | 0x146 => ti .mpopc
  | 0x147 => ti .redux
  | 0x148 => ti .matchOp
  | 0x180 => ti .gadd
  | 0x181 => ti .gsub
  | 0x182 => ti .gmul
  | 0x183 => ti .glog
  | 0x184 => ti .gshf
  | 0x185 => ti .gmov
  | 0x186 => ti .gcmp
  | 0x187 => ti .gld
  | 0x188 => ti .rdln
  | 0x1C0 => ei .bra
  | 0x1C1 => ei .brc
  | 0x1C2 => ei .brp
  | 0x1C3 => ei .mark
  | 0x1C4 => ei .join
  | 0x1C5 => ei .call
  | 0x1C6 => ei .callr
  | 0x1C7 => ei .ret
  | 0x1C8 => ei .exit
  | 0x1C9 => ei .fork
  | 0x1CA => ei .yield
  | 0x1CB => ei .nop
  | 0x1CC => ei .trap
  | 0x1CD => ei .brk
  | 0x1CE => ei .tret
  | 0x1CF => ei .braAlw
  | 0x200 => mi .ld
  | 0x201 => mi .st
  | 0x202 => mi .lds
  | 0x203 => mi .sts
  | 0x204 => mi .ldsr
  | 0x205 => mi .stsr
  | 0x206 => mi .pref
  | 0x207 => mi .gath
  | 0x208 => mi .qpop
  | 0x240 => mi .atom
  | 0x241 => mi .red
  | 0x242 => mi .atoms
  | 0x280 => ei .binit
  | 0x281 => v4 (some .barvOne) (some .barvEach) none none
  | 0x282 => ei .bexp
  | 0x283 => ei .bwait
  | 0x284 => ei .btest
  | 0x285 => ei .brd
  | 0x286 => ei .rbind
  | 0x287 => ei .rfree
  | 0x288 => mi .fence
  | 0x289 => ei .drain
  | 0x2C0 => ei .cpy
  | 0x2C1 => ei .cpyr
  | 0x2C2 => ei .cpyred
  | 0x2C3 => ei .cpysig
  | 0x2C4 => ei .alwb
  | 0x2C5 => ei .alwr
  | 0x300 => ei .mxlw
  | 0x301 => ei .mxrow
  | 0x302 => ei .mxzero
  | 0x303 => ei .mxrd
  | 0x304 => ei .mxwr
  | 0x305 => ei .mxst
  | 0x306 => v4 (some .mxflgRd) (some .mxflgClr) (some .mxflgOrr) none
  | 0x340 => ei .ergc
  | 0x341 => v4 (some .ergkIn) (some .ergkOut) (some .ergkRst) (some .ergkInv)
  | 0x342 => ei .ergt
  | 0x343 => v4 (some .ergmRd) (some .ergmWr) (some .ergmClr) (some .ergmDesc)
  | 0x350 => ei .enq
  | 0x351 => ei .budr
  | 0x380 => v4 (some .crd) (some .crdStk) (some .crdJs) (some .crdTs)
  | 0x381 => v4 (some cwrOf) (some .cwrStk) (some .cwrJs) (some .cwrTs)
  | 0x382 => v4 (some .scrbRow) (some .scrbQry) none none
  | 0x383 => ei .rspr
  | 0x384 => ei .tlbi
  | 0x385 => v4 (some .haltcHalt) (some .haltcResume) (some .haltcStep) none
  | _ => .error .unassigned

/-- Decode the low bits of a 128-bit value: the instruction they hold, or why they hold none. Events are no words. -/
def decode (w : BitVec 128) : Except DecodeErr Instr :=
  match rawOf w with
  | .error e => .error e
  | .ok r =>
    match classify r with
    | .error e => .error e
    | .ok i => if i.wf then .ok i else .error .notWellFormed

/-- The bits of a list of bytes, the first byte lowest (R2). -/
def bitsOfBytes : List Byte → Nat
  | [] => 0
  | b :: bs => b.toNat + 256 * bitsOfBytes bs

/-- Decode the bytes at the program counter, lowest address first; at most 16 are looked at. -/
def decodeBytes (bs : List Byte) : Except DecodeErr Instr :=
  decode (BitVec.ofNat 128 (bitsOfBytes (bs.take 16)))

/-- The instruction that the decoder reads from a word of the opcode table's numbering. -/
def decodeTableWord (nbits w : Nat) : Option Instr :=
  match decode (BitVec.ofNat 128 (w % 2 ^ nbits)) with
  | .ok i => some i
  | .error _ => none

/-- MOD of a typed instruction (R66). -/
def TI.modBits (t : TI) : BitVec 12 := t.var ++ t.mode ++ t.ty.code

/-- MOD of a memory instruction (R70). -/
def MI.modBits (t : MI) : BitVec 12 := t.opx ++ t.ord.code ++ t.scope.code ++ t.size.code

/-- The fields of a typed instruction under an operation code. -/
def TI.toRaw (t : TI) (opc : BitVec 10) : Raw :=
  { h := t.h, opc := opc, mod := t.modBits, d := t.d, a := t.a, b := t.b, c := t.c }

/-- The fields of a memory instruction under an operation code. -/
def MI.toRaw (t : MI) (opc : BitVec 10) : Raw :=
  { h := t.h, opc := opc, mod := t.modBits, d := t.d, a := t.a, b := t.b, c := t.c }

/-- The fields of a per-entry instruction under an operation code. -/
def EI.toRaw (t : EI) (opc : BitVec 10) : Raw :=
  { h := t.h, opc := opc, mod := t.mod, d := t.d, a := t.a, b := t.b, c := t.c }

/-- The fields of an instruction; none for an event. -/
def Instr.toRaw : Instr → Option Raw
  | .iadd t => some (t.toRaw 0x000)
  | .isub t => some (t.toRaw 0x001)
  | .imul t => some (t.toRaw 0x002)
  | .imulh t => some (t.toRaw 0x003)
  | .imad t => some (t.toRaw 0x004)
  | .imin t => some (t.toRaw 0x005)
  | .imax t => some (t.toRaw 0x006)
  | .iabs t => some (t.toRaw 0x007)
  | .ineg t => some (t.toRaw 0x008)
  | .and t => some (t.toRaw 0x009)
  | .or t => some (t.toRaw 0x00A)
  | .xor t => some (t.toRaw 0x00B)
  | .andn t => some (t.toRaw 0x00C)
  | .shl t => some (t.toRaw 0x00D)
  | .shr t => some (t.toRaw 0x00E)
  | .sar t => some (t.toRaw 0x00F)
  | .rot t => some (t.toRaw 0x010)
  | .bfx t => some (t.toRaw 0x011)
  | .bfi t => some (t.toRaw 0x012)
  | .popc t => some (t.toRaw 0x013)
  | .clz t => some (t.toRaw 0x014)
  | .ctz t => some (t.toRaw 0x015)
  | .brev t => some (t.toRaw 0x016)
  | .icmp t => some (t.toRaw 0x017)
  | .sel t => some (t.toRaw 0x018)
  | .mov t => some (t.toRaw 0x019)
  | .sad t => some (t.toRaw 0x01A)
  | .dp4 t => some (t.toRaw 0x01B)
  | .iadd64 t => some (t.toRaw 0x040)
  | .isub64 t => some (t.toRaw 0x041)
  | .imad64 t => some (t.toRaw 0x042)
  | .shl64 t => some (t.toRaw 0x043)
  | .shr64 t => some (t.toRaw 0x044)
  | .lea t => some (t.toRaw 0x045)
  | .mov64 t => some (t.toRaw 0x046)
  | .icmp64 t => some (t.toRaw 0x047)
  | .spmap t => some (t.toRaw 0x048)
  | .fadd t => some (t.toRaw 0x080)
  | .fsub t => some (t.toRaw 0x081)
  | .fmul t => some (t.toRaw 0x082)
  | .ffma t => some (t.toRaw 0x083)
  | .fmin t => some (t.toRaw 0x084)
  | .fmax t => some (t.toRaw 0x085)
  | .fcmp t => some (t.toRaw 0x086)
  | .frnd t => some (t.toRaw 0x087)
  | .hadd2 t => some (t.toRaw 0x088)
  | .hmul2 t => some (t.toRaw 0x089)
  | .hfma2 t => some (t.toRaw 0x08A)
  | .fscale t => some (t.toRaw 0x08B)
  | .fclass t => some (t.toRaw 0x08C)
  | .cvt t src => some { t.toRaw 0x0C0 with c := .v src.code }
  | .pkb8 t => some (t.toRaw 0x0C1)
  | .upkb8 t => some (t.toRaw 0x0C2)
  | .bscale t => some (t.toRaw 0x0C3)
  | .rcp t => some (t.toRaw 0x100)
  | .rsq t => some (t.toRaw 0x101)
  | .sqrt t => some (t.toRaw 0x102)
  | .exp2 t => some (t.toRaw 0x103)
  | .log2 t => some (t.toRaw 0x104)
  | .sint t => some (t.toRaw 0x105)
  | .cost t => some (t.toRaw 0x106)
  | .tanh t => some (t.toRaw 0x107)
  | .shflIdx t => some (t.toRaw 0x140)
  | .shflUp t => some (t.toRaw 0x141)
  | .shflDn t => some (t.toRaw 0x142)
  | .shflXor t => some (t.toRaw 0x143)
  | .ballot t => some (t.toRaw 0x144)
  | .vote t => some (t.toRaw 0x145)
  | .mpopc t => some (t.toRaw 0x146)
  | .redux t => some (t.toRaw 0x147)
  | .matchOp t => some (t.toRaw 0x148)
  | .gadd t => some (t.toRaw 0x180)
  | .gsub t => some (t.toRaw 0x181)
  | .gmul t => some (t.toRaw 0x182)
  | .glog t => some (t.toRaw 0x183)
  | .gshf t => some (t.toRaw 0x184)
  | .gmov t => some (t.toRaw 0x185)
  | .gcmp t => some (t.toRaw 0x186)
  | .gld t => some (t.toRaw 0x187)
  | .rdln t => some (t.toRaw 0x188)
  | .bra t => some (t.toRaw 0x1C0)
  | .brc t => some (t.toRaw 0x1C1)
  | .brp t => some (t.toRaw 0x1C2)
  | .mark t => some (t.toRaw 0x1C3)
  | .join t => some (t.toRaw 0x1C4)
  | .call t => some (t.toRaw 0x1C5)
  | .callr t => some (t.toRaw 0x1C6)
  | .ret t => some (t.toRaw 0x1C7)
  | .exit t => some (t.toRaw 0x1C8)
  | .fork t => some (t.toRaw 0x1C9)
  | .yield t => some (t.toRaw 0x1CA)
  | .nop t => some (t.toRaw 0x1CB)
  | .trap t => some (t.toRaw 0x1CC)
  | .brk t => some (t.toRaw 0x1CD)
  | .tret t => some (t.toRaw 0x1CE)
  | .braAlw t => some (t.toRaw 0x1CF)
  | .ld t => some (t.toRaw 0x200)
  | .st t => some (t.toRaw 0x201)
  | .lds t => some (t.toRaw 0x202)
  | .sts t => some (t.toRaw 0x203)
  | .ldsr t => some (t.toRaw 0x204)
  | .stsr t => some (t.toRaw 0x205)
  | .pref t => some (t.toRaw 0x206)
  | .gath t => some (t.toRaw 0x207)
  | .qpop t => some (t.toRaw 0x208)
  | .atom t => some (t.toRaw 0x240)
  | .red t => some (t.toRaw 0x241)
  | .atoms t => some (t.toRaw 0x242)
  | .binit t => some (t.toRaw 0x280)
  | .barvOne t => some (t.toRaw 0x281)
  | .barvEach t => some (t.toRaw 0x281)
  | .bexp t => some (t.toRaw 0x282)
  | .bwait t => some (t.toRaw 0x283)
  | .btest t => some (t.toRaw 0x284)
  | .brd t => some (t.toRaw 0x285)
  | .rbind t => some (t.toRaw 0x286)
  | .rfree t => some (t.toRaw 0x287)
  | .fence t => some (t.toRaw 0x288)
  | .drain t => some (t.toRaw 0x289)
  | .cpy t => some (t.toRaw 0x2C0)
  | .cpyr t => some (t.toRaw 0x2C1)
  | .cpyred t => some (t.toRaw 0x2C2)
  | .cpysig t => some (t.toRaw 0x2C3)
  | .alwb t => some (t.toRaw 0x2C4)
  | .alwr t => some (t.toRaw 0x2C5)
  | .mxlw t => some (t.toRaw 0x300)
  | .mxrow t => some (t.toRaw 0x301)
  | .mxzero t => some (t.toRaw 0x302)
  | .mxrd t => some (t.toRaw 0x303)
  | .mxwr t => some (t.toRaw 0x304)
  | .mxst t => some (t.toRaw 0x305)
  | .mxflgRd t => some (t.toRaw 0x306)
  | .mxflgClr t => some (t.toRaw 0x306)
  | .mxflgOrr t => some (t.toRaw 0x306)
  | .ergc t => some (t.toRaw 0x340)
  | .ergkIn t => some (t.toRaw 0x341)
  | .ergkOut t => some (t.toRaw 0x341)
  | .ergkRst t => some (t.toRaw 0x341)
  | .ergkInv t => some (t.toRaw 0x341)
  | .ergt t => some (t.toRaw 0x342)
  | .ergmRd t => some (t.toRaw 0x343)
  | .ergmWr t => some (t.toRaw 0x343)
  | .ergmClr t => some (t.toRaw 0x343)
  | .ergmDesc t => some (t.toRaw 0x343)
  | .enq t => some (t.toRaw 0x350)
  | .budr t => some (t.toRaw 0x351)
  | .crd t => some (t.toRaw 0x380)
  | .cwr t => some (t.toRaw 0x381)
  | .crdStk t => some (t.toRaw 0x380)
  | .cwrStk t => some (t.toRaw 0x381)
  | .crdJs t => some (t.toRaw 0x380)
  | .cwrJs t => some (t.toRaw 0x381)
  | .crdTs t => some (t.toRaw 0x380)
  | .cwrTs t => some (t.toRaw 0x381)
  | .scrbRow t => some (t.toRaw 0x382)
  | .scrbQry t => some (t.toRaw 0x382)
  | .rspr t => some (t.toRaw 0x383)
  | .tlbi t => some (t.toRaw 0x384)
  | .haltcHalt t => some (t.toRaw 0x385)
  | .haltcResume t => some (t.toRaw 0x385)
  | .haltcStep t => some (t.toRaw 0x385)
  | .cwrSrseed t => some (t.toRaw 0x381)
  | .cwrFstat t => some (t.toRaw 0x381)
  | .cwrSkipw t => some (t.toRaw 0x381)
  | .cwrMxcad t => some (t.toRaw 0x381)
  | .cwrPlane t => some (t.toRaw 0x381)
  | .cwrChecksb t => some (t.toRaw 0x381)
  | .cwrUven t => some (t.toRaw 0x381)
  | .cwrSiteal t => some (t.toRaw 0x381)
  | .cwrSlew t => some (t.toRaw 0x381)
  | .cwrPriced t => some (t.toRaw 0x381)
  | .cwrCrwrej t => some (t.toRaw 0x381)
  | .cwrFabstat t => some (t.toRaw 0x381)
  | .cwrHealth t => some (t.toRaw 0x381)
  | .cwrSpconf t => some (t.toRaw 0x381)
  | .issueCycle _ _ | .tokenRefill | .memoryGrant _ | .loadDataReturn _ | .globalWritePerform _ _
  | .atomicPerform _ | .scratchServiceCycle _ | .gatherElementRead _ | .barrierApply _ | .bwaitComplete _
  | .bwaitBarfault _ | .bwaitLimitExpire _ | .drainEnd _ | .fenceEnd _ | .commitGateRelease _
  | .copySectorLand _ _ | .copyLineFault _ | .parkedIssueProceed _ | .peerRequestReceive _
  | .portRequestDiscard _ | .fabricReplyReceive _ | .requestTimeout _ | .unsentTimeout _
  | .timeoutNoticeReceive _ _ _ | .tagQuarantineExpire _ | .flushMarkerReceive _ | .planeEntrySwitch _
  | .linkFlitResend _ | .linkRetrain _ | .linkTrainingBeat _ _ _ | .laneShed _ | .laneRegain _
  | .matrixOpStart _ | .matrixRowComplete _ | .ergOpComplete _ | .governorStep | .powerIntentSend
  | .powerIntentReceive _ | .leaseReceive _ _ | .leaseExpire | .pacingHintReceive _ _ | .pacingExpire _
  | .droopAlarmRaise _ | .droopAlarmClear _ | .storageAlarmRaise | .storageAlarmClear | .undervoltWindowEnd _
  | .spareRowCopyStep _ | .timingErrorReplay _ | .lateTimingError _ | .stackDegraded _ | .packetTakeIn _ _
  | .teamPlace _ _ | .groupRetire _ | .preempt _ | .contextRestore _ _ | .enqRetry _ | .ringPageRetry _
  | .hostNotifyWrite _ _ _ | .hctlGo | .hctlCrst | .sfqverdWrite _ | .sfqidxTailWrite _ | .mcridxTailWrite _
  | .ballstWrite _ | .hostRegisterWrite _ _ | .hostBar4Access _ | .mgmtAlertRead | .coldReset
  | .bringUpComplete | .freezeAssert | .freezeRelease | .tbsyncPulse _ | .thermtrip
  | .powerGroupMemberListWrite _ => none

/-- The bits of the fields (R43, R44). -/
def Raw.bits (r : Raw) : BitVec 128 :=
  r.h.ext ++ r.mod ++ r.c.code ++ r.b.code ++ r.a.code ++ r.d.code ++
    BitVec.ofBool r.h.neg ++ r.h.pred ++ r.h.stall ++ r.opc ++ r.h.len.code

/-- The word of an instruction, in the low bits; none for an event. -/
def encode (i : Instr) : Option (BitVec 128) := i.toRaw.map Raw.bits

/-- The parcels of an instruction, lowest address first (R2, R42). -/
def encodeParcels (i : Instr) : Option (List Word) :=
  i.toRaw.map fun r =>
    let w := r.bits
    let all : List Word := [w.extractLsb' 0 32, w.extractLsb' 32 32, w.extractLsb' 64 32, w.extractLsb' 96 32]
    all.take (r.h.len.bytes / 4)

/-- The length in bytes of an instruction; 0 for an event. -/
def Instr.len (i : Instr) : Nat := match hdrOf i with
  | some h => h.len.bytes
  | none => 0

end Sys2Proof
end

