-- ==== Sys2Proof/Config.lean ====
section
/-! DEFINITION. What one part fixes and the manual leaves open: constants without a body (free values) and the
sizes of the machine that the manual states. -/

namespace Sys2Proof.Config

/-- Dies of the package (spec/00, R18). -/
def dies : Nat := 4

/-- Clusters of a die (R18). -/
def clustersPerDie : Nat := 24

/-- Cores of a cluster (R18). -/
def coresPerCluster : Nat := 4

/-- Cores of the package. -/
def cores : Nat := 384

/-- Issue slots of a core (R18). -/
def slots : Nat := 4

/-- Lanes of a group (R13). -/
def lanes : Nat := 64

/-- FREE VALUE (log 3): which of the steps that may come next comes next. -/
opaque choice : Nat → Nat

/-- FREE VALUE (log 3): a fresh 32-bit value that the manual leaves open. -/
opaque freeWord : Nat → BitVec 32

/-- FREE VALUE (log 3): a fresh number that the manual leaves open. -/
opaque freeNat : Nat → Nat

/-- FREE VALUE (log 3): a fresh yes or no that the manual leaves open. -/
opaque freeBool : Nat → Bool

/-- FREE VALUE (log 5): the F32 bits that RCP, RSQ or SQRT returns inside the bound of R127, by function and operand. -/
opaque sfuBits : Nat → BitVec 32 → BitVec 32

/-- FREE VALUE (log 3): the calibrated factor of one core's prices, which bring-up measures (R346), in 1/1000. -/
opaque priceScale : Nat → Nat

/-- FREE VALUE (log 3): the device number in the scale-up domain (R39), taken modulo 1,024. -/
opaque devNumber : Nat

/-- FREE VALUE (log 3): CHG.CAPM in µJ, measured at bring-up (R357). -/
opaque capm : Nat

/-- FREE VALUE (log 3): island numbers of units that are no cores, of which R407 gives the range only: stacks 0-7, then
ports from 8. -/
opaque islandNumber : Nat → Nat

/-- FREE VALUE (log 3): THCAP.RATE in tokens/ns, measured (R356). -/
opaque thcap : Nat

end Sys2Proof.Config
end

