-- ==== Sys2Proof/Machine/State.lean ====
section
/-! DEFINITION. The state of the XN960-A: every piece of state the manual names (spec/01 "Architectural state" and the
chapters it points to), the operations in flight, and the host's, board's and fabric's inputs; and its reset value. -/

namespace Sys2Proof.Machine

/-- Reasons why a run stops. -/
inductive Fault where
  /-- Raised by `step` alone, when an issue is formed for a group that does not exist: no run reaches it. Safe. -/
  | noGroup
  deriving DecidableEq, Repr

/-- Reasons why the model declines a step. -/
inductive Refusal where
  /-- Raised by an arm of `exec` whose instruction has no meaning yet. Safe. -/
  | notModelled (mnemonic : String)
  deriving DecidableEq, Repr

/-- A byte store in canonical form: addresses rising, no entry equal to zero (log 2). -/
abbrev Mem := List Host.Cell

/-- The states of a fibre slot (R285); Ready and Held are told apart when an issue is formed. -/
inductive LaneSt where
  | free | live | parked
  deriving DecidableEq, Repr

/-- A register, predicate or flag that an instruction reads or writes (R60 to R63). -/
inductive Dst where
  /-- Stack register `x` of a lane; from 65,536 on, register `x` − 65,536 of the lane's system bank. -/
  | v (lane x : Nat)
  /-- Predicate `n` of a lane; from 8 on, of its system bank. -/
  | p (lane n : Nat)
  /-- Group register `n`; from 24 on, of the system bank. -/
  | g (n : Nat)
  /-- GF, or the system bank's GF. -/
  | gf (bank : Bool)
  deriving DecidableEq, Repr

/-- A fixed-latency result not yet readable (R60, R62): until cycle `untl` a read returns `old`. -/
structure Early where
  dst : Dst
  old : Word
  untl : Nat
  deriving DecidableEq, Repr

/-- One fibre slot of a group. -/
structure Lane where
  st : LaneSt
  pc : Dword
  /-- p0-p6; p7 reads 1 (R53). -/
  preds : BitVec 7
  /-- Window base (R23). -/
  base : Nat
  /-- Resident bottom RB (R292). -/
  rb : Nat
  /-- The resident registers: stack register x stands at x mod Rz (R292). -/
  rf : List Word
  /-- Rounding generator (R96). -/
  gen : Word
  /-- First cycle in which the fibre may issue (R59). -/
  readyAt : Nat
  /-- Cycle of the last issue, or of becoming runnable (R286). -/
  since : Nat
  /-- Trap window base and predicates saved by the user handler entry (R387, R396). -/
  ub : Nat
  up : BitVec 7
  /-- The same for the system handler entry. -/
  sb : Nat
  sp : BitVec 7
  /-- The lane's registers and predicates of the slot's system bank (R389). -/
  bv : List Word
  bp : BitVec 7
  /-- Poisoned stack registers (R405). -/
  pois : List Nat
  /-- RB as the system handler has written it, in force at its TRET (R391, R402). -/
  srb : Option Nat := none
  /-- Trap entries and TRETs that still order the fibre's accesses: the handle that was next at each (R308, R249). -/
  fences : List Nat := []
  deriving DecidableEq, Repr

/-- One level's trap registers and the trap in hand (R387, R393). -/
structure TrapSt where
  active : Bool
  set : Mask
  tcause : Dword
  tepc : Dword
  tval : Dword
  /-- Address of the instruction that trapped, when it had issued and been charged (R344). -/
  paid : Option Dword
  deriving DecidableEq, Repr

/-- A join-stack entry (R289). -/
structure JEnt where
  markpc : Dword
  rejoin : Dword
  park : Mask
  memb : Mask
  deriving DecidableEq, Repr

/-- One element of a gather-queue entry: its value, or a fault mark with cause and address (R200). -/
structure GElem where
  val : Dword
  mark : Option (Nat × Dword)
  deriving DecidableEq, Repr

/-- An entry of the gather queue (R200). -/
structure GEnt where
  size : Nat
  elems : List GElem
  deriving DecidableEq, Repr

/-- A gather stream not yet fully read (R200). -/
structure GStream where
  id : Nat
  a : Dword
  b : Nat
  n : Nat
  size : Nat
  sx : Bool
  /-- Elements read so far. -/
  next : Nat
  /-- Elements of the entry being filled. -/
  part : List GElem
  /-- The waiting fault-queue token of the next element, and its verdict (R383). -/
  token : Option Nat
  verdict : Option Bool
  /-- The next element's request is out at a peer (R190). -/
  sent : Bool := false
  deriving DecidableEq, Repr

/-- A deferred trap, raised at the group's next boundary (R387). -/
structure Deferred where
  cause : Nat
  tepc : Dword
  tval : Dword
  set : Mask
  /-- For a REMTMO, the operation and the lane that TVAL is of (R454). -/
  src : Option (Nat × Nat) := none
  deriving DecidableEq, Repr

/-- A system entry that waits for its slot's bank (R389), or is being made. -/
structure SysEntry where
  cause : Nat
  outer : Nat
  lvl : Bool
  tepc : Dword
  tval : Dword
  set : Mask
  paid : Bool
  deriving DecidableEq, Repr

/-- An issue that was chosen and waits for tokens (R348), a verdict of a fetch, or allowance (R265). -/
structure Chosen where
  mask : Mask
  pc : Dword
  /-- Its place in the order of waiting, and the peers it names with the lines to each (R265). -/
  seq : Nat
  peers : List (Nat × Nat)
  /-- Its price when it was formed: the tokens that it waits for (R348). -/
  price : Nat := 0
  deriving DecidableEq, Repr

/-- A group (R13). -/
structure Group where
  id : Nat
  /-- GRP, ROLE and index within the role (R14). -/
  grp : Nat
  role : Nat
  idx : Nat
  /-- Handle of the team. -/
  team : Nat
  /-- CORE operand (R15), physical core, issue slot and slot index (R18, R329). -/
  coreNo : Nat
  core : Nat
  slot : Nat
  place : Nat
  /-- Resident on its core; false once saved. -/
  resident : Bool
  lanes : List Lane
  g : List Word
  /-- GF: bit 0 Z, 1 N, 2 C, 3 V, 4 MZ (R133). -/
  gf : BitVec 5
  /-- FSTAT: bit 0 NX, 1 UF, 2 OF, 3 DZ, 4 IV (R100). -/
  fstat : BitVec 5
  /-- The group registers of the slot's system bank (R389). -/
  bg : List Word
  bgf : BitVec 5
  bfstat : BitVec 5
  checksb : Bool
  seed : Word
  /-- Resident join stack, top first (R289). -/
  js : List JEnt
  jsd : Nat
  jspa : Dword
  /-- JSD and JSPA as the system handler has written them, in force at its TRET (R391, R402). -/
  sjsd : Option Nat := none
  sjspa : Option Dword := none
  /-- Lanes that exited while entries were spilled, with JSD at that time (R291). -/
  exits : List (Nat × Mask)
  gq : List GEnt
  gs : List GStream
  early : List Early
  /-- User and system trap registers (R393). -/
  ut : TrapSt
  st : TrapSt
  /-- A system entry waiting for the bank (R389). -/
  sysPend : Option SysEntry
  /-- The user entry that the system handler's TRET completes (R389). -/
  userPend : Bool
  deferred : List Deferred
  /-- Fibres of a TRET.SKIP whose resuming fetch is still due (R308). -/
  skipMask : Mask
  halted : Bool
  /-- One issue allowed while halted (R399). -/
  stepping : Bool
  /-- Groups of the slot that must issue first after a YIELD (R306). -/
  yieldFor : List Nat
  pass : Nat
  /-- Cycle at which the group became urgent (R330). -/
  urgent : Option Nat
  /-- The chosen issue that waits for tokens (R348). -/
  chosen : Option Chosen
  /-- The chosen issue that waits for send allowance (R265). -/
  parked : Option Chosen
  /-- Lanes and address of an instruction already charged (R344). -/
  free : List (Mask × Dword)
  /-- Fibres saved at an instruction that had not issued, which go first at restore (R394, R397). -/
  unissued : Mask
  /-- A fetch that waits in the fault queue: token and verdict (R381). -/
  fetchTok : Option Nat
  fetchVerdict : Option Bool
  /-- The fibres and address of that fetch (R381). -/
  fetchFor : Option (Mask × Dword) := none
  /-- Fibres found Ready since their last issue (R286, R287). -/
  rdy : Mask := 0
  /-- Poisoned group registers (R405). -/
  gpois : List Nat
  /-- Registers that hold an SRAM error which their next read meets, and whether it is uncorrectable (R404). -/
  errs : List (Dst × Bool) := []
  deriving DecidableEq, Repr

/-- An accumulator row: columns, flags OF SAT IV NX in bits 3-0, poison (R138, R139, R405). -/
structure Row where
  cols : List Word
  flags : BitVec 4
  pois : Bool
  deriving DecidableEq, Repr

/-- The weight latch descriptor, valid when there is one (R138, R148, R153). -/
structure Latch where
  ty : Ty
  k : Nat
  wbase : Nat
  sbase : Nat
  deriving DecidableEq, Repr

/-- A weight buffer: the descriptor it was filled from, the bytes of its weights and scales, and whether one was poisoned
(R138, R153, R405). -/
structure WBuf where
  w : List Byte
  sw : List Byte
  pois : Bool
  desc : Option Latch := none
  deriving DecidableEq, Repr

/-- A team's share of one core (R19, R178 to R180, R138). -/
structure TCore where
  phys : Nat
  /-- First sweep of each window, in the order GEN, WGT, ACT, ERG (R179). -/
  pos : List Nat
  gen : Mem
  wgt : Mem
  act : Mem
  erg : Mem
  /-- Poisoned granules by window (R405). -/
  pois : List (Win × Nat)
  /-- Granules, by window, and accumulator rows that hold an SRAM error which their next read meets, and whether it is
  uncorrectable (R404). -/
  errs : List (Option Win × Nat × Bool) := []
  acc : List Row
  latch : Option Latch
  /-- Baton barrier offset, HELD, HOLDER (R156). -/
  baton : Option Nat
  held : Bool
  holder : Nat
  deriving DecidableEq, Repr

/-- A bound region (R210, R211): the barrier's core and offset. -/
structure Region where
  base : Dword
  lines : Nat
  core : Nat
  bar : Nat
  deriving DecidableEq, Repr

/-- A role of a kernel (R17, R314). -/
structure Role where
  entry : Dword
  groups : Nat
  fibres : Nat
  regs : Nat
  deriving DecidableEq, Repr

/-- A kernel descriptor as read (R314). -/
structure Kernel where
  mask : Bool
  cores : Nat
  acc : Nat
  nregion : Nat
  gen : Nat
  wgt : Nat
  act : Nat
  erg : Nat
  images : List (Nat × Nat × Nat × Dword)
  ergta : Word
  ergtr : Word
  roles : List Role
  deriving DecidableEq, Repr

/-- A context descriptor as read from the table (R372). -/
structure CtxDesc where
  root : Nat
  asid : BitVec 16
  live : Bool
  expert : Bool
  fkey : BitVec 16
  shand : Dword
  saves : Dword
  floor : Nat
  ceil : Nat
  ring : Dword
  deriving DecidableEq, Repr

/-- A matrix operation that has issued and is not complete: in the engine queue until it starts (R138, R141, R142). -/
structure MxOp where
  id : Nat
  grp : Nat
  team : Nat
  i : Instr
  pc : Dword
  mask : Mask
  carried : Mask
  args : List Dword
  /-- Lane data of MXWR, by lane (R157). -/
  data : List (Nat × List Word)
  /-- Started, and the lanes whose rows are done (R150). -/
  started : Bool
  doneLanes : Mask
  dsts : List Dst
  sys : Bool
  cyc : Nat
  deriving DecidableEq, Repr

/-- An Erg operation in the Erg queue (R169). -/
structure ErgOp where
  id : Nat
  grp : Nat
  team : Nat
  i : Instr
  pc : Dword
  mask : Mask
  carried : Mask
  args : List Dword
  /-- Started, with the thresholds read at its start (R167), and the lanes that are done. -/
  started : Bool
  ta : Word
  tr : Word
  doneLanes : Mask
  dsts : List Dst
  sys : Bool
  cyc : Nat
  deriving DecidableEq, Repr

/-- The life of a team (R25, R325, R395). -/
inductive TeamSt where
  | running | saved | retired
  deriving DecidableEq, Repr

/-- A team (R15). -/
structure Team where
  id : Nat
  no : Nat
  slice : Nat
  cluster : Nat
  st : TeamSt
  cores : List TCore
  k : Kernel
  /-- The context descriptor as read at placement or restore (R373). -/
  desc : CtxDesc
  regions : List (Option Region)
  /-- SKIPW0-SKIPW63 (R166). -/
  skip : List Dword
  ergta : Word
  ergtr : Word
  /-- Address of the save record (R395). -/
  record : Dword
  /-- Fabric requests held while the team is Saved (R385). -/
  heldReqs : List PeerReq
  /-- Devices whose signals the phase in progress of each barrier counts, with first and last stamp (R361). -/
  signals : List (Nat × Nat × Nat × Nat × Nat)
  /-- For each barrier with FAULT set, as core and offset, the copy that first set it (R256), and the lowest faulting address
  found. -/
  ffo : List (Nat × Nat × Nat × Nat)
  /-- Matrix and Erg operations saved while pending, with their core (R150, R171). -/
  mxPend : List (Nat × MxOp)
  ergPend : List (Nat × ErgOp)
  /-- Signals gathered while the team is Saved, each with the number of requests held before it (R385). -/
  heldSigs : List (Nat × Marker) := []
  deriving DecidableEq, Repr

/-- The states of a slice (R321). -/
inductive SliceSt where
  | waiting | ready | running | saved | completing
  deriving DecidableEq, Repr

/-- A packet or ENQ record as read (R310, R311). -/
structure Packet where
  hdr : Word
  nteam : Nat
  kdesc : Dword
  args : Dword
  signal : Dword
  crec : Dword
  deadline : Dword
  budget : Word
  seed : Word
  oplist : Dword
  deriving DecidableEq, Repr

/-- How a slice ends by a trap or the runtime (R392): code, cause, TEPC, TVAL. -/
structure Ending where
  code : Nat
  cause : Nat
  tepc : Dword
  tval : Dword
  deriving DecidableEq, Repr

/-- A slice (R321). -/
structure Slice where
  id : Nat
  /-- Die and entry of its pool entry, and whether the entry is general or the reserved one of its depth (R323). -/
  die : Nat
  entry : Nat
  reserved : Bool
  ctx : Nat
  /-- Level S (R26). -/
  priv : Bool
  depth : Nat
  st : SliceSt
  /-- Handle of the predecessor, while its count is 1 (R322). -/
  pred : Option Nat
  pkt : Packet
  k : Option Kernel
  nextTeam : Nat
  left : Dword
  budget : Dword
  deadl : Dword
  quant : Nat
  quantCount : Nat
  /-- A YIELD has come since the last issue: a point of pre-emption (R332). -/
  yielded : Bool := false
  /-- Core and cycle of the issue that brought LEFT to 0 (R333). -/
  spentAt : Option (Nat × Nat) := none
  used : Nat
  engy : Dword
  thand : Dword
  tstart : Option Dword
  tend : Dword
  ending : Option Ending
  /-- The group whose trap has ended it, and the handle of the operation that trapped or, for an issue, the next one then: a
  replay of the issue takes the end back (R417). -/
  endedBy : Option (Nat × Nat) := none
  /-- Record number in the ballast list (R451). -/
  ballast : Option Nat
  /-- Place in the order of becoming Ready (R324). -/
  readyAt : Nat
  /-- Any team has started (R319). -/
  started : Bool
  /-- Pre-emption is under way: stop at the next boundary (R394). -/
  preempting : Bool
  /-- Host queue it came from (R322). -/
  queue : Option Nat
  /-- A read of its structures that waits in the fault queue: token and verdict (R318). -/
  token : Option Nat
  verdict : Option Bool
  /-- Its context's descriptor as read when a team of it was last placed or restored (R373). -/
  desc : Option CtxDesc := none
  /-- The bytes of its tile operand list (R316). -/
  tiles : List Byte := []
  /-- The address that waits in the fault queue, whether its entry is malformed, and the addresses whose verdict was fatal (R318,
  R383). -/
  waitFor : Option (Nat × Bool) := none
  fatals : List Nat := []
  /-- Export slots that were live in the context when the slice was taken in (R317), and the lowest CAUSE that the checks of
  its take-in give, of a slice that is Ready at once (R318). -/
  expLive : List Nat := []
  fail : Option Nat := none
  /-- How it completes, and whether its record is written: the write of a record or signal waits for a copy engine's line
  (R244, R320). -/
  fin : Option Ending := none
  recorded : Bool := false
  /-- End of the pacing hint in force for the cores that hold its teams, and its h in ns (R361). -/
  pacing : Option (Nat × Nat) := none
  /-- A ballast slice of prefetch work, which stands on its die alone (R355). -/
  onDie : Bool := false
  deriving DecidableEq, Repr

/-- One lane's request of an operation in flight. -/
inductive ReqSt where
  /-- Not translated yet. -/
  | fresh
  /-- Waits in the system fault queue under a token (R195, R383). -/
  | waiting (token : Nat)
  /-- The runtime's verdict has come: fatal or retry (R430). -/
  | verdict (fatal : Bool)
  /-- The check that failed: number and cause (R194, R226). -/
  | failed (check cause : Nat)
  /-- Translated and permitted. -/
  | granted
  /-- Sent to a peer under a tag of a port (R268, R449). -/
  | sent (port tag : Nat)
  | done
  /-- Timed out at a peer (R454). -/
  | timedOut
  deriving DecidableEq, Repr

/-- One lane's request: address or window offset, team core and window of a scratch access, the key of each byte, store
data, compare data, the data returned, and whether the leaf was poisoned (R379). -/
structure Req where
  lane : Nat
  va : Dword
  scr : Option (Nat × Win)
  keys : List Nat
  peer : Option Nat
  data : List Byte
  cmp : List Byte
  got : List Byte
  pois : Bool
  /-- The lowest poisoned byte met (R196, R405). -/
  bad : Option Nat
  st : ReqSt
  deriving DecidableEq, Repr

/-- The stages of an operation in flight. -/
inductive Stage where
  /-- Waits for translation and permission (R195). -/
  | grant
  /-- Waits for send allowance (R449). -/
  | parked
  /-- Issued and in flight. -/
  | active
  /-- ENQ found no place (R338). -/
  | blocked
  deriving DecidableEq, Repr

/-- An operation in flight: a memory, barrier, fence, drain, enqueue or gather instruction that has issued. -/
structure Op where
  id : Nat
  grp : Nat
  core : Nat
  team : Nat
  i : Instr
  pc : Dword
  /-- Participants, and every fibre the issue carries. -/
  mask : Mask
  carried : Mask
  stage : Stage
  /-- Place in the order of parking (R265). -/
  parkSeq : Nat
  reqs : List Req
  /-- Uniform operand values, in the order the meaning gives them. -/
  args : List Dword
  /-- Destinations not yet written (R61). -/
  dsts : List Dst
  /-- Timebase at issue (R208). -/
  at_ : Nat
  /-- Core cycle at issue (R418). -/
  cyc : Nat
  /-- The granules still to be served, lower list then upper list (R181). -/
  gran : List (List Nat)
  /-- Runs on the system bank (R389). -/
  sys : Bool
  /-- One of its requests has timed out, and REMTMO has been raised (R454). -/
  tmo : Bool := false
  /-- Service cycles in a row in which others have gone first (R184). -/
  moved : Nat := 0
  /-- What its issue was charged and whether it was counted, while it is parked (R344, R345, R449). -/
  price : Nat := 0
  counted : Bool := false
  deriving DecidableEq, Repr

/-- One request of a copy line operation (R250): its sector of the destination line, destination, source and size; then
the keys and peers found for it, its data, and its state. -/
structure Seg where
  lane : Nat
  sec : Nat
  dst : Dword
  src : Dword
  size : Nat
  dkeys : List Nat
  skeys : List Nat
  dpeer : Option Nat
  speer : Option Nat
  data : List Byte
  pois : Bool
  /-- Its destination page has POISON = 1: what it writes is discarded (R379). -/
  drop : Bool
  /-- Destination bytes that a higher lane of the copy has written through another line (R7). -/
  skip : List Nat := []
  /-- The peers that it names, on either side (R264). -/
  named : List Nat := []
  st : ReqSt
  deriving DecidableEq, Repr

/-- A copy line operation (R251). -/
structure Line where
  id : Nat
  /-- The copy issue it belongs to (R256). -/
  copy : Nat
  grp : Nat
  core : Nat
  team : Nat
  i : Instr
  /-- Destination line: its number within its space (R251). -/
  dline : Nat
  /-- Its requests, in ascending lane order. -/
  segs : List Seg
  /-- Counting barrier operand C. -/
  bar : Dword
  /-- Sectors that have not landed, ascending (R252), and whether one has. -/
  left : List Nat
  started : Bool
  /-- Waits in the fault queue under a token; its verdict (R256). -/
  token : Option Nat
  verdict : Option Bool
  /-- The cause of a fatal fault, with the address it is reported for (R256). -/
  cause : Option (Nat × Dword)
  /-- The address that waits in the fault queue, and whether it and the one in `cause` are of the destination (R383). -/
  wait : Option (Dword × Bool) := none
  onDst : Bool := false
  /-- The entry of `wait` is malformed (R383). -/
  malf : Bool := false
  /-- Peers it involves (R264). -/
  peers : List Nat
  /-- Timebase at which it entered the engine (R263). -/
  at_ : Nat
  cyc : Nat
  /-- Runs at level S. -/
  lvl : Bool
  /-- A fatal fault has ended it, but for requests that are out at peers (R256, R264, R270). -/
  dead : Bool := false
  deriving DecidableEq, Repr

/-- What waits for a fabric reply. -/
inductive Ref where
  | line (id seg : Nat)
  | op (id lane : Nat)
  | sig (id : Nat)
  /-- An element of a gather stream of a group. -/
  | gath (grp stream : Nat)
  deriving DecidableEq, Repr

/-- A CPYSIG in flight (R281). -/
structure Signal where
  id : Nat
  grp : Nat
  core : Nat
  team : Nat
  handle : Dword
  arrivals : Nat
  bytes : Nat
  tag : Option (Nat × Nat)
  at_ : Nat
  cyc : Nat
  /-- The planes down which its markers have gone (R246). -/
  planes : List Nat := []
  deriving DecidableEq, Repr

/-- A fabric request outstanding at this device (R268 to R270). -/
structure OutReq where
  port : Nat
  tag : Nat
  gen : Nat
  dev : Nat
  plane : Nat
  /-- What waits for the reply. -/
  ref : Ref
  sentAt : Nat
  deadline : Nat
  /-- FKEY of the sender's context (R385). -/
  fkey : BitVec 16 := 0
  deriving DecidableEq, Repr

/-- An issue slot (R329, R389). -/
structure Slot where
  /-- Place index chosen last (R329). -/
  last : Nat
  /-- Class and cycle of the previous issue, and the cycle of the last issue of another class (R366). -/
  lastClass : Option Nat
  lastAt : Nat
  otherAt : Option Nat
  /-- First cycle in which the slot is free (R59). -/
  freeAt : Nat
  /-- The group on the system bank, and the groups waiting for it (R389). -/
  bank : Option Nat
  bankQ : List Nat
  deriving DecidableEq, Repr

/-- A send-allowance slot (R266, R267). -/
structure Alw where
  v : Bool
  ctx : Nat
  dev : Nat
  deriving DecidableEq, Repr

/-- A fetch window held by a core (R381). -/
structure FetchWin where
  asid : BitVec 16
  va : Dword
  bytes : List Byte
  /-- Its poisoned bytes, by their place in the window. -/
  pois : List Nat := []
  deriving DecidableEq, Repr

/-- What a replay needs of an issue (R417): the group before it, its fibres and address. -/
structure Hist where
  cyc : Nat
  grp : Group
  mask : Mask
  pc : Dword
  /-- First handle of the operations it made; they are discarded with it. -/
  nextId : Nat
  deriving DecidableEq, Repr

/-- A core (R18). -/
structure Core where
  cyc : Nat
  retired : Bool
  /-- The next slot to look at in this cycle. -/
  nextSlot : Nat
  slots : List Slot
  /-- TOKB.LEVEL, debt and refill rate (R348 to R351). -/
  level : Nat
  debt : Nat
  rate : Nat
  /-- Groups whose issues wait for tokens, oldest first (R348). -/
  tokQ : List Nat
  /-- Refill of boundaries that fell inside the cycle (R350). -/
  credit : Nat := 0
  /-- Tokens charged since the last governor step (R352). -/
  charged : Nat
  priceix : Nat
  /-- Price-table entries that have been written (R347); the others are calibrated. -/
  prices : List (Nat × Nat)
  cad : Nat
  cade : Nat
  narrow : Bool
  /-- Price per row of the last MXROW, and whether one ran since the last step (R363). -/
  rowPrice : Nat
  rowRan : Bool
  /-- Matrix operations in issue order: the started ones have left the engine queue, the others stand in it (R142). -/
  mxq : List MxOp
  /-- The team whose weights the active buffer holds (R148). -/
  mxTeam : Option Nat
  /-- The active and the filling weight buffer, and the team whose weights the filling one holds whole (R138, R148). -/
  active : WBuf := { w := [], sw := [], pois := false }
  filling : WBuf := { w := [], sw := [], pois := false }
  filled : Option Nat := none
  ergq : List ErgOp
  /-- SPCONF (R185). -/
  xarb : Nat
  conf : Nat
  alw : List Alw
  /-- UVEN and the corrected errors of the window (R367 to R369). -/
  uvEn : Bool
  uvTrip : Bool
  uvSteps : Nat
  uvErrs : Nat
  /-- Timebase of the last window end (R367). -/
  uvAt : Nat
  cmpgrp : Bool
  droop : Bool
  /-- When the supply was last below its droop threshold (R364). -/
  droopAt : Nat := 0
  /-- End of the pacing hint in force, and its h in ns (R361). -/
  pacing : Option (Nat × Nat)
  /-- Ballast self-test of the island under way (R355). -/
  selfTest : Bool := false
  fetch : List FetchWin
  hist : List Hist
  /-- A detection has named a late cycle: the core has stopped (R419). -/
  stopped : Bool
  deriving DecidableEq, Repr

/-- A fabric port (R273, R421 to R423). -/
structure Port where
  down : Bool
  training : Bool
  attempt : Nat
  width : Nat
  trained : Nat
  speed : Nat
  map : BitVec 4
  /-- Resends of the flit at the head in a row (R421). -/
  resends : Nat
  /-- Start of the light-traffic interval (R273). -/
  lightSince : Nat
  /-- The lanes of the fallback attempt: the AND of the MAPs of the first (R423). -/
  fall : BitVec 4 := 0
  deriving DecidableEq, Repr

/-- The congestion state towards one peer (R264). -/
structure Peer where
  dev : Nat
  cap : Nat
  /-- Round-trip samples with their times. -/
  rtts : List (Nat × Nat)
  /-- Replies counted in the round, its length, whether a cut started it, whether a reply was late. -/
  count : Nat
  round : Nat
  byCut : Bool
  late : Bool
  deriving DecidableEq, Repr

/-- An export slot (R258, R317). -/
structure Export where
  ctx : Nat
  slot : Nat
  team : Nat
  core : Nat
  live : Bool
  slice : Nat
  deriving DecidableEq, Repr

/-- One of the 256 entries of the inbound aperture table (R385). -/
structure Aperture where
  fkey : BitVec 16
  base : Nat
  count : Nat
  r : Bool
  w : Bool
  a : Bool
  deriving DecidableEq, Repr

/-- A notice for a counting barrier at a peer: a timeout, or a fatal fault with its copy and lowest place (R256, R270). -/
structure Notice where
  dev : Nat
  /-- EXP and CORE of the handle, and the GEN offset. -/
  handle : Nat
  off : Nat
  fault : Option (Nat × Nat)
  deriving DecidableEq, Repr

/-- The fabric (spec/10, spec/15 R421 to R423). -/
structure Fabric where
  ports : List Port
  plane : List Nat
  /-- Entry, new plane and old plane of the changes not yet in effect (R263). -/
  pending : List (Nat × Nat × Nat)
  dead : BitVec 8
  stale : Nat
  tmo : Nat
  sigtmo : Nat
  refuse : Nat
  retr : Nat
  rqtmo : Nat
  shedt : Nat
  peers : List Peer
  out : List OutReq
  /-- Generations of tag slots that are not 0, as (port, tag, generation). -/
  gens : List (Nat × Nat × Nat)
  /-- Quarantined slots with the time they free (R268). -/
  quar : List (Nat × Nat × Nat)
  exports : List Export
  apertures : List Aperture
  /-- Markers gathered of signals not yet performed (R246). -/
  markers : List Marker
  /-- Next signal number. -/
  sigs : Nat
  /-- Peers' requests that wait for a line that a copy engine owns (R244). -/
  held : List PeerReq := []
  /-- Peers' copy requests to exported scratch, until all of their sector are here (R252). -/
  parts : List PeerReq := []
  /-- The notice sent last to each device (R256, R270). -/
  notices : List Notice := []
  /-- The pacing hint sent last to each device, with its h in ns (R361). -/
  hints : List (Nat × Nat) := []
  deriving DecidableEq, Repr

/-- A row error entry (R408): the row address, count and request. -/
structure RowErr where
  hra : Nat
  cnt : Nat
  req : Bool
  deriving DecidableEq, Repr

/-- A remap entry (R410) with the codewords copied so far (R411), the row address without ROW naming the bank. -/
structure Remap where
  bank : Nat
  spare : Nat
  row : Nat
  v : Bool
  busy : Bool
  copied : Nat
  /-- Codewords that the copy has corrected, and whether it has met an uncorrectable one (R414). -/
  fixed : Nat
  bad : Bool
  /-- The spare that served the row before, during a second repair (R416). -/
  old : Option Nat
  /-- The RSPR that waits for the copy. -/
  op : Option Nat
  deriving DecidableEq, Repr

/-- HBM and its protection (spec/15 R404 to R416). -/
structure Hbm where
  /-- Codewords, by physical address div 64, that read with a correctable or an uncorrectable error. -/
  ce : List Nat
  ue : List Nat
  /-- Codewords with a cell that is stuck: they read with a correctable error whatever is written (spec/22). -/
  stuck : List Nat
  /-- Bytes, by key, of codewords in `ce` and `ue` that have been overwritten since (R406). -/
  rewritten : List Nat
  /-- Poisoned bytes by memory key (R405, R406). -/
  pois : List Nat
  errs : List RowErr
  remaps : List Remap
  /-- Patrol cursors that are not 0 (R415). -/
  cursors : List (Nat × Nat)
  errth : Nat
  /-- Failed pseudo-channels as stack × 64 + pch (R424). -/
  failed : List Nat
  /-- Stuck cells of rows, or of spares that served them, that are no longer reached: row address, spare, codeword (spec/22
  R453). -/
  oldStuck : List (Nat × Option Nat × Nat) := []
  deriving DecidableEq, Repr

/-- The Seif governor and the power group (spec/13). -/
structure Power where
  slew : Nat
  siteal : Nat
  /-- Package rate PR and static estimate in tokens/ns (R352, R353). -/
  pr : Nat
  static : Nat
  /-- THCAP.RATE as last measured (R356). -/
  thcap : Nat
  /-- CHG.LEVEL and the storage alarm (R357, R364). -/
  chg : Nat
  storageAlarm : Bool
  /-- Leases received: amount and expiry; leases sent: amount and expiry (R360). -/
  leasesIn : List (Nat × Nat)
  leasesOut : List (Nat × Nat)
  members : List Nat
  newMembers : Option (List Nat)
  /-- Last plan of each member (R358). -/
  intents : List (Nat × List Nat)
  /-- Since when the rate has been held, and whether a ramp is under way (R359). -/
  heldSince : Nat
  ramping : Bool
  /-- Surplus of the last step, and what of it the bleed loads take, in tokens/ns (R354). -/
  surplus : Bool
  bleed : Nat := 0
  /-- C less static estimate and non-core demand, and FLOOR of every context, at the last step (R373, R386). -/
  room : Nat := 0
  floors : List Nat := []
  /-- Package input power in tokens/ns (R353): the sum over the steps of the microsecond in progress, the least C in force in
  it and the sum of C over its steps, the sum of input of the microsecond before, and the C in force since the last step. -/
  inSum : Nat := 0
  inCeil : Option Nat := none
  inCap : Nat := 0
  inLast : Nat := 0
  ceil : Option Nat := none
  /-- Timebase of the last step, and of the last intent with its planned rates in W (R352, R358). -/
  govAt : Nat
  intentAt : Nat
  plan : List Nat
  /-- Last ballast record launched, and whether any has been (R451). -/
  ballast : Nat
  launched : Bool := false
  deriving DecidableEq, Repr

/-- A queue descriptor (R309). -/
structure QDesc where
  ctx : Nat
  en : Bool
  priv : Bool
  log : Nat
  quant : Nat
  base : Nat
  deriving DecidableEq, Repr

/-- A host queue (R309, R312, R313). -/
structure Queue where
  q : Nat
  en : Bool
  stopped : Bool
  ridx : Word
  widx : Word
  /-- Slice taken in last (R322). -/
  lastSlice : Option Nat
  token : Option Nat
  verdict : Option Bool
  /-- The waiting entry is malformed (R383). -/
  malf : Bool := false
  /-- The descriptor as the last notify write has read it (R432). -/
  desc : QDesc := { ctx := 0, en := false, priv := false, log := 0, quant := 0, base := 0 }
  deriving DecidableEq, Repr

/-- An overflow-ring record (R337, R339). -/
structure RingRec where
  ctx : Nat
  slice : Slice
  deriving DecidableEq, Repr

/-- The context state that is not in memory (R38, R339, R398). -/
structure CtxSt where
  rej : Bool
  num : Nat
  /-- Overflow ring: head and tail counts, RINGPF posted for the next page. -/
  head : Nat
  tail : Nat
  ringpf : Bool
  /-- Timebase of the last try of that page. -/
  ringAt : Nat
  debug : Bool
  deriving DecidableEq, Repr

/-- A gang that waits in a cluster (R325, R326): slice, team number, age, and for each core the physical core and the
first sweep of each window reserved. -/
structure Gang where
  slice : Nat
  team : Nat
  age : Nat
  cores : List Nat
  pos : List (List Nat)
  /-- Its age has reached the limit in force when it last rose: the cluster is closed (R326, R327). -/
  closed : Bool := false
  deriving DecidableEq, Repr

/-- The registers and pins of spec/16. -/
structure HostIf where
  ctxtab : Dword
  qdtab : Dword
  sfqbase : Dword
  sfqHead : Word
  sfqTail : Word
  mcrbase : Dword
  mcrHead : Word
  mcrTail : Word
  ballst : Dword
  /-- BALLST as the governor sees it (R451). -/
  ballstEff : Dword
  go : Bool
  /-- GO was written before bring-up step 6 ended (R435). -/
  goPending : Bool
  frozen : Bool
  ready : Bool
  mcup : Bool
  /-- Bring-up step that is next, 1 to 8 (R435). -/
  step : Nat
  freezePin : Bool
  resetPending : Bool
  alertN : Bool
  powerOff : Bool
  /-- MSI-X vectors raised since the host last looked (R431). -/
  vectors : List Nat
  /-- Fault-queue entries held by a full ring (R430). -/
  heldEntries : List (List Byte)
  /-- Next fault-queue token. -/
  token : Nat
  /-- What the last host read returned. -/
  readData : List Byte
  /-- Alerts that the management host has not read. -/
  alerts : Nat
  /-- Host accesses of BAR4 that wait for a line that a copy engine owns (R244). -/
  bars : List BarAccess := []
  /-- Debug registers that are not 0, by their offset in BAR0 (R30, R428). -/
  debugRegs : List (Nat × Dword) := []
  /-- The management controller's list of retired islands (R435). -/
  retiredList : List Nat := []
  deriving DecidableEq, Repr

/-- The undervolting state of a non-core island (R367 to R369): enabled, tripped, steps, corrected errors of the window, and
timebase of the last window end. -/
structure Isle where
  en : Bool
  trip : Bool
  steps : Nat
  errs : Nat
  at_ : Nat
  deriving DecidableEq, Repr

/-- HEALTH (R425). -/
structure Health where
  stkdeg : BitVec 8
  spr75 : BitVec 8
  pldead : BitVec 8
  retired : Nat
  mclost : Bool
  mce : Nat
  replay : Nat
  replace : Bool
  deriving DecidableEq, Repr

/-- The issue formed for a group: its carried fibres, its address and its issue cycle (R59, R286). -/
structure Issue where
  grp : Nat
  mask : Mask
  pc : Dword
  /-- Its issue cycle (R59). -/
  cyc : Nat := 0
  /-- What it was charged, and whether it was charged and counted (R344, R345). -/
  price : Nat := 0
  counted : Bool := false
  deriving DecidableEq, Repr

/-- The state of the device. -/
structure State where
  /-- Timebase in ns (R22). -/
  tb : Nat
  mem : Mem
  slices : List Slice
  teams : List Team
  groups : List Group
  cores : List Core
  ops : List Op
  lines : List Line
  sigs : List Signal
  ctxs : List CtxSt
  rings : List RingRec
  queues : List Queue
  /-- The queue that each die's command processor has served last (R312); at reset a number past every queue, so that the
  round begins at the lowest. -/
  served : List Nat := [65535, 65535, 65535, 65535]
  gangs : List (Nat × Gang)
  /-- AGELIM.LIM per die (R327). -/
  agelim : List Nat
  fab : Fabric
  hbm : Hbm
  pw : Power
  host : HostIf
  health : Health
  /-- The 96 non-core islands, 384 to 479 (R369, R407). -/
  isles : List Isle := List.replicate 96 { en := true, trip := false, steps := 0, errs := 0, at_ := 0 }
  /-- SRAM errors of the L1s, the L2 and the arrays of the last row of R405's table that the next read of the word meets: island,
  number of the array among the rows of that table (16 more for an error of a single bit), and the unit that holds the word
  (R404). Those of registers, granules and accumulator rows stand with their groups and teams. -/
  sram : List (Nat × Nat × Nat)
  /-- Leaves that some controller's, port's or L1's and L2's lines hold (R195, R380): ASID, page VA, page size, leaf. -/
  tlb : List (BitVec 16 × Nat × Nat × Dword)
  /-- Pointers that some controller or port holds (R380): ASID, first VA they serve, level and address of their node. -/
  ptrs : List (BitVec 16 × Nat × Nat × Nat) := []
  /-- The model's own: the issue that the next step runs, when one is formed. -/
  cur : Issue
  busy : Bool
  /-- The model's own: events due next, inputs from outside among them. -/
  agenda : List Instr
  /-- The model's own: counter of the free values drawn so far (log 4). -/
  fresh : Nat
  /-- The model's own: next handle. -/
  nextId : Nat
  deriving DecidableEq, Repr

/-- A slot at reset. -/
def Slot.reset : Slot :=
  { last := 0, lastClass := none, lastAt := 0, otherAt := none, freeAt := 0, bank := none, bankQ := [] }

/-- A core at reset (R31, R266, R347, R351, R369). -/
def Core.reset : Core :=
  { cyc := 0, retired := false, nextSlot := 0, slots := List.replicate 4 Slot.reset
    level := 0, debt := 0, rate := 0, tokQ := [], charged := 0, priceix := 0, prices := []
    cad := 1, cade := 1, narrow := false, rowPrice := 0, rowRan := false, mxq := [], mxTeam := none, ergq := []
    xarb := 0, conf := 0, alw := List.replicate 16 { v := false, ctx := 0, dev := 0 }
    uvEn := true, uvTrip := false, uvSteps := 0, uvErrs := 0, uvAt := 0, cmpgrp := false, droop := false, pacing := none
    fetch := [], hist := [], stopped := false }

/-- A port at reset: trained to its full width (log 1). -/
def Port.reset : Port :=
  { down := false, training := false, attempt := 0, width := 4, trained := 4, speed := 0, map := 0xF
    resends := 0, lightSince := 0 }

/-- The fabric at reset (R31, R272). -/
def Fabric.reset : Fabric :=
  { ports := List.replicate 32 Port.reset, plane := [0, 1, 2, 3, 4, 5, 6, 7], pending := [], dead := 0
    stale := 0, tmo := 0, sigtmo := 0, refuse := 0, retr := 0, rqtmo := 20000, shedt := 50000
    peers := [], out := [], gens := [], quar := [], exports := []
    apertures := List.replicate 256 { fkey := 0, base := 0, count := 0, r := false, w := false, a := false }, markers := [], sigs := 0 }

/-- HBM protection at reset (R31, R408, R410, R415). -/
def Hbm.reset : Hbm :=
  { ce := [], ue := [], stuck := [], rewritten := [], pois := [], errs := [], remaps := [], cursors := [], errth := 8, failed := [] }

/-- The governor at reset (R356, R357). -/
def Power.reset : Power :=
  { slew := 25, siteal := 2400000, pr := 0, static := 0, thcap := Config.thcap, chg := 0, storageAlarm := false
    leasesIn := [], leasesOut := [], members := [], newMembers := none, intents := []
    heldSince := 0, ramping := false, surplus := false, govAt := 0, intentAt := 0, plan := [], ballast := 0 }

/-- The host registers at reset (R429). -/
def HostIf.reset : HostIf :=
  { ctxtab := 0, qdtab := 0, sfqbase := 0, sfqHead := 0, sfqTail := 0, mcrbase := 0, mcrHead := 0, mcrTail := 0
    ballst := 0, ballstEff := 0, go := false, goPending := false, frozen := false, ready := false, mcup := false, step := 1
    freezePin := false, resetPending := false, alertN := false, powerOff := false, vectors := []
    heldEntries := [], token := 1, readData := [], alerts := 0 }

/-- HEALTH at reset (R425). -/
def Health.reset : Health :=
  { stkdeg := 0, spr75 := 0, pldead := 0, retired := 0, mclost := false, mce := 0, replay := 0, replace := false }

/-- A context's device state at reset (R38, log 1). -/
def CtxSt.reset : CtxSt := { rej := false, num := 0, head := 0, tail := 0, ringpf := false, ringAt := 0, debug := false }

/-- The machine right after reset (R31, R434, R435). -/
def State.reset : State :=
  { tb := 0, mem := [], slices := [], teams := [], groups := [], cores := List.replicate Config.cores Core.reset
    ops := [], lines := [], sigs := [], ctxs := List.replicate 65 CtxSt.reset, rings := [], queues := [], gangs := []
    agelim := [8, 8, 8, 8], fab := Fabric.reset, hbm := Hbm.reset, pw := Power.reset, host := HostIf.reset
    health := Health.reset, sram := [], tlb := [], ptrs := [], served := [65535, 65535, 65535, 65535]
    isles := List.replicate 96 { en := true, trip := false, steps := 0, errs := 0, at_ := 0 }
    cur := { grp := 0, mask := 0, pc := 0 }, busy := false, agenda := [], fresh := 0, nextId := 1 }

end Sys2Proof.Machine
end

