-- ==== Sys2Proof/Machine/Ops.lean ====
section
/-! DEFINITION. The named operations over memory, registers and the parts of the state; taking a trap (R387 to R390) and
returning from one (R391), written once for every instruction and event. -/

namespace Sys2Proof.Machine

/-! ## Lists and numbers -/

/-- The element of a list at an index, or a default. -/
def nth {α : Type} (d : α) : List α → Nat → α
  | [], _ => d
  | x :: _, 0 => x
  | _ :: xs, n + 1 => nth d xs n

/-- The list with the element at an index replaced; unchanged beyond its end. -/
def setNth {α : Type} : List α → Nat → α → List α
  | [], _, _ => []
  | _ :: xs, 0, y => y :: xs
  | x :: xs, n + 1, y => x :: setNth xs n y

/-- The list with a function applied at an index. -/
def modNth {α : Type} : List α → Nat → (α → α) → List α
  | [], _, _ => []
  | x :: xs, 0, f => f x :: xs
  | x :: xs, n + 1, f => x :: modNth xs n f

/-- The lanes of a mask in ascending order. -/
def lanesOf (m : Mask) : List Nat := (List.range 64).filter fun i => m.has i

/-- The mask of the lanes that satisfy a test. -/
def maskOf (f : Nat → Bool) : Mask :=
  (List.range 64).foldl (fun m i => if f i then m ||| Mask.bit i else m) 0

/-- Number of lanes of a mask. -/
def popMask (m : Mask) : Nat := (lanesOf m).length

/-- The bytes of a number, lowest address first (R2). -/
def toBytes (n : Nat) : Nat → List Byte
  | 0 => []
  | k + 1 => BitVec.ofNat 8 n :: toBytes (n / 256) k

/-- The number held by bytes, lowest address first (R2). -/
def ofBytes : List Byte → Nat
  | [] => 0
  | b :: bs => b.toNat + 256 * ofBytes bs

/-- The bytes of a 32-bit value. -/
def wordBytes (w : Word) : List Byte := toBytes w.toNat 4

/-- The bytes of a 64-bit value. -/
def dwordBytes (w : Dword) : List Byte := toBytes w.toNat 8

/-- Quotient rounded up. -/
def ceilDiv (a b : Nat) : Nat := if b = 0 then 0 else (a + b - 1) / b

/-! ## Memory (R190, R191) -/

/-- The byte at a key; a byte that nothing has written reads 0 (log 2). -/
def memGet : Mem → Nat → Byte
  | [], _ => 0
  | (k, b) :: m, a => if a < k then 0 else if a = k then b else memGet m a

/-- Write a byte; the canonical form is kept. -/
def memSet : Mem → Nat → Byte → Mem
  | [], a, b => if b = 0 then [] else [(a, b)]
  | (k, c) :: m, a, b =>
      if a < k then (if b = 0 then (k, c) :: m else (a, b) :: (k, c) :: m)
      else if a = k then (if b = 0 then m else (a, b) :: m)
      else (k, c) :: memSet m a b

/-- Keys rise and no entry is zero. -/
def memWf : Mem → Bool
  | [] => true
  | [(_, b)] => b != 0
  | (k, b) :: (k', b') :: m => b != 0 && decide (k < k') && memWf ((k', b') :: m)

/-- `n` bytes from a key upwards. -/
def memRead (m : Mem) (a : Nat) : Nat → List Byte
  | 0 => []
  | n + 1 => memGet m a :: memRead m (a + 1) n

/-- Write bytes from a key upwards. -/
def memWrite (m : Mem) (a : Nat) : List Byte → Mem
  | [] => m
  | b :: bs => memWrite (memSet m a b) (a + 1) bs

/-- The bytes at a list of keys. -/
def memGets (m : Mem) (ks : List Nat) : List Byte := ks.map (memGet m)

/-- Write bytes at a list of keys, in order. -/
def memSets (m : Mem) : List Nat → List Byte → Mem
  | k :: ks, b :: bs => memSets (memSet m k b) ks bs
  | _, _ => m

/-- A little-endian number of `n` bytes. -/
def memNum (m : Mem) (a n : Nat) : Nat := ofBytes (memRead m a n)

/-- The key of a host address (APT = 10, R190). -/
def hostKey (a : Nat) : Nat := 2 ^ 56 + a

/-- The key of a physical address of peer `d` (APT = 01, R190). -/
def peerKey (d a : Nat) : Nat := 2 ^ 60 + d * 2 ^ 53 + a

/-- The key of a byte of peer scratch, by handle and window (R259). -/
def peerScratchKey (w : Nat) (handle : Nat) : Nat := 2 ^ 72 + w * 2 ^ 64 + handle

/-- Is the key one of local HBM? -/
def isLocalKey (k : Nat) : Bool := k < 2 ^ 39

/-- A physical address of local HBM that exists (R191). -/
def paOk (pa : Nat) : Bool := pa < 2 ^ 39 && pa % 2 ^ 36 < 0xC00000000

/-! ## The parts of the state -/

/-- The group of a handle. -/
def getGroup (s : State) (id : Nat) : Option Group := s.groups.find? fun g => g.id == id

/-- Change the group of a handle. -/
def modGroup (s : State) (id : Nat) (f : Group → Group) : State :=
  { s with groups := s.groups.map fun g => if g.id == id then f g else g }

/-- The record of an issue of a group, as an operation made before the issue changes the group. -/
def Hist.patch (gid id : Nat) (f : Group → Group) (h : Hist) : Hist :=
  if h.grp.id == gid && decide (id < h.nextId) then { h with grp := f h.grp } else h

/-- What an operation of handle `id` does to its group long after its issue, or an event that no issue has made (`id` 0): an
issue made after the operation that is replayed finds it done (R417). -/
def modGroupSince (s : State) (gid id : Nat) (f : Group → Group) : State :=
  if s.nextId ≤ id then modGroup s gid f
  else match getGroup s gid with
    | none => s
    | some g =>
      { modGroup s gid f with
        cores := modNth s.cores g.core fun c => { c with hist := c.hist.map (Hist.patch gid id f) } }

/-- The team of a handle. -/
def getTeam (s : State) (id : Nat) : Option Team := s.teams.find? fun t => t.id == id

/-- Change the team of a handle. -/
def modTeam (s : State) (id : Nat) (f : Team → Team) : State :=
  { s with teams := s.teams.map fun t => if t.id == id then f t else t }

/-- The slice of a handle. -/
def getSlice (s : State) (id : Nat) : Option Slice := s.slices.find? fun x => x.id == id

/-- Change the slice of a handle. -/
def modSlice (s : State) (id : Nat) (f : Slice → Slice) : State :=
  { s with slices := s.slices.map fun x => if x.id == id then f x else x }

/-- A physical core; one that does not exist reads as at reset. -/
def getCore (s : State) (c : Nat) : Core := nth Core.reset s.cores c

/-- Change a physical core. -/
def modCore (s : State) (c : Nat) (f : Core → Core) : State := { s with cores := modNth s.cores c f }

/-- Change one core's share of a team. -/
def modTCore (s : State) (team core : Nat) (f : TCore → TCore) : State :=
  modTeam s team fun t => { t with cores := modNth t.cores core f }

/-- A team's share of one of its cores. -/
def getTCore (s : State) (team core : Nat) : Option TCore :=
  (getTeam s team).bind fun t => t.cores[core]?

/-- The operation of a handle. -/
def getOp (s : State) (id : Nat) : Option Op := s.ops.find? fun o => o.id == id

/-- Change the operation of a handle. -/
def modOp (s : State) (id : Nat) (f : Op → Op) : State :=
  { s with ops := s.ops.map fun o => if o.id == id then f o else o }

/-- Remove an operation. -/
def dropOp (s : State) (id : Nat) : State := { s with ops := s.ops.filter fun o => o.id != id }

/-- The slice of a group. -/
def sliceOf (s : State) (g : Group) : Option Slice := (getTeam s g.team).bind fun t => getSlice s t.slice

/-- Draw the index of a fresh free value (log 4). -/
def bump (s : State) : State := { s with fresh := s.fresh + 1 }

/-- Event raised by a step to come next. -/
def later (s : State) (is : List Instr) : State := { s with agenda := s.agenda ++ is }

/-- Put events before all that is on the agenda. -/
def sooner (s : State) (is : List Instr) : State := { s with agenda := is ++ s.agenda }

/-- The core's die (R18). -/
def dieOf (core : Nat) : Nat := core / 96

/-- The cluster of a core, over the package. -/
def clusterOf (core : Nat) : Nat := core / 4

/-- Modify a slot of a core. -/
def modSlot (s : State) (core slot : Nat) (f : Slot → Slot) : State :=
  modCore s core fun c => { c with slots := modNth c.slots slot f }

/-- A slot of a core. -/
def getSlot (s : State) (core slot : Nat) : Slot := nth Slot.reset (getCore s core).slots slot

/-! ## Registers -/

/-- Resident registers of a lane, Rz (R17). -/
def Lane.rz (l : Lane) : Nat := l.rf.length

/-- Does the group run on the system bank (R389)? -/
def Group.onBank (g : Group) : Bool := g.st.active

/-- A lane that does not exist. -/
def Lane.none : Lane :=
  { st := .free, pc := 0, preds := 0, base := 0, rb := 0, rf := [], gen := 1, readyAt := 0, since := 0
    ub := 0, up := 0, sb := 0, sp := 0, bv := [], bp := 0, pois := [] }

/-- A lane of a group. -/
def Group.lane (g : Group) (l : Nat) : Lane := nth Lane.none g.lanes l

/-- Change a lane of a group. -/
def Group.modLane (g : Group) (l : Nat) (f : Lane → Lane) : Group := { g with lanes := modNth g.lanes l f }

/-- Change every lane of a mask. -/
def Group.modLanes (g : Group) (m : Mask) (f : Lane → Lane) : Group :=
  { g with lanes := g.lanes.mapIdx fun i l => if m.has i then f l else l }

/-- Stack register `x` of a lane. -/
def Lane.stk (l : Lane) (x : Nat) : Word := nth 0 l.rf (x % l.rz)

/-- Write stack register `x` of a lane: the whole register, so its poison is cleared (R405). -/
def Lane.setStk (l : Lane) (x : Nat) (w : Word) : Lane :=
  { l with rf := setNth l.rf (x % l.rz) w, pois := l.pois.filter (· != x) }

/-- The place of window register `k` of a lane: stack register, or system-bank register (R23, R389). -/
def Group.vPlace (g : Group) (lane k : Nat) : Dst :=
  if g.onBank then .v lane (65536 + k) else .v lane ((g.lane lane).base + k)

/-- The place of predicate `n` of a lane. -/
def Group.pPlace (g : Group) (lane n : Nat) : Dst := .p lane (if g.onBank then 8 + n else n)

/-- The place of group register `n`. -/
def Group.gPlace (g : Group) (n : Nat) : Dst := .g (if g.onBank then 24 + n else n)

/-- What a place holds, early reads apart. Predicates are 0 or 1; p7 reads 1 (R53). -/
def Group.get (g : Group) : Dst → Word
  | .v l x => if x < 65536 then (g.lane l).stk x else nth 0 (g.lane l).bv (x - 65536)
  | .p l n =>
      if n % 8 = 7 then 1
      else if n < 8 then (if (g.lane l).preds.getLsbD n then 1 else 0)
      else if (g.lane l).bp.getLsbD (n - 8) then 1 else 0
  | .g n => if n < 24 then nth 0 g.g n else nth 0 g.bg (n - 24)
  | .gf b => if b then g.bgf.setWidth 32 else g.gf.setWidth 32

/-- Set a bit of a 7-bit predicate set. -/
def setPred (ps : BitVec 7) (n : Nat) (b : Bool) : BitVec 7 :=
  if b then ps ||| BitVec.ofNat 7 (2 ^ n) else ps &&& ~~~ BitVec.ofNat 7 (2 ^ n)

/-- Write a place, pending errors apart. -/
def Group.store (g : Group) : Dst → Word → Group
  | .v l x, w =>
      if x < 65536 then g.modLane l fun y => y.setStk x w
      else g.modLane l fun y => { y with bv := setNth y.bv (x - 65536) w, pois := y.pois.filter (· != x) }
  | .p l n, w =>
      if n % 8 = 7 then g
      else if n < 8 then g.modLane l fun y => { y with preds := setPred y.preds n (w.getLsbD 0) }
      else g.modLane l fun y => { y with bp := setPred y.bp (n - 8) (w.getLsbD 0) }
  | .g n, w =>
      if n < 24 then { g with g := setNth g.g n w, gpois := g.gpois.filter (· != n) }
      else { g with bg := setNth g.bg (n - 24) w, gpois := g.gpois.filter (· != n) }
  | .gf b, w => if b then { g with bgf := w.setWidth 5 } else { g with gf := w.setWidth 5 }

/-- Is the place one that a write would change? A write to p7 is discarded. -/
def Dst.real : Dst → Bool
  | .p _ n => n % 8 != 7
  | _ => true

/-- Write a place; a write to p7 is discarded (R53). A register written whole holds fresh check bits (R404, R420). -/
def Group.set (g : Group) (d : Dst) (w : Word) : Group :=
  if g.errs.isEmpty || !d.real then g.store d w else { g.store d w with errs := g.errs.filter fun e => e.1 != d }

/-- What an instruction that issues in cycle `cyc` reads: before a fixed-latency result is readable, the value held
before that write (R62). -/
def Group.read (g : Group) (cyc : Nat) (d : Dst) : Word :=
  match g.early.find? fun e => e.dst == d && decide (cyc < e.untl) with
  | some e => e.old
  | none => g.get d

/-- Write one fixed-latency result: readable `lat` cycles after issue (R60). -/
def Group.writeFixed (g : Group) (cyc lat : Nat) (d : Dst) (w : Word) : Group :=
  if d.real then
    { g.set d w with
      early := { dst := d, old := g.get d, untl := cyc + lat } ::
        g.early.filter fun e => e.dst != d && decide (cyc < e.untl) }
  else g

/-- Write several fixed-latency results; the last write to a place stands (R7). -/
def Group.writesFixed (g : Group) (cyc lat : Nat) : List (Dst × Word) → Group
  | [] => g
  | (d, w) :: ws => (g.writeFixed cyc lat d w).writesFixed cyc lat ws

/-- Write several variable-latency results (R61). -/
def Group.writes (g : Group) : List (Dst × Word) → Group
  | [] => g
  | (d, w) :: ws => (g.set d w).writes ws

/-- GF as the group sees it. -/
def Group.flags (g : Group) : BitVec 5 := if g.onBank then g.bgf else g.gf

/-- OR flags into FSTAT (R101), the system bank's own while on it (R389). -/
def Group.orFstat (g : Group) (f : BitVec 5) : Group :=
  if g.onBank then { g with bfstat := g.bfstat ||| f } else { g with fstat := g.fstat ||| f }

/-- The active mask (R285). -/
def Group.active (g : Group) : Mask :=
  (g.lanes.zipIdx).foldl (fun m x => if x.1.st == .free then m else m ||| Mask.bit x.2) 0

/-- The fibres over which convergence is judged: the trapped set in a handler (R389). -/
def Group.scope (g : Group) : Mask :=
  if g.st.active then g.st.set else if g.ut.active then g.ut.set &&& g.active else g.active

/-- Converged at an address (R110). -/
def Group.converged (g : Group) (pc : Dword) : Bool :=
  (g.lanes.zipIdx).all fun x => !(g.scope.has x.2) || x.1.st == .free || x.1.pc == pc

/-! ## HBM cells as the device itself writes them (R406, R424) -/

/-- Change the HBM state. -/
def modHbm (s : State) (f : Hbm → Hbm) : State := { s with hbm := f s.hbm }

/-- HBM row address of a local physical address (R191, R412). -/
def hraOf (pa : Nat) : Nat :=
  let o := pa % 2 ^ 36
  let pch := o / 256 % 32 * 2 + o / 2 ^ 13 % 2
  pa / 2 ^ 36 % 8 * 2 ^ 29 + pch * 2 ^ 23 + o / 65536 % 12 * 2 ^ 19 + o / 786432

/-- Does a byte lie on a pseudo-channel that has failed (R424)? -/
def failedKey (s : State) (k : Nat) : Bool := isLocalKey k && s.hbm.failed.contains (hraOf k / 2 ^ 23)

/-- Does a byte read as poisoned (R406, R424)? -/
def poisonedKey (s : State) (k : Nat) : Bool := s.hbm.pois.contains k || failedKey s k

/-- Take poison off bytes by key. -/
def cleanKeys (s : State) (ks : List Nat) : State :=
  modHbm s fun h => { h with pois := h.pois.filter fun k => !ks.contains k }

/-- The keys of a codeword's bytes. -/
def cwKeys (cw : Nat) : List Nat := (List.range 64).map (64 * cw + ·)

/-- Bytes are overwritten: a codeword in error all of whose bytes have been, before a read has met it, is a fresh one
(R406). -/
def overwrite (s : State) (ks : List Nat) : State :=
  let bad := s.hbm.ue ++ s.hbm.ce
  if bad.isEmpty then s
  else
    let fresh := ks.filter fun k => isLocalKey k && bad.contains (k / 64) && !s.hbm.rewritten.contains k
    let done := fresh ++ s.hbm.rewritten
    let gone := bad.filter fun c => (cwKeys c).all done.contains
    modHbm s fun h =>
      { h with ue := h.ue.filter fun c => !gone.contains c, ce := h.ce.filter fun c => !gone.contains c
               rewritten := done.filter fun k => !gone.contains (k / 64) }

/-- Is one of `n` bytes from a physical address on poisoned? -/
def deadBytes (s : State) (a n : Nat) : Bool :=
  !(s.hbm.pois.isEmpty && s.hbm.failed.isEmpty) && (List.range n).any fun i => poisonedKey s (a + i)

/-- The device writes a record of its own at a physical address: nothing lands on a failed pseudo-channel (R424), and a
codeword written whole is a fresh one, without error or poison (R406). -/
def deviceWrite (s : State) (a : Nat) (bs : List Byte) : State :=
  let kbs := (((List.range bs.length).map (a + ·)).zip bs).filter fun x => !failedKey s x.1
  let ks := kbs.map Prod.fst
  let s1 := overwrite { s with mem := memSets s.mem ks (kbs.map Prod.snd) } ks
  if s1.hbm.pois.isEmpty then s1 else cleanKeys s1 (ks.filter fun k => (cwKeys (k / 64)).all ks.contains)

/-! ## Translation of the addresses of structures (R371, R372) -/

/-- The physical address of a context descriptor. -/
def ctxDescAt (s : State) (c : Nat) : Nat := s.host.ctxtab.toNat + 64 * c

/-- Context descriptor `c` as the table in memory holds it; one that is poisoned reads as zero, and so is not live
(log 72). -/
def ctxDesc (s : State) (c : Nat) : CtxDesc :=
  let a := ctxDescAt s c
  let f := memNum s.mem (a + 0x0A) 2
  if deadBytes s a 64 then
    { root := 0, asid := 0, live := false, expert := false, fkey := 0, shand := 0, saves := 0, floor := 0, ceil := 0, ring := 0 }
  else
  { root := memNum s.mem a 8 % 2 ^ 52 / 4096 * 4096
    asid := BitVec.ofNat 16 (memNum s.mem (a + 8) 2)
    live := f % 2 == 1
    expert := f / 2 % 2 == 1
    fkey := BitVec.ofNat 16 (memNum s.mem (a + 0x0C) 2)
    shand := BitVec.ofNat 64 (memNum s.mem (a + 0x10) 8)
    saves := BitVec.ofNat 64 (memNum s.mem (a + 0x18) 8)
    floor := memNum s.mem (a + 0x20) 4
    ceil := memNum s.mem (a + 0x24) 4
    ring := BitVec.ofNat 64 (memNum s.mem (a + 0x28) 8) }

/-- Does the group run at level S: a privileged slice, or a system handler (R26)? -/
def levelS (s : State) (g : Group) : Bool :=
  g.st.active || match sliceOf s g with
    | some x => x.priv
    | none => false

/-! ## Machine checks, reports and vectors (R383, R407, R426, R430, R431) -/

/-- Raise an MSI-X vector. -/
def raiseVector (s : State) (v : Nat) : State :=
  { s with host := { s.host with vectors := s.host.vectors ++ [v] } }

/-- Raise a management alert (R433). -/
def raiseAlert (s : State) : State :=
  { s with host := { s.host with alertN := true, alerts := s.host.alerts + 1 } }

/-- Ring entries in use. -/
def ringUsed (head tail : Word) : Nat := (head - tail).toNat

/-- Write a machine-check record (R407); dropped with MCLOST when the ring is full. -/
def machineCheck (s : State) (cls ctx island addr info : Nat) : State :=
  let h := s.host
  let n := 2 ^ (h.mcrbase.toNat % 32)
  let base := h.mcrbase.toNat % 2 ^ 52 / 4096 * 4096
  if ringUsed h.mcrHead h.mcrTail = n ∨ base = 0 then
    { s with health := { s.health with mclost := true } }
  else
    let a := base + 64 * (h.mcrHead.toNat % n)
    let rec_ := toBytes cls 1 ++ toBytes ctx 1 ++ toBytes island 2 ++ toBytes 0 4 ++ toBytes s.tb 8 ++
      toBytes addr 8 ++ toBytes info 8 ++ toBytes 0 32
    raiseAlert <| raiseVector
      { deviceWrite s a rec_ with
        host := { h with mcrHead := h.mcrHead + 1 }
        health := { s.health with mce := min 255 (s.health.mce + 1) } } 0

/-- Set HEALTH.REPLACE when a field that feeds it is set (R425, R426). -/
def checkReplace (s : State) : State :=
  let h := s.health
  if !h.replace && (h.stkdeg != 0 || h.spr75 != 0 || h.pldead != 0 || h.retired != 0) then
    raiseAlert (raiseVector { s with health := { h with replace := true } } 2)
  else s

/-- The bytes of a fault-queue entry (R383). -/
def faultEntry (cause kind ctx flags : Nat) (asid : BitVec 16) (src : Nat) (addr : Dword) (token : Nat) : List Byte :=
  toBytes cause 1 ++ toBytes kind 1 ++ toBytes ctx 1 ++ toBytes flags 1 ++ toBytes asid.toNat 2 ++
    toBytes src 2 ++ dwordBytes addr ++ toBytes token 8 ++ toBytes 0 8

/-- Is the fault ring full (R430)? -/
def sfqFull (s : State) : Bool :=
  decide (ringUsed s.host.sfqHead s.host.sfqTail = 2 ^ (s.host.sfqbase.toNat % 32)) ||
    s.host.sfqbase.toNat % 2 ^ 52 / 4096 == 0

/-- Write one entry at HEAD and advance it; vector 1. -/
def sfqWrite (s : State) (e : List Byte) : State :=
  let h := s.host
  let n := 2 ^ (h.sfqbase.toNat % 32)
  let a := h.sfqbase.toNat % 2 ^ 52 / 4096 * 4096 + 32 * (h.sfqHead.toNat % n)
  raiseVector { deviceWrite s a e with host := { h with sfqHead := h.sfqHead + 1 } } 1

/-- Post a report entry; dropped when the ring is full (R430). -/
def postReport (s : State) (cause kind ctx flags : Nat) (asid : BitVec 16) (src : Nat) (addr : Dword) : State :=
  if sfqFull s || !s.host.heldEntries.isEmpty then s
  else sfqWrite s (faultEntry cause kind ctx flags asid src addr 0)

/-- Post a waiting entry and give its token; held while the ring is full (R430). -/
def postWaiting (s : State) (kind ctx flags : Nat) (asid : BitVec 16) (src : Nat) (addr : Dword) : State × Nat :=
  let t := s.host.token
  let e := faultEntry 0x08 kind ctx (flags ||| 1) asid src addr t
  let s1 := { s with host := { s.host with token := t + 1 } }
  if sfqFull s1 || !s1.host.heldEntries.isEmpty then
    ({ s1 with host := { s1.host with heldEntries := s1.host.heldEntries ++ [e] } }, t)
  else (sfqWrite s1 e, t)

/-- Entries held by a full ring go out in the order they were raised, as space frees (R430). -/
def sfqRelease (s : State) : Nat → State
  | 0 => s
  | n + 1 => match s.host.heldEntries with
    | [] => s
    | e :: es =>
        if sfqFull s then s
        else sfqRelease (sfqWrite { s with host := { s.host with heldEntries := es } } e) n

/-- The CTX byte of records: context number, or 0x40 for the system context (R383, R407). -/
def ctxByte (c : Nat) : Nat := if c = 64 then 0x40 else c % 64

/-- SRC of an agent on a core (R383). -/
def srcOfCore (core : Nat) : Nat := dieOf core + 4 * (core % 96 / 4) + 128 * (core % 4)

/-! ## The end of an issue -/

/-- The issue in hand, with its group. -/
def curGroup (s : State) : Option Group := getGroup s s.cur.grp

/-- The issue is over and its fibres stand where the instruction has put them. -/
def endIssue (s : State) : State := { s with busy := false }

/-- The carried fibres go to the next instruction. -/
def Group.advance (g : Group) (m : Mask) (len : Nat) : Group :=
  g.modLanes m fun l => { l with pc := l.pc + BitVec.ofNat 64 len }

/-- The issue is over and every carried fibre goes to the next instruction. -/
def issueDone (s : State) (len : Nat) : State :=
  endIssue (modGroup s s.cur.grp fun g => g.advance s.cur.mask len)

/-! ## Traps (R387 to R392) -/

/-- End a slice by a trap or the runtime; a slice that is already ending keeps its first trap (R387, R392). -/
def endSlice (s : State) (sid : Nat) (e : Ending) : State :=
  modSlice s sid fun x => if x.ending.isNone then { x with ending := some e } else x

/-- TCAUSE (R393). -/
def tcauseOf (outer : Nat) (lvl : Bool) (cause : Nat) : Dword :=
  BitVec.ofNat 64 (outer % 256 * 65536 + (if lvl then 256 else 0) + cause % 256)

/-- The cause that a trap record holds. -/
def TrapSt.cause (t : TrapSt) : Nat := t.tcause.toNat % 256

/-- The same by a trap of a group: `since` is the handle of the operation that has trapped, or the next handle. -/
def endSliceBy (s : State) (sid gid since : Nat) (e : Ending) : State :=
  modSlice s sid fun x => if x.ending.isNone then { x with ending := some e, endedBy := some (gid, since) } else x

/-- What a group has done can no longer be replayed (R418). -/
def commitGroup (s : State) (g : Group) : State :=
  modCore s g.core fun c => { c with hist := c.hist.filter fun h => h.grp.id != g.id }

/-- Has a group an issue that a replay may still discard (R417)? -/
def replayable (s : State) (core gid : Nat) : Bool := (getCore s core).hist.any fun h => h.grp.id == gid

/-- A register of the slot's system bank (R389). -/
def Dst.inBank : Dst → Bool
  | .v _ x => 65536 ≤ x
  | .p _ n => 8 ≤ n
  | .g n => 24 ≤ n
  | .gf b => b

/-- Enter the system handler on the slot's bank (R389): registers of the bank read zero, PC is SHAND. -/
def enterSystem (g : Group) (e : SysEntry) (shand : Dword) : Group :=
  { g with
    sysPend := none
    early := g.early.filter fun x => !x.dst.inBank
    errs := g.errs.filter fun x => !x.1.inBank
    gpois := g.gpois.filter (· < 24)
    skipMask := g.skipMask &&& ~~~e.set
    sjsd := none, sjspa := none
    st := { active := true, set := e.set, tcause := tcauseOf e.outer e.lvl e.cause, tepc := e.tepc, tval := e.tval,
            paid := if e.paid then some e.tepc else none }
    bg := List.replicate 24 0, bgf := 0, bfstat := 0
    lanes := g.lanes.mapIdx fun i l =>
      if e.set.has i then
        { l with sb := l.base, sp := l.preds, srb := none, bv := List.replicate 64 0, bp := 0, pc := shand
                 pois := l.pois.filter (· < 65536) }
      else l }

/-- The system handler's address for a group's context. -/
def shandOf (s : State) (g : Group) : Dword :=
  match getTeam s g.team with
  | some t => t.desc.shand
  | none => 0

/-- Take a system entry now if the slot's bank is free, else wait for it in arrival order (R389). -/
def requestBank (s : State) (gid since : Nat) (e : SysEntry) : State :=
  match getGroup s gid with
  | none => s
  | some g =>
    if (getSlot s g.core g.slot).bank.isNone then
      modSlot (modGroupSince s gid since fun g => enterSystem g e (shandOf s g)) g.core g.slot
        fun sl => { sl with bank := some gid }
    else
      modSlot (modGroupSince s gid since fun g => { g with sysPend := some e }) g.core g.slot
        fun sl => { sl with bankQ := sl.bankQ ++ [gid] }

/-- What a handler's instructions have still to write to the bank is lost with the bank (R389). -/
def dropBankWrites (s : State) (gid : Nat) : State :=
  { s with
    ops := s.ops.map fun o => if o.grp == gid && o.sys then { o with dsts := [] } else o
    cores := s.cores.map fun c =>
      { c with
        mxq := c.mxq.map fun m => if m.grp == gid && m.sys then { m with dsts := [] } else m
        ergq := c.ergq.map fun e => if e.grp == gid && e.sys then { e with dsts := [] } else e } }

/-- Free the slot's bank and give it to the group that has waited longest (R389). -/
def releaseBank (s : State) (core slot : Nat) : State :=
  let sl := getSlot s core slot
  match sl.bankQ with
  | [] => modSlot s core slot fun sl => { sl with bank := none }
  | b :: bs =>
    let s1 := modSlot s core slot fun sl => { sl with bank := some b, bankQ := bs }
    modGroupSince s1 b 0 fun g => match g.sysPend with
      | none => g
      | some e => enterSystem g e (shandOf s1 g)

/-- A group gives its slot's bank back: what its handler has still to write is lost. While a replay may bring the handler back
the bank is kept, and goes back at the commit gate (R389, R417, log 39). -/
def handBack (s : State) (gid core slot : Nat) : State :=
  if replayable s core gid then s else releaseBank (dropBankWrites s gid) core slot

/-- Move the trapped fibres into the user handler: the base moves up by 64 and PC is THAND (R389). -/
def enterUser (g : Group) (set : Mask) (thand : Dword) : Group :=
  { g with userPend := false, skipMask := g.skipMask &&& ~~~set }.modLanes set fun l =>
    { l with base := l.base + 64, pc := thand }

/-- Causes that the system handler always takes (R388). -/
def systemCause (c : Nat) : Bool := c == 0x05 || c == 0x06 || c == 0x0A

/-- The machine-check island number of a core. -/
def islandOf (core : Nat) : Nat := core

/-- The island number of a stack's controller, of which the manual gives the range only (R407, log 3). -/
def islandOfStack (stack : Nat) : Nat := 384 + Config.islandNumber stack % 96

/-- The island number of a port, of which the manual gives the range only (R407, log 3). -/
def islandOfPort (port : Nat) : Nat := 384 + Config.islandNumber (8 + port) % 96

/-- Trap entry and TRET order as fences at FIB scope for some fibres of a group (R249, R308): what they access from here
on follows what they have accessed so far. Fences with nothing left before them go. -/
def fenceLanes (s : State) (gid since : Nat) (m : Mask) : State :=
  modGroupSince s gid since fun g => g.modLanes m fun l =>
    { l with fences := (s.nextId :: l.fences).filter fun f => s.ops.any fun o => o.grp == gid && decide (o.id < f) }

/-- The trap registers of a user cause (R387, R393): the instance of the handler's level, which in a privileged slice is S;
the user instance also holds what TRET needs. -/
def recordUser (g : Group) (priv : Bool) (r : TrapSt) : Group :=
  { g with ut := r
           st := if priv then { g.st with tcause := r.tcause, tepc := r.tepc, tval := r.tval } else g.st }

/-- Take a trap (R387 to R390): trapped set `set`, cause, TEPC and TVAL, and whether the instruction had issued and been
charged (R344); `since` is the handle of the operation that traps, or the next handle. The slice ends, or the handler of the
cause is entered. The record of a trap in a system handler leaves the core at once (R390, log 39). -/
def takeTrapSince (s : State) (since gid : Nat) (set : Mask) (cause : Nat) (tepc tval : Dword) (paid : Bool) : State :=
  let s := fenceLanes s gid since set
  match getGroup s gid with
  | none => s
  | some g =>
  match sliceOf s g with
  | none => s
  | some x =>
    if x.ending.isSome then s
    else if g.st.active then
      endSliceBy (machineCheck (commitGroup s g) 0x05 (ctxByte x.ctx) (islandOf g.core) tepc.toNat cause) x.id gid since
        { code := 3, cause := 0, tepc := tepc, tval := tval }
    else if systemCause cause then
      requestBank s gid since
        { cause := cause, outer := if g.ut.active then g.ut.cause else 0, lvl := x.priv
          tepc := tepc, tval := tval, set := set, paid := paid }
    else if g.ut.active then
      endSliceBy s x.id gid since { code := 2, cause := cause, tepc := tepc, tval := tval }
    else if x.thand = 0 then
      if cause = 0x0E then
        modSlice s x.id fun x => { x with preempting := true, left := x.budget }
      else endSliceBy s x.id gid since { code := 2, cause := cause, tepc := tepc, tval := tval }
    else
      let s1 := modGroupSince s gid since fun g => (recordUser g x.priv
          { active := true, set := set, tcause := tcauseOf 0 x.priv cause, tepc := tepc, tval := tval
            paid := if paid then some tepc else none }).modLanes set
        fun l => { l with ub := l.base, up := l.preds }
      match (lanesOf set).find? fun i =>
          decide ((g.lane i).base + 128 > (g.lane i).rb + (g.lane i).rz) with
      | some i =>
          requestBank (modGroupSince s1 gid since fun g => { g with userPend := true }) gid since
            { cause := 0x05, outer := cause, lvl := x.priv, tepc := tepc
              tval := BitVec.ofNat 64 ((g.lane i).base + 64), set := set, paid := false }
      | none => modGroupSince s1 gid since fun g => enterUser g set x.thand

/-- Take a trap that no operation in flight raises: at an issue, a fetch or a boundary. -/
def takeTrapAt (s : State) (gid : Nat) (set : Mask) (cause : Nat) (tepc tval : Dword) (paid : Bool) : State :=
  takeTrapSince s s.nextId gid set cause tepc tval paid

/-- The instruction in hand traps: the trapped set is every fibre the issue carries and TEPC its address (R387). -/
def takeTrap (s : State) (cause : Nat) (tval : Dword) : State :=
  endIssue (takeTrapAt s s.cur.grp s.cur.mask cause s.cur.pc tval true)

/-- Mark fibres whose reissue of the instruction at an address is neither charged nor counted (R344). -/
def Group.markFree (g : Group) (m : Mask) (pc : Dword) : Group := { g with free := (m, pc) :: g.free }

/-- The trapped fibres leave the system handler (R391): saved base and p0-p6 come back, and RB, JSD and JSPA take the
values it has written; fibres whose user entry was pending complete it (R389). -/
def leaveSystem (s : State) (g : Group) (skip : Bool) : State :=
  let pend := g.userPend
  let thand := match sliceOf s g with
    | some x => x.thand
    | none => 0
  let g1 := { g with
    st := { g.st with active := false }
    skipMask := if skip && !pend then g.st.set else 0
    jsd := g.sjsd.getD g.jsd, jspa := g.sjspa.getD g.jspa, sjsd := none, sjspa := none
    lanes := g.lanes.mapIdx fun i l =>
      if g.st.set.has i then
        { l with base := l.sb, preds := l.sp, rb := l.srb.getD l.rb, srb := none, pc := g.st.tepc }
      else l }
  let g2 := if pend then enterUser g1 g.st.set thand
    else if !skip && g.st.paid == some g.st.tepc then g1.markFree g.st.set g.st.tepc else g1
  handBack (modGroup s g.id fun _ => g2) g.id g.core g.slot

/-- The trapped fibres leave the user handler (R391). -/
def leaveUser (s : State) (g : Group) (skip : Bool) : State :=
  let g1 := { g with
    ut := { g.ut with active := false }
    skipMask := if skip then g.ut.set &&& g.active else 0
    lanes := g.lanes.mapIdx fun i l =>
      if g.ut.set.has i && l.st != .free then { l with base := l.ub, preds := l.up, pc := g.ut.tepc } else l }
  modGroup s g.id fun _ =>
    if !skip && g.ut.paid == some g.ut.tepc then g1.markFree g.ut.set g.ut.tepc else g1

/-- Return from the handler of the current level (R308, R391). An issue of part of the trapped set raises GDIVERGED;
with no trap in hand ILLOP with TVAL 4. -/
def returnFromTrap (s : State) (skip : Bool) : State :=
  let f := fenceLanes s s.cur.grp s.nextId s.cur.mask
  match curGroup f with
  | none => endIssue s
  | some g =>
    if g.st.active then
      if s.cur.mask = g.st.set then endIssue (leaveSystem f g skip) else takeTrap s 0x04 0
    else if g.ut.active then
      if s.cur.mask = g.ut.set &&& g.active then endIssue (leaveUser f g skip) else takeTrap s 0x04 0
    else takeTrap s 0x01 4

end Sys2Proof.Machine
end

