-- ==== Sys2Proof/Machine/Operands.lean ====
section
/-! DEFINITION. Every operand form of the manual (spec/02 R50 to R57, spec/04 R109, spec/05 R151, spec/07 R193): reading
sources, naming destinations, guards and participants, displacements. -/

namespace Sys2Proof.Machine

/-- What an instruction sees when it reads its operands: its group and the values of the special operands. -/
structure View where
  g : Group
  cyc : Nat
  tb : Nat
  teamNo : Nat
  nteam : Nat
  /-- The carried fibres (R286). -/
  carried : Mask
  pc : Dword
  deriving DecidableEq, Repr

/-- The view of the issue in hand. -/
def viewOf (s : State) : Option View :=
  match curGroup s with
  | none => none
  | some g =>
    let t := getTeam s g.team
    let x := sliceOf s g
    some { g := g, cyc := s.cur.cyc, tb := s.tb
           teamNo := (t.map Team.no).getD 0
           nteam := (x.map fun x => x.pkt.nteam).getD 0
           carried := s.cur.mask, pc := s.cur.pc }

/-- The special operands (R41). -/
def View.special (v : View) (lane : Nat) : Special → Word
  | .lane => BitVec.ofNat 32 lane
  | .grp => BitVec.ofNat 32 v.g.grp
  | .team => BitVec.ofNat 32 v.teamNo
  | .core => BitVec.ofNat 32 v.g.coreNo
  | .zero => 0
  | .nteam => BitVec.ofNat 32 v.nteam
  | .cyc => BitVec.ofNat 32 v.cyc
  | .tb => BitVec.ofNat 32 v.tb

/-- Window register `k` of a lane, as an issue reads it. -/
def View.v (v : View) (lane k : Nat) : Word := v.g.read v.cyc (v.g.vPlace lane k)

/-- Group register `n`, as an issue reads it. -/
def View.gr (v : View) (n : Nat) : Word := v.g.read v.cyc (v.g.gPlace n)

/-- Predicate `n` of a lane, as an issue reads it; p7 reads 1 (R53). -/
def View.p (v : View) (lane n : Nat) : Bool := v.g.read v.cyc (v.g.pPlace lane n) != 0

/-- A 32-bit source (R50, R53, R55). -/
def View.src32 (v : View) (h : Hdr) (lane : Nat) : Opd → Word
  | .v k => v.v lane k.toNat
  | .g n => v.gr n.val
  | .p n => if v.p lane n.toNat then 1 else 0
  | .sp x => v.special lane x
  | .imm => h.imm32

/-- The immediate as a 64-bit operand: IMM32 extended in 96 bits, IMM64 in 128 bits (R55). -/
def imm64 (h : Hdr) (sx : Bool) : Dword :=
  match h.len with
  | .four => h.ext
  | _ => if sx then h.imm32.signExtend 64 else h.imm32.setWidth 64

/-- A 64-bit source (R51, R55). -/
def View.src64 (v : View) (h : Hdr) (lane : Nat) (sx : Bool) : Opd → Dword
  | .v k => Dword.mk (v.v lane k.toNat) (v.v lane (k.toNat + 1))
  | .g n => Dword.mk (v.gr n.val) (v.gr (n.val + 1))
  | .p _ => 0
  | .sp x => (v.special lane x).setWidth 64
  | .imm => imm64 h sx

/-- The registers of a quad (R108). -/
def View.quad (v : View) (lane : Nat) : Opd → List Word
  | .v k => [v.v lane k.toNat, v.v lane (k.toNat + 1), v.v lane (k.toNat + 2), v.v lane (k.toNat + 3)]
  | _ => [0, 0, 0, 0]

/-- A predicate operand. -/
def View.pred (v : View) (lane : Nat) : Opd → Bool
  | .p n => v.p lane n.toNat
  | _ => false

/-- The guard of a lane (R56). -/
def View.guard (v : View) (h : Hdr) (lane : Nat) : Bool := v.p lane h.pred.toNat != h.neg

/-- The participants: the carried fibres whose guard holds (R56, R107). -/
def View.parts (v : View) (h : Hdr) : Mask := maskOf fun l => v.carried.has l && v.guard h l

/-- The participants of a cross-lane instruction: in a converged group every active fibre whose guard holds, whatever
gang carries the issue; in a diverged one the carried fibres whose guard holds (R112, R389). -/
def View.sharers (v : View) (h : Hdr) : Mask :=
  if v.g.converged v.pc then maskOf fun l => v.g.active.has l && v.g.scope.has l && v.guard h l else v.parts h

/-- Window register `k` of any lane, as RDLN reads it: on the system bank only a trapped fibre's register stands in the
bank; every other lane's is counted through its own window base (R137, R389). -/
def Group.laneReg (g : Group) (lane k : Nat) : Dst :=
  if g.onBank && g.st.set.has lane && (g.lane lane).st != .free then .v lane (65536 + k)
  else .v lane ((g.lane lane).base + k)

/-- The places of a destination operand of `n` registers (R50, R51, R108). -/
def Group.dsts (g : Group) (lane n : Nat) : Opd → List Dst
  | .v k => (List.range n).map fun i => g.vPlace lane (k.toNat + i)
  | .g k => (List.range n).map fun i => g.gPlace (k.val + i)
  | .p k => [g.pPlace lane k.toNat]
  | _ => []

/-- A 32-bit result for a destination: a predicate takes bit 0 (R53). -/
def Group.put32 (g : Group) (lane : Nat) (d : Opd) (w : Word) : List (Dst × Word) :=
  (g.dsts lane 1 d).map fun x => (x, w)

/-- A 64-bit result for a destination pair (R52). -/
def Group.put64 (g : Group) (lane : Nat) (d : Opd) (w : Dword) : List (Dst × Word) :=
  (g.dsts lane 2 d).zip [w.lo, w.hi]

/-- Registers for a destination of as many registers. -/
def Group.putN (g : Group) (lane : Nat) (d : Opd) (ws : List Word) : List (Dst × Word) :=
  (g.dsts lane ws.length d).zip ws

/-- A 0 or 1 for a predicate or a register. -/
def bit32 (b : Bool) : Word := if b then 1 else 0

/-- A uniform operand (R151), read once for the group. -/
def View.uni (v : View) (h : Hdr) (o : Opd) : Word := v.src32 h 0 o

/-- A uniform pair: a g pair, ZERO, or the immediate zero-extended (R55). -/
def View.uni64 (v : View) (h : Hdr) (o : Opd) : Dword := v.src64 h 0 false o

/-- The bytes of store data of a size (R193). -/
def View.data (v : View) (h : Hdr) (lane : Nat) (sz : Size) (o : Opd) : List Byte :=
  match sz with
  | .sz1 | .sz2 | .sz4 => toBytes (v.src32 h lane o).toNat sz.bytes
  | .sz8 => dwordBytes (v.src64 h lane false o)
  | .sz16 => (v.quad lane o).flatMap wordBytes

/-- The registers that loaded bytes make: extended to 32 bits below four bytes (R197). -/
def loadWords (sz : Size) (sx : Bool) (bs : List Byte) : List Word :=
  match sz with
  | .sz1 => [if sx then (BitVec.ofNat 8 (ofBytes bs)).signExtend 32 else BitVec.ofNat 32 (ofBytes bs)]
  | .sz2 => [if sx then (BitVec.ofNat 16 (ofBytes bs)).signExtend 32 else BitVec.ofNat 32 (ofBytes bs)]
  | .sz4 => [BitVec.ofNat 32 (ofBytes bs)]
  | .sz8 => [BitVec.ofNat 32 (ofBytes (bs.take 4)), BitVec.ofNat 32 (ofBytes (bs.drop 4))]
  | .sz16 => (List.range 4).map fun i => BitVec.ofNat 32 (ofBytes ((bs.drop (4 * i)).take 4))

/-- Registers of a size. -/
def Size.words : Size → Nat
  | .sz8 => 2
  | .sz16 => 4
  | _ => 1

/-- The effective address of a lane (R194). -/
def View.ea (v : View) (h : Hdr) (lane : Nat) (a : Opd) : Dword := v.src64 h lane false a + h.disp

/-- The scratch offset of a lane as an exact integer (R194). -/
def View.off (v : View) (h : Hdr) (lane : Nat) (a : Opd) : Int := (v.src32 h lane a).toNat + h.imm32.toInt

/-- The target of a control displacement (R295). -/
def View.target (v : View) (h : Hdr) : Dword := v.pc + h.disp

end Sys2Proof.Machine
end

