-- ==== Sys2Proof/Machine/Flags.lean ====
section
/-! DEFINITION. Integer results, relations and flag computations (spec/02 R69, spec/03 R82 to R84 and R100, spec/04 R131,
R135, spec/10 R283), and the conditions that read GF (spec/11 R297). -/

namespace Sys2Proof.Machine

/-- FSTAT bits (R100). -/
def flNX : BitVec 5 := 1
/-- Underflow. -/
def flUF : BitVec 5 := 2
/-- Overflow. -/
def flOF : BitVec 5 := 4
/-- Division by zero. -/
def flDZ : BitVec 5 := 8
/-- Invalid operation. -/
def flIV : BitVec 5 := 16

/-- A flag when a condition holds. -/
def flIf (b : Bool) (f : BitVec 5) : BitVec 5 := if b then f else 0

/-- Width of an integer type (R82). -/
def tyBits : Ty → Nat
  | .i64 | .z64 => 64
  | .i8 => 8
  | _ => 32

/-- Least value of an integer type (R82). -/
def tyMin (t : Ty) : Int := if t.signed then -(2 ^ (tyBits t - 1) : Nat) else 0

/-- Greatest value of an integer type (R82). -/
def tyMax (t : Ty) : Int := if t.signed then (2 ^ (tyBits t - 1) - 1 : Nat) else (2 ^ tyBits t - 1 : Nat)

/-- Clamp to the range of an integer type. -/
def clampInt (t : Ty) (x : Int) : Int := max (tyMin t) (min (tyMax t) x)

/-- Is the exact value outside the range of the type? -/
def outOfRange (t : Ty) (x : Int) : Bool := decide (x < tyMin t) || decide (tyMax t < x)

/-- The stored result of an exact integer value in 32 bits: wrapped, or clamped with SAT (R83). -/
def store32 (t : Ty) (sat : Bool) (x : Int) : Word := BitVec.ofInt 32 (if sat then clampInt t x else x)

/-- The same in 64 bits. -/
def store64 (t : Ty) (sat : Bool) (x : Int) : Dword := BitVec.ofInt 64 (if sat then clampInt t x else x)

/-- A register as an integer of the type's signedness (R82). -/
def int32 (t : Ty) (w : Word) : Int := if t.signed then w.toInt else w.toNat

/-- A pair as an integer of the type's signedness. -/
def int64 (t : Ty) (w : Dword) : Int := if t.signed then w.toInt else w.toNat

/-- Byte `i` of a register (R84). -/
def byteOf (w : Word) (i : Nat) : BitVec 8 := w.extractLsb' (8 * i) 8

/-- Half `i` of a register (R84). -/
def halfOf (w : Word) (i : Nat) : BitVec 16 := w.extractLsb' (16 * i) 16

/-- Replace byte `i` of a register. -/
def putByte (w : Word) (i : Nat) (b : Nat) : Word :=
  BitVec.ofNat 32 (w.toNat - (byteOf w i).toNat * 2 ^ (8 * i) + b % 256 * 2 ^ (8 * i))

/-- Replace half `i` of a register. -/
def putHalf (w : Word) (i : Nat) (b : Nat) : Word :=
  BitVec.ofNat 32 (w.toNat - (halfOf w i).toNat * 2 ^ (16 * i) + b % 65536 * 2 ^ (16 * i))

/-- Number of 1 bits. -/
def popCount {n : Nat} (w : BitVec n) : Nat := ((List.range n).filter fun i => w.getLsbD i).length

/-- Number of leading 0 bits; the width for 0. -/
def countLeading {n : Nat} (w : BitVec n) : Nat :=
  if w.toNat = 0 then n else n - 1 - w.toNat.log2

/-- Number of trailing 0 bits; the width for 0. -/
def countTrailing {n : Nat} (w : BitVec n) : Nat :=
  ((List.range n).find? fun i => w.getLsbD i).getD n

/-- The bits in reverse order. -/
def bitReverse (w : Word) : Word :=
  (List.range 32).foldl (fun r i => if w.getLsbD i then r ||| BitVec.ofNat 32 (2 ^ (31 - i)) else r) 0

/-- Shift left by an unsigned count; 0 from the width on (R113). -/
def shlBy {n : Nat} (w : BitVec n) (k : Nat) : BitVec n := if k ≥ n then 0 else w <<< k

/-- Shift right with zeros. -/
def shrBy {n : Nat} (w : BitVec n) (k : Nat) : BitVec n := if k ≥ n then 0 else w >>> k

/-- Shift right with the top bit. -/
def sarBy {n : Nat} (w : BitVec n) (k : Nat) : BitVec n := w.sshiftRight (min k n)

/-- Rotate left by the count mod the width. -/
def rotBy {n : Nat} (w : BitVec n) (k : Nat) : BitVec n := w.rotateLeft (k % n)

/-- An integer relation of R69; .ORD and .UNO have no integer meaning. -/
def cmpInt (c : Cmp) (a b : Int) : Bool :=
  match c with
  | .eq => decide (a = b)
  | .ne => decide (a ≠ b)
  | .lt => decide (a < b)
  | .le => decide (a ≤ b)
  | .gt => decide (a > b)
  | .ge => decide (a ≥ b)
  | .ord => false
  | .uno => false

/-- GF from its flags: Z, N, C, V, MZ from bit 0 up (R133). -/
def gfOf (z n c v mz : Bool) : BitVec 5 :=
  (if mz then 16 else 0) ||| (if v then 8 else 0) ||| (if c then 4 else 0) ||| (if n then 2 else 0) |||
    (if z then 1 else 0)

/-- Flag bits of GF. -/
def gfZ (f : BitVec 5) : Bool := f.getLsbD 0
/-- N of GF. -/
def gfN (f : BitVec 5) : Bool := f.getLsbD 1
/-- C of GF. -/
def gfC (f : BitVec 5) : Bool := f.getLsbD 2
/-- V of GF. -/
def gfV (f : BitVec 5) : Bool := f.getLsbD 3
/-- MZ of GF. -/
def gfMZ (f : BitVec 5) : Bool := f.getLsbD 4

/-- GF from a group compare at a width (R135); MZ is kept. -/
def gfCompare {n : Nat} (a b : BitVec n) (old : BitVec 5) : BitVec 5 :=
  let d := a.toInt - b.toInt
  gfOf (a == b) ((a - b).msb) (decide (b.toNat ≤ a.toNat))
    (decide (d < -(2 ^ (n - 1) : Nat)) || decide (d > (2 ^ (n - 1) - 1 : Nat))) (gfMZ old)

/-- GF from a vote (R131). -/
def gfVote (result any : Bool) : BitVec 5 := gfOf (!result) false false false (!any)

/-- GF from ALWR (R283). -/
def gfAllowance (avail wanted : Nat) (v : Bool) : BitVec 5 :=
  gfOf (avail == 0) false (decide (avail ≥ wanted)) false (!v)

/-- The conditions of BRC (R297); codes from 0xC on are not legal. -/
def gfCond (c : Nat) (f : BitVec 5) : Bool :=
  match c with
  | 0x0 => gfZ f
  | 0x1 => !gfZ f
  | 0x2 => gfN f != gfV f
  | 0x3 => gfN f == gfV f
  | 0x4 => !gfZ f && gfN f == gfV f
  | 0x5 => gfZ f || gfN f != gfV f
  | 0x6 => !gfC f
  | 0x7 => gfC f
  | 0x8 => gfC f && !gfZ f
  | 0x9 => !gfC f || gfZ f
  | 0xA => gfMZ f
  | 0xB => !gfMZ f
  | _ => false

end Sys2Proof.Machine
end

