-- ==== Sys2Proof/Machine/Float.lean ====
section
/-! DEFINITION. Floating formats, exact values and rounding (spec/03 R85 to R99, R102 to R106; spec/04 R120, R121). -/

namespace Sys2Proof.Machine

/-- An exact real n × 2^q with a sign, an infinity, or a NaN (R104). -/
inductive FVal where
  | nan (sig : Bool)
  | inf (neg : Bool)
  | fin (neg : Bool) (n : Nat) (q : Int)
  deriving DecidableEq, Repr

/-- A floating format (R85, R88 to R92): width, precision, exponent of the minimum normal, code of the largest finite
magnitude, infinities, unsigned, canonical NaN, whether it follows IEEE 754. -/
structure Fmt where
  w : Nat
  p : Nat
  emin : Int
  maxCode : Nat
  hasInf : Bool
  uns : Bool
  nan : Nat
  ieee : Bool
  deriving DecidableEq, Repr

/-- binary32. -/
def fmtF32 : Fmt :=
  { w := 32, p := 24, emin := -126, maxCode := 0x7F7FFFFF, hasInf := true, uns := false, nan := 0x7FC00000, ieee := true }

/-- binary16. -/
def fmtF16 : Fmt :=
  { w := 16, p := 11, emin := -14, maxCode := 0x7BFF, hasInf := true, uns := false, nan := 0x7E00, ieee := true }

/-- bfloat16. -/
def fmtBF16 : Fmt :=
  { w := 16, p := 8, emin := -126, maxCode := 0x7F7F, hasInf := true, uns := false, nan := 0x7FC0, ieee := true }

/-- A binary8 format (R88, R89, R91, R92). -/
def fmtB8 (p : Nat) (uns fin : Bool) : Fmt :=
  { w := 8, p := p
    emin := 1 - (if uns then (2 ^ (8 - p) : Nat) else (2 ^ (7 - p) : Nat))
    maxCode := match uns, fin with
      | false, false => 0x7E
      | false, true => 0x7F
      | true, false => 0xFD
      | true, true => 0xFE
    hasInf := !fin, uns := uns, nan := if uns then 0xFF else 0x80, ieee := false }

/-- The format of a floating type; binary32 for the integer types. -/
def tyFmt : Ty → Fmt
  | .f16 => fmtF16
  | .bf16 => fmtBF16
  | .b8 p u f => fmtB8 p.toNat u f
  | _ => fmtF32

/-- Is the type a floating one? -/
def tyIsFloat : Ty → Bool
  | .f32 | .f16 | .bf16 => true
  | .b8 .. => true
  | _ => false

/-- Exponent of the unit of the subnormals (R104). -/
def Fmt.qmin (f : Fmt) : Int := f.emin - (f.p - 1 : Nat)

/-- The exact value of a magnitude code (R90). -/
def Fmt.mag (f : Fmt) (neg : Bool) (c : Nat) : FVal :=
  let u := 2 ^ (f.p - 1)
  if c < u then .fin neg c f.qmin
  else .fin neg (u + c % u) (f.qmin + (c / u : Nat) - 1)

/-- The value of a code: DecodeB8 (R102), or the IEEE value (R85). -/
def Fmt.decode (f : Fmt) (code : Nat) : FVal :=
  let c := code % 2 ^ f.w
  if f.ieee then
    let neg := decide (c ≥ 2 ^ (f.w - 1))
    let m := c % 2 ^ (f.w - 1)
    if m ≤ f.maxCode then f.mag neg m
    else if m = f.maxCode + 1 then .inf neg
    else .nan (m / 2 ^ (f.p - 2) % 2 == 0)
  else if c = f.nan then .nan false
  else if f.uns then (if c ≤ f.maxCode then f.mag false c else .inf false)
  else
    let neg := decide (c ≥ 128)
    let m := c % 128
    if m ≤ f.maxCode then f.mag neg m else .inf neg

/-- The sign bit on a magnitude code; binary8 has no negative zero (R91). -/
def Fmt.sign (f : Fmt) (neg : Bool) (m : Nat) : Nat :=
  if neg && !f.uns && (f.ieee || m != 0) then 2 ^ (f.w - 1) + m else m

/-- A code and the flags that forming it raised. -/
structure FRes where
  code : Nat
  flags : BitVec 5
  deriving DecidableEq, Repr

/-- floor(log2 n) for n > 0. -/
def log2 (n : Nat) : Nat := n.log2

/-- |v| / 2^q split into floor and comparison of the fraction with a half: −1 zero fraction, 0 below, 1 tie, 2 above. -/
def splitAt (n : Nat) (d : Int) : Nat × Int :=
  if d ≥ 0 then (n * 2 ^ d.toNat, -1)
  else
    let k := 2 ^ (-d).toNat
    let r := n % k
    (n / k, if r = 0 then -1 else if 2 * r < k then 0 else if 2 * r = k then 1 else 2)

/-- Round a magnitude at exponent q: the rounded count of units and whether it is inexact (R94, R95). `odd` says whether
the lower neighbour loses a tie; `rnd` is the 16-bit draw of SR. -/
def roundUnits (mode : Rnd) (neg : Bool) (n : Nat) (d : Int) (odd : Nat → Bool) (rnd : Nat) : Nat × Bool :=
  let (fl, fr) := splitAt n d
  let up := match mode with
    | .rne => fr = 2 || (fr = 1 && odd fl)
    | .rtz => false
    | .rup => !neg && fr != -1
    | .rdn => neg && fr != -1
    | .sr => false
  let m := match mode with
    | .sr =>
      let f := if d ≥ 0 then n * 2 ^ (d.toNat + 16) else n * 2 ^ 16 / 2 ^ (-d).toNat
      (f + rnd) / 2 ^ 16
    | _ => if up then fl + 1 else fl
  (m, fr != -1)

/-- The result for an infinite magnitude (R98 orders 4 to 6, R104). -/
def Fmt.setInf (f : Fmt) (sat neg : Bool) (fl : BitVec 5) : FRes :=
  if sat then ⟨f.sign neg f.maxCode, fl⟩
  else if f.hasInf then ⟨f.sign neg (f.maxCode + 1), fl⟩
  else ⟨f.nan, fl ||| flIV⟩

/-- Does the lower neighbour n × 2^q lose a tie (R104)? -/
def Fmt.odd (f : Fmt) (q : Int) (n : Nat) : Bool :=
  if f.p ≥ 2 then n % 2 == 1 else n != 0 && (q - f.qmin + 1) % 2 == 1

/-- RoundNarrow (R104). `rnd` is NextRand, drawn by the caller for SR. -/
def roundNarrow (v : FVal) (f : Fmt) (mode : Rnd) (sat : Bool) (rnd : Nat) : FRes :=
  match v with
  | .nan sig => ⟨f.nan, flIf sig flIV⟩
  | .inf neg =>
      if f.uns && neg then (if sat then ⟨0, flNX⟩ else ⟨f.nan, flIV⟩)
      else if sat then ⟨f.sign neg f.maxCode, flNX⟩
      else if f.hasInf then ⟨f.sign neg (f.maxCode + 1), 0⟩
      else ⟨f.nan, flIV⟩
  | .fin neg n q =>
      if n = 0 then ⟨f.sign neg 0, 0⟩
      else
        let e : Int := (log2 n : Int) + q
        let qq : Int := max e f.emin - (f.p - 1 : Nat)
        let (k, inexact) := roundUnits mode neg n (q - qq) (f.odd qq) rnd
        if f.uns && neg && k != 0 then (if sat then ⟨0, flNX⟩ else ⟨f.nan, flIV⟩)
        else
          let fl := flIf inexact flNX ||| flIf (inexact && decide (e < f.emin)) flUF
          let code : Nat := (qq - f.qmin).toNat * 2 ^ (f.p - 1) + k
          if k != 0 && decide (code > f.maxCode) then
            let fl := fl ||| flOF ||| flNX
            let toZero := match mode with
              | .rtz => true
              | .rdn => !neg
              | .rup => neg
              | _ => false
            if toZero then ⟨f.sign neg f.maxCode, fl⟩ else f.setInf sat neg fl
          else if k = 0 then ⟨f.sign neg 0, fl⟩
          else ⟨f.sign neg code, fl⟩

/-- RoundF32 (R104). -/
def roundF32 (v : FVal) (mode : Rnd) : FRes := roundNarrow v fmtF32 mode false 0

/-- An exact value and the flags that forming it raised. -/
structure FExact where
  v : FVal
  flags : BitVec 5
  deriving DecidableEq, Repr

/-- Is the value a signalling NaN? -/
def FVal.isSig : FVal → Bool
  | .nan s => s
  | _ => false

/-- Is the value a NaN? -/
def FVal.isNan : FVal → Bool
  | .nan _ => true
  | _ => false

/-- Is the value an infinity? -/
def FVal.isInf : FVal → Bool
  | .inf _ => true
  | _ => false

/-- Is the value a zero? -/
def FVal.isZero : FVal → Bool
  | .fin _ n _ => n == 0
  | _ => false

/-- The value with its sign turned. -/
def FVal.negate : FVal → FVal
  | .nan s => .nan s
  | .inf s => .inf !s
  | .fin s n q => .fin (!s) n q

/-- The signed integer of units of 2^q, for q at or below the value's own exponent. -/
def unitsAt (neg : Bool) (n : Nat) (d : Nat) : Int := if neg then -(n * 2 ^ d : Nat) else (n * 2 ^ d : Nat)

/-- Exact sum of two finite values; a zero sum takes the sign of IEEE 754 for the mode (R86). -/
def addFin (mode : Rnd) (s1 : Bool) (n1 : Nat) (q1 : Int) (s2 : Bool) (n2 : Nat) (q2 : Int) : FVal :=
  let q := min q1 q2
  let t := unitsAt s1 n1 (q1 - q).toNat + unitsAt s2 n2 (q2 - q).toNat
  if t = 0 then
    if n1 = 0 ∧ n2 = 0 ∧ s1 = s2 then .fin s1 0 0
    else .fin (mode == .rdn) 0 0
  else .fin (decide (t < 0)) t.natAbs q

/-- Exact sum with the special cases of R87 and R98. -/
def addExact (mode : Rnd) (a b : FVal) : FExact :=
  match a, b with
  | .nan s, .nan t => ⟨.nan false, flIf (s || t) flIV⟩
  | .nan s, _ => ⟨.nan false, flIf s flIV⟩
  | _, .nan t => ⟨.nan false, flIf t flIV⟩
  | .inf s, .inf t => if s = t then ⟨.inf s, 0⟩ else ⟨.nan false, flIV⟩
  | .inf s, _ => ⟨.inf s, 0⟩
  | _, .inf t => ⟨.inf t, 0⟩
  | .fin s1 n1 q1, .fin s2 n2 q2 => ⟨addFin mode s1 n1 q1 s2 n2 q2, 0⟩

/-- Exact product with the special cases of R87 and R98. -/
def mulExact (a b : FVal) : FExact :=
  match a, b with
  | .nan s, .nan t => ⟨.nan false, flIf (s || t) flIV⟩
  | .nan s, _ => ⟨.nan false, flIf s flIV⟩
  | _, .nan t => ⟨.nan false, flIf t flIV⟩
  | .inf s, .inf t => ⟨.inf (s != t), 0⟩
  | .inf s, .fin t n _ => if n = 0 then ⟨.nan false, flIV⟩ else ⟨.inf (s != t), 0⟩
  | .fin t n _, .inf s => if n = 0 then ⟨.nan false, flIV⟩ else ⟨.inf (s != t), 0⟩
  | .fin s1 n1 q1, .fin s2 n2 q2 => ⟨.fin (s1 != s2) (n1 * n2) (q1 + q2), 0⟩

/-- Exact a × b + c: an invalid product sets IV even when c is a NaN (R119). -/
def fmaExact (mode : Rnd) (a b c : FVal) : FExact :=
  let p := mulExact a b
  let r := addExact mode p.v c
  ⟨r.v, p.flags ||| r.flags⟩

/-- Round an exact result; flags are joined. -/
def FExact.round (x : FExact) (f : Fmt) (mode : Rnd) (sat : Bool) (rnd : Nat) : FRes :=
  let r := roundNarrow x.v f mode sat rnd
  ⟨r.code, x.flags ||| r.flags⟩

/-- Compare two values that are not NaN: −0 equals +0 (R69). -/
def cmpVal (a b : FVal) : Ordering :=
  match a, b with
  | .inf s, .inf t => if s = t then .eq else if s then .lt else .gt
  | .inf s, _ => if s then .lt else .gt
  | _, .inf t => if t then .gt else .lt
  | .fin s1 n1 q1, .fin s2 n2 q2 =>
      let q := min q1 q2
      compare (unitsAt s1 n1 (q1 - q).toNat) (unitsAt s2 n2 (q2 - q).toNat)
  | _, _ => .eq

/-- A float relation of R69. -/
def cmpFloat (c : Cmp) (a b : FVal) : Bool :=
  let nan := a.isNan || b.isNan
  let o := cmpVal a b
  match c with
  | .eq => !nan && o == .eq
  | .ne => nan || o != .eq
  | .lt => !nan && o == .lt
  | .le => !nan && o != .gt
  | .gt => !nan && o == .gt
  | .ge => !nan && o != .lt
  | .ord => !nan
  | .uno => nan

/-- IV of a float compare (R121). -/
def cmpFlags (c : Cmp) (a b : FVal) : BitVec 5 :=
  match c with
  | .lt | .le | .gt | .ge => flIf (a.isNan || b.isNan) flIV
  | _ => flIf (a.isSig || b.isSig) flIV

/-- Sign of a value. -/
def FVal.neg : FVal → Bool
  | .nan _ => false
  | .inf s => s
  | .fin s _ _ => s

/-- Is a below b, counting −0 below +0 (R120)? -/
def below (a b : FVal) : Bool :=
  match cmpVal a b with
  | .lt => true
  | .gt => false
  | .eq => a.neg && !b.neg

/-- FMIN and FMAX on codes (R120). -/
def minMax (f : Fmt) (isMax : Bool) (a b : Nat) : FRes :=
  let x := f.decode a
  let y := f.decode b
  let fl := flIf (x.isSig || y.isSig) flIV
  match x.isNan, y.isNan with
  | true, true => ⟨f.nan, fl⟩
  | true, false => ⟨b, fl⟩
  | false, true => ⟨a, fl⟩
  | false, false => ⟨if below x y != isMax then a else b, fl⟩

/-- A conversion into an integer type (R99): the value and its flags. -/
def toInt (t : Ty) (mode : Rnd) (v : FVal) : Int × BitVec 5 :=
  match v with
  | .nan _ => (0, flIV)
  | .inf s => (if s then tyMin t else tyMax t, flIV)
  | .fin s n q =>
      let (k, inexact) := roundUnits mode s n q (fun m => m % 2 == 1) 0
      let x : Int := if s then -(k : Int) else k
      if outOfRange t x then (clampInt t x, flIV) else (x, flIf inexact flNX)

/-- An integer as an exact value. -/
def ofInt (x : Int) : FVal := .fin (decide (x < 0)) x.natAbs 0

/-- Scale(e) applied to a value (R93, R103): NaN for 0xFF. -/
def scaleBy (v : FVal) (e : Nat) (down : Bool) : FVal :=
  let k : Int := (e : Int) - 127
  match v with
  | .fin s n q => .fin s n (if down then q - k else q + k)
  | x => x

/-- One step of the xorshift32 generator (R96). -/
def genStep (st : Word) : Word :=
  let a := st ^^^ (st <<< 13)
  let b := a ^^^ (a >>> 17)
  b ^^^ (b <<< 5)

/-- NextRand (R104): bits [31:16] of a state after its step. -/
def randOf (st : Word) : Nat := (st >>> 16).toNat

/-- The generator state a lane starts from (R97). -/
def seedState (seed : Word) (team grp lane : Nat) : Word :=
  let h : Word := BitVec.ofNat 32 (team * 4096 + grp * 64 + lane + 1)
  let st := seed ^^^ (h * 0x9E3779B9)
  if st = 0 then 0x6A09E667 else st

/-- Element `i` of a register of a narrow or 32-bit float type, as a code. -/
def elemOf (t : Ty) (w : Word) (i : Nat) : Nat :=
  match t with
  | .f16 | .bf16 => (halfOf w i).toNat
  | .b8 .. | .i8 => (byteOf w i).toNat
  | _ => w.toNat

/-- Replace element `i` of a register. -/
def putElem (t : Ty) (w : Word) (i : Nat) (c : Nat) : Word :=
  match t with
  | .f16 | .bf16 => putHalf w i c
  | .b8 .. | .i8 => putByte w i c
  | _ => BitVec.ofNat 32 c

/-- The scale that BSCALE chooses for values (R125): e, and IV for a NaN among them. -/
def blockScale (f : Fmt) (vs : List FVal) : Nat × BitVec 5 :=
  if vs.any FVal.isNan then (0xFF, flIV)
  else
    let fits (v : FVal) (e : Nat) : Bool :=
      match v with
      | .fin _ n q => cmpVal (.fin false n q) (scaleBy (f.mag false f.maxCode) e false) != .gt
      | _ => true
    let amax0 := vs.all fun v => v.isZero || v.isInf
    if amax0 then (127, 0)
    else (((List.range 255).find? fun e => vs.all fun v => fits v e).getD 254, 0)

/-- The exact sum of one block's products (R105), whatever their order: the rows of R98 are asked of all products at once.
A NaN product makes NaN with the products' own IV; else infinities of both signs make NaN with IV (log 57). -/
def blockSum (xs : List (FVal × FVal)) : FExact :=
  let ps := xs.map fun x => mulExact x.1 x.2
  let fl := (ps.map FExact.flags).foldl (· ||| ·) 0
  let pos := ps.any fun p => p.v == .inf false
  let neg := ps.any fun p => p.v == .inf true
  if ps.any fun p => p.v.isNan then ⟨.nan false, fl⟩
  else if pos && neg then ⟨.nan false, fl ||| flIV⟩
  else if pos || neg then ⟨.inf neg, fl⟩
  else ⟨ps.foldl (fun t p => (addExact .rne t p.v).v) (.fin false 0 0), fl⟩

/-- One block of BlockDot on an F32 accumulator code (R105): new accumulator and flags. -/
def blockStep (acc : Nat) (sa sw : Nat) (xs : List (FVal × FVal)) : FRes :=
  let t : FExact :=
    if sa = 0xFF ∨ sw = 0xFF then ⟨.nan false, flIV⟩
    else
      let b := blockSum xs
      ⟨scaleBy (scaleBy b.v sa false) sw false, b.flags⟩
  if t.v.isZero then ⟨acc, t.flags⟩
  else
    let r := addExact .rne (fmtF32.decode acc) t.v
    let c := roundF32 r.v .rne
    ⟨c.code, t.flags ||| r.flags ||| c.flags⟩

/-- BlockDot (R105): blocks in ascending j, each with its own rounding. -/
def blockDot (acc : Nat) : List (Nat × Nat × List (FVal × FVal)) → FRes
  | [] => ⟨acc, 0⟩
  | (sa, sw, xs) :: bs =>
      let r := blockStep acc sa sw xs
      let q := blockDot r.code bs
      ⟨q.code, r.flags ||| q.flags⟩

/-- The integer rule of R106 over blocks: accumulator, out of range, clamped. -/
def intDot (sat : Bool) (acc : Word) : List (List (Int × Int)) → Word × Bool × Bool
  | [] => (acc, false, false)
  | xs :: bs =>
      let t := acc.toInt + (xs.map fun x => x.1 * x.2).sum
      let o := outOfRange .i32 t
      let r := intDot sat (store32 .i32 sat t) bs
      (r.1, r.2.1 || (o && !sat), r.2.2 || (o && sat))

end Sys2Proof.Machine
end

