-- ==== Sys2Proof/Machine/Create.lean ====
section
/-! DEFINITION. What a group, a team and a slice are when they come into being (spec/01 R13, R14, R17, R24, R25; spec/03
R97; spec/12 R314, R317), and the instruction bytes that a core holds (spec/14 R381). -/

namespace Sys2Proof.Machine

/-- A trap level at creation (R393). -/
def TrapSt.none : TrapSt := { active := false, set := 0, tcause := 0, tepc := 0, tval := 0, paid := .none }

/-- A lane at creation (R13, R24). -/
def Lane.create (st : LaneSt) (pc : Dword) (rz : Nat) (gen : Word) : Lane :=
  { Lane.none with st := st, pc := pc, rf := List.replicate rz 0, gen := gen
                   bv := List.replicate 64 0 }

/-- What fixes a group at creation. -/
structure GroupSpec where
  id : Nat
  grp : Nat
  role : Nat
  idx : Nat
  team : Nat
  teamNo : Nat
  coreNo : Nat
  core : Nat
  slot : Nat
  place : Nat
  fibres : Nat
  regs : Nat
  entry : Dword
  checksb : Bool
  seed : Word
  deriving DecidableEq, Repr

/-- A group at creation (R13, R24, R97). -/
def Group.create (x : GroupSpec) : Group :=
  { id := x.id, grp := x.grp, role := x.role, idx := x.idx, team := x.team, coreNo := x.coreNo, core := x.core
    slot := x.slot, place := x.place, resident := true
    lanes := (List.range 64).map fun l =>
      Lane.create (if l < x.fibres then .live else .free) x.entry x.regs (seedState x.seed x.teamNo x.grp l)
    g := List.replicate 24 0, gf := 0, fstat := 0, bg := List.replicate 24 0, bgf := 0, bfstat := 0
    checksb := x.checksb, seed := x.seed, js := [], jsd := 0, jspa := 0, exits := [], gq := [], gs := [], early := []
    ut := TrapSt.none, st := TrapSt.none, sysPend := none, userPend := false, deferred := [], skipMask := 0
    halted := false, stepping := false, yieldFor := [], pass := 0, urgent := none, chosen := none, parked := none
    free := [], unissued := 0, fetchTok := none, fetchVerdict := none, gpois := [] }

/-- The 32-byte window that a core holds for an ASID and an address (R48, R381). -/
def fetchWin (s : State) (core : Nat) (asid : BitVec 16) (pc : Dword) : Option FetchWin :=
  (getCore s core).fetch.find? fun w => w.asid == asid && w.va.toNat / 32 == pc.toNat / 32

/-- The ASID that a group's accesses use (R373). -/
def asidOf (s : State) (g : Group) : BitVec 16 :=
  match getTeam s g.team with
  | some t => t.desc.asid
  | none => 0

/-- The held bytes of a group's core from an address to the end of its window (R48, R381). -/
def fetchBytes (s : State) (g : Group) (pc : Dword) : Option (List Byte) :=
  (fetchWin s g.core (asidOf s g) pc).map fun w => w.bytes.drop (pc.toNat % 32)

/-- Is one of the first `n` held bytes from an address on poisoned (R381)? -/
def fetchPoisoned (s : State) (g : Group) (pc : Dword) (n : Nat) : Bool :=
  match fetchWin s g.core (asidOf s g) pc with
  | none => false
  | some w => w.pois.any fun k => decide (pc.toNat % 32 ≤ k ∧ k < pc.toNat % 32 + n)

/-- The instruction that the bytes held for an address hold (R58). -/
def fetchInstr (s : State) (g : Group) (pc : Dword) : Option Instr :=
  match fetchBytes s g pc with
  | none => none
  | some bs => match decodeBytes bs with
    | .ok i => some i
    | .error _ => none

/-- Bits [63:0] of the word at an address, the TVAL of ILLOP (R58). -/
def fetchTval (s : State) (g : Group) (pc : Dword) : Dword :=
  match fetchBytes s g pc with
  | none => 0
  | some bs => BitVec.ofNat 64 (bitsOfBytes (bs.take 8))

end Sys2Proof.Machine
end

