-- ==== Sys2Proof/Machine/LaneInt.lean ====
section
/-! DEFINITION. Lane integer instructions, class 0x0 (spec/04 R107, R113 to R116). -/

namespace Sys2Proof.Machine

/-- What an instruction does in one participant: fixed-latency results and FSTAT flags. -/
structure LaneRes where
  ws : List (Dst × Word)
  flags : BitVec 5 := 0
  deriving DecidableEq, Repr

/-- Write the results of every participant, `lat` cycles from readable, and OR the flags into FSTAT (R7, R60, R101). All
sources were read before. -/
def Group.land (g : Group) (cyc lat : Nat) (rs : List LaneRes) : Group :=
  (g.writesFixed cyc lat (rs.flatMap LaneRes.ws)).orFstat (rs.foldl (fun f r => f ||| r.flags) 0)

/-- An instruction that acts in each participant (R107): every participant reads its sources, then the results land. -/
def laneOp (s : State) (h : Hdr) (lat : Nat) (f : View → Nat → LaneRes) : State :=
  match viewOf s with
  | none => endIssue s
  | some v =>
    issueDone (modGroup s v.g.id fun g => g.land v.cyc lat ((lanesOf (v.parts h)).map (f v))) h.len.bytes

/-- A 32-bit result from source A in each participant. -/
def lane1 (s : State) (t : TI) (lat : Nat) (f : Word → Word) : State :=
  laneOp s t.h lat fun v l => { ws := v.g.put32 l t.d (f (v.src32 t.h l t.a)) }

/-- A 32-bit result from sources A and B in each participant. -/
def lane2 (s : State) (t : TI) (lat : Nat) (f : Word → Word → Word) : State :=
  laneOp s t.h lat fun v l => { ws := v.g.put32 l t.d (f (v.src32 t.h l t.a) (v.src32 t.h l t.b)) }

/-- A 32-bit result from sources A, B and C in each participant. -/
def lane3 (s : State) (t : TI) (lat : Nat) (f : Word → Word → Word → Word) : State :=
  laneOp s t.h lat fun v l =>
    { ws := v.g.put32 l t.d (f (v.src32 t.h l t.a) (v.src32 t.h l t.b) (v.src32 t.h l t.c)) }

/-- Latency of class 0x0 (R60). -/
def latInt : Nat := 4

/-- A + B, stored under R83. -/
def iaddVal (ty : Ty) (sat : Bool) (a b : Word) : Word := store32 ty sat (int32 ty a + int32 ty b)

/-- A − B, stored under R83. -/
def isubVal (ty : Ty) (sat : Bool) (a b : Word) : Word := store32 ty sat (int32 ty a - int32 ty b)

/-- A × B, stored under R83. -/
def imulVal (ty : Ty) (sat : Bool) (a b : Word) : Word := store32 ty sat (int32 ty a * int32 ty b)

/-- Bits [63:32] of the exact product, signed or unsigned by the type. -/
def imulhVal (ty : Ty) (a b : Word) : Word := BitVec.ofInt 32 (int32 ty a * int32 ty b / (2 ^ 32 : Nat))

/-- A × B + C with one store under R83. -/
def imadVal (ty : Ty) (sat : Bool) (a b c : Word) : Word := store32 ty sat (int32 ty a * int32 ty b + int32 ty c)

/-- The lesser of two registers under the type. -/
def iminVal (ty : Ty) (a b : Word) : Word := if int32 ty a ≤ int32 ty b then a else b

/-- The greater of two registers under the type. -/
def imaxVal (ty : Ty) (a b : Word) : Word := if int32 ty a ≤ int32 ty b then b else a

/-- BFX (R114). -/
def bfxVal (ty : Ty) (a b c : Word) : Word :=
  let pos := b.toNat % 256
  let len := c.toNat % 256
  if pos ≥ 32 ∨ len = 0 then 0
  else
    let len := min len (32 - pos)
    let x := a.toNat / 2 ^ pos % 2 ^ len
    if ty = .i32 ∧ x ≥ 2 ^ (len - 1) then BitVec.ofInt 32 ((x : Int) - (2 ^ len : Nat)) else BitVec.ofNat 32 x

/-- BFI (R114). -/
def bfiVal (a b c : Word) : Word :=
  let pos := c.toNat % 256
  let len := c.toNat / 256 % 256
  if pos ≥ 32 ∨ len = 0 then a
  else
    let len := min len (32 - pos)
    let field := a.toNat / 2 ^ pos % 2 ^ len
    BitVec.ofNat 32 (a.toNat - field * 2 ^ pos + b.toNat % 2 ^ len * 2 ^ pos)

/-- A byte as a signed or unsigned integer (R116). -/
def byteInt (uns : Bool) (w : Word) (i : Nat) : Int :=
  if uns then (byteOf w i).toNat else (byteOf w i).toInt

/-- SAD (R116). -/
def sadVal (sat ua ub : Bool) (a b c : Word) : Word :=
  store32 .z32 sat (c.toNat + ((List.range 4).map fun i => ((byteInt ua a i - byteInt ub b i).natAbs : Int)).sum)

/-- DP4 (R116). -/
def dp4Val (sat ua ub : Bool) (a b c : Word) : Word :=
  store32 .i32 sat (c.toInt + ((List.range 4).map fun i => byteInt ua a i * byteInt ub b i).sum)

/-- IADD: A + B (R113). -/
def execIadd (t : TI) (s : State) : Host.Outcome State Fault Refusal := .next (lane2 s t latInt (iaddVal t.ty t.sat))

/-- ISUB: A − B (R113). -/
def execIsub (t : TI) (s : State) : Host.Outcome State Fault Refusal := .next (lane2 s t latInt (isubVal t.ty t.sat))

/-- IMUL: A × B (R113). -/
def execImul (t : TI) (s : State) : Host.Outcome State Fault Refusal := .next (lane2 s t latInt (imulVal t.ty t.sat))

/-- IMULH: the high half of A × B (R113). -/
def execImulh (t : TI) (s : State) : Host.Outcome State Fault Refusal := .next (lane2 s t latInt (imulhVal t.ty))

/-- IMAD: A × B + C (R113). -/
def execImad (t : TI) (s : State) : Host.Outcome State Fault Refusal := .next (lane3 s t latInt (imadVal t.ty t.sat))

/-- IMIN: the lesser (R113). -/
def execImin (t : TI) (s : State) : Host.Outcome State Fault Refusal := .next (lane2 s t latInt (iminVal t.ty))

/-- IMAX: the greater (R113). -/
def execImax (t : TI) (s : State) : Host.Outcome State Fault Refusal := .next (lane2 s t latInt (imaxVal t.ty))

/-- IABS: abs(A) (R113). -/
def execIabs (t : TI) (s : State) : Host.Outcome State Fault Refusal :=
  .next (lane1 s t latInt fun a => store32 .i32 t.sat a.toInt.natAbs)

/-- INEG: −A (R113). -/
def execIneg (t : TI) (s : State) : Host.Outcome State Fault Refusal :=
  .next (lane1 s t latInt fun a => store32 .i32 t.sat (-a.toInt))

/-- AND (R113). -/
def execAnd (t : TI) (s : State) : Host.Outcome State Fault Refusal := .next (lane2 s t latInt fun a b => a &&& b)

/-- OR (R113). -/
def execOr (t : TI) (s : State) : Host.Outcome State Fault Refusal := .next (lane2 s t latInt fun a b => a ||| b)

/-- XOR (R113). -/
def execXor (t : TI) (s : State) : Host.Outcome State Fault Refusal := .next (lane2 s t latInt fun a b => a ^^^ b)

/-- ANDN: A and not B (R113). -/
def execAndn (t : TI) (s : State) : Host.Outcome State Fault Refusal := .next (lane2 s t latInt fun a b => a &&& ~~~b)

/-- SHL (R113). -/
def execShl (t : TI) (s : State) : Host.Outcome State Fault Refusal :=
  .next (lane2 s t latInt fun a b => shlBy a b.toNat)

/-- SHR (R113). -/
def execShr (t : TI) (s : State) : Host.Outcome State Fault Refusal :=
  .next (lane2 s t latInt fun a b => shrBy a b.toNat)

/-- SAR (R113). -/
def execSar (t : TI) (s : State) : Host.Outcome State Fault Refusal :=
  .next (lane2 s t latInt fun a b => sarBy a b.toNat)

/-- ROT (R113). -/
def execRot (t : TI) (s : State) : Host.Outcome State Fault Refusal :=
  .next (lane2 s t latInt fun a b => rotBy a b.toNat)

/-- BFX (R114). -/
def execBfx (t : TI) (s : State) : Host.Outcome State Fault Refusal := .next (lane3 s t latInt (bfxVal t.ty))

/-- BFI (R114). -/
def execBfi (t : TI) (s : State) : Host.Outcome State Fault Refusal := .next (lane3 s t latInt bfiVal)

/-- POPC (R113). -/
def execPopc (t : TI) (s : State) : Host.Outcome State Fault Refusal :=
  .next (lane1 s t latInt fun a => BitVec.ofNat 32 (popCount a))

/-- CLZ (R113). -/
def execClz (t : TI) (s : State) : Host.Outcome State Fault Refusal :=
  .next (lane1 s t latInt fun a => BitVec.ofNat 32 (countLeading a))

/-- CTZ (R113). -/
def execCtz (t : TI) (s : State) : Host.Outcome State Fault Refusal :=
  .next (lane1 s t latInt fun a => BitVec.ofNat 32 (countTrailing a))

/-- BREV (R113). -/
def execBrev (t : TI) (s : State) : Host.Outcome State Fault Refusal := .next (lane1 s t latInt bitReverse)

/-- ICMP: 1 when the relation holds, else 0 (R115). -/
def execIcmp (t : TI) (s : State) : Host.Outcome State Fault Refusal :=
  .next (lane2 s t latInt fun a b => bit32 (cmpInt t.cmp (int32 t.ty a) (int32 t.ty b)))

/-- SEL: A if predicate C holds, else B (R115). -/
def execSel (t : TI) (s : State) : Host.Outcome State Fault Refusal :=
  .next (laneOp s t.h latInt fun v l =>
    { ws := v.g.put32 l t.d (if v.pred l t.c then v.src32 t.h l t.a else v.src32 t.h l t.b) })

/-- MOV: A (R113). -/
def execMov (t : TI) (s : State) : Host.Outcome State Fault Refusal := .next (lane1 s t latInt fun a => a)

/-- SAD: the sum of absolute byte differences plus C (R116). -/
def execSad (t : TI) (s : State) : Host.Outcome State Fault Refusal :=
  .next (lane3 s t latInt (sadVal t.sat (t.var.getLsbD 1) (t.var.getLsbD 0)))

/-- DP4: the four-way byte dot product plus C (R116). -/
def execDp4 (t : TI) (s : State) : Host.Outcome State Fault Refusal :=
  .next (lane3 s t latInt (dp4Val t.sat (t.var.getLsbD 1) (t.var.getLsbD 0)))

end Sys2Proof.Machine
end

