-- ==== Sys2Proof/Machine/FloatOps.lean ====
section
/-! DEFINITION. Float instructions, class 0x2 (spec/04 R119 to R122). -/

namespace Sys2Proof.Machine

/-- Latency of class 0x2 (R60). -/
def latFloat : Nat := 5

/-- An F32 result from the values of A and B in each participant (R119). -/
def float2 (s : State) (t : TI) (f : FVal → FVal → FExact) : State :=
  laneOp s t.h latFloat fun v l =>
    let r := (f (fmtF32.decode (v.src32 t.h l t.a).toNat) (fmtF32.decode (v.src32 t.h l t.b).toNat)).round
      fmtF32 t.rnd t.sat 0
    { ws := v.g.put32 l t.d (BitVec.ofNat 32 r.code), flags := r.flags }

/-- Packed halves: element 0, then element 1; the flags are joined (R119). -/
def half2 (s : State) (t : TI) (f : FVal → FVal → FVal → FExact) : State :=
  laneOp s t.h latFloat fun v l =>
    let F := tyFmt t.ty
    let a := v.src32 t.h l t.a
    let b := v.src32 t.h l t.b
    let c := v.src32 t.h l t.c
    let e (i : Nat) : FRes :=
      (f (F.decode (halfOf a i).toNat) (F.decode (halfOf b i).toNat) (F.decode (halfOf c i).toNat)).round
        F t.rnd t.sat 0
    { ws := v.g.put32 l t.d (BitVec.ofNat 32 ((e 1).code * 2 ^ 16 + (e 0).code)), flags := (e 0).flags ||| (e 1).flags }

/-- FRND's result (R119). -/
def frndVal (mode : Rnd) (a : Word) : FRes :=
  match fmtF32.decode a.toNat with
  | .nan sig => ⟨fmtF32.nan, flIf sig flIV⟩
  | .inf _ => ⟨a.toNat, 0⟩
  | .fin s n q =>
      let k := (roundUnits mode s n q (fun m => m % 2 == 1) 0).1
      ⟨(roundF32 (.fin s k 0) .rne).code, 0⟩

/-- FSCALE's exact result: beyond ±1,000 every exponent rounds alike (R119). -/
def fscaleVal (a : FVal) (b : Int) : FExact :=
  match a with
  | .nan sig => ⟨.nan false, flIf sig flIV⟩
  | .inf s => ⟨.inf s, 0⟩
  | .fin s n q => ⟨.fin s n (q + max (-1000) (min 1000 b)), 0⟩

/-- FCLASS's one-hot code (R122). -/
def fclassVal (f : Fmt) (code : Nat) : Nat :=
  match f.decode code with
  | .nan sig => if sig then 2 ^ 8 else 2 ^ 9
  | .inf s => if s then 2 ^ 0 else 2 ^ 7
  | .fin s n q =>
      if n = 0 then (if s then 2 ^ 3 else 2 ^ 4)
      else if (n.log2 : Int) + q < f.emin then (if s then 2 ^ 2 else 2 ^ 5)
      else if s then 2 ^ 1 else 2 ^ 6

/-- The code of the element that FCMP and FCLASS look at: VAR[62] chooses it in F16 and BF16 (R121, R122). -/
def elemSel (t : TI) (w : Word) : Nat := elemOf t.ty w t.var.toNat

/-- FADD (R119). -/
def execFadd (t : TI) (s : State) : Host.Outcome State Fault Refusal := .next (float2 s t (addExact t.rnd))

/-- FSUB (R119). -/
def execFsub (t : TI) (s : State) : Host.Outcome State Fault Refusal :=
  .next (float2 s t fun a b => addExact t.rnd a b.negate)

/-- FMUL (R119). -/
def execFmul (t : TI) (s : State) : Host.Outcome State Fault Refusal := .next (float2 s t mulExact)

/-- FFMA with one rounding (R119). -/
def execFfma (t : TI) (s : State) : Host.Outcome State Fault Refusal :=
  .next (laneOp s t.h latFloat fun v l =>
    let r := (fmaExact t.rnd (fmtF32.decode (v.src32 t.h l t.a).toNat) (fmtF32.decode (v.src32 t.h l t.b).toNat)
      (fmtF32.decode (v.src32 t.h l t.c).toNat)).round fmtF32 t.rnd t.sat 0
    { ws := v.g.put32 l t.d (BitVec.ofNat 32 r.code), flags := r.flags })

/-- FMIN (R120). -/
def execFmin (t : TI) (s : State) : Host.Outcome State Fault Refusal :=
  .next (laneOp s t.h latFloat fun v l =>
    let r := minMax fmtF32 false (v.src32 t.h l t.a).toNat (v.src32 t.h l t.b).toNat
    { ws := v.g.put32 l t.d (BitVec.ofNat 32 r.code), flags := r.flags })

/-- FMAX (R120). -/
def execFmax (t : TI) (s : State) : Host.Outcome State Fault Refusal :=
  .next (laneOp s t.h latFloat fun v l =>
    let r := minMax fmtF32 true (v.src32 t.h l t.a).toNat (v.src32 t.h l t.b).toNat
    { ws := v.g.put32 l t.d (BitVec.ofNat 32 r.code), flags := r.flags })

/-- FCMP (R121). -/
def execFcmp (t : TI) (s : State) : Host.Outcome State Fault Refusal :=
  .next (laneOp s t.h latFloat fun v l =>
    let a := (tyFmt t.ty).decode (elemSel t (v.src32 t.h l t.a))
    let b := (tyFmt t.ty).decode (elemSel t (v.src32 t.h l t.b))
    { ws := v.g.put32 l t.d (bit32 (cmpFloat t.cmp a b)), flags := cmpFlags t.cmp a b })

/-- FRND: the integral value in the direction of RND (R119). -/
def execFrnd (t : TI) (s : State) : Host.Outcome State Fault Refusal :=
  .next (laneOp s t.h latFloat fun v l =>
    let r := frndVal t.rnd (v.src32 t.h l t.a)
    { ws := v.g.put32 l t.d (BitVec.ofNat 32 r.code), flags := r.flags })

/-- HADD2 (R119). -/
def execHadd2 (t : TI) (s : State) : Host.Outcome State Fault Refusal :=
  .next (half2 s t fun a b _ => addExact t.rnd a b)

/-- HMUL2 (R119). -/
def execHmul2 (t : TI) (s : State) : Host.Outcome State Fault Refusal := .next (half2 s t fun a b _ => mulExact a b)

/-- HFMA2 (R119). -/
def execHfma2 (t : TI) (s : State) : Host.Outcome State Fault Refusal := .next (half2 s t (fmaExact t.rnd))

/-- FSCALE: a × 2^b with B read as I32 (R119). -/
def execFscale (t : TI) (s : State) : Host.Outcome State Fault Refusal :=
  .next (laneOp s t.h latFloat fun v l =>
    let r := (fscaleVal (fmtF32.decode (v.src32 t.h l t.a).toNat) (v.src32 t.h l t.b).toInt).round fmtF32 t.rnd t.sat 0
    { ws := v.g.put32 l t.d (BitVec.ofNat 32 r.code), flags := r.flags })

/-- FCLASS (R122). -/
def execFclass (t : TI) (s : State) : Host.Outcome State Fault Refusal :=
  .next (laneOp s t.h latFloat fun v l =>
    { ws := v.g.put32 l t.d (BitVec.ofNat 32 (fclassVal (tyFmt t.ty) (elemSel t (v.src32 t.h l t.a)))) })

end Sys2Proof.Machine
end

