-- ==== Sys2Proof/Machine/Long.lean ====
section
/-! DEFINITION. 64-bit and address instructions, class 0x1 (spec/04 R117, R118). -/

namespace Sys2Proof.Machine

/-- Latency of class 0x1 (R60). -/
def latLong : Nat := 6

/-- Does a 32-bit immediate extend with its sign? It does for I64 (R55). -/
def longSx (t : TI) : Bool := t.ty == .i64

/-- A pair source of the instruction's type. -/
def View.long (v : View) (t : TI) (l : Nat) (o : Opd) : Dword := v.src64 t.h l (longSx t) o

/-- A pair result from two pair sources in each participant. -/
def long2 (s : State) (t : TI) (f : Dword → Dword → Dword) : State :=
  laneOp s t.h latLong fun v l => { ws := v.g.put64 l t.d (f (v.long t l t.a) (v.long t l t.b)) }

/-- A pair result from a pair and a 32-bit source in each participant. -/
def longShift (s : State) (t : TI) (f : Dword → Word → Dword) : State :=
  laneOp s t.h latLong fun v l => { ws := v.g.put64 l t.d (f (v.long t l t.a) (v.src32 t.h l t.b)) }

/-- A 32-bit register extended as the 64-bit type says. -/
def extInt (ty : Ty) (w : Word) : Int := if ty.signed then w.toInt else w.toNat

/-- Bank of a scratch byte (R178). -/
def bankOf (x : Nat) : Nat := x / 8 % 67

/-- Row of a scratch byte (R178). -/
def rowOf (x : Nat) : Nat := x / 8 / 67

/-- SPMAP's result (R118). -/
def spmapVal (a : Word) : Word :=
  let x := a.toNat
  if x > 0x85FFFF then 0xFFFFFFFF
  else BitVec.ofNat 32 (rowOf x * 2 ^ 16 + x % 8 * 2 ^ 8 + bankOf x)

/-- IADD64: A + B (R117). -/
def execIadd64 (t : TI) (s : State) : Host.Outcome State Fault Refusal :=
  .next (long2 s t fun a b => store64 t.ty t.sat (int64 t.ty a + int64 t.ty b))

/-- ISUB64: A − B (R117). -/
def execIsub64 (t : TI) (s : State) : Host.Outcome State Fault Refusal :=
  .next (long2 s t fun a b => store64 t.ty t.sat (int64 t.ty a - int64 t.ty b))

/-- IMAD64: A × B + C, with 32-bit A and B (R117). -/
def execImad64 (t : TI) (s : State) : Host.Outcome State Fault Refusal :=
  .next (laneOp s t.h latLong fun v l =>
    { ws := v.g.put64 l t.d (store64 t.ty t.sat
        (extInt t.ty (v.src32 t.h l t.a) * extInt t.ty (v.src32 t.h l t.b) + int64 t.ty (v.long t l t.c))) })

/-- SHL64 (R117). -/
def execShl64 (t : TI) (s : State) : Host.Outcome State Fault Refusal :=
  .next (longShift s t fun a b => shlBy a b.toNat)

/-- SHR64: fill by the type (R117). -/
def execShr64 (t : TI) (s : State) : Host.Outcome State Fault Refusal :=
  .next (longShift s t fun a b => if t.ty.signed then sarBy a b.toNat else shrBy a b.toNat)

/-- LEA: A + ext(B) × scale (R117). -/
def execLea (t : TI) (s : State) : Host.Outcome State Fault Refusal :=
  .next (longShift s t fun a b => a + BitVec.ofInt 64 (extInt t.ty b * (2 ^ t.var.toNat : Nat)))

/-- MOV64: A (R117). -/
def execMov64 (t : TI) (s : State) : Host.Outcome State Fault Refusal :=
  .next (laneOp s t.h latLong fun v l => { ws := v.g.put64 l t.d (v.long t l t.a) })

/-- ICMP64: 1 when the relation holds, else 0 (R117). -/
def execIcmp64 (t : TI) (s : State) : Host.Outcome State Fault Refusal :=
  .next (laneOp s t.h latLong fun v l =>
    { ws := v.g.put32 l t.d (bit32 (cmpInt t.cmp (int64 t.ty (v.long t l t.a)) (int64 t.ty (v.long t l t.b)))) })

/-- SPMAP: bank, row and byte of a scratch offset (R118). -/
def execSpmap (t : TI) (s : State) : Host.Outcome State Fault Refusal := .next (lane1 s t latLong spmapVal)

end Sys2Proof.Machine
end

