-- ==== Sys2Proof/Machine/Convert.lean ====
section
/-! DEFINITION. Conversions, class 0x3 (spec/04 R123 to R126). -/

namespace Sys2Proof.Machine

/-- Latency of class 0x3 (R60). -/
def latConv : Nat := 6

/-- A generator state after `k` steps (R96). -/
def genSteps (st : Word) : Nat → Word
  | 0 => st
  | k + 1 => genSteps (genStep st) k

/-- `laneOp` for a conversion that steps the generator of every participant `k` times (R96). -/
def laneOpSr (s : State) (h : Hdr) (lat k : Nat) (f : View → Nat → LaneRes) : State :=
  match viewOf s with
  | none => endIssue s
  | some v =>
    issueDone (modGroup s v.g.id fun g =>
      (g.land v.cyc lat ((lanesOf (v.parts h)).map (f v))).modLanes (v.parts h)
        fun x => { x with gen := genSteps x.gen k }) h.len.bytes

/-- What CVT reads: an exact integer or a float (R123, R124). -/
inductive CvtVal where
  | int (x : Int)
  | flt (x : FVal)
  deriving DecidableEq, Repr

/-- The source of CVT in one lane. -/
def cvtRead (v : View) (t : TI) (src : Ty) (l : Nat) : CvtVal :=
  match src with
  | .i64 => .int (v.src64 t.h l true t.a).toInt
  | .z64 => .int (v.src64 t.h l false t.a).toNat
  | .i8 => .int (byteOf (v.src32 t.h l t.a) t.var.toNat).toInt
  | .i32 => .int (v.src32 t.h l t.a).toInt
  | .z32 => .int (v.src32 t.h l t.a).toNat
  | .f32 => .flt (fmtF32.decode (v.src32 t.h l t.a).toNat)
  | ty => .flt ((tyFmt ty).decode (elemOf ty (v.src32 t.h l t.a) t.var.toNat))

/-- An integer destination of CVT, stored under R83 or R99. -/
def cvtInt (t : TI) : CvtVal → Int × BitVec 5
  | .int x => (if t.sat then clampInt t.ty x else x, 0)
  | .flt x => toInt t.ty t.rnd x

/-- A float destination of CVT (R124). -/
def cvtFloat (t : TI) (rnd : Nat) : CvtVal → FRes
  | .int x => roundNarrow (ofInt x) (tyFmt t.ty) t.rnd t.sat rnd
  | .flt x => roundNarrow x (tyFmt t.ty) t.rnd t.sat rnd

/-- CVT in one participant; a narrow result replaces element k of D (R123). -/
def cvtLane (t : TI) (src : Ty) (v : View) (l : Nat) : LaneRes :=
  let x := cvtRead v t src l
  let old := v.src32 t.h l t.d
  match t.ty with
  | .i64 | .z64 =>
      let r := cvtInt t x
      { ws := v.g.put64 l t.d (BitVec.ofInt 64 r.1), flags := r.2 }
  | .i32 | .z32 =>
      let r := cvtInt t x
      { ws := v.g.put32 l t.d (BitVec.ofInt 32 r.1), flags := r.2 }
  | .i8 =>
      let r := cvtInt t x
      { ws := v.g.put32 l t.d (putByte old t.var.toNat (BitVec.ofInt 8 r.1).toNat), flags := r.2 }
  | ty =>
      let r := cvtFloat t (randOf (genStep (v.g.lane l).gen)) x
      { ws := v.g.put32 l t.d (putElem ty old t.var.toNat r.code), flags := r.flags }

/-- Steps that an instruction makes for `k` elements: none unless the mode is SR. -/
def srCount (t : TI) (k : Nat) : Nat := if t.rnd = .sr then k else 0

/-- PKB8 in one participant (R126). -/
def pkb8Lane (t : TI) (v : View) (l : Nat) : LaneRes :=
  let e := (v.src32 t.h l t.b).toNat % 256
  let f := tyFmt t.ty
  let one (i : Nat) (w : Word) : FRes :=
    if e = 0xFF then ⟨f.nan, flIV⟩
    else roundNarrow (scaleBy (fmtF32.decode w.toNat) e true) f t.rnd t.sat (randOf (genSteps (v.g.lane l).gen (i + 1)))
  let rs := (v.quad l t.a).mapIdx one
  { ws := v.g.put32 l t.d (BitVec.ofNat 32 (ofBytes (rs.map fun r => BitVec.ofNat 8 r.code)))
    flags := rs.foldl (fun g r => g ||| r.flags) 0 }

/-- UPKB8 in one participant (R126). -/
def upkb8Lane (t : TI) (v : View) (l : Nat) : LaneRes :=
  let e := (v.src32 t.h l t.b).toNat % 256
  let a := v.src32 t.h l t.a
  let one (i : Nat) : FRes :=
    if e = 0xFF then ⟨fmtF32.nan, flIV⟩
    else roundNarrow (scaleBy ((tyFmt t.ty).decode (byteOf a i).toNat) e false) fmtF32 t.rnd t.sat 0
  let rs := (List.range 4).map one
  { ws := v.g.putN l t.d (rs.map fun r => BitVec.ofNat 32 r.code)
    flags := rs.foldl (fun g r => g ||| r.flags) 0 }

/-- The values of BSCALE's block: the quads of the participants among a lane's aligned four (R125). -/
def bscaleBlock (t : TI) (v : View) (l : Nat) : List FVal :=
  let m := v.sharers t.h
  ((List.range 4).map fun i => l / 4 * 4 + i).flatMap fun k =>
    if m.has k then (v.quad k t.a).map fun w => fmtF32.decode w.toNat else []

/-- CVT (R123, R124). -/
def execCvt (t : TI) (src : Ty) (s : State) : Host.Outcome State Fault Refusal :=
  .next (laneOpSr s t.h latConv (srCount t 1) (cvtLane t src))

/-- PKB8 (R126). -/
def execPkb8 (t : TI) (s : State) : Host.Outcome State Fault Refusal :=
  .next (laneOpSr s t.h latConv (srCount t 4) (pkb8Lane t))

/-- UPKB8 (R126). -/
def execUpkb8 (t : TI) (s : State) : Host.Outcome State Fault Refusal :=
  .next (laneOp s t.h latConv (upkb8Lane t))

/-- BSCALE (R125). -/
def execBscale (t : TI) (s : State) : Host.Outcome State Fault Refusal :=
  .next (laneOp s t.h latConv fun v l =>
    let r := blockScale (tyFmt t.ty) (bscaleBlock t v l)
    { ws := v.g.put32 l t.d (BitVec.ofNat 32 r.1), flags := r.2 })

end Sys2Proof.Machine
end

