-- ==== Sys2Proof/Machine/Cells.lean ====
section
/-! DEFINITION. Errors of SRAM and HBM cells as reads of cached and stored bytes meet them (spec/13 R367 to R369; spec/15
R404 to R408, R412, R420, R452). -/

namespace Sys2Proof.Machine

/-! ## SRAM (R404, R420) -/

/-- Change a non-core island. -/
def modIsle (s : State) (island : Nat) (f : Isle → Isle) : State := { s with isles := modNth s.isles (island - 384) f }

/-- Steps at which an island stands below its guard band (R367, R369). -/
def islandSteps (s : State) (island : Nat) : Nat :=
  if island < 384 then (getCore s island).uvSteps else ((s.isles[island - 384]?).map Isle.steps).getD 0

/-- An island returns to its guard band and stays there until EN is written (R368). -/
def tripIsland (s : State) (island : Nat) : State :=
  if island < 384 then modCore s island fun c => { c with uvSteps := 0, uvEn := false, uvTrip := true }
  else modIsle s island fun x => { x with steps := 0, en := false, trip := true }

/-- A corrected error counts in its island's window (R367, R404). -/
def countIsland (s : State) (island : Nat) : State :=
  if island < 384 then modCore s island fun c => { c with uvErrs := c.uvErrs + 1 }
  else modIsle s island fun x => { x with errs := x.errs + 1 }

/-- An uncorrectable error of an array is reported; an island below its guard band returns to it (R368, R407, R420). -/
def sramReport (s : State) (island ctx array : Nat) : State :=
  let n := islandSteps s island
  if n = 0 then machineCheck s 0x01 ctx island 0 array
  else tripIsland (machineCheck s 0x03 ctx island 0 (array + 256 * n)) island

/-- A read meets a unit: a single-bit error is corrected and counted; `true` for an uncorrectable error, reported. -/
def meetUnit (s : State) (island array unit ctx : Nat) : State × Bool :=
  if s.sram.contains (island, array, unit) then
    (sramReport { s with sram := s.sram.filter (· != (island, array, unit)) } island ctx array, true)
  else if s.sram.contains (island, array + 16, unit) then
    (countIsland { s with sram := s.sram.filter (· != (island, array + 16, unit)) } island, false)
  else (s, false)

/-- Does the cached sector that begins at a unit, in one page frame, hold a byte? -/
def unitHolds (u k : Nat) : Bool := decide (u ≤ k ∧ k < u + 48 ∧ u / 65536 = k / 65536)

/-- Errors of an array that stand in the cached copy of a sector; the unit of a sector is the key of its first byte. -/
def cachedErrors (s : State) (array : Nat) (sec : List Nat) : List (Nat × Nat × Nat) :=
  s.sram.filter fun e => e.2.1 % 16 == array && sec.any (unitHolds e.2.2)

/-- Is no SRAM array in error? -/
def sramClean (s : State) : Bool :=
  s.sram.isEmpty && (s.teams.all fun t => t.cores.all fun c => c.errs.isEmpty) && s.groups.all fun g => g.errs.isEmpty

/-! ## HBM codewords (R406 to R408) -/

/-- Physical address of codeword `k` of a row (R191, R415). -/
def cwAddr (hra k : Nat) : Nat :=
  let pch := hra / 2 ^ 23 % 64
  let o := (hra % 65536 * 12 + hra / 2 ^ 19 % 16) * 65536 + k / 4 * 2 ^ 14 + pch % 2 * 2 ^ 13 + pch / 2 * 256 + k % 4 * 64
  hra / 2 ^ 29 * 2 ^ 36 + o

/-- Stack, pseudo-channel and bank of a row address, as one number. -/
def bankOfHra (hra : Nat) : Nat := hra / 2 ^ 19

/-- Row of a row address. -/
def rowOfHra (hra : Nat) : Nat := hra % 65536

/-- Put the entry of a row first: it is the one incremented last. A full stack replaces its least recently incremented
entry without REQ; with none such, nothing is kept (R408). -/
def keepRow (errs : List RowErr) (e : RowErr) : List RowErr :=
  let rest := errs.filter fun x => x.hra != e.hra
  let stack := rest.filter fun x => x.hra / 2 ^ 29 == e.hra / 2 ^ 29
  if stack.length < 4096 then e :: rest
  else match stack.reverse.find? fun x => !x.req with
    | some v => e :: rest.filter fun x => x.hra != v.hra
    | none => rest

/-- The error-table entry of a row; a row without one counts from 0. -/
def rowErr (s : State) (hra : Nat) : RowErr :=
  (s.hbm.errs.find? fun e => e.hra == hra).getD { hra := hra, cnt := 0, req := false }

/-- Count corrections in a row, and an uncorrectable codeword (R408). -/
def countRow (s : State) (hra : Nat) : Nat → State
  | 0 => s
  | n + 1 =>
    let e := rowErr s hra
    let c := min 15 (e.cnt + 1)
    countRow (modHbm s fun h =>
      { h with errs := keepRow h.errs { e with cnt := c, req := e.req || decide (c ≥ h.errth) } }) hra n

/-- An uncorrectable codeword sets REQ of its row (R408). -/
def requestRow (s : State) (hra : Nat) : State :=
  let e := rowErr s hra
  modHbm s fun h => { h with errs := keepRow h.errs { e with req := true } }

/-- Poison bytes by key. -/
def poisonKeys (s : State) (ks : List Nat) : State :=
  modHbm s fun h => { h with pois := (ks.filter fun k => !h.pois.contains k) ++ h.pois }

/-- Does a codeword read with a correctable error? -/
def correctable (s : State) (cw : Nat) : Bool := s.hbm.ce.contains cw || s.hbm.stuck.contains cw

/-- An uncorrectable codeword has been found: it is poisoned from now on (R406). -/
def poisonCodeword (s : State) (cw : Nat) : State :=
  poisonKeys (modHbm s fun h =>
    { h with ue := h.ue.filter (· != cw), rewritten := h.rewritten.filter fun k => k / 64 != cw }) (cwKeys cw)

/-- A codeword of which a part is poisoned and a part has been cleared: its next fill poisons it whole. Whether this read
comes after such a fill is free (R406, log 3). -/
def refillPoison (s : State) (cw : Nat) : State :=
  let ks := cwKeys cw
  if ks.any s.hbm.pois.contains && !ks.all s.hbm.pois.contains then
    if Config.freeBool s.fresh then bump s else bump (poisonKeys s ks)
  else s

/-- Is a row being copied into a spare? Errors corrected meanwhile are not counted (R411). -/
def rowCopies (s : State) (hra : Nat) : Bool :=
  s.hbm.remaps.any fun r => r.busy && r.bank == bankOfHra hra && r.row == rowOfHra hra

/-- A demand read meets a codeword: a correctable one is counted if the bytes come from HBM and not from a cached copy,
which is free (log 3) but for a read with NC = 1 (R190); an uncorrectable one is poisoned, reported, and asks for repair (R404,
R406 to R408, R452). What a failed pseudo-channel returns is poison and no codeword (R424). -/
def meetCodeword (s : State) (nc : Bool) (cw : Nat) : State :=
  let hra := hraOf (64 * cw)
  if failedKey s (64 * cw) then s
  else if s.hbm.ue.contains cw then
    requestRow (machineCheck (poisonCodeword s cw) 0x02 0x80 (islandOfStack (64 * cw / 2 ^ 36 % 8)) (64 * cw) hra) hra
  else if correctable s cw then
    if nc || Config.freeBool s.fresh then countRow (bump s) hra (if rowCopies s hra then 0 else 1) else bump s
  else refillPoison s cw

/-- The codewords of local bytes, each once. -/
def codewordsOf (ks : List Nat) : List Nat := ((ks.filter isLocalKey).map (· / 64)).eraseDups

/-- Is no codeword in error or poisoned? -/
def hbmClean (s : State) : Bool :=
  s.hbm.ce.isEmpty && s.hbm.ue.isEmpty && s.hbm.stuck.isEmpty && s.hbm.pois.isEmpty

/-- The keys of the sector that a unit names, as an access sees it: the sector read, when it begins there. -/
def unitKeys (sec : List Nat) (u : Nat) : List Nat := if sec.head? = some u then sec.take 48 else (List.range 48).map (u + ·)

/-- A demand read meets the L2: a sector with an uncorrectable error is poisoned, in each of the pages that it lies in (R187,
R404, R405). -/
def meetL2 (s : State) (secs : List (List Nat)) : State :=
  if s.sram.isEmpty then s
  else secs.foldl (fun s sec => (cachedErrors s 5 sec).foldl (fun s e =>
    match meetUnit s e.1 5 e.2.2 0x80 with
    | (s1, true) => poisonKeys s1 (unitKeys sec e.2.2)
    | (s1, false) => s1) s) s

/-- A demand read of sectors meets the L2 and their codewords; `nc` tells the codewords of which some byte is read with NC =
1. -/
def meetCells (s : State) (nc : Nat → Bool) (secs : List (List Nat)) : State :=
  let s1 := meetL2 s secs
  if hbmClean s1 then s1 else (codewordsOf secs.flatten).foldl (fun s cw => meetCodeword s (nc cw) cw) s1

/-- A read of physical bytes of one page frame. -/
def meetKeys (s : State) (ks : List Nat) : State := meetCells s (fun _ => false) [ks]

/-- A read of `n` physical bytes by the device itself. -/
def meetAt (s : State) (a n : Nat) : State :=
  if hbmClean s && s.sram.isEmpty then s else meetKeys s ((List.range n).map (a + ·))

/-- A context's descriptor is read: its cells are met (R373). -/
def meetCtx (s : State) (c : Nat) : State := meetAt s (ctxDescAt s c) 64

end Sys2Proof.Machine
end

