-- ==== Sys2Proof/Machine/Translate.lean ====
section
/-! DEFINITION. Translation (spec/14 R375 to R380): the walk, the leaf checks, and the memory keys of an access. -/

namespace Sys2Proof.Machine

/-- What an access wants of its leaf (R379). -/
inductive Want where
  | fetch
  | read
  | write
  | atomic
  deriving DecidableEq, Repr

/-- Does the kind write? -/
def Want.writes : Want → Bool
  | .write | .atomic => true
  | _ => false

/-- The outcome of a translation. -/
inductive TransRes where
  /-- Posted to the fault queue and waiting; malformed or not present (R378). -/
  | wait (malformed : Bool)
  /-- Fatal: PFAULT or PERM. -/
  | fail (cause : Nat)
  /-- The key of the byte, the peer of APT = 01, and the page poison (R377, R379). -/
  | ok (key : Nat) (peer : Option Nat) (poison : Bool)
  deriving DecidableEq, Repr

/-- Index of a level in a virtual address (R376). -/
def walkIndex (va L : Nat) : Nat :=
  match L with
  | 0 => va / 2 ^ 48 % 512
  | 1 => va / 2 ^ 39 % 512
  | 2 => va / 2 ^ 30 % 512
  | 3 => va / 2 ^ 21 % 512
  | _ => va / 2 ^ 16 % 32

/-- Page size of a leaf's level (R376). -/
def pageSize (L : Nat) : Nat :=
  match L with
  | 2 => 2 ^ 30
  | 3 => 2 ^ 21
  | _ => 2 ^ 16

/-- Fields of a leaf (R377). -/
def leafPfn (e : Nat) : Nat := e / 2 ^ 21 % 2 ^ 36
/-- POISON. -/
def leafPoison (e : Nat) : Bool := e / 2 ^ 20 % 2 == 1
/-- PEER. -/
def leafPeer (e : Nat) : Nat := e / 2 ^ 10 % 1024
/-- APT. -/
def leafApt (e : Nat) : Nat := e / 2 ^ 8 % 4
/-- RAP. -/
def leafRap (e : Nat) : Bool := e / 2 ^ 7 % 2 == 1
/-- NC. -/
def leafNc (e : Nat) : Bool := e / 2 ^ 6 % 2 == 1
/-- D. -/
def leafD (e : Nat) : Bool := e / 2 ^ 5 % 2 == 1
/-- A. -/
def leafA (e : Nat) : Bool := e / 2 ^ 4 % 2 == 1
/-- X. -/
def leafX (e : Nat) : Bool := e / 2 ^ 3 % 2 == 1
/-- W. -/
def leafW (e : Nat) : Bool := e / 2 ^ 2 % 2 == 1
/-- R. -/
def leafR (e : Nat) : Bool := e / 2 % 2 == 1
/-- V. -/
def entryV (e : Nat) : Bool := e % 2 == 1

/-- Is a valid entry a pointer (R377)? -/
def entryPointer (e : Nat) : Bool := e / 2 % 8 == 0

/-- Is a valid entry malformed at a level (R377)? -/
def entryMalformed (e L : Nat) : Bool :=
  if entryPointer e then
    L == 4 || e / 2 ^ 52 != 0 || (if L = 3 then e / 2 % 2 ^ 7 != 0 else e / 2 % 2 ^ 11 != 0)
  else
    decide (L < 2) || e / 2 ^ 57 != 0 || (leafApt e != 1 && (leafPeer e != 0 || leafRap e)) ||
      (L == 3 && leafPfn e % 2 ^ 5 != 0) || (L == 2 && leafPfn e % 2 ^ 14 != 0)

/-- The node that a pointer at a level names (R378). -/
def nextNode (e L : Nat) : Nat := if L = 3 then e / 2 ^ 8 % 2 ^ 44 * 2 ^ 8 else e / 2 ^ 12 % 2 ^ 40 * 2 ^ 12

/-- Bytes that an entry of a level covers (R376). -/
def entrySpan (L : Nat) : Nat :=
  match L with
  | 0 => 2 ^ 48
  | 1 => 2 ^ 39
  | 2 => 2 ^ 30
  | 3 => 2 ^ 21
  | _ => 2 ^ 16

/-- The outcome of a walk: address, value and level of the leaf. -/
inductive WalkRes where
  | notPresent
  | malformed
  | leaf (at_ e L : Nat)
  deriving DecidableEq, Repr

/-- Walk from level `L` at `node` with fuel for the levels left (R378). -/
def walkFrom (m : Mem) (va L node : Nat) : Nat → WalkRes
  | 0 => .malformed
  | fuel + 1 =>
    let a := node + 8 * walkIndex va L
    let e := memNum m a 8
    if !entryV e then .notPresent
    else if entryMalformed e L then .malformed
    else if entryPointer e then
      walkFrom m va (L + 1) (nextNode e L) fuel
    else .leaf a e L

/-- The levels and nodes that a walk from a node reaches by pointers. -/
def walkNodes (m : Mem) (va L node : Nat) : Nat → List (Nat × Nat)
  | 0 => []
  | fuel + 1 =>
    let e := memNum m (node + 8 * walkIndex va L) 8
    if entryV e && !entryMalformed e L && entryPointer e then
      (L + 1, nextNode e L) :: walkNodes m va (L + 1) (nextNode e L) fuel
    else []

/-- The walk of a context's tables (R378). -/
def walk (m : Mem) (root va : Nat) : WalkRes := walkFrom m va 0 root 5

/-- What a leaf grants (R379): a fault before a missing permission. -/
def leafCheck (e : Nat) (pa : Nat) (k : Want) : Option Nat :=
  if leafApt e = 3 then some 0x08
  else if leafApt e = 0 ∧ !paOk pa then some 0x08
  else if k = .fetch ∧ leafApt e ≠ 0 then some 0x08
  else match k with
    | .fetch => if leafX e then none else some 0x09
    | .read => if leafR e then none else some 0x09
    | .write => if leafW e then none else some 0x09
    | .atomic => if leafR e && leafW e then none else some 0x09

/-- The memory key of a byte that a leaf maps (R190). -/
def leafKey (e pa : Nat) : Nat :=
  match leafApt e with
  | 0 => pa
  | 2 => hostKey pa
  | _ => peerKey (leafPeer e) pa

/-- The peer that serves a leaf (R190). -/
def leafPeerOpt (e : Nat) : Option Nat := if leafApt e = 1 then some (leafPeer e) else none

/-- The physical address that a leaf gives (R378). -/
def leafPa (e L va : Nat) : Nat := leafPfn e * 65536 + va % pageSize L

/-- The grant under a leaf. -/
def leafGrant (e L va : Nat) (k : Want) : TransRes :=
  match leafCheck e (leafPa e L va) k with
  | some c => .fail c
  | none => .ok (leafKey e (leafPa e L va)) (leafPeerOpt e) (leafPoison e)

/-- The keys that the tables now give `n` bytes of one page, without a trace; none where the page is not mapped. -/
def peekKeys (s : State) (root va n : Nat) : List Nat :=
  match walk s.mem root va with
  | .leaf _ e L =>
    if leafCheck e (leafPa e L va) .read = some 0x08 then []
    else (List.range n).map fun i => leafKey e (leafPa e L va) + i
  | _ => []

/-- The same for bytes that may cross into the next page. -/
def peekRun (s : State) (root va n : Nat) : List Nat :=
  let k := 65536 - va % 65536
  if n ≤ k then peekKeys s root va n else peekKeys s root va k ++ peekKeys s root (va + k) (n - k)

/-- The leaf used last among those that the caches hold for an address (R380). -/
def tlbFind (s : State) (asid : BitVec 16) (va : Nat) : Option (Nat × Nat × Dword) :=
  (s.tlb.find? fun x => x.1 == asid && decide (x.2.1 ≤ va) && decide (va < x.2.1 + x.2.2.1)).map Prod.snd

/-- Remember a leaf, as the one used last. -/
def tlbAdd (s : State) (asid : BitVec 16) (va L : Nat) (e : Nat) : State :=
  let x := (asid, va / pageSize L * pageSize L, pageSize L, BitVec.ofNat 64 e)
  { s with tlb := x :: s.tlb.filter (· != x) }

/-- Remember the pointers that a walk has read, with the first address that each serves. -/
def ptrsAdd (s : State) (asid : BitVec 16) (va : Nat) (nodes : List (Nat × Nat)) : State :=
  let xs := nodes.map fun n => (asid, va / entrySpan (n.1 - 1) * entrySpan (n.1 - 1), n.1, n.2)
  { s with ptrs := xs ++ s.ptrs.filter fun x => !xs.contains x }

/-- The level of a page size. -/
def levelOfSize (n : Nat) : Nat := if n = 2 ^ 30 then 2 else if n = 2 ^ 21 then 3 else 4

/-- A walk reads the entries of its nodes in order, and meets their cells; `true` when one of them is poisoned, behind which
nothing is read. -/
def walkMeet (s : State) (va : Nat) : List (Nat × Nat) → State × Bool
  | [] => (s, false)
  | (L, node) :: rest =>
    let a := node + 8 * walkIndex va L
    let s1 := meetAt s a 8
    if deadBytes s1 a 8 then (s1, true) else walkMeet s1 va rest

/-- Walk from a node of a level, set A and D in memory, and remember what has been read (R378, R380). An entry that reads as
poisoned is taken as malformed (log 72). -/
def translateWalk (s : State) (asid : BitVec 16) (va : Nat) (k : Want) (L node : Nat) : State × TransRes :=
  let nodes := walkNodes s.mem va L node (5 - L)
  match walkMeet s va ((L, node) :: nodes) with
  | (s, true) => (s, .wait true)
  | (s, false) =>
  let s0 := ptrsAdd s asid va nodes
  match walkFrom s.mem va L node (5 - L) with
  | .notPresent => (s0, .wait false)
  | .malformed => (s0, .wait true)
  | .leaf a e L =>
    match leafGrant e L va k with
    | .fail c => (s0, .fail c)
    | r =>
      let e' := (e ||| 2 ^ 4) ||| (if k.writes then 2 ^ 5 else 0)
      let s1 := if e' = e then s0 else { s0 with mem := memWrite s0.mem a (toBytes e' 8) }
      (tlbAdd s1 asid va L e', r)

/-- What a cache offers for an address: a leaf with its level, or a node to walk from with its level. -/
inductive Cached where
  | leaf (L e : Nat)
  | node (L at_ : Nat)
  deriving DecidableEq, Repr

/-- All that the caches of the device hold for an address of an ASID (R380). -/
def cachedFor (s : State) (asid : BitVec 16) (va : Nat) : List Cached :=
  (s.tlb.filterMap fun x =>
    if x.1 == asid && decide (x.2.1 ≤ va) && decide (va < x.2.1 + x.2.2.1) then some (.leaf (levelOfSize x.2.2.1) x.2.2.2.toNat)
    else none) ++
  s.ptrs.filterMap fun x =>
    if x.1 == asid && decide (x.2.1 ≤ va) && decide (va < x.2.1 + entrySpan (x.2.2.1 - 1)) then some (.node x.2.2.1 x.2.2.2)
    else none

/-- Translate one byte's address for an agent at level S or U (R375, R378 to R380). Each walker has a cache of its own, and
which one serves an access the manual does not say: until TLBI an access may be translated under any leaf, or from any node,
that some cache holds, or by a whole walk; which it is, is free (log 3, log 35). -/
def translate (s : State) (root : Nat) (asid : BitVec 16) (lvlS : Bool) (va : Nat) (k : Want) : State × TransRes :=
  if va ≥ 2 ^ 57 then (s, .fail 0x08)
  else if va ≥ 2 ^ 56 ∧ !lvlS then (s, .fail 0x09)
  else
    let cs := cachedFor s asid va
    if cs.isEmpty then translateWalk s asid va k 0 root
    else
      let s1 := bump s
      match cs[Config.choice s.fresh % (cs.length + 1)]? with
      | some (.leaf L e) =>
          if k.writes && !leafD e then translateWalk s1 asid va k 0 root else (tlbAdd s1 asid va L e, leafGrant e L va k)
      | some (.node L n) => translateWalk s1 asid va k L n
      | none => translateWalk s1 asid va k 0 root

/-- Translate a run of bytes that may cross pages: the key of every byte, or the first outcome that is no grant. -/
def translateRun (s : State) (root : Nat) (asid : BitVec 16) (lvlS : Bool) (va : Nat) (k : Want) :
    Nat → State × TransRes × List Nat
  | 0 => (s, .ok 0 none false, [])
  | n + 1 =>
    match translate s root asid lvlS va k with
    | (s1, .ok key peer pois) =>
      let left := 65536 - va % 65536
      if n + 1 ≤ left then (s1, .ok key peer pois, (List.range (n + 1)).map (key + ·))
      else
        match translateRun s1 root asid lvlS (va + 1) k n with
        | (s2, .ok _ _ p2, keys) => (s2, .ok key peer (pois || p2), key :: keys)
        | r => r
    | (s1, r) => (s1, r, [])

/-- Bytes at a virtual address of a team's context, or none when they are not mapped, may not be read, or read as poisoned. -/
def readVa (s : State) (root : Nat) (asid : BitVec 16) (lvlS : Bool) (va n : Nat) : State × Option (List Byte) :=
  match translateRun s root asid lvlS va .read n with
  | (s1, .ok _ _ pois, keys) =>
    let s2 := if hbmClean s1 && s1.sram.isEmpty then s1 else meetKeys s1 keys
    if pois || keys.any (poisonedKey s2) then (s2, none) else (s2, some (memGets s2.mem keys))
  | (s1, _, _) => (s1, none)

/-- ROOT and ASID of a team. -/
def teamSpace (s : State) (team : Nat) : Nat × BitVec 16 :=
  match getTeam s team with
  | some t => (t.desc.root, t.desc.asid)
  | none => (0, 0)

end Sys2Proof.Machine
end

