-- ==== Sys2Proof/Machine/Control.lean ====
section
/-! DEFINITION. Control flow, class 0x7 (spec/11 R285 to R308; spec/10 R299 through R267). -/

namespace Sys2Proof.Machine

/-- What a check reports in one lane: cause and TVAL. -/
abbrev Check := Nat → Option (Nat × Dword)

/-- The first check that any participant fails, reported for its lowest lane (R194, R302). -/
def firstFail (lanes : List Nat) : List Check → Option (Nat × Dword)
  | [] => none
  | c :: cs =>
    match lanes.findSome? c with
    | some r => some r
    | none => firstFail lanes cs

/-- An issue that moves its carried fibres: each lane's new PC. -/
def moveTo (s : State) (f : View → Nat → Dword) : State :=
  match viewOf s with
  | none => endIssue s
  | some v =>
    endIssue (modGroup s v.g.id fun g =>
      { g with lanes := g.lanes.mapIdx fun i l => if v.carried.has i then { l with pc := f v i } else l })

/-- Carried fibres go to the target or on (R296 to R299). -/
def branch (s : State) (h : Hdr) (taken : View → Nat → Bool) : State :=
  moveTo s fun v i => if taken v i then v.target h else v.pc + BitVec.ofNat 64 h.len.bytes

/-! ## The join stack (R289 to R291) -/

/-- The 32 bytes of a join entry (R289). -/
def jentBytes (e : JEnt) : List Byte :=
  dwordBytes e.memb ++ dwordBytes e.park ++ dwordBytes e.rejoin ++ dwordBytes e.markpc

/-- The join entry that 32 bytes hold. -/
def jentOf (bs : List Byte) : JEnt :=
  { memb := BitVec.ofNat 64 (ofBytes (bs.take 8))
    park := BitVec.ofNat 64 (ofBytes ((bs.drop 8).take 8))
    rejoin := BitVec.ofNat 64 (ofBytes ((bs.drop 16).take 8) % 2 ^ 57)
    markpc := BitVec.ofNat 64 (ofBytes ((bs.drop 24).take 8) % 2 ^ 57) }

/-- Lanes that exited after the spilled entry of an index was spilled (R291). -/
def exitedSince (g : Group) (index : Nat) : Mask :=
  g.exits.foldl (fun m x => if index < x.1 then m ||| x.2 else m) 0

/-- Bring the 16 most recently spilled entries back (R291, R402); an unmapped spill area gives none (log 7). -/
def joinRefill (s : State) (gid : Nat) : State :=
  match getGroup s gid with
  | none => s
  | some g =>
    if g.jsd < 16 then s
    else
      let (root, asid) := teamSpace s g.team
      let first := g.jsd - 16
      let rd := (List.range 16).foldl (fun (acc : State × List JEnt × Bool) i =>
        match readVa acc.1 root asid true (g.jspa.toNat + 32 * (first + i)) 32 with
        | (s1, some bs) =>
            let e := jentOf bs
            let gone := exitedSince g (first + i)
            (s1, { e with memb := e.memb &&& ~~~gone, park := e.park &&& ~~~gone } :: acc.2.1, acc.2.2)
        | (s1, none) => (s1, acc.2.1, false)) (s, [], true)
      if rd.2.2 then
        modGroup rd.1 gid fun g =>
          { g with js := rd.2.1, jsd := first
                   exits := if first = 0 then [] else g.exits.map fun x => (min x.1 first, x.2) }
      else rd.1

/-- Release the parked fibres of a completed entry from cycle `t` + 2, or from cycle `hold`, the end of the stall of the
instruction that has completed it, whichever is later: so the worked example of its section holds all of them (R59, R290,
log 74). -/
def Group.release (g : Group) (m : Mask) (t hold : Nat) : Group :=
  g.modLanes m fun l =>
    if l.st = .parked then
      { l with st := .live, readyAt := max (max l.readyAt hold) (t + 2), since := t + 2 }
    else l

/-- The first cycle in which an instruction that carries some fibres lets them issue again (R59). -/
def Group.holdOf (g : Group) (m : Mask) : Nat := (lanesOf m).foldl (fun n i => max n (g.lane i).readyAt) 0

/-- Check completion of the top entry, again and again (R290). -/
def joinCheck (s : State) (gid t hold : Nat) : Nat → State
  | 0 => s
  | fuel + 1 =>
    match getGroup s gid with
    | none => s
    | some g =>
      match g.js with
      | [] => s
      | top :: rest =>
        if top.memb &&& ~~~top.park ≠ 0 then s
        else
          let s1 := modGroup s gid fun g => { g.release top.park t hold with js := rest }
          joinCheck (if rest.isEmpty then joinRefill s1 gid else s1) gid t hold fuel

/-- The depth of a join stack, spilled entries included. -/
def Group.joinDepth (g : Group) : Nat := g.js.length + g.jsd

/-- MARK for the carried fibres `m` at `pc` with target `target` (R300): the group after it, or the trap. REJOIN holds 57
bits (R289). -/
def markOp (g : Group) (m : Mask) (pc target : Dword) : Except (Nat × Dword) Group :=
  let r : Dword := target &&& 0x1FFFFFFFFFFFFFF
  let fresh : Except (Nat × Dword) Group :=
    if g.joinDepth ≥ 1024 then .error (0x12, 0x8000000000000400)
    else if g.js.length ≥ 32 then .error (0x05, 0x8000000000000000 ||| BitVec.ofNat 64 g.joinDepth)
    else .ok { g with js := { markpc := pc, rejoin := r, park := 0, memb := m } :: g.js }
  match g.js with
  | [] => fresh
  | top :: rest =>
    if top.markpc = pc ∧ top.rejoin = r ∧ top.park = 0 ∧ top.memb &&& m = 0 then
      .ok { g with js := { top with memb := top.memb ||| m } :: rest }
    else fresh

/-- BRA (R296). -/
def execBra (t : EI) (s : State) : Host.Outcome State Fault Refusal := .next (branch s t.h fun _ _ => true)

/-- GF as the issue reads it. -/
def View.gf (v : View) : BitVec 5 := (v.g.read v.cyc (.gf v.g.onBank)).setWidth 5

/-- BRC (R297). -/
def execBrc (t : EI) (s : State) : Host.Outcome State Fault Refusal :=
  .next (branch s t.h fun v _ => gfCond t.mod.toNat v.gf)

/-- BRP: the participants branch (R298). -/
def execBrp (t : EI) (s : State) : Host.Outcome State Fault Refusal :=
  .next (branch s t.h fun v i => v.guard t.h i)

/-- MARK (R300). -/
def execMark (t : EI) (s : State) : Host.Outcome State Fault Refusal :=
  .next (match viewOf s with
    | none => endIssue s
    | some v =>
      match markOp v.g v.carried v.pc (v.target t.h) with
      | .error (c, tv) => takeTrap s c tv
      | .ok g => issueDone (modGroup s v.g.id fun _ => g) t.h.len.bytes)

/-- JOIN (R301). -/
def execJoin (_t : EI) (s : State) : Host.Outcome State Fault Refusal :=
  .next (match viewOf s with
    | none => endIssue s
    | some v =>
      match v.g.js with
      | [] => takeTrap s 0x01 1
      | top :: rest =>
        if v.carried &&& ~~~top.memb ≠ 0 then takeTrap s 0x01 2
        else
          let g := { v.g with js := { top with park := top.park ||| v.carried } :: rest }.modLanes v.carried
            fun l => { l with st := .parked, pc := top.rejoin }
          endIssue (joinCheck (modGroup s v.g.id fun _ => g) v.g.id v.cyc (v.g.holdOf v.carried) 1100))

/-- The link of a call (R293). -/
def linkLo (ret : Dword) : Word := ret.lo

/-- The upper link register: k and the upper address bits. -/
def linkHi (k : Nat) (ret : Dword) : Word := BitVec.ofNat 32 (k * 2 ^ 25 + ret.toNat / 2 ^ 32 % 2 ^ 25)

/-- K of CALL and CALLR (R302). -/
def callK (t : EI) : Nat := t.mod.toNat

/-- The checks of a call, after CALLR's own (R302). -/
def callChecks (v : View) (k : Nat) : List Check :=
  let nb (l : Nat) : Nat := (v.g.lane l).base + k
  [ fun l => if nb l + 64 > 65536 then some (0x12, BitVec.ofNat 64 (nb l)) else none,
    fun l => if nb l + 64 > (v.g.lane l).rb + (v.g.lane l).rz then some (0x05, BitVec.ofNat 64 (nb l)) else none ]

/-- CALL and CALLR: write the link, move the window, go to the target of each participant (R302). -/
def callOp (s : State) (h : Hdr) (k : Nat) (checks : View → List Check) (target : View → Nat → Dword) : State :=
  match viewOf s with
  | none => endIssue s
  | some v =>
    let m := v.parts h
    match firstFail (lanesOf m) (checks v) with
    | some (c, tv) => takeTrap s c tv
    | none =>
      let ret := v.pc + BitVec.ofNat 64 h.len.bytes
      let ws := (lanesOf m).flatMap fun l =>
        let nb := (v.g.lane l).base + k
        [(Dst.v l (nb - 2), linkLo ret), (Dst.v l (nb - 1), linkHi k ret)]
      endIssue (modGroup s v.g.id fun g =>
        { g.writes ws with
          lanes := (g.writes ws).lanes.mapIdx fun i l =>
            if m.has i then { l with base := l.base + k, pc := target v i }
            else if v.carried.has i then { l with pc := ret } else l })

/-- CALL (R302). -/
def execCall (t : EI) (s : State) : Host.Outcome State Fault Refusal :=
  .next (callOp s t.h (callK t) (fun v => callChecks v (callK t)) fun v _ => v.target t.h)

/-- CALLR (R302). -/
def execCallr (t : EI) (s : State) : Host.Outcome State Fault Refusal :=
  .next (callOp s t.h (callK t)
    (fun v => (fun l =>
        let a := v.src64 t.h l false t.a
        if a.toNat ≥ 2 ^ 57 then some (0x08, a) else none) :: callChecks v (callK t))
    fun v l => v.src64 t.h l false t.a)

/-- The link that a RET reads in a lane: k and the return address (R293). -/
def retLink (v : View) (l : Nat) : Nat × Dword :=
  let b := (v.g.lane l).base
  let lo := v.g.read v.cyc (.v l (b - 2))
  let hi := v.g.read v.cyc (.v l (b - 1))
  (hi.toNat / 2 ^ 25, BitVec.ofNat 64 (hi.toNat % 2 ^ 25 * 2 ^ 32 + lo.toNat))

/-- The checks of RET (R303). -/
def retChecks (v : View) (mask : Bool) (lanes : List Nat) : List Check :=
  let b (l : Nat) : Nat := (v.g.lane l).base
  let rb (l : Nat) : Nat := (v.g.lane l).rb
  let at_ (c n : Nat) : Option (Nat × Dword) := some (c, BitVec.ofNat 64 n)
  [ fun l => if b l < 2 then at_ 0x12 (b l) else none,
    fun l => if b l - 2 < rb l then at_ 0x06 (b l - 2) else none,
    fun l =>
      let (k, r) := retLink v l
      if k < 2 ∨ k > 64 ∨ k > b l ∨ r.toNat % 4 ≠ 0 then at_ 0x12 (b l) else none,
    fun l => if b l - (retLink v l).1 < rb l then at_ 0x06 (b l - (retLink v l).1) else none,
    fun _ =>
      if mask && lanes.any (fun l => (retLink v l).2 != (retLink v (lanes.headD 0)).2) then at_ 0x01 3 else none ]

/-- Does the group run in mask mode: its slice's, or a system handler's (R288, R389)? -/
def maskMode (s : State) (g : Group) : Bool :=
  g.st.active || match (sliceOf s g).bind Slice.k with
    | some k => k.mask
    | none => false

/-- RET (R303). -/
def execRet (t : EI) (s : State) : Host.Outcome State Fault Refusal :=
  .next (match viewOf s with
    | none => endIssue s
    | some v =>
      let m := v.parts t.h
      let lanes := lanesOf m
      match firstFail lanes (retChecks v (maskMode s v.g) lanes) with
      | some (c, tv) => takeTrap s c tv
      | none =>
        endIssue (modGroup s v.g.id fun g =>
          { g with lanes := g.lanes.mapIdx fun i l =>
              if m.has i then { l with base := l.base - (retLink v i).1, pc := (retLink v i).2 }
              else if v.carried.has i then { l with pc := v.pc + BitVec.ofNat 64 t.h.len.bytes } else l }))

/-- Take lanes out of a group: free slots, no members of any join entry; with no fibre left its gather queue is discarded,
while streams go on to their end (R304). -/
def Group.exitLanes (g : Group) (m : Mask) : Group :=
  let g1 := g.modLanes m fun l => { l with st := .free }
  { g1 with
    gq := if g1.active = 0 then [] else g.gq
    js := g.js.map fun e => { e with memb := e.memb &&& ~~~m, park := e.park &&& ~~~m }
    exits := if g.jsd > 0 then (g.jsd, m) :: g.exits else g.exits
    ut := { g.ut with set := g.ut.set &&& ~~~m, active := g.ut.active && g.ut.set &&& ~~~m != 0 } }

/-- A system handler whose trapped fibres have all exited gives its bank back (R389). -/
def exitSystem (s : State) (gid : Nat) (m : Mask) : State :=
  match getGroup s gid with
  | none => s
  | some g =>
    if g.st.active then
      let left := g.st.set &&& ~~~m
      let s1 := modGroup s gid fun g => { g with st := { g.st with set := left, active := left != 0 } }
      if left = 0 then handBack s1 gid g.core g.slot else s1
    else s

/-- EXIT (R304). -/
def execExit (t : EI) (s : State) : Host.Outcome State Fault Refusal :=
  .next (match viewOf s with
    | none => endIssue s
    | some v =>
      let m := v.parts t.h
      let s1 := issueDone s t.h.len.bytes
      let s2 := modGroup s1 v.g.id fun g => g.exitLanes m
      joinCheck (exitSystem s2 v.g.id m) v.g.id v.cyc (v.g.holdOf v.carried) 1100)

/-- One FORK by the parent lane: the lowest free lane becomes its child (R305). -/
def forkOne (v : View) (t : EI) (g : Group) (parent : Nat) : Group :=
  match (List.range 64).find? fun i => (g.lane i).st == .free && decide (i < g.lanes.length) with
  | none => g.writes (v.g.put32 parent t.d 0xFFFFFFFF)
  | some c =>
    let a := v.src32 t.h parent t.a
    let g1 := g.modLane c fun l =>
      { l with st := .live, pc := v.target t.h, base := 0, rb := 0, preds := 0, fences := []
               readyAt := v.cyc + 2, since := v.cyc + 2 }
    let old (d : Dst) : Bool := match d with
      | .v l x => l == c && x == 0
      | .p l n => l == c && decide (n < 7)
      | _ => false
    let g2 := { g1 with early := g1.early.filter fun e => !old e.dst }
    (g2.set (Dst.v c 0) a).writes (v.g.put32 parent t.d (BitVec.ofNat 32 c))

/-- FORK (R305). -/
def execFork (t : EI) (s : State) : Host.Outcome State Fault Refusal :=
  .next (match viewOf s with
    | none => endIssue s
    | some v =>
      issueDone (modGroup s v.g.id fun g => (lanesOf (v.parts t.h)).foldl (forkOne v t) g) t.h.len.bytes)

/-- Reload the slice's budget; it may be pre-empted here without waiting for QUANT (R332). -/
def reloadBudget (s : State) (sid : Nat) : State :=
  modSlice s sid fun x => { x with left := x.budget, yielded := true }

/-- YIELD: the other groups of the slot go first; the budget is reloaded (R306, R332). -/
def execYield (t : EI) (s : State) : Host.Outcome State Fault Refusal :=
  .next (match viewOf s with
    | none => endIssue s
    | some v =>
      let others := (s.groups.filter fun g =>
        g.core == v.g.core && g.slot == v.g.slot && g.resident && g.id != v.g.id).map Group.id
      let s1 := modGroup s v.g.id fun g => { g with yieldFor := others }
      let s2 := match sliceOf s v.g with
        | some x => reloadBudget s1 x.id
        | none => s1
      issueDone s2 t.h.len.bytes)

/-- NOP (R306). -/
def execNop (t : EI) (s : State) : Host.Outcome State Fault Refusal := .next (issueDone s t.h.len.bytes)

/-- TRAP n: TRAPI when some fibre takes part (R307). -/
def execTrap (t : EI) (s : State) : Host.Outcome State Fault Refusal :=
  .next (match viewOf s with
    | none => endIssue s
    | some v =>
      if v.parts t.h = 0 then issueDone s t.h.len.bytes else takeTrap s 0x10 (t.mod.setWidth 64))

/-- Is a debugger attached to the group's context (R398)? -/
def debugOn (s : State) (g : Group) : Bool :=
  match sliceOf s g with
  | some x => (nth CtxSt.reset s.ctxs x.ctx).debug
  | none => false

/-- The breakpoint that a halted group holds for its debugger: cause, the BRK's address and n, with no handler entered
(R307, R398). Inside a user handler it takes the place of that handler's own cause, TEPC and TVAL, so that its TRET resumes at
the BRK: which record holds then the manual does not say (log 75). -/
def recordBreak (s : State) (g : Group) (pc tval : Dword) : Group :=
  let priv := ((sliceOf s g).map Slice.priv).getD false
  recordUser g priv { g.ut with tcause := tcauseOf 0 priv 0x11, tepc := pc, tval := tval }

/-- BRK n: BRKPT, or a halt of the group past the BRK when a debugger is attached (R307, R398). -/
def execBrk (t : EI) (s : State) : Host.Outcome State Fault Refusal :=
  .next (match viewOf s with
    | none => endIssue s
    | some v =>
      if v.parts t.h = 0 then issueDone s t.h.len.bytes
      else if debugOn s v.g && !v.g.st.active then
        issueDone (modGroup s v.g.id fun _ =>
          { recordBreak s v.g v.pc (t.mod.setWidth 64) with halted := true, stepping := false }) t.h.len.bytes
      else takeTrap s 0x11 (t.mod.setWidth 64))

/-- TRET (R308, R391). -/
def execTret (t : EI) (s : State) : Host.Outcome State Fault Refusal := .next (returnFromTrap s (t.bit 0))

end Sys2Proof.Machine
end

