-- ==== Sys2Proof/Machine/Barrier.lean ====
section
/-! DEFINITION. Scratch windows and the barrier word (spec/07 R178, R179; spec/08 R203 to R206). -/

namespace Sys2Proof.Machine

/-- Sweeps that the kernel declares for a window (R17). -/
def Kernel.sweeps (k : Kernel) : Win → Nat
  | .gen => k.gen
  | .wgt => k.wgt
  | .act => k.act
  | .erg => k.erg

/-- Bytes of a team's window (R179). -/
def winBytes (t : Team) (w : Win) : Nat := 536 * t.k.sweeps w

/-- The contents of a window. -/
def TCore.win (c : TCore) : Win → Mem
  | .gen => c.gen
  | .wgt => c.wgt
  | .act => c.act
  | .erg => c.erg

/-- Replace the contents of a window. -/
def TCore.setWin (c : TCore) (w : Win) (m : Mem) : TCore :=
  match w with
  | .gen => { c with gen := m }
  | .wgt => { c with wgt := m }
  | .act => { c with act := m }
  | .erg => { c with erg := m }

/-- `n` bytes of a window. -/
def TCore.bytes (c : TCore) (w : Win) (off n : Nat) : List Byte := memRead (c.win w) off n

/-- The granules that bytes touch (R178). -/
def granules (off n : Nat) : List Nat :=
  if n = 0 then [] else (List.range ((off + n - 1) / 8 - off / 8 + 1)).map (off / 8 + ·)

/-- Does a poisoned granule lie among the bytes (R405)? -/
def TCore.poisoned (c : TCore) (w : Win) (off n : Nat) : Bool :=
  (granules off n).any fun g => c.pois.contains (w, g)

/-- The lowest poisoned byte among the bytes. -/
def TCore.poisonAt (c : TCore) (w : Win) (off n : Nat) : Nat :=
  match (granules off n).find? fun g => c.pois.contains (w, g) with
  | some g => max off (8 * g)
  | none => off

/-- Write bytes of a window; a granule written whole loses its poison and holds fresh check
bits (R404, R405). -/
def TCore.write (c : TCore) (w : Win) (off : Nat) (bs : List Byte) : TCore :=
  { c.setWin w (memWrite (c.win w) off bs) with
    pois := c.pois.filter fun p => !(p.1 == w && decide (off ≤ 8 * p.2 ∧ 8 * p.2 + 8 ≤ off + bs.length))
    errs := c.errs.filter fun e => !(e.1 == some w && decide (off ≤ 8 * e.2.1 ∧ 8 * e.2.1 + 8 ≤ off + bs.length)) }

/-- Mark granules poisoned. -/
def TCore.poison (c : TCore) (w : Win) (off n : Nat) : TCore :=
  { c with pois := ((granules off n).map fun g => (w, g)).filter (fun p => !c.pois.contains p) ++ c.pois }

/-- The key of a scratch byte, for the order of accesses. -/
def scratchKey (core : Nat) (w : Win) (off : Nat) : Nat :=
  let i := match w with
    | .gen => 0
    | .wgt => 1
    | .act => 2
    | .erg => 3
  2 ^ 80 + core * 2 ^ 40 + i * 2 ^ 32 + off

/-- The fields of a barrier word (R203). -/
structure Bar where
  ffo : Nat
  baton : Bool
  gone : Bool
  timeout : Bool
  ovf : Bool
  fault : Bool
  nreg : Nat
  lreg : Nat
  pbytes : Int
  init : Nat
  pend : Nat
  phase : Nat
  deriving DecidableEq, Repr

/-- A bit as a number. -/
def bitNat (b : Bool) (i : Nat) : Nat := if b then 2 ^ i else 0

/-- The word of a barrier; RES0 bits are zero (R206). -/
def Bar.word (b : Bar) : Nat :=
  let p : Int := b.pbytes % ((2 ^ 36 : Nat) : Int)
  b.phase % 16 + b.pend % 65536 * 2 ^ 4 + b.init % 65536 * 2 ^ 20 + p.toNat * 2 ^ 36 +
    b.lreg % 256 * 2 ^ 72 + b.nreg % 256 * 2 ^ 80 + bitNat b.fault 88 + bitNat b.ovf 89 + bitNat b.timeout 90 +
    bitNat b.gone 91 + bitNat b.baton 92 + b.ffo % 2 ^ 32 * 2 ^ 96

/-- The barrier that a word holds. -/
def Bar.ofWord (w : Nat) : Bar :=
  let p : Nat := w / 2 ^ 36 % 2 ^ 36
  { ffo := w / 2 ^ 96 % 2 ^ 32, baton := w.testBit 92, gone := w.testBit 91, timeout := w.testBit 90
    ovf := w.testBit 89, fault := w.testBit 88, nreg := w / 2 ^ 80 % 256, lreg := w / 2 ^ 72 % 256
    pbytes := if p ≥ 2 ^ 35 then (p : Int) - (2 ^ 36 : Nat) else p
    init := w / 2 ^ 20 % 65536, pend := w / 2 ^ 4 % 65536, phase := w % 16 }

/-- Is a freeze flag set (R203)? -/
def Bar.frozen (b : Bar) : Bool := b.fault || b.ovf || b.timeout || b.gone

/-- Apply (R205): `n` arrivals, `add` bytes declared, `landed` bytes landed. -/
def Bar.apply (b : Bar) (n add landed : Nat) : Bar :=
  let nb : Int := b.pbytes + add - landed
  if nb < -(2 ^ 35 : Nat) ∨ nb > (2 ^ 35 - 1 : Nat) ∨ n > b.pend then { b with ovf := true }
  else
    let b1 := { b with pbytes := nb, pend := b.pend - n }
    if b1.pend = 0 ∧ b1.pbytes = 0 ∧ !b1.frozen then { b1 with phase := (b1.phase + 1) % 16, pend := b1.init } else b1

/-- The barrier at an offset of a team core's GEN window. -/
def TCore.bar (c : TCore) (off : Nat) : Bar := Bar.ofWord (ofBytes (c.bytes .gen off 16))

/-- Write a barrier. -/
def TCore.setBar (c : TCore) (off : Nat) (b : Bar) : TCore := c.write .gen off (toBytes b.word 16)

/-- Change a barrier of a team (R204): one indivisible operation. -/
def modBar (s : State) (team core off : Nat) (f : Bar → Bar) : State :=
  modTCore s team core fun c => c.setBar off (f (c.bar off))

/-- A barrier of a team; zero when the core does not exist. -/
def getBar (s : State) (team core off : Nat) : Bar :=
  match getTCore s team core with
  | some c => c.bar off
  | none => Bar.ofWord 0

/-- NREG and LREG from a team's regions (R203). -/
def regionTag (regs : List (Option Region)) (core off : Nat) : Nat × Nat :=
  let bound := (regs.zipIdx).filter fun x => match x.1 with
    | some r => r.core == core && r.bar == off
    | none => false
  (bound.length, match bound with
    | [] => 0xFF
    | x :: _ => x.2)

/-- Bring a barrier's region tag up to date. -/
def retag (s : State) (team core off : Nat) : State :=
  match getTeam s team with
  | none => s
  | some t =>
    let (n, l) := regionTag t.regions core off
    modBar s team core off fun b => { b with nreg := n, lreg := l }

end Sys2Proof.Machine
end

