-- ==== Sys2Proof/Machine/Engine.lean ====
section
/-! DEFINITION. What matrix and Erg operations in the queues read and write in scratch (spec/05 R143, R153, R154, R158;
spec/06 R161, R170), for the order of other accesses against them. -/

namespace Sys2Proof.Machine

/-- Bytes of a window that an agent reads or writes. -/
structure Range where
  win : Win
  off : Nat
  n : Nat
  write : Bool
  deriving DecidableEq, Repr

/-- Do two ranges share a byte that one of them writes? -/
def Range.clash (a b : Range) : Bool :=
  a.win == b.win && (a.write || b.write) && decide (a.off < b.off + b.n) && decide (b.off < a.off + a.n)

/-- Bytes of one element of a matrix operand. -/
def elemSize (t : Ty) : Nat := if t.isHalf then 2 else 1

/-- K of MXLW (R153). -/
def mxK (t : EI) : Nat := 16 * (t.rndBits.toNat + 1)

/-- Bytes of an activation row of depth K (R154). -/
def rowBytes (ty : Ty) (K : Nat) : Nat := K * elemSize ty + (if ty.isB8 then K / 16 else 0)

/-- Bytes of a row that MXST stores (R158). -/
def storeBytes (ty : Ty) : Nat :=
  match ty with
  | .f32 | .i32 => 512
  | .f16 | .bf16 => 256
  | .i8 => 128
  | _ => 136

/-- Argument `n` of a matrix operation. -/
def MxOp.arg (m : MxOp) (n : Nat) : Nat := (nth 0 m.args n).toNat

/-- Argument `n` of an Erg operation. -/
def ErgOp.arg (m : ErgOp) (n : Nat) : Nat := (nth 0 m.args n).toNat

/-- Lanes of a matrix operation whose rows are still due. -/
def MxOp.due (m : MxOp) : List Nat := lanesOf (m.mask &&& ~~~m.doneLanes)

/-- The operations of a core's engine queue that have not started and so still fill an entry of it (R141, R142). -/
def Core.mxQueue (c : Core) : List MxOp := c.mxq.filter fun m => !m.started

/-- Is it an MXLW? -/
def isMxlw : Instr → Bool
  | .mxlw _ => true
  | _ => false

/-- Is it an MXROW? -/
def isMxrow : Instr → Bool
  | .mxrow _ => true
  | _ => false

/-- Is it a store with stochastic rounding, which steps the generators of its lanes (R158)? -/
def isSrStore : Instr → Bool
  | .mxst t => t.rnd == .sr
  | _ => false

/-- Lanes of an Erg operation that are still due. -/
def ErgOp.due (m : ErgOp) : List Nat := lanesOf (m.mask &&& ~~~m.doneLanes)

/-- WGT bytes that a weight latch loads (R153). -/
def latchRanges (ty : Ty) (K wbase sbase : Nat) : List Range :=
  { win := .wgt, off := wbase, n := K * 128 * elemSize ty, write := false } ::
    (if ty.isB8 then [{ win := .wgt, off := sbase, n := 128 * (K / 16), write := false }] else [])

/-- Scratch bytes that a matrix operation has still to read or write. Its arguments are the operands in order, and for
MXROW the depth of the latch it will use. -/
def MxOp.ranges (m : MxOp) : List Range :=
  match m.i with
  | .mxlw t => if m.due.isEmpty then [] else latchRanges t.ty (mxK t) (m.arg 0) (m.arg 1)
  | .mxrow t => m.due.map fun i =>
      { win := .act, off := m.arg 0 + i * m.arg 1, n := rowBytes t.ty (m.arg 3), write := false }
  | .mxst t => m.due.map fun i =>
      { win := .act, off := m.arg 0 + i * m.arg 1, n := storeBytes t.ty, write := true }
  | _ => []

/-- Pitch of an Erg tile (R161). -/
def ergPitch (t : EI) : Nat := 128 + 8 * t.pitchBits.toNat

/-- ACT bytes of the tiles that an Erg operation has still to read or write. -/
def ErgOp.ranges (m : ErgOp) : List Range :=
  let tiles (t : EI) (write : Bool) : List Range := m.due.flatMap fun i =>
    (List.range 16).map fun r =>
      { win := .act, off := m.arg 0 + i * m.arg 1 + r * ergPitch t, n := 128, write := write }
  match m.i with
  | .ergc t | .ergkIn t | .ergkOut t => tiles t false
  | .ergkRst t => tiles t true
  | _ => []

/-- CORE value of a group. -/
def coreNoOf (s : State) (gid : Nat) : Nat := ((getGroup s gid).map Group.coreNo).getD 0

/-- The ranges of a group's engine operations issued before a handle. -/
def engineRanges (s : State) (gid id : Nat) : List Range :=
  match getGroup s gid with
  | none => []
  | some g =>
    let c := getCore s g.core
    (c.mxq.flatMap fun m => if m.grp == gid && decide (m.id < id) then m.ranges else []) ++
      c.ergq.flatMap fun m => if m.grp == gid && decide (m.id < id) then m.ranges else []

end Sys2Proof.Machine
end

