-- ==== Sys2Proof/Machine/Fabric.lean ====
section
/-! DEFINITION. The Hjelea fabric as a sender uses it (spec/10 R258 to R272): peers and allowance, planes and ports, tags
and generations, the counts of FABSTAT. -/

namespace Sys2Proof.Machine

/-- This device's number (R39). -/
def devN : Nat := Config.devNumber % 1024

/-- A peer to which no link has come up yet (R264). -/
def Peer.first (d : Nat) : Peer :=
  { dev := d, cap := 64, rtts := [], count := 0, round := 64, byCut := false, late := false }

/-- The congestion state towards a peer. -/
def getPeer (s : State) (d : Nat) : Peer := (s.fab.peers.find? fun p => p.dev == d).getD (Peer.first d)

/-- Replace the congestion state towards a peer. -/
def setPeer (s : State) (p : Peer) : State :=
  { s with fab := { s.fab with peers := p :: s.fab.peers.filter fun q => q.dev != p.dev } }

/-- Change the fabric. -/
def modFab (s : State) (f : Fabric → Fabric) : State := { s with fab := f s.fab }

/-- Is a lane request outstanding to a peer: its issue has its lines, and no answer has come (R449)? -/
def Req.outTo (q : Req) (d : Nat) : Bool :=
  q.peer == some d && match q.st with
    | .granted => true
    | .sent _ _ => true
    | _ => false

/-- Device of a signal's handle (R259). -/
def handleDev (h : Dword) : Nat := h.toNat / 2 ^ 54

/-- Has a request of a line still to be made to a peer or answered by it? One whose pages are not looked up yet counts for
the peers that it named at issue; else its own sides tell. -/
def Seg.outTo (q : Seg) (d : Nat) : Bool :=
  match q.st with
  | .fresh => q.named.contains d
  | .done => false
  | .timedOut => false
  | _ => q.dpeer == some d || (q.speer == some d && q.data.isEmpty)

/-- Outstanding lines to a peer (R264, R449): a line stays outstanding until every request it makes to that peer has been
answered or has timed out. -/
def outstanding (s : State) (d : Nat) : Nat :=
  ((s.ops.filter fun o => o.stage == .active).map fun o => (o.reqs.filter fun q => q.outTo d).length).sum +
    (s.lines.filter fun l => l.segs.any fun q => q.outTo d).length + (s.sigs.filter fun x => handleDev x.handle == d).length

/-- AVAIL (R264). -/
def avail (s : State) (d : Nat) : Nat := (getPeer s d).cap - outstanding s d

/-- Is there room for `m` lines to a peer, so that an issue does not park (R265)? -/
def room (s : State) (x : Nat × Nat) : Bool := decide (avail s x.1 ≥ min x.2 (getPeer s x.1).cap)

/-- A saturating count. -/
def satInc (n bits : Nat) : Nat := min (2 ^ bits - 1) (n + 1)

/-- Count a refusal (R260, R272). -/
def countRefuse (s : State) : State := modFab s fun f => { f with refuse := satInc f.refuse 8 }

/-- FKEY of a team's context, which its requests carry (R372, R385). -/
def fkeyOf (s : State) (team : Nat) : BitVec 16 := ((getTeam s team).map fun t => t.desc.fkey).getD 0

/-- A peer's admission of an access to its memory, decided at the grant: refused to a context with FKEY 0, else free (R195,
R372, R385, log 3). -/
def admitPeer (s : State) (team : Nat) : State × Bool :=
  if fkeyOf s team = 0 then (countRefuse s, false)
  else if Config.freeBool s.fresh then (bump s, true)
  else (countRefuse (bump s), false)

/-! ## Planes and ports (R261 to R263) -/

/-- Key of a line of peer memory (R261). -/
def pageKey (pa : Nat) : Nat := pa / 192

/-- Physical address at a peer, from a memory key. -/
def peerPa (key : Nat) : Nat := key % 2 ^ 53

/-- Key of a line of peer scratch (R261). -/
def handleKey (h : Nat) : Nat := h / 2 ^ 24 * 2 ^ 18 + h % 2 ^ 24 / 192

/-- Plane-table entry of a key (R261). -/
def planeEntryOf (k : Nat) : Nat := k % 8 ^^^ k / 8 % 8 ^^^ k / 64 % 8 ^^^ k / 512 % 8

/-- The plane that an entry names. -/
def planeOf (s : State) (e : Nat) : Nat := nth 0 s.fab.plane e

/-- Is a plane live? -/
def planeLive (s : State) (q : Nat) : Bool := !s.fab.dead.getLsbD q

/-- Is any plane live? -/
def anyPlane (s : State) : Bool := (List.range 8).any (planeLive s)

/-- A notice for a peer's barrier goes out on every live plane (R270). -/
def sendNotice (s : State) (x : Notice) : State :=
  if anyPlane s then modFab s fun f => { f with notices := x :: f.notices.filter fun y => y.dev != x.dev } else s

/-- The port of a key to a device (R261). -/
def portOf (s : State) (dev k : Nat) : Nat := 4 * planeOf s (planeEntryOf k) + (dev + k / 2 ^ 12 % 4) % 4

/-- May a line of a key be sent now: its plane is live, its entry not changing, its port not down? While the port retrains,
what is sent waits there in order, its deadline running (R269, R421). -/
def mayLeave (s : State) (dev k : Nat) : Bool :=
  let e := planeEntryOf k
  let p := nth Port.reset s.fab.ports (portOf s dev k)
  planeLive s (planeOf s e) && !(s.fab.pending.any fun x => x.1 == e) && !p.down

/-! ## Tags (R268) -/

/-- The lowest tag slot of a port that is free and not quarantined. -/
def freeTagOf (s : State) (port : Nat) : Option Nat :=
  (List.range 4096).find? fun t =>
    !(s.fab.out.any fun r => r.port == port && r.tag == t) && !(s.fab.quar.any fun x => x.1 == port && x.2.1 == t)

/-- Generation of a tag slot. -/
def genOf (s : State) (port tag : Nat) : Nat :=
  ((s.fab.gens.find? fun x => x.1 == port && x.2.1 == tag).map fun x => x.2.2).getD 0

/-- Set the generation of a tag slot; slots at 0 are not listed. -/
def setGen (s : State) (port tag g : Nat) : State :=
  modFab s fun f =>
    let rest := f.gens.filter fun x => !(x.1 == port && x.2.1 == tag)
    { f with gens := if g = 0 then rest else (port, tag, g) :: rest }

/-- Free a tag; after a timeout it is quarantined (R268). -/
def releaseTag (s : State) (port tag : Nat) (timeout : Bool) : State :=
  let s1 := setGen s port tag ((genOf s port tag + 1) % 16)
  modFab s1 fun f =>
    { f with out := f.out.filter fun r => !(r.port == port && r.tag == tag)
             quar := if timeout then (port, tag, s.tb + 2 * f.rqtmo) :: f.quar else f.quar }

/-- Send a request to a peer on the port of its key, with the FKEY of the sender's context: the tag it takes, or none while it
has to wait (R261, R269, R385). -/
def sendReq (s : State) (fkey : BitVec 16) (dev k : Nat) (ref : Ref) : Option (State × Nat × Nat) :=
  if mayLeave s dev k then
    let port := portOf s dev k
    match freeTagOf s port with
    | none => none
    | some tag =>
      let r : OutReq :=
        { port := port, tag := tag, gen := genOf s port tag, dev := dev, plane := port / 4, ref := ref
          sentAt := s.tb, deadline := s.tb + s.fab.rqtmo, fkey := fkey }
      some (modFab s fun f => { f with out := f.out ++ [r] }, port, tag)
  else none

/-! ## Congestion (R264) -/

/-- A reply with a round-trip time `rtt` at timebase `tb` updates CAP. -/
def Peer.reply (p : Peer) (tb rtt : Nat) : Peer :=
  let rtts := (tb, rtt) :: p.rtts.filter fun x => decide (x.1 + 1000000 ≥ tb)
  let base := (rtts.map Prod.snd).foldl min rtt
  let high := decide (2 * rtt > 3 * base)
  if high && !p.byCut then
    let cap := max 4 (p.cap / 2)
    { p with rtts := rtts, cap := cap, count := 0, round := cap, byCut := true, late := false }
  else
    let late := p.late || high
    if p.count + 1 ≥ p.round then
      let cap := if late then p.cap else min 4096 (p.cap + 1)
      { p with rtts := rtts, cap := cap, count := 0, round := cap, byCut := false, late := false }
    else { p with rtts := rtts, count := p.count + 1, late := late }

/-! ## Allowance slots (R266, R267) -/

/-- A send-allowance slot of a core as a context reads it: valid, device, CAP and AVAIL; zero for any other context. -/
def readAlw (s : State) (core slot ctx : Nat) : Bool × Nat × Nat × Nat :=
  match (getCore s core).alw[slot]? with
  | some a => if a.v && a.ctx == ctx then (true, a.dev, (getPeer s a.dev).cap, avail s a.dev) else (false, 0, 0, 0)
  | none => (false, 0, 0, 0)

/-- The register form of a slot (R266). -/
def alwWord (x : Bool × Nat × Nat × Nat) : Dword :=
  if x.1 then BitVec.ofNat 64 (2 ^ 63 + x.2.1 * 2 ^ 32 + x.2.2.1 % 2 ^ 13 * 2 ^ 16 + x.2.2.2 % 2 ^ 13) else 0

end Sys2Proof.Machine
end

