-- ==== Sys2Proof/Machine/Sram.lean ====
section
/-! DEFINITION. SRAM errors as reads of a core's arrays meet them (spec/15 R404, R405). -/

namespace Sys2Proof.Machine

/-- A lane's load meets the L1 of its core: an uncorrectable error costs a refetch, and counts as corrected (R404, R405). -/
def meetL1 (s : State) (core ctx : Nat) (secs : List (List Nat)) : State :=
  if s.sram.isEmpty then s
  else secs.foldl (fun s sec => ((cachedErrors s 4 sec).filter fun e => e.1 == core).foldl (fun s e =>
    match meetUnit s core 4 e.2.2 ctx with
    | (s1, true) => countIsland s1 core
    | (s1, false) => s1) s) s

/-- A slice's record in its pool meets an error; `true` when it is lost (R405). Its unit is set apart by its handle. -/
def meetRecord (s : State) (x : Slice) : State × Bool :=
  match s.sram.find? fun e => e.2.1 % 16 == 6 && e.2.2 == 2 ^ 32 + x.id with
  | none => (s, false)
  | some e => meetUnit s e.1 6 e.2.2 (ctxByte x.ctx)

/-- Context byte of a team's slice. -/
def ctxByteOfTeam (s : State) (team : Nat) : Nat :=
  ctxByte (match (getTeam s team).bind fun t => getSlice s t.slice with
    | some x => x.ctx
    | none => 64)

/-- A read of a granule, or of an accumulator row, of a team's core meets the error that it holds: corrected and counted, or
reported and poisoned. -/
def meetPart (s : State) (team core : Nat) (w : Option Win) (n : Nat) : State :=
  match getTCore s team core with
  | none => s
  | some tc => match tc.errs.find? fun e => e.1 == w && e.2.1 == n with
    | none => s
    | some e =>
      let s1 := modTCore s team core fun c => { c with errs := c.errs.filter (· != e) }
      if e.2.2 then
        let s2 := sramReport s1 tc.phys (ctxByteOfTeam s team) (if w.isSome then 2 else 3)
        modTCore s2 team core fun c => match w with
          | some w => c.poison w (8 * n) 8
          | none => { c with acc := modNth c.acc n fun r => { r with pois := true } }
      else countIsland s1 tc.phys

/-- A read of window bytes meets their granules. -/
def meetScratch (s : State) (team core : Nat) (w : Win) (off n : Nat) : State :=
  if sramClean s then s else (granules off n).foldl (fun s g => meetPart s team core (some w) g) s

/-- A read of an accumulator row meets it. -/
def meetRow (s : State) (team core row : Nat) : State := if sramClean s then s else meetPart s team core none row

/-- A register whose error could not be corrected is poisoned. -/
def Group.poisonReg (g : Group) : Dst → Group
  | .v l x => g.modLane l fun y => { y with pois := x :: y.pois }
  | .g n => { g with gpois := n :: g.gpois }
  | _ => g

/-- Reads of registers meet the errors that they hold (R404, R405). -/
def meetRegs (s : State) (g : Group) (ds : List Dst) : State :=
  if sramClean s then s
  else ds.foldl (fun s d => match (getGroup s g.id).bind fun g => g.errs.find? fun e => e.1 == d with
    | none => s
    | some e =>
      let s1 := modGroup s g.id fun g => { g with errs := g.errs.filter fun e => e.1 != d }
      if e.2 then modGroup (sramReport s1 g.core (ctxByteOfTeam s g.team) 1) g.id fun g => g.poisonReg d
      else countIsland s1 g.core) s

end Sys2Proof.Machine
end

