-- ==== Sys2Proof/Machine/Hbm.lean ====
section
/-! DEFINITION. The sectors of accesses, and errors and poison as accesses meet them (spec/07 R186 to R191, R196; spec/14
R382; spec/15 R405, R406, R424). -/

namespace Sys2Proof.Machine

/-- Does a leaf map a local byte? -/
def leafHolds (e size key : Nat) : Bool :=
  leafApt e == 0 && decide (leafPfn e * 65536 ≤ key ∧ key < leafPfn e * 65536 + size)

/-- The address and ASID under which some cache may hold a local byte (R382): those of the leaf used last of the leaves that
map it. -/
def cachedAlias (s : State) (key : Nat) : Option (BitVec 16 × Nat) :=
  (s.tlb.find? fun x => leafHolds x.2.2.2.toNat x.2.2.1 key).map fun x =>
    (x.1, x.2.1 + (key - leafPfn x.2.2.2.toNat * 65536))

/-- The keys of bytes of an address space, where a leaf that some cache holds gives them. -/
def aliasKeys (s : State) (asid : BitVec 16) (va n : Nat) : List Nat :=
  (List.range n).filterMap fun i => (tlbFind s asid (va + i)).map fun x =>
    leafKey x.2.2.toNat (leafPfn x.2.2.toNat * 65536 + (va + i - x.1))

/-- The bytes of the virtual sector that holds `va`, by key: those in the page of `key`, and where the sector straddles a
page boundary those that the tables of `root` give in the other page (R187, R406). An agent that has a physical address only
reaches the sector under which its byte is cached (R382), and where no leaf is held for it the bytes of its frame alone
(log 36). -/
def sectorKeys (s : State) (root : Option Nat) (va key : Nat) : List Nat :=
  let first := va / 48 * 48
  let cut := 65536 - first % 65536
  let near := ((List.range 48).filter fun i => (first + i) / 65536 == va / 65536).map fun i => key + (first + i) - va
  match root with
  | some r =>
    if 48 ≤ cut then near
    else if va < first + cut then near ++ peekKeys s r (first + cut) (48 - cut) else peekKeys s r first cut ++ near
  | none => match cachedAlias s key with
    | some (asid, x) => aliasKeys s asid (x / 48 * 48) 48
    | none => near

/-- Is the sector of an access poisoned (R406)? -/
def sectorPoisoned (s : State) (root : Option Nat) (va key : Nat) : Bool := (sectorKeys s root va key).any (poisonedKey s)

/-- Is a read of a byte at an address one that no cache serves (R190): its leaf, as the tables stand, has NC = 1, and no leaf
with NC = 0 that maps the byte is held? -/
def uncached (s : State) (root : Option Nat) (va key : Nat) : Bool :=
  match root with
  | none => false
  | some r => match walk s.mem r va with
    | .leaf _ e L => leafNc e && leafKey e (leafPa e L va) == key &&
        !(s.tlb.any fun x => !leafNc x.2.2.2.toNat && leafHolds x.2.2.2.toNat x.2.2.1 key)
    | _ => false

/-- A demand read of bytes fills their sectors, whose codewords it meets (R187, R406). -/
def meetSectors (s : State) (root : Option Nat) (xs : List (Nat × Nat)) : State :=
  if hbmClean s && s.sram.isEmpty then s
  else
    let sec (x : Nat × Nat) : List Nat := sectorKeys s root x.1 x.2
    let ncs := codewordsOf ((xs.filter fun x => uncached s root x.1 x.2).flatMap sec)
    meetCells s ncs.contains (xs.map sec)

/-- For each sector of a run of bytes, and each page of one that straddles two, an address and its key. -/
def runSectors (va : Nat) (keys : List Nat) : List (Nat × Nat) :=
  ((keys.zipIdx).filter fun x => x.2 == 0 || (va + x.2) % 48 == 0 || (va + x.2) % 65536 == 0).map fun x => (va + x.2, x.1)

/-- A read of bytes that may span sectors and pages. -/
def meetRun (s : State) (root : Option Nat) (va : Nat) (keys : List Nat) : State :=
  if hbmClean s && s.sram.isEmpty then s else meetSectors s root (runSectors va keys)

/-- Does a read of bytes meet a poisoned sector (R406)? -/
def runPoisoned (s : State) (root : Option Nat) (va : Nat) (keys : List Nat) : Bool :=
  !(s.hbm.pois.isEmpty && s.hbm.failed.isEmpty) && (runSectors va keys).any fun x => sectorPoisoned s root x.1 x.2

/-- A sector is written, by a store of a core or by another agent: the copy in the issuing core's L1 takes its bytes, no other
L1 keeps one, and a copy written whole holds fresh check bits (R186, R189, R404). -/
def rewriteSector (s : State) (core : Option Nat) (sk ks : List Nat) : State :=
  if s.sram.isEmpty then s
  else
    let whole := sk.all ks.contains
    { s with sram := s.sram.filter fun e =>
        !(sk.any (unitHolds e.2.2) &&
          ((e.2.1 % 16 == 4 && (whole || core != some e.1)) || (e.2.1 % 16 == 5 && whole))) }

/-- Write bytes by key, `core` being that of a store. A sector that the write covers whole loses its poison; one covered in
part keeps it (R196). Writes to a failed pseudo-channel are discarded (R424). `va` is an address in the sector and `key` its
key. -/
def writeSector (s : State) (core root : Option Nat) (va key : Nat) (kbs : List (Nat × Byte)) : State :=
  let kbs := kbs.filter fun x => !failedKey s x.1
  let s1 := overwrite { s with mem := memSets s.mem (kbs.map Prod.fst) (kbs.map Prod.snd) } (kbs.map Prod.fst)
  let sk := sectorKeys s root va key
  let s1 := rewriteSector s1 core sk (kbs.map Prod.fst)
  if sk.all fun k => kbs.any fun x => x.1 == k then cleanKeys s1 sk else s1

end Sys2Proof.Machine
end

