-- ==== Sys2Proof/Machine/Access.lean ====
section
/-! DEFINITION. Operations in flight: how a memory instruction becomes one, what orders it (spec/07 R184, R194, R195; spec/08
R212, R229; spec/09 R236 to R238, R244), its grant, and the traps it raises late (R196, R387, R454). -/

namespace Sys2Proof.Machine

/-! ## Making an operation -/

/-- What fixes an operation when its instruction issues. -/
structure OpSpec where
  i : Instr
  mask : Mask
  stage : Stage
  reqs : List Req := []
  args : List Dword := []
  dsts : List Dst := []
  gran : List (List Nat) := []

/-- Put an operation of the issue in hand in flight. -/
def pushOp (s : State) (v : View) (x : OpSpec) : State :=
  let o : Op :=
    { id := s.nextId, grp := v.g.id, core := v.g.core, team := v.g.team, i := x.i, pc := v.pc, mask := x.mask
      carried := v.carried, stage := x.stage, parkSeq := 0, reqs := x.reqs, args := x.args, dsts := x.dsts
      at_ := s.tb, cyc := v.cyc, gran := x.gran, sys := v.g.onBank, price := s.cur.price, counted := s.cur.counted }
  { s with ops := s.ops ++ [o], nextId := s.nextId + 1 }

/-- A request of a lane before translation. -/
def Req.new (lane : Nat) (va : Dword) (data cmp : List Byte) : Req :=
  { lane := lane, va := va, scr := none, keys := [], peer := none, data := data, cmp := cmp, got := [], pois := false
    bad := none, st := .fresh }

/-- A scratch request: its bytes are known at once. -/
def Req.scratch (lane core : Nat) (w : Win) (off n : Nat) (data cmp : List Byte) : Req :=
  { lane := lane, va := BitVec.ofNat 64 off, scr := some (core, w)
    keys := (List.range n).map fun i => scratchKey core w (off + i), peer := none, data := data, cmp := cmp
    got := [], pois := false, bad := none, st := .granted }

/-- Has the request ended? -/
def Req.ended (q : Req) : Bool :=
  match q.st with
  | .done => true
  | .timedOut => true
  | _ => false

/-- Change the requests of an operation. -/
def modReqs (s : State) (id : Nat) (f : Req → Req) : State :=
  modOp s id fun o => { o with reqs := o.reqs.map f }

/-- Change one lane's request. -/
def modReq (s : State) (id lane : Nat) (f : Req → Req) : State :=
  modReqs s id fun q => if q.lane == lane then f q else q

/-! ## What kind of operation -/

/-- ORD of a memory instruction. -/
def ordOf : Instr → MemOrd
  | .ld t | .st t | .lds t | .sts t | .ldsr t | .stsr t | .atom t | .red t | .atoms t => t.ord
  | _ => .none

/-- Is it an acquire whose satisfaction later accesses wait for (R238)? -/
def isAcquire (i : Instr) : Bool :=
  ordOf i == .acq || ordOf i == .acqrel || match i with
    | .btest _ => true
    | _ => false

/-- SCOPE of a memory instruction (R70). -/
def scopeOf : Instr → Scope
  | .st t | .sts t | .stsr t | .atom t | .red t | .atoms t | .fence t => t.scope
  | _ => .dev

/-- Is it a release that waits for earlier accesses (R237)? -/
def isRelease (i : Instr) : Bool :=
  ordOf i == .rel || ordOf i == .acqrel || match i with
    | .barvOne _ | .barvEach _ | .enq _ => true
    | _ => false

/-- Is it a lane access to memory or scratch (R231)? -/
def isAccess : Instr → Bool
  | .ld _ | .st _ | .gld _ | .lds _ | .sts _ | .ldsr _ | .stsr _ | .atom _ | .red _ | .atoms _ => true
  | _ => false

/-- Does it write memory? -/
def isWrite : Instr → Bool
  | .st _ | .sts _ | .stsr _ | .atom _ | .red _ | .atoms _ => true
  | _ => false

/-- Does it read memory? -/
def isRead : Instr → Bool
  | .ld _ | .gld _ | .lds _ | .ldsr _ | .atom _ | .atoms _ => true
  | _ => false

/-- Is it a read or an atomic (R221, R231)? -/
def isReadOrAtomic (i : Instr) : Bool :=
  isRead i || match i with
    | .red _ => true
    | _ => false

/-- Does a release wait for an earlier operation of its fibres (R237)? At FIB scope every earlier write has performed as soon
as it is made, since the fibre itself reads it (R233, R234), so only reads and atomics are waited for; at every wider scope a
write performs at one moment, when it performs at its home (R235). -/
def releaseWaits (o p : Instr) : Bool := if scopeOf o == .fib then isReadOrAtomic p else isAccess p

/-- Is it a barrier-unit operation (R204)? -/
def isBarrierOp : Instr → Bool
  | .binit _ | .barvOne _ | .barvEach _ | .bexp _ | .bwait _ | .btest _ | .brd _ | .rbind _ | .rfree _ => true
  | _ => false

/-- Does it change the team's regions (R210)? -/
def isRegionOp : Instr → Bool
  | .rbind _ | .rfree _ => true
  | _ => false

/-- Destinations of one of an operation's requests, when each has as many. -/
def dstsOfLane (o : Op) (per idx : Nat) : List Dst := (o.dsts.drop (per * idx)).take per

/-- The number of destinations that each request of an operation has. -/
def Op.per (o : Op) : Nat := if o.reqs.isEmpty then 0 else o.dsts.length / o.reqs.length

/-! ## Order (R236) -/

/-- Earlier operations of the same fibres. -/
def earlierOps (s : State) (o : Op) : List Op :=
  s.ops.filter fun p => p.grp == o.grp && decide (p.id < o.id) && p.mask &&& o.mask != 0

/-- Do two requests of one lane touch a common byte? -/
def sameByte (p q : Req) : Bool := p.lane == q.lane && p.keys.any fun k => q.keys.contains k

/-- Do two requests reach one core's scratchpad? -/
def sameScratch (p q : Req) : Bool :=
  match p.scr, q.scr with
  | some (c, _), some (d, _) => c == d
  | _, _ => false

/-- Has an operation something left to do for a fibre of a mask? -/
def Op.pending (p : Op) (m : Mask) : Bool :=
  if p.reqs.isEmpty then p.mask &&& m != 0 else p.reqs.any fun r => !r.ended && m.has r.lane

/-- Must request `q` of an operation wait for the unfinished operation `p` of its fibres (R236 to R238)? -/
def mustWait (o : Op) (q : Req) (p : Op) : Bool :=
  (((releaseWaits o.i p.i && isRelease o.i) || isAcquire p.i) && p.pending (Mask.bit q.lane)) ||
    p.reqs.any fun r => !r.ended && sameByte r q

/-- Is an earlier access of the group to the same core's scratchpad still to be served (R184)? -/
def scratchBehind (s : State) (o : Op) (q : Req) : Bool :=
  s.ops.any fun p => p.grp == o.grp && decide (p.id < o.id) && p.reqs.any fun r => !r.ended && sameScratch r q

/-- Does a trap entry or a TRET, which orders as a fence at FIB scope, stand between an earlier read of some fibres and what
comes under handle `id` (R249, R308)? -/
def fencedBehind (s : State) (gid : Nat) (m : Mask) (id : Nat) : Bool :=
  match getGroup s gid with
  | none => false
  | some g => (lanesOf m).any fun i => (g.lane i).fences.any fun f =>
      decide (f ≤ id) && s.ops.any fun p =>
        p.grp == gid && decide (p.id < f) && isReadOrAtomic p.i && p.pending (Mask.bit i)

/-- The bytes of memory that a request of a copy line writes: as looked up, else as the tables map them now. -/
def segKeys (s : State) (l : Line) (q : Seg) : List Nat :=
  if l.dline ≥ 2 ^ 60 then []
  else if q.dkeys != [] then q.dkeys else peekRun s (teamSpace s l.team).1 q.dst.toNat q.size

/-- Does a copy line write one of some bytes of memory? One that a fatal fault has ended has released its lines (R244). -/
def lineWrites (s : State) (l : Line) (ks : List Nat) : Bool :=
  !l.dead && !ks.isEmpty && l.segs.any fun q => (segKeys s l q).any ks.contains

/-- Must a request of a copy's participant come before a line of the copy (R253)? -/
def goesBefore (s : State) (o : Op) (q : Req) (l : Line) : Bool :=
  l.grp == o.grp && decide (o.id < l.copy) && l.segs.any fun x =>
    x.lane == q.lane && q.keys.any fun k => (segKeys s l x).contains k || x.skeys.contains k

/-- Does an engine own the line of a global byte, under this address or through an alias (R189, R244, R382)? An access issued
before the engine took it goes first, unless the engine has begun to write it. -/
def ownedByEngine (s : State) (o : Op) (q : Req) : Bool :=
  q.scr.isNone && s.lines.any fun l =>
    !l.dead && l.dline < 2 ^ 60 && (decide (l.id < o.id) || l.started) && !goesBefore s o q l &&
      ((l.dline == q.va.toNat / 192 && (teamSpace s l.team).2 == (teamSpace s o.team).2) || lineWrites s l q.keys)

/-- Does an engine own a line that some bytes of memory lie in, as any other agent meets it (R244)? -/
def linesHold (s : State) (ks : List Nat) : Bool := s.lines.any fun l => lineWrites s l ks

/-- Are index bytes of an earlier GATH of the group still to be read where a scratch write would land (R202)? -/
def gatherHolds (s : State) (o : Op) (q : Req) : Bool :=
  isWrite o.i && match getGroup s o.grp with
    | some g => g.gs.any fun x =>
        decide (x.id < o.id) && q.keys.any fun k =>
          decide (scratchKey g.coreNo .gen (x.b + 4 * x.next) ≤ k ∧ k < scratchKey g.coreNo .gen (x.b + 4 * x.n))
    | none => false

/-- Does an earlier engine operation of the group still hold a request's scratch bytes (R143, R170)? -/
def engineHolds (s : State) (o : Op) (q : Req) : Bool :=
  match q.scr with
  | none => false
  | some (c, w) =>
    let x : Range := { win := w, off := q.va.toNat, n := q.keys.length, write := isWrite o.i }
    coreNoOf s o.grp == c && (engineRanges s o.grp o.id).any fun y => x.clash y

/-- Is the issue of a cycle still in its core's commit gate: have fewer than four cycles gone by (R418)? -/
def gateHolds (s : State) (core cyc : Nat) : Bool := decide ((getCore s core).cyc < cyc + 4)

/-- May a request of an operation be satisfied or perform now? -/
def reqReady (s : State) (o : Op) (q : Req) : Bool :=
  !(isWrite o.i && gateHolds s o.core o.cyc) && !(earlierOps s o).any (mustWait o q) &&
    !fencedBehind s o.grp (Mask.bit q.lane) o.id && !scratchBehind s o q && !engineHolds s o q && !ownedByEngine s o q &&
    !(q.scr.isSome && gatherHolds s o q)

/-- A number as a 64-bit argument. -/
def arg (n : Nat) : Dword := BitVec.ofNat 64 n

/-- Bytes that an access instruction moves in one lane. -/
def bytesOf : Instr → Nat
  | .ld t | .st t | .lds t | .sts t | .ldsr t | .stsr t | .atom t | .red t | .atoms t => t.size.bytes
  | .gld t => if t.ty.is64 then 8 else 4
  | .enq _ => 16
  | _ => 0

/-- Is it a BARV (R204)? -/
def isBarv : Instr → Bool
  | .barvOne _ | .barvEach _ => true
  | _ => false

/-- Does a range hold one of `n` bytes from an address (R210)? -/
def Region.meets (r : Region) (va n : Nat) : Bool :=
  decide (va < r.base.toNat + 192 * r.lines ∧ r.base.toNat < va + n)

/-- Is it a write to global memory, no byte of which still to be written lies in a region bound to the barrier of a BARV? The
BARV does not release it, and it may perform before the BARV or after (R212, R214, R443; log 34). -/
def outsideRegions (s : State) (o p : Op) : Bool :=
  match p.i with
  | .st _ | .red _ =>
      let regs := ((getTeam s o.team).map fun t => t.regions.filterMap id).getD []
      !p.reqs.any fun q => !q.ended && regs.any fun r =>
        arg r.core == nth 0 o.args 0 && arg r.bar == nth 0 o.args 1 && r.meets q.va.toNat (bytesOf p.i)
  | _ => false

/-- May what an operation does for the fibres `m`, beyond its requests, happen now: earlier accesses are over where it
releases them, and earlier acquires are (R212, R237, R238)? -/
def opReady (s : State) (o : Op) (m : Mask) : Bool :=
  !(fencedBehind s o.grp o.mask o.id) &&
    !(earlierOps s o).any fun p =>
      ((isAccess p.i && isRelease o.i && !(isBarv o.i && outsideRegions s o p)) || isAcquire p.i) && p.pending m

/-! ## Traps raised late -/

/-- Raise a deferred trap for the fibres of an issue that have not exited; with none left the slice ends (R387). `since` is
the handle of the operation that raises it. -/
def deferAt (s : State) (since gid : Nat) (carried : Mask) (pc : Dword) (cause : Nat) (tval : Dword)
    (src : Option (Nat × Nat)) : State :=
  match getGroup s gid with
  | none => s
  | some g =>
    let set := carried &&& g.active
    if set = 0 then
      match sliceOf s g with
      | some x => endSliceBy s x.id gid since { code := 2, cause := cause, tepc := pc, tval := tval }
      | none => s
    else modGroupSince s gid since fun g =>
      { g with deferred := g.deferred ++ [{ cause := cause, tepc := pc, tval := tval, set := set, src := src }] }

/-- A deferred trap of an operation (R387); one of a system handler's own operation is raised inside it (R390). -/
def deferTrap (s : State) (o : Op) (cause : Nat) (tval : Dword) (src : Option (Nat × Nat)) : State :=
  let inside := match getGroup s o.grp with
    | some g => o.sys && g.st.active
    | none => false
  if inside then takeTrapSince s o.id o.grp o.carried cause o.pc tval true
  else deferAt s o.id o.grp o.carried o.pc cause tval src

/-- Can a precise trap of an operation's fibres be taken now: no handler of other fibres of the group is at work (R387)? -/
def trapFree (s : State) (o : Op) : Bool :=
  match getGroup s o.grp with
  | none => true
  | some g =>
    if g.st.active then o.carried &&& ~~~g.st.set == 0
    else if g.sysPend.isSome then false
    else !g.ut.active || o.carried &&& ~~~g.ut.set == 0

/-- An operation that holds its fibres traps precisely and is gone; its reissue is not charged again (R344, R387). -/
def trapOp (s : State) (o : Op) (cause : Nat) (tval : Dword) : State :=
  takeTrapSince (dropOp s o.id) o.id o.grp o.carried cause o.pc tval true

/-- The fibres that an operation holds go to the next instruction. -/
def passOp (s : State) (o : Op) : State :=
  modGroupSince s o.grp o.id fun g => g.advance o.carried o.i.len

/-- Write registers when an operation returns them. -/
def landRegs (s : State) (o : Op) (ws : List (Dst × Word)) : State := modGroupSince s o.grp o.id fun g => g.writes ws

/-! ## The grant (R194, R195, R226) -/

/-- Does the group of an operation run at level S? -/
def opLevelS (s : State) (o : Op) : Bool :=
  match getGroup s o.grp with
  | some g => levelS s g
  | none => false

/-- Context number of a team's slice; 64 is the system context. -/
def ctxOfTeam (s : State) (team : Nat) : Nat :=
  match (getTeam s team).bind fun t => getSlice s t.slice with
  | some x => x.ctx
  | none => 64

/-- What an instruction's access wants (R226, R379). -/
def wantOf : Instr → Want
  | .st _ | .red _ => .write
  | .atom _ => .atomic
  | _ => .read

/-- Check number of a failed grant (R194). -/
def checkOfCause (c : Nat) : Nat := if c = 0x08 then 4 else 5

/-- The two further checks of atomics (R226): RAPF and ATOMUNSUP. -/
def atomChecks (i : Instr) (e : Nat) : Option (Nat × Nat) :=
  let host (opx : BitVec 4) : Bool := leafApt e == 2 && !(opx == 0 || opx == 8 || opx == 9)
  match i with
  | .atom t | .red t =>
      if leafApt e = 1 ∧ !leafRap e then some (6, 0x0A)
      else if host t.opx then some (7, 0x13) else none
  | _ => none

/-- The leaf that now serves an address, for the checks that need more than the grant. -/
def leafAt (s : State) (asid : BitVec 16) (va : Nat) : Nat :=
  match tlbFind s asid va with
  | some (_, _, e) => e.toNat
  | none => 0

/-- The leaf under which an address has just failed for want of permission: the one that the tables hold, if it refuses too,
else the cached one. -/
def leafNow (s : State) (root : Nat) (asid : BitVec 16) (va : Nat) (k : Want) : Nat :=
  match walk s.mem root va with
  | .leaf _ e L => if leafCheck e (leafPa e L va) k = some 0x09 then e else leafAt s asid va
  | _ => leafAt s asid va

/-- Ask for one request's grant. A peer's check of the frame is part of check 4, so that it comes before a missing permission
and the checks of atomics (R195, R226, R385). -/
def grantReq (s : State) (o : Op) (q : Req) : State × Req :=
  let (root, asid) := teamSpace s o.team
  let late (s : State) (e k c : Nat) : State × Req :=
    if leafApt e = 1 then
      match admitPeer s o.team with
      | (s1, true) => (s1, { q with st := .failed k c })
      | (s1, false) => (s1, { q with st := .failed 4 0x08 })
    else (s, { q with st := .failed k c })
  let ask (s : State) : State × Req :=
    let n := bytesOf o.i
    match translate s root asid (opLevelS s o) q.va.toNat (wantOf o.i) with
    | (s1, .wait m) =>
        let (s2, tok) := postWaiting s1 0 (ctxByte (ctxOfTeam s o.team))
          ((if m then 2 else 0) + (if (wantOf o.i).writes then 4 else 0)) asid (srcOfCore o.core) q.va
        (s2, { q with st := .waiting tok })
    | (s1, .fail c) => if c = 0x09 then late s1 (leafNow s1 root asid q.va.toNat (wantOf o.i)) 5 c
        else (s1, { q with st := .failed (checkOfCause c) c })
    | (s1, .ok key peer pois) =>
        match atomChecks o.i (leafAt s1 asid q.va.toNat) with
        | some (k, c) => late s1 (leafAt s1 asid q.va.toNat) k c
        | none =>
          match if peer.isSome then admitPeer s1 o.team else (s1, true) with
          | (s2, true) =>
            (s2, { q with st := .granted, keys := (List.range n).map (key + ·), peer := peer, pois := pois })
          | (s2, false) => (s2, { q with st := .failed 4 0x08 })
  match q.st with
  | .fresh => ask s
  | .verdict fatal => if fatal then (s, { q with st := .failed 4 0x08 }) else ask s
  | _ => (s, q)

/-- Grants of every request, in lane order. -/
def grantReqs (s : State) (o : Op) : List Req → State × List Req
  | [] => (s, [])
  | q :: qs =>
    let (s1, q1) := grantReq s o q
    let (s2, qs2) := grantReqs s1 o qs
    (s2, q1 :: qs2)

/-- Does a request still wait for its grant? -/
def Req.waits (q : Req) : Bool :=
  match q.st with
  | .fresh => true
  | .waiting _ => true
  | .verdict _ => true
  | _ => false

/-- The failed check of a request. -/
def Req.failure (q : Req) : Option (Nat × Nat) :=
  match q.st with
  | .failed k c => some (k, c)
  | _ => none

/-- The first check that any request fails, and its lowest lane's address (R194). -/
def firstGrantFail (qs : List Req) : Option (Nat × Dword) :=
  (List.range 8).findSome? fun k =>
    qs.findSome? fun q => match q.failure with
      | some (j, c) => if j == k then some (c, q.va) else none
      | none => none

/-- Peers that an operation's requests address, with the number of lines to each (R449). -/
def peersOfReqs (qs : List Req) : List (Nat × Nat) :=
  let ps := (qs.filterMap Req.peer).eraseDups
  ps.map fun p => (p, (qs.filter fun q => q.peer == some p).length)

/-- Is an issue that wants a peer parked already, ahead of a place in the order (R265)? -/
def parkedAhead (s : State) (seq : Nat) (ps : List (Nat × Nat)) : Bool :=
  (s.ops.any fun p => p.stage == .parked && decide (p.parkSeq < seq) &&
    (peersOfReqs p.reqs).any fun x => ps.any fun y => x.1 == y.1) ||
  (s.groups.any fun g => match g.parked with
    | some c => decide (c.seq < seq) && c.peers.any fun x => ps.any fun y => x.1 == y.1
    | none => false)

/-! ## Waits on barriers (R156, R208) -/

/-- Argument `n` of an operation as a number. -/
def Op.arg (o : Op) (n : Nat) : Nat := (nth 0 o.args n).toNat

/-- GRP of a group's handle. -/
def grpNo (s : State) (gid : Nat) : Nat := ((getGroup s gid).map Group.grp).getD 0

/-- A registered wait looks at its barrier (R208): its phase first, then a freeze flag. On the team's baton it completes
only while HELD = 0, and takes the baton in the same step (R156). -/
def settleWait (s : State) (o : Op) : State :=
  let core := o.arg 0
  let off := o.arg 1
  let b := getBar s o.team core off
  let mark (n : Dword) : State := modOp s o.id fun o => { o with args := setNth o.args 4 n }
  if b.phase = o.arg 2 then
    match getTCore s o.team core with
    | none => mark 2
    | some tc =>
      if tc.baton = some off then
        if tc.held then s
        else modTCore (mark 2) o.team core fun tc => { tc with held := true, holder := grpNo s o.grp }
      else mark 2
  else if b.frozen then mark 3 else s

/-- Is an operation a wait? -/
def isBwait : Instr → Bool
  | .bwait _ => true
  | _ => false

/-- Registered waits of a barrier see its word, the one issued first before the others (R156, R208). -/
def notifyWaits (s : State) (team core off : Nat) : State :=
  (s.ops.filter fun o =>
    isBwait o.i && o.team == team && o.arg 0 == core && o.arg 1 == off && o.arg 4 == 1).foldl settleWait s

/-- Is an operation one that pre-emption saves as unissued (R230, R394): a grant wait, a parked access, a blocked ENQ, a BWAIT
that has not completed? -/
def Op.unissues (o : Op) : Bool :=
  match o.stage with
  | .grant | .parked | .blocked => true
  | .active => isBwait o.i && o.arg 4 != 2

/-- A write into scratch has changed `n` bytes of GEN at an offset: registered waits see the words that it touches (R208). -/
def notifyBytes (s : State) (team core : Nat) (w : Win) (off n : Nat) : State :=
  if w = .gen then
    ((s.ops.filter fun o => isBwait o.i && o.team == team && o.arg 0 == core && o.arg 4 == 1 &&
      decide (o.arg 1 < off + n ∧ off < o.arg 1 + 16)).map fun o => o.arg 1).eraseDups.foldl
        (fun s x => notifyWaits s team core x) s
  else s

end Sys2Proof.Machine
end

