-- ==== Sys2Proof/Machine/Exchange.lean ====
section
/-! DEFINITION. Lane exchange and votes, class 0x5 (spec/04 R112, R129 to R132). -/

namespace Sys2Proof.Machine

/-- Latency of class 0x5 (R60). -/
def latExch : Nat := 6

/-- Source lane of SHFL.IDX for a segment width (R129). -/
def shflIdxLane (w lane b : Nat) : Nat := lane / w * w + b % w

/-- Source lane of SHFL.UP. -/
def shflUpLane (w lane b : Nat) : Nat := if b ≥ w ∨ lane < lane / w * w + b then lane else lane - b

/-- Source lane of SHFL.DN. -/
def shflDnLane (w lane b : Nat) : Nat := if b ≥ w ∨ lane + b ≥ lane / w * w + w then lane else lane + b

/-- Source lane of SHFL.XOR. -/
def shflXorLane (w lane b : Nat) : Nat := lane ^^^ (b % w)

/-- Segment width of VAR (R129). -/
def segWidth (t : TI) : Nat := 64 / 2 ^ t.var.toNat

/-- A shuffle: A of the chosen lane if it takes part, else A of the own lane (R129). -/
def shuffle (s : State) (t : TI) (src : Nat → Nat → Nat → Nat) : State :=
  laneOp s t.h latExch fun v l =>
    let k := src (segWidth t) l (v.src32 t.h l t.b).toNat
    let from_ := if (v.sharers t.h).has k then k else l
    { ws := if t.ty.is64 then v.g.put64 l t.d (v.long t from_ t.a) else v.g.put32 l t.d (v.src32 t.h from_ t.a) }

/-- SHFL.IDX (R129). -/
def execShflIdx (t : TI) (s : State) : Host.Outcome State Fault Refusal := .next (shuffle s t shflIdxLane)

/-- SHFL.UP (R129). -/
def execShflUp (t : TI) (s : State) : Host.Outcome State Fault Refusal := .next (shuffle s t shflUpLane)

/-- SHFL.DN (R129). -/
def execShflDn (t : TI) (s : State) : Host.Outcome State Fault Refusal := .next (shuffle s t shflDnLane)

/-- SHFL.XOR (R129). -/
def execShflXor (t : TI) (s : State) : Host.Outcome State Fault Refusal := .next (shuffle s t shflXorLane)

/-- The participants whose predicate A holds (R130, R131). -/
def View.ballot (v : View) (t : TI) : Mask := maskOf fun l => (v.sharers t.h).has l && v.pred l t.a

/-- BALLOT (R130). -/
def execBallot (t : TI) (s : State) : Host.Outcome State Fault Refusal :=
  .next (laneOp s t.h latExch fun v l => { ws := v.g.put64 l t.d (v.ballot t) })

/-- The result of VOTE (R131): all, any, or the same in every participant. -/
def voteVal (op : Nat) (parts yes : Mask) : Bool :=
  match op with
  | 0 => yes == parts
  | 1 => yes != 0
  | _ => yes == 0 || yes == parts

/-- VOTE: the result in D of every participant, and GF; nothing without a participant (R131). -/
def execVote (t : TI) (s : State) : Host.Outcome State Fault Refusal :=
  .next (match viewOf s with
    | none => endIssue s
    | some v =>
      let m := v.parts t.h
      let yes := v.ballot t
      let r := voteVal t.var.toNat (v.sharers t.h) yes
      if m = 0 then issueDone s t.h.len.bytes
      else
        issueDone (modGroup s v.g.id fun g =>
          g.writesFixed v.cyc latExch
            ((lanesOf m).flatMap (fun l => v.g.put32 l t.d (bit32 r)) ++
              [(.gf g.onBank, (gfVote r (yes != 0)).setWidth 32)])) t.h.len.bytes)

/-- MPOPC: the 1 bits of A below the own lane (R130). -/
def execMpopc (t : TI) (s : State) : Host.Outcome State Fault Refusal :=
  .next (laneOp s t.h latExch fun v l =>
    { ws := v.g.put32 l t.d (BitVec.ofNat 32
        (((List.range l).filter fun i => (v.src64 t.h l false t.a).getLsbD i).length)) })

/-- One element of an F32 fold, which starts with its first operand passed through R87 (R132). -/
def foldFloat (op : Nat) (acc : FRes) (x : Word) : FRes :=
  match op with
  | 0 =>
      let e := addExact .rne (fmtF32.decode acc.code) (fmtF32.decode x.toNat)
      let r := e.round fmtF32 .rne false 0
      ⟨r.code, acc.flags ||| r.flags⟩
  | 1 => let r := minMax fmtF32 false acc.code x.toNat; ⟨r.code, acc.flags ||| r.flags⟩
  | _ => let r := minMax fmtF32 true acc.code x.toNat; ⟨r.code, acc.flags ||| r.flags⟩

/-- R87 on one F32 code: a NaN becomes the canonical NaN, signalling with IV. -/
def canonF32 (x : Word) : FRes :=
  match fmtF32.decode x.toNat with
  | .nan sig => ⟨fmtF32.nan, flIf sig flIV⟩
  | _ => ⟨x.toNat, 0⟩

/-- REDUX over a list in ascending lane order (R132). -/
def reduxVal (t : TI) (xs : List Word) : FRes :=
  let op := t.rndBits.toNat
  match xs with
  | [] => ⟨0, 0⟩
  | x :: rest =>
    if t.ty = .f32 then rest.foldl (foldFloat op) (canonF32 x)
    else
      let w : Word := match op with
        | 0 => store32 t.ty t.sat ((xs.map (int32 t.ty)).sum)
        | 1 => rest.foldl (iminVal t.ty) x
        | 2 => rest.foldl (imaxVal t.ty) x
        | 3 => rest.foldl (· &&& ·) x
        | 4 => rest.foldl (· ||| ·) x
        | _ => rest.foldl (· ^^^ ·) x
      ⟨w.toNat, 0⟩

/-- REDUX (R132). -/
def execRedux (t : TI) (s : State) : Host.Outcome State Fault Refusal :=
  .next (laneOp s t.h latExch fun v =>
    let r := reduxVal t ((lanesOf (v.sharers t.h)).map fun l => v.src32 t.h l t.a)
    fun l => { ws := v.g.put32 l t.d (BitVec.ofNat 32 r.code), flags := r.flags })

/-- MATCH: the participants whose A equals the own A (R130). -/
def execMatch (t : TI) (s : State) : Host.Outcome State Fault Refusal :=
  .next (laneOp s t.h latExch fun v l =>
    let a (k : Nat) : Dword := if t.ty.is64 then v.src64 t.h k false t.a else (v.src32 t.h k t.a).setWidth 64
    { ws := v.g.put64 l t.d (maskOf fun k => (v.sharers t.h).has k && a k == a l) })

end Sys2Proof.Machine
end

