-- ==== Sys2Proof/Machine/GroupPipe.lean ====
section
/-! DEFINITION. The group pipe, class 0x6, GLD apart (spec/04 R133 to R135, R137). -/

namespace Sys2Proof.Machine

/-- Latency of class 0x6 (R60). -/
def latGroup : Nat := 2

/-- The group pipe: once for the group, needing convergence (R111, R134). -/
def groupOp (s : State) (h : Hdr) (f : View → List (Dst × Word)) : State :=
  match viewOf s with
  | none => endIssue s
  | some v =>
    if v.g.converged v.pc then
      issueDone (modGroup s v.g.id fun g => g.writesFixed v.cyc latGroup (f v)) h.len.bytes
    else takeTrap s 0x04 0

/-- A group-pipe result of the type's width. -/
def groupPut (v : View) (t : TI) (x : Dword) : List (Dst × Word) :=
  if t.ty.is64 then v.g.put64 0 t.d x else v.g.put32 0 t.d x.lo

/-- A group-pipe source as an integer of the type. -/
def View.groupInt (v : View) (t : TI) (o : Opd) : Int :=
  if t.ty.is64 then int64 t.ty (v.long t 0 o) else int32 t.ty (v.src32 t.h 0 o)

/-- A group-pipe source as bits of the type's width, in a pair. -/
def View.groupBits (v : View) (t : TI) (o : Opd) : Dword :=
  if t.ty.is64 then v.long t 0 o else (v.src32 t.h 0 o).setWidth 64

/-- An exact integer stored in the type (R83), in a pair. -/
def groupStore (t : TI) (x : Int) : Dword :=
  if t.ty.is64 then store64 t.ty t.sat x else (store32 t.ty t.sat x).setWidth 64

/-- Arithmetic of the group pipe. -/
def groupArith (s : State) (t : TI) (f : Int → Int → Int) : State :=
  groupOp s t.h fun v => groupPut v t (groupStore t (f (v.groupInt t t.a) (v.groupInt t t.b)))

/-- GADD (R134). -/
def execGadd (t : TI) (s : State) : Host.Outcome State Fault Refusal := .next (groupArith s t fun a b => a + b)

/-- GSUB (R134). -/
def execGsub (t : TI) (s : State) : Host.Outcome State Fault Refusal := .next (groupArith s t fun a b => a - b)

/-- GMUL (R134). -/
def execGmul (t : TI) (s : State) : Host.Outcome State Fault Refusal := .next (groupArith s t fun a b => a * b)

/-- The bitwise operations of GLOG (R134). -/
def glogVal (op : Nat) (a b : Dword) : Dword :=
  match op with
  | 0 => a &&& b
  | 1 => a ||| b
  | 2 => a ^^^ b
  | _ => a &&& ~~~b

/-- GLOG (R134). -/
def execGlog (t : TI) (s : State) : Host.Outcome State Fault Refusal :=
  .next (groupOp s t.h fun v => groupPut v t (glogVal t.var.toNat (v.groupBits t t.a) (v.groupBits t t.b)))

/-- The shifts of GSHF at a width (R134). -/
def gshfVal {n : Nat} (op : Nat) (a : BitVec n) (k : Nat) : BitVec n :=
  match op with
  | 0 => shlBy a k
  | 1 => shrBy a k
  | 2 => sarBy a k
  | _ => rotBy a k

/-- GSHF (R134). -/
def execGshf (t : TI) (s : State) : Host.Outcome State Fault Refusal :=
  .next (groupOp s t.h fun v =>
    let k := (v.src32 t.h 0 t.b).toNat
    groupPut v t (if t.ty.is64 then gshfVal t.var.toNat (v.long t 0 t.a) k
      else (gshfVal t.var.toNat (v.src32 t.h 0 t.a) k).setWidth 64))

/-- GMOV (R134). -/
def execGmov (t : TI) (s : State) : Host.Outcome State Fault Refusal :=
  .next (groupOp s t.h fun v => groupPut v t (v.groupBits t t.a))

/-- GCMP: GF from A − B (R135). -/
def execGcmp (t : TI) (s : State) : Host.Outcome State Fault Refusal :=
  .next (groupOp s t.h fun v =>
    let f := if t.ty.is64 then gfCompare (v.long t 0 t.a) (v.long t 0 t.b) v.g.flags
      else gfCompare (v.src32 t.h 0 t.a) (v.src32 t.h 0 t.b) v.g.flags
    [(.gf v.g.onBank, f.setWidth 32)])

/-- RDLN: register A of lane B mod 64 (R137). -/
def execRdln (t : TI) (s : State) : Host.Outcome State Fault Refusal :=
  .next (groupOp s t.h fun v =>
    let l := (v.src32 t.h 0 t.b).toNat % 64
    let reg (j : Nat) : Word := match t.a with
      | .v k => v.g.read v.cyc (v.g.laneReg l (k.toNat + j))
      | _ => 0
    groupPut v t (if t.ty.is64 then Dword.mk (reg 0) (reg 1) else (reg 0).setWidth 64))

end Sys2Proof.Machine
end

