-- ==== Sys2Proof/Machine/MemoryOps.lean ====
section
/-! DEFINITION. Memory instructions, class 0x8, and GLD (spec/04 R136; spec/07 R193 to R202), and how their data moves. -/

namespace Sys2Proof.Machine

/-! ## Global accesses -/

/-- ALIGN of an address (R194, check 1). -/
def alignCheck (ea : Nat → Dword) (n : Nat) : Check :=
  fun l => if (ea l).toNat % n ≠ 0 then some (0x07, ea l) else none

/-- The address's upper bits (R194, check 3). -/
def upperCheck (ea : Nat → Dword) : Check := fun l => if (ea l).toNat ≥ 2 ^ 57 then some (0x08, ea l) else none

/-- A global access of every participant: checks 1 and 3, then an operation that waits for its grant (R194, R195). -/
def globalAccess (s : State) (i : Instr) (t : MI) (dsts : View → Nat → List Dst)
    (data cmp : View → Nat → List Byte) : State :=
  match viewOf s with
  | none => endIssue s
  | some v =>
    let m := v.parts t.h
    let lanes := lanesOf m
    let ea (l : Nat) : Dword := v.ea t.h l t.a
    match firstFail lanes [alignCheck ea t.size.bytes, upperCheck ea] with
    | some (c, tv) => takeTrap s c tv
    | none =>
      if m = 0 then issueDone s t.h.len.bytes
      else
        endIssue (pushOp s v
          { i := i, mask := m, stage := .grant
            reqs := lanes.map fun l => Req.new l (ea l) (data v l) (cmp v l)
            dsts := lanes.flatMap (dsts v) })

/-- LD (R197). -/
def execLd (t : MI) (s : State) : Host.Outcome State Fault Refusal :=
  .next (globalAccess s (.ld t) t (fun v l => v.g.dsts l (Size.words t.size) t.d) (fun _ _ => []) fun _ _ => [])

/-- ST (R197). -/
def execSt (t : MI) (s : State) : Host.Outcome State Fault Refusal :=
  .next (globalAccess s (.st t) t (fun _ _ => []) (fun v l => v.data t.h l t.size t.b) fun _ _ => [])

/-- The lowest-numbered active fibre; in a handler, of its trapped fibres (R389). -/
def Group.lowest (g : Group) : Nat := (lanesOf (g.active &&& g.scope)).headD 0

/-- GLD: one load for the group, as an LD by its lowest active fibre (R136). -/
def execGld (t : TI) (s : State) : Host.Outcome State Fault Refusal :=
  .next (match viewOf s with
    | none => endIssue s
    | some v =>
      if !v.g.converged v.pc then takeTrap s 0x04 0
      else
        let a := v.src64 t.h 0 false t.a
        let ea := v.ea t.h 0 t.a
        let n := if t.ty.is64 then 8 else 4
        let l := v.g.lowest
        if ea.toNat % n ≠ 0 then takeTrap s 0x07 ea
        else if a.toNat ≥ 2 ^ 57 ∨ ea.toNat ≥ 2 ^ 57 then takeTrap s 0x08 ea
        else
          endIssue (pushOp s v
            { i := .gld t, mask := Mask.bit l, stage := .grant, reqs := [Req.new l ea [] []]
              dsts := v.g.dsts l (n / 4) t.d }))

/-- Does a walk that changes nothing find an address mapped and readable (R199)? -/
def readable (s : State) (root va : Nat) : Bool :=
  match walk s.mem root va with
  | .leaf _ e L => match leafGrant e L va .read with
    | .ok _ _ _ => true
    | _ => false
  | _ => false

/-- A prefetch of an address reads its 192-byte line, of a line that straddles a page boundary what each page maps; nothing
when the translation faults (R187, R199). -/
def prefLine (s : State) (root va : Nat) : State :=
  if readable s root va then meetRun s (some root) (va / 192 * 192) (peekRun s root (va / 192 * 192) 192) else s

/-- PREF: it writes no state that programs see; the codewords it reads count as any read's (R199, R408). -/
def execPref (t : MI) (s : State) : Host.Outcome State Fault Refusal :=
  .next (match viewOf s with
    | none => endIssue s
    | some v =>
      let (root, _) := teamSpace s v.g.team
      issueDone ((lanesOf (v.parts t.h)).foldl (fun s l =>
        let ea := (v.ea t.h l t.a).toNat
        if ea < 2 ^ 57 ∧ (ea < 2 ^ 56 ∨ levelS s v.g) then prefLine s root ea else s) s) t.h.len.bytes)

/-! ## Scratch accesses -/

/-- The window of a scratch instruction (R198). -/
def winOfCode (c : Nat) : Win :=
  match c with
  | 0 => .gen
  | 1 => .wgt
  | _ => .act

/-- The granules of an access as numbers that name the core too. -/
def granKey (core g : Nat) : Nat := core * 2 ^ 32 + g

/-- Core of a granule number. -/
def granCore (x : Nat) : Nat := x / 2 ^ 32

/-- The request lists of an access (R181): for each target core, one list, or for 16 bytes the lower granules and then the
upper ones; a granule stands in a list once. Lists of different cores are served one after another, in the order in which
their cores first appear (log 59). -/
def requestLists (sz : Size) (xs : List (Nat × Nat)) : List (List Nat) :=
  let cores := (xs.map Prod.fst).eraseDups
  let one (c k : Nat) : List Nat :=
    ((xs.filter fun x => x.1 == c).map fun x => granKey c (x.2 / 8 + k)).eraseDups
  cores.flatMap fun c => if sz = .sz16 then [one c 0, one c 1] else [one c 0]

/-- A scratch access of every participant: ALIGN, then WINDOW (R194), then an operation in service. Where one participant's
offset and core are both out of range, TVAL is the offset, which is the model's choice (log 78). -/
def scratchAccess (s : State) (i : Instr) (t : MI) (w : Win) (core : View → Nat → Nat)
    (dsts : View → Nat → List Dst) (data cmp : View → Nat → List Byte) : State :=
  match viewOf s with
  | none => endIssue s
  | some v =>
    match getTeam s v.g.team with
    | none => endIssue s
    | some tm =>
      let m := v.parts t.h
      let lanes := lanesOf m
      let n := t.size.bytes
      let off (l : Nat) : Int := v.off t.h l t.a
      let align : Check := fun l => if off l % (n : Int) ≠ 0 then some (0x07, BitVec.ofInt 64 (off l)) else none
      let window : Check := fun l =>
        if off l < 0 ∨ off l + n > (winBytes tm w : Int) then some (0x12, BitVec.ofInt 64 (off l))
        else if core v l ≥ tm.cores.length then some (0x12, BitVec.ofNat 64 (core v l))
        else none
      match firstFail lanes [align, window] with
      | some (c, tv) => takeTrap s c tv
      | none =>
        if m = 0 then issueDone s t.h.len.bytes
        else
          issueDone (pushOp s v
            { i := i, mask := m, stage := .active
              reqs := lanes.map fun l => Req.scratch l (core v l) w (off l).toNat n (data v l) (cmp v l)
              dsts := lanes.flatMap (dsts v)
              gran := match i with
                | .atoms _ => []
                | _ => requestLists t.size (lanes.map fun l => (core v l, (off l).toNat)) }) t.h.len.bytes

/-- The issuing core's CORE value. -/
def ownCore (v : View) (_ : Nat) : Nat := v.g.coreNo

/-- The core that operand C names (R198). -/
def peerCore (t : MI) (v : View) (l : Nat) : Nat := (v.src32 t.h l t.c).toNat

/-- LDS (R198). -/
def execLds (t : MI) (s : State) : Host.Outcome State Fault Refusal :=
  .next (scratchAccess s (.lds t) t (winOfCode (t.opx.toNat % 4)) ownCore
    (fun v l => v.g.dsts l (Size.words t.size) t.d) (fun _ _ => []) fun _ _ => [])

/-- STS (R198). -/
def execSts (t : MI) (s : State) : Host.Outcome State Fault Refusal :=
  .next (scratchAccess s (.sts t) t (winOfCode (t.opx.toNat % 4)) ownCore (fun _ _ => [])
    (fun v l => v.data t.h l t.size t.b) fun _ _ => [])

/-- LDSR (R198). -/
def execLdsr (t : MI) (s : State) : Host.Outcome State Fault Refusal :=
  .next (scratchAccess s (.ldsr t) t (winOfCode (t.opx.toNat % 4)) (peerCore t)
    (fun v l => v.g.dsts l (Size.words t.size) t.d) (fun _ _ => []) fun _ _ => [])

/-- STSR (R198). -/
def execStsr (t : MI) (s : State) : Host.Outcome State Fault Refusal :=
  .next (scratchAccess s (.stsr t) t (winOfCode (t.opx.toNat % 4)) (peerCore t) (fun _ _ => [])
    (fun v l => v.data t.h l t.size t.b) fun _ _ => [])

/-! ## The gather engine -/

/-- GATH: three checks, then a stream of the group (R200). With n = 0 the checks are made all the same, which is the model's
choice (log 79). -/
def execGath (t : MI) (s : State) : Host.Outcome State Fault Refusal :=
  .next (match viewOf s with
    | none => endIssue s
    | some v =>
      match getTeam s v.g.team with
      | none => endIssue s
      | some tm =>
        let a := v.uni64 t.h t.a
        let b := v.uni t.h t.b
        let n := (v.uni t.h t.c).toNat
        let sz := t.size.bytes
        if !v.g.converged v.pc then takeTrap s 0x04 0
        else if b.toNat % 4 ≠ 0 then takeTrap s 0x07 (b.setWidth 64)
        else if a.toNat % sz ≠ 0 then takeTrap s 0x07 a
        else if n > 65536 then takeTrap s 0x12 (BitVec.ofNat 64 n)
        else if b.toNat + 4 * n > winBytes tm .gen then takeTrap s 0x12 (b.setWidth 64)
        else if n = 0 then issueDone s t.h.len.bytes
        else
          let x : GStream :=
            { id := s.nextId, a := a, b := b.toNat, n := n, size := sz, sx := t.opx.getLsbD 0, next := 0, part := []
              token := none, verdict := none }
          issueDone { modGroup s v.g.id fun g => { g with gs := g.gs ++ [x] } with nextId := s.nextId + 1 }
            t.h.len.bytes)

/-- What QPOP gives a lane: the low 32 bits, or the value in 64 (R201). -/
def qpopWords (sz : Size) (x : Dword) : List Word := if sz = .sz8 then [x.lo, x.hi] else [x.lo]

/-- QPOP (R201). Facing an empty queue with a stream pending it does not issue: the state stays as it is. -/
def execQpop (t : MI) (s : State) : Host.Outcome State Fault Refusal :=
  .next (match viewOf s with
    | none => endIssue s
    | some v =>
      let lanes := lanesOf (v.parts t.h)
      if !v.g.converged v.pc then takeTrap s 0x04 0
      else if lanes.isEmpty then issueDone s t.h.len.bytes
      else
        match v.g.gq with
        | [] => if v.g.gs.isEmpty then takeTrap s 0x12 0 else endIssue s
        | e :: rest =>
          let el (l : Nat) : GElem := nth { val := 0, mark := none } e.elems l
          match lanes.findSome? fun l => (el l).mark with
          | some (c, a) => takeTrap s c a
          | none =>
            issueDone (modGroup s v.g.id fun g =>
              { g.writes (lanes.flatMap fun l => v.g.putN l t.d (qpopWords t.size (el l).val)) with gq := rest })
              t.h.len.bytes)

/-! ## How data moves -/

/-- Registers that returned bytes make. -/
def wordsOf (i : Instr) (bs : List Byte) : List Word :=
  match i with
  | .ld t => loadWords t.size (t.opx.getLsbD 0) bs
  | .lds t | .ldsr t => loadWords t.size (t.opx.getLsbD 3) bs
  | .gld t => loadWords (if t.ty.is64 then .sz8 else .sz4) false bs
  | .atom t | .atoms t => loadWords t.size false bs
  | _ => []

/-- The destinations of every request that got its data. -/
def landList (o : Op) : List (Dst × Word) :=
  (o.reqs.zipIdx).flatMap fun x =>
    if x.1.st == .done then (dstsOfLane o o.per x.2).zip (wordsOf o.i x.1.got) else []

/-- The lowest poisoned byte that an operation met, as the TVAL of POISON (R196, R405): for global memory, where a sector is
poisoned whole, the lowest address of the participants that met one; for scratch the scratch address of the lowest lane. -/
def poisonTval (o : Op) : Option Dword :=
  match o.reqs.find? fun q => q.bad.isSome with
  | none => none
  | some q =>
    match q.scr with
    | some (c, _) => some (BitVec.ofNat 64 (c * 2 ^ 24 + q.bad.getD 0))
    | none => some (BitVec.ofNat 64 ((o.reqs.filterMap Req.bad).foldl min (q.bad.getD 0)))

/-- The lane whose request timed out first in lane order (R454). -/
def timeoutTval (o : Op) : Option Dword := (o.reqs.find? fun q => q.st == .timedOut).map Req.va

/-- An operation all of whose requests have ended leaves: its results land unless it met poison, and POISON is raised late
(R196). -/
def finishOp (s : State) (id : Nat) : State :=
  match getOp s id with
  | none => s
  | some o =>
    if o.reqs.all Req.ended then
      let s1 := dropOp s id
      match poisonTval o with
      | some tv => deferTrap s1 o 0x0B tv none
      | none => landRegs s1 o (landList o)
    else s

/-- The lane's part of an operation is gone: its request, and its destinations, whose interlock ends. -/
def Op.dropLane (o : Op) (lane : Nat) : Op :=
  match (List.range o.reqs.length).find? fun i => ((o.reqs[i]?).map Req.lane) == some lane with
  | none => o
  | some i =>
    { o with reqs := o.reqs.take i ++ o.reqs.drop (i + 1)
             dsts := o.dsts.take (o.per * i) ++ o.dsts.drop (o.per * (i + 1)), tmo := true }

/-- TVAL of a REMTMO that is still to be raised follows the lowest participant whose request has timed out (R454). -/
def lowerRemtmo (g : Group) (id lane : Nat) (va : Dword) : Group :=
  { g with deferred := g.deferred.map fun d => match d.src with
      | some (i, l) => if i = id ∧ lane < l then { d with tval := va, src := some (id, lane) } else d
      | none => d }

/-- One lane's request of an access has timed out at its peer: its destination stays, its interlock ends, and REMTMO is raised
once for the issue, at the group's next boundary (R454). -/
def timeOutLane (s : State) (id lane : Nat) : State :=
  match getOp s id with
  | none => s
  | some o =>
    match o.reqs.find? fun q => q.lane == lane with
    | none => s
    | some q =>
      let s1 := modOp s id fun o => o.dropLane lane
      let s2 := if o.tmo then modGroupSince s1 o.grp id fun g => lowerRemtmo g id lane q.va
        else deferTrap s1 o 0x15 q.va (some (id, lane))
      finishOp s2 id

/-- Does a lower lane of the issue still have to write a byte of a request (R7)? -/
def lowerFirst (o : Op) (q : Req) : Bool :=
  isWrite o.i && o.reqs.any fun r => decide (r.lane < q.lane) && r.st == .granted && r.keys.any fun k => q.keys.contains k

/-- Send one lane's request to its peer, once it may go (R449). Under a leaf with POISON = 1 nothing is sent: a write is
discarded, and what would return data meets poison (R379). -/
def sendLane (s : State) (o : Op) (q : Req) : State :=
  match q.peer, q.st with
  | some d, .granted =>
    if reqReady s o q && !lowerFirst ((getOp s o.id).getD o) q then
      if q.pois then
        modReq s o.id q.lane fun q => { q with st := .done, bad := if isRead o.i then some q.va.toNat else q.bad }
      else match sendReq s (fkeyOf s o.team) d (pageKey (peerPa (q.keys.headD 0))) (.op o.id q.lane) with
      | some (s1, port, tag) => modReq s1 o.id q.lane fun q => { q with st := .sent port tag }
      | none => s
    else s
  | _, _ => s

/-- Send every request of an operation that may go. -/
def sendLanes (s : State) (o : Op) : State := o.reqs.foldl (fun s q => sendLane s o q) s

/-- Is a request served here and still due? -/
def Req.dueHere (q : Req) : Bool := q.st == .granted && q.peer.isNone

/-- The root of a team's tables, through which its sectors' other pages are found. -/
def rootOf (s : State) (team : Nat) : Option Nat := some (teamSpace s team).1

/-- Read one request's bytes at this instant (R192, R196). -/
def readReq (s : State) (root : Option Nat) (q : Req) : Req :=
  let bad := q.pois || sectorPoisoned s root q.va.toNat (q.keys.headD 0)
  { q with st := .done, got := memGets s.mem q.keys, bad := if bad then some q.va.toNat else none }

/-- Read every request that is served here and still due; the sectors are filled once for all lanes. -/
def readReqs (s : State) (root : Option Nat) (qs : List Req) : State × List Req :=
  let s1 := meetSectors s root ((qs.filter Req.dueHere).map fun q => (q.va.toNat, q.keys.headD 0))
  (s1, qs.map fun q => if q.dueHere then readReq s1 root q else q)

/-- Load data returns (R196): requests to peers go out; when every local request may be satisfied, all are, and an
operation with nothing left writes its destinations. -/
def loadReturn (s : State) (id : Nat) : State :=
  match getOp s id with
  | none => s
  | some o =>
    if o.stage = .active ∧ isRead o.i ∧ !isWrite o.i ∧ (o.reqs.all fun q => q.scr.isNone) then
      let s1 := sendLanes s o
      match getOp s1 id with
      | none => s1
      | some o1 =>
        if (o1.reqs.filter Req.dueHere).all (reqReady s1 o1) then
          let root := rootOf s1 o.team
          let secs := (o1.reqs.filter Req.dueHere).map fun q => sectorKeys s1 root q.va.toNat (q.keys.headD 0)
          let (s2, qs) := readReqs (meetL1 s1 o.core (ctxByteOfTeam s1 o.team) secs) root o1.reqs
          finishOp (modOp s2 id fun o => { o with reqs := qs }) id
        else s1
    else s

/-- The bytes that some requests of a store write, in lane order: the highest lane's stand, also where a higher lane has
already written the byte through another address (R7, R382). -/
def sectorWrites (all qs : List Req) : List (Nat × Byte) :=
  qs.flatMap fun q =>
    if q.pois then []
    else (q.keys.zip q.data).filter fun x =>
      !all.any fun r => r.st == .done && decide (q.lane < r.lane) && !r.pois && r.keys.contains x.1

/-- A store's bytes in one virtual sector perform at the home, for every agent at once (R235). -/
def writePerform (s : State) (id sector : Nat) : State :=
  match getOp s id with
  | none => s
  | some o =>
    match o.i with
    | .st _ =>
      if o.stage = .active then
        let s1 := sendLanes s o
        let due := o.reqs.filter fun q => q.st == .granted && q.peer.isNone && q.va.toNat / 48 == sector
        if due.all (reqReady s1 o) then
          let s2 := match due with
            | [] => s1
            | q :: _ => writeSector s1 (some o.core) (rootOf s1 o.team) q.va.toNat (q.keys.headD 0) (sectorWrites o.reqs due)
          finishOp (modReqs s2 id fun q =>
            if q.st == .granted && q.peer.isNone && q.va.toNat / 48 == sector then { q with st := .done } else q) id
        else s1
      else s
    | _ => s

/-! ## Scratch service (R181) -/

/-- Port width of a window in granules (R180). -/
def portWidth : Win → Nat
  | .gen => 32
  | .wgt => 67
  | .act => 32
  | .erg => 16

/-- The granules that one service cycle takes from the head of a list, and whether it is a conflict cycle (R181). -/
def takeGranules (p : Nat) : List Nat → List Nat → List Nat → List Nat × List Nat × Bool
  | [], taken, _ => (taken.reverse, [], false)
  | g :: gs, taken, banks =>
    let b := g % 2 ^ 32 % 67
    if taken.length ≥ p then (taken.reverse, g :: gs, false)
    else if banks.contains b then (taken.reverse, g :: gs, true)
    else takeGranules p gs (g :: taken) (b :: banks)

/-- The bytes of a request that lie in a granule: index within the request and count. -/
def partIn (q : Req) (g : Nat) : Nat × Nat :=
  let off := q.va.toNat
  let n := q.keys.length
  let lo := max off (8 * g)
  let hi := min (off + n) (8 * g + 8)
  (lo - off, hi - lo)

/-- Does a request touch a granule of a core? -/
def Req.touches (q : Req) (core g : Nat) : Bool :=
  match q.scr with
  | some (c, _) => c == core && decide (0 < (partIn q g).2)
  | none => false

/-- Serve one granule for one request: a load takes its bytes, a store writes them. -/
def serveReq (s : State) (o : Op) (core g : Nat) (q : Req) : State × Req :=
  match q.scr with
  | none => (s, q)
  | some (c, w) =>
    if q.touches core g then
      let (at_, k) := partIn q g
      let off := q.va.toNat + at_
      let last := decide (at_ + k = q.keys.length)
      if isWrite o.i then
        (notifyBytes (modTCore s o.team c fun x => x.write w off ((q.data.drop at_).take k)) o.team c w off k, { q with st := if last then .done else q.st })
      else
        let s := meetScratch s o.team c w off k
        match getTCore s o.team c with
        | none => (s, q)
        | some x =>
          let bad := if x.poisoned w off k && q.bad.isNone then some (x.poisonAt w off k) else q.bad
          (s, { q with got := q.got ++ x.bytes w off k, bad := bad, st := if last then .done else q.st })
    else (s, q)

/-- Serve one granule for every request of the operation, in lane order. -/
def serveReqs (s : State) (o : Op) (core g : Nat) : List Req → State × List Req
  | [] => (s, [])
  | q :: qs =>
    let (s1, q1) := serveReq s o core g q
    let (s2, qs2) := serveReqs s1 o core g qs
    (s2, q1 :: qs2)

/-- Serve the granules of one cycle in order. -/
def serveGranules (s : State) (o : Op) (qs : List Req) : List Nat → State × List Req
  | [] => (s, qs)
  | g :: gs =>
    let (s1, qs1) := serveReqs s o (granCore g) (g % 2 ^ 32) qs
    serveGranules s1 o qs1 gs

/-- The physical core that serves a team core's scratchpad. -/
def physOf (s : State) (team core : Nat) : Nat := ((getTCore s team core).map TCore.phys).getD 0

/-- Count a conflict cycle or a moved cycle at a core (R185). -/
def countScratch (s : State) (core : Nat) (xarb conf : Bool) : State :=
  modCore s core fun c =>
    { c with conf := if conf then satInc c.conf 32 else c.conf, xarb := if xarb then satInc c.xarb 32 else c.xarb }

/-- Does an operation reach the banks of a physical core: granules still to be served, atomics, the barrier unit? -/
def opAtCore (s : State) (p : Op) (core : Nat) : Bool :=
  (p.gran.any fun l => l.any fun g => physOf s p.team (granCore g) == core) ||
    (p.reqs.any fun q => !q.ended && match q.scr with
      | some (c, _) => physOf s p.team c == core
      | none => false) ||
    (isBarrierOp p.i && !(isBwait p.i && p.arg 4 != 0) && physOf s p.team (p.arg 0) == core)

/-- Does a copy line reach the banks of a physical core: its scratch bytes, or its counting barrier? -/
def lineAtCore (s : State) (l : Line) (core : Nat) : Bool :=
  match l.i with
  | .cpy t | .cpyr t | .cpyred t => physOf s l.team (l.bar.toNat / 2 ^ 24 % 4) == core || l.segs.any fun q =>
      (t.ds && physOf s l.team (q.dst.toNat / 2 ^ 24 % 4) == core) ||
        (t.ss && physOf s l.team (q.src.toNat / 2 ^ 24 % 4) == core)
  | _ => false

/-- May peers' requests, signals and notices reach the banks of a physical core (R258)? -/
def networkAtCore (s : State) (core : Nat) : Bool := s.fab.exports.any fun e => e.live && physOf s e.team e.core == core

/-- How many other agents may be at work on a core's scratchpad, so that a service cycle may have to move (R184): lane accesses,
atomics and copies from any core, the engines, index reads of the gather engine, the barrier unit, the network. -/
def scratchRivals (s : State) (o : Op) (core : Nat) : Nat :=
  (s.ops.filter fun p => p.id != o.id && opAtCore s p core).length +
    (if (getCore s core).mxq.isEmpty then 0 else 1) + (if (getCore s core).ergq.isEmpty then 0 else 1) +
    (s.groups.filter fun g => g.resident && g.core == core && !g.gs.isEmpty).length +
    (s.lines.filter fun l => lineAtCore s l core).length + (if networkAtCore s core then 1 else 0)

/-- May a service cycle of `n` granules move once more? The requesters of a bank port are served in turn, so each other agent goes
first at most once at each bank (R184, log 80). -/
def mayMove (s : State) (o : Op) (core n : Nat) : Bool := decide (o.moved < n * scratchRivals s o core)

/-- One service cycle of a scratch access (R181, R184): granules from the head of the first list that is not empty. A
cycle that a bank's other users push back is counted and serves nothing; which are is free (log 3). -/
def scratchService (s : State) (id : Nat) : State :=
  match getOp s id with
  | none => s
  | some o =>
    match o.gran.dropWhile List.isEmpty with
    | [] => s
    | l :: ls =>
      if o.reqs.all fun q => q.ended || reqReady s o q then
        let core := granCore (l.headD 0)
        let phys := physOf s o.team core
        let w := ((o.reqs.findSome? Req.scr).map Prod.snd).getD .gen
        let (now, rest, conflict) := takeGranules (portWidth w) l [] []
        let moves := mayMove s o phys now.length
        if moves && Config.freeBool s.fresh then
          bump (countScratch (modOp s id fun o => { o with moved := o.moved + 1 }) phys true false)
        else
          let (s1, qs) := serveGranules (if moves then bump s else s) o o.reqs now
          let s2 := countScratch s1 phys false conflict
          finishOp (modOp s2 id fun o =>
            { o with reqs := qs, gran := (if rest.isEmpty then ls else rest :: ls), moved := 0 }) id
      else s

/-! ## Gather elements (R200, R202) -/

/-- An element that the engine could not read. -/
def GElem.fault (cause : Nat) (a : Dword) : GElem := { val := 0, mark := some (cause, a) }

/-- Put an element into a stream: a full entry goes to the queue (R200), which a group without fibres no longer has (R304). -/
def gatherPut (g : Group) (x : GStream) (e : GElem) : Group :=
  let part := x.part ++ [e]
  let next := x.next + 1
  let x1 := { x with next := next, part := part, token := none, verdict := none, sent := false }
  if next = x.n ∨ part.length = 64 then
    let entry : GEnt :=
      { size := x.size, elems := part ++ List.replicate (64 - part.length) { val := 0, mark := none } }
    let rest := g.gs.drop 1
    { g with gq := if g.active = 0 then [] else g.gq ++ [entry], gs := if next = x.n then rest else { x1 with part := [] } :: rest }
  else { g with gs := x1 :: g.gs.drop 1 }

/-- The index of the next element of a stream, and its address (R200). A poisoned granule of the index vector gives its bytes
as they stand: R405 names lane loads, copies and the engines as consumers, not the gather engine's index reads (log 60). -/
def gatherAddr (s : State) (g : Group) (x : GStream) : Dword :=
  let bs := match getTCore s g.team g.coreNo with
    | some c => c.bytes .gen (x.b + 4 * x.next) 4
    | none => [0, 0, 0, 0]
  let w : Word := BitVec.ofNat 32 (ofBytes bs)
  x.a + BitVec.ofInt 64 ((if x.sx then w.toInt else (w.toNat : Int)) * x.size)

/-- The engine's read of an index meets its granules (R404). -/
def meetIndex (s : State) (g : Group) (x : GStream) : State := meetScratch s g.team g.coreNo .gen (x.b + 4 * x.next) 4

/-- May the engine read the next element: every earlier store of the group has performed (R202)? -/
def gatherReady (s : State) (g : Group) (x : GStream) : Bool :=
  !s.ops.any fun p => p.grp == g.id && decide (p.id < x.id) && isWrite p.i

/-- Change the first stream of a group, as its engine does. -/
def modStream (s : State) (gid : Nat) (f : Group → GStream → Group) : State :=
  match (getGroup s gid).bind fun g => g.gs.head? with
  | none => s
  | some x => modGroupSince s gid x.id fun g => match g.gs with
    | [] => g
    | y :: _ => f g y

/-- What the first stream of a group reads next is here: a value or a fault mark. -/
def gatherGive (s : State) (gid : Nat) (e : GElem) : State := modStream s gid fun g x => gatherPut g x e

/-- The first stream of a group waits: for a verdict, or for its peer. -/
def gatherWait (s : State) (gid : Nat) (f : GStream → GStream) : State :=
  modStream s gid fun g x => { g with gs := f x :: g.gs.drop 1 }

/-- The low bytes of a gathered value. -/
def gatherVal (size : Nat) (bs : List Byte) : Dword := BitVec.ofNat 64 (ofBytes (bs.take size))

/-- An element on a peer's page. The peer's admission of the frame comes first, and its refusal is a PFAULT (R194, R195); then
what the leaf itself refuses gives its mark, and else a request goes to the peer (R190, R200, R385). -/
def gatherRemote (s : State) (g : Group) (x : GStream) (a : Dword) (mark : Option Nat) (dev key : Nat) : State :=
  match admitPeer s g.team, mark with
  | (s1, false), _ => gatherGive s1 g.id (GElem.fault 0x08 a)
  | (s1, true), some c => gatherGive s1 g.id (GElem.fault c a)
  | (s1, true), none =>
    match sendReq s1 (fkeyOf s g.team) dev (pageKey (peerPa key)) (.gath g.id x.id) with
    | none => s
    | some (s2, _, _) => gatherWait s2 g.id fun x => { x with sent := true }

/-- The engine reads one element of the group's first stream, while the queue has room (R200). -/
def gatherRead (s : State) (gid : Nat) : State :=
  match getGroup s gid with
  | none => s
  | some g =>
    match g.gs with
    | [] => s
    | x :: _ =>
      if g.gq.length ≥ 32 ∨ !gatherReady s g x ∨ (x.token.isSome ∧ x.verdict.isNone) ∨ x.sent then s
      else
        let s0 := meetIndex s g x
        let a := gatherAddr s0 g x
        if a.toNat ≥ 2 ^ 57 ∨ x.verdict = some true then gatherGive s0 gid (GElem.fault 0x08 a)
        else
          let (root, asid) := teamSpace s0 g.team
          match translate s0 root asid (levelS s0 g) a.toNat .read with
          | (s1, .wait m) =>
              let (s2, tok) := postWaiting s1 3 (ctxByte (ctxOfTeam s g.team)) (if m then 2 else 0) asid
                (srcOfCore g.core) a
              gatherWait s2 gid fun x => { x with token := some tok, verdict := none }
          | (s1, .fail c) =>
              if c = 0x09 ∧ leafApt (leafNow s1 root asid a.toNat .read) = 1 then gatherRemote s1 g x a (some c) 0 0
              else gatherGive s1 gid (GElem.fault c a)
          | (s1, .ok key peer pois) =>
            let keys := (List.range x.size).map (key + ·)
            match peer with
            | some d => gatherRemote s1 g x a (if pois then some 0x0B else none) d key
            | none =>
              if linesHold s1 keys then s
              else
                let s2 := meetSectors s1 (some root) [(a.toNat, key)]
                if pois || sectorPoisoned s2 (some root) a.toNat key then gatherGive s2 gid (GElem.fault 0x0B a)
                else gatherGive s2 gid { val := gatherVal x.size (memGets s2.mem keys), mark := none }

end Sys2Proof.Machine
end

