-- ==== Sys2Proof/Machine/Atomics.lean ====
section
/-! DEFINITION. Atomics, class 0x9 (spec/08 R223 to R229), and how one performs. -/

namespace Sys2Proof.Machine

/-- An integer read as signed in `n` bits. -/
def signedOf (n x : Nat) : Int := if x ≥ 2 ^ (n - 1) then (x : Int) - (2 ^ n : Nat) else x

/-- BF16 element sum of HADD2 (R224). -/
def bf16Sum (a b : Nat) : Nat :=
  ((addExact .rne (fmtBF16.decode a) (fmtBF16.decode b)).round fmtBF16 .rne false 0).code

/-- The new value of an atomic on `n` bits, or none when CAS fails (R224). -/
def atomVal (op n old b c : Nat) : Option Nat :=
  match op with
  | 0x0 => some ((old + b) % 2 ^ n)
  | 0x1 => some (if signedOf n old ≤ signedOf n b then old else b)
  | 0x2 => some (if signedOf n old ≤ signedOf n b then b else old)
  | 0x3 => some (min old b)
  | 0x4 => some (max old b)
  | 0x5 => some (old &&& b)
  | 0x6 => some (old ||| b)
  | 0x7 => some (old ^^^ b)
  | 0x8 => some b
  | 0x9 => if old = c then some b else none
  | 0xA => some (if old ≥ b then 0 else old + 1)
  | 0xB => some (if old = 0 ∨ old > b then b else old - 1)
  | 0xC => some ((addExact .rne (fmtF32.decode old) (fmtF32.decode b)).round fmtF32 .rne false 0).code
  | 0xD => some (bf16Sum (old % 2 ^ 16) (b % 2 ^ 16) + 2 ^ 16 * bf16Sum (old / 2 ^ 16) (b / 2 ^ 16))
  | 0xE => some (minMax fmtF32 false old b).code
  | _ => some (minMax fmtF32 true old b).code

/-- The bytes that an atomic leaves where `old` stood (R225). -/
def atomBytes (op : Nat) (old b c : List Byte) : List Byte :=
  match atomVal op (8 * old.length) (ofBytes old) (ofBytes b) (ofBytes c) with
  | some x => toBytes x old.length
  | none => old

/-- Compare data of CAS (R223). -/
def casData (t : MI) (v : View) (l : Nat) : List Byte := if t.opx = 9 then v.data t.h l t.size t.c else []

/-- ATOM (R225). -/
def execAtom (t : MI) (s : State) : Host.Outcome State Fault Refusal :=
  .next (globalAccess s (.atom t) t (fun v l => v.g.dsts l (Size.words t.size) t.d) (fun v l => v.data t.h l t.size t.b)
    (casData t))

/-- RED (R225). -/
def execRed (t : MI) (s : State) : Host.Outcome State Fault Refusal :=
  .next (globalAccess s (.red t) t (fun _ _ => []) (fun v l => v.data t.h l t.size t.b) fun _ _ => [])

/-- ATOMS: an operation that the bank performs a lane at a time (R225, R226). -/
def execAtoms (t : MI) (s : State) : Host.Outcome State Fault Refusal :=
  .next (scratchAccess s (.atoms t) t .gen ownCore (fun v l => v.g.dsts l (Size.words t.size) t.d)
    (fun v l => v.data t.h l t.size t.b) (casData t))

/-- Operation code of an atomic. -/
def atomOp : Instr → Option Nat
  | .atom t | .red t | .atoms t => some t.opx.toNat
  | _ => none

/-- The requests of an operation whose turn it is: granted, and no lower lane's request to a common byte is still due
(R225). -/
def atomTurn (o : Op) : List Req :=
  (o.reqs.zipIdx.filter fun x =>
    x.1.st == .granted && !(o.reqs.take x.2).any fun p => !p.ended && p.keys.any fun k => x.1.keys.contains k).map Prod.fst

/-- One lane's atomic on global memory performs at its home (R225, R227). A poisoned location is left as it is. -/
def atomGlobal (s : State) (o : Op) (op : Nat) (q : Req) : State × Req :=
  let key := q.keys.headD 0
  let root := rootOf s o.team
  let s1 := meetSectors s root [(q.va.toNat, key)]
  let isRed := match o.i with
    | .red _ => true
    | _ => false
  if q.pois || sectorPoisoned s1 root q.va.toNat key then
    (s1, { q with
      st := .done
      bad := if isRed then none else some q.va.toNat })
  else
    let old := memGets s1.mem q.keys
    (writeSector s1 none root q.va.toNat key (q.keys.zip (atomBytes op old q.data q.cmp)), { q with st := .done, got := old })

/-- One lane's atomic on scratch performs at its bank (R225, R227). -/
def atomScratch (s : State) (o : Op) (op : Nat) (q : Req) (c : Nat) (w : Win) : State × Req :=
  let s := meetScratch s o.team c w q.va.toNat q.keys.length
  match getTCore s o.team c with
  | none => (s, { q with st := .done })
  | some x =>
    let off := q.va.toNat
    let n := q.keys.length
    if x.poisoned w off n then (s, { q with st := .done, bad := some (x.poisonAt w off n) })
    else
      let old := x.bytes w off n
      (notifyBytes (modTCore s o.team c fun x => x.write w off (atomBytes op old q.data q.cmp)) o.team c w off n, { q with st := .done, got := old })

/-- One lane's atomic performs here. -/
def atomLane (s : State) (o : Op) (op : Nat) (q : Req) : State × Req :=
  match q.scr with
  | some (c, w) => atomScratch s o op q c w
  | none => atomGlobal s o op q

/-- An atomic performs (R225, R228): requests to peers go out, and one lane whose turn it is performs here; which lane,
where several locations are ready, is free (log 3). -/
def atomicPerform (s : State) (id : Nat) : State :=
  match getOp s id with
  | none => s
  | some o =>
    match atomOp o.i with
    | none => s
    | some op =>
      if o.stage = .active then
        let s1 := sendLanes s o
        match getOp s1 id with
        | none => s1
        | some o1 =>
          let turn := (atomTurn o1).filter fun q => q.peer.isNone && reqReady s1 o1 q
          match turn[Config.choice s1.fresh % turn.length]? with
          | none => finishOp s1 id
          | some q =>
            let (s2, q2) := atomLane (bump s1) o1 op q
            finishOp (modReq s2 id q.lane fun _ => q2) id
      else s

/-- ATOMIC_PERFORM (R228). -/
def execAtomicPerform (op : Nat) (s : State) : Host.Outcome State Fault Refusal := .next (atomicPerform s op)

end Sys2Proof.Machine
end

