-- ==== Sys2Proof/Machine/BarrierOps.lean ====
section
/-! DEFINITION. Barrier instructions, class 0xA (spec/08 R208 to R222), and the events of the barrier unit. -/

namespace Sys2Proof.Machine

/-- The team core that a barrier instruction names (R216). -/
def barCore (v : View) (t : EI) : Nat := if t.bit 9 then (t.mod.extractLsb' 7 2).toNat else v.g.coreNo

/-- Check 1: an offset that is no multiple of 16 (R218). -/
def barAlign (off : Nat → Nat) : Check := fun l => if off l % 16 ≠ 0 then some (0x07, BitVec.ofNat 64 (off l)) else none

/-- Check 2: beyond GEN, or a core that the team does not have (R218). -/
def barWindow (tm : Team) (core : Nat) (off : Nat → Nat) : Check := fun l =>
  if off l + 16 > winBytes tm .gen then some (0x12, BitVec.ofNat 64 (off l))
  else if core ≥ tm.cores.length then some (0x12, BitVec.ofNat 64 core)
  else none

/-- Check 3: arrivals outside 1 to 65,535 (R218, R219). -/
def arrivalCheck (n : Nat → Nat) : Check := fun l =>
  if n l = 0 ∨ n l > 65535 then some (0x12, BitVec.ofNat 64 (n l)) else none

/-- A barrier instruction for the participants `m`: its checks, then what it does (R217, R218). Those that act once for
the group need a converged group. -/
def barIssue (s : State) (h : Hdr) (once : Bool) (checks : View → Team → List Check)
    (act : State → View → Team → Mask → State) : State :=
  match viewOf s with
  | none => endIssue s
  | some v =>
    match getTeam s v.g.team with
    | none => endIssue s
    | some tm =>
      let m := v.parts h
      if once && !v.g.converged v.pc then takeTrap s 0x04 0
      else if m = 0 then issueDone s h.len.bytes
      else match firstFail (lanesOf m) (checks v tm) with
        | some (c, tv) => takeTrap s c tv
        | none => act s v tm m

/-- A uniform operand as a number. -/
def View.uniN (v : View) (t : EI) (o : Opd) : Nat := (v.uni t.h o).toNat

/-- The barrier unit receives an operation of the issue, and the issue is over. -/
def barSend (s : State) (v : View) (t : EI) (m : Mask) (i : Instr) (args : List Dword) (dsts : List Dst) : State :=
  issueDone (pushOp s v { i := i, mask := m, stage := .active, args := args, dsts := dsts }) t.h.len.bytes

/-- BINIT's baton conditions (R220). -/
def batonCheck (tc : TCore) (baton : Bool) (off : Nat) : Check := fun _ =>
  if tc.baton = some off ∧ tc.held then some (0x12, arg off)
  else match tc.baton with
    | some b => if baton ∧ b ≠ off then some (0x12, arg b) else none
    | none => none

/-- BINIT binds or unbinds the team's baton of the core (R220). -/
def TCore.bindBaton (tc : TCore) (baton : Bool) (off : Nat) : TCore :=
  if baton then { tc with baton := some off }
  else if tc.baton = some off then { tc with baton := none } else tc

/-- A team's share of a core, with the baton as the BINITs that have issued and not yet performed leave it, in issue order
(R220, log 53). -/
def batonAhead (s : State) (team core : Nat) (tc : TCore) : TCore :=
  s.ops.foldl (fun x o => match o.i with
    | .binit t => if o.team = team ∧ o.arg 0 = core then x.bindBaton (t.var == 1) (o.arg 1) else x
    | _ => x) tc

/-- BINIT (R219). Its baton conditions are checks of its issue; the baton is bound or unbound when it performs (R220, log
53). -/
def execBinit (t : EI) (s : State) : Host.Outcome State Fault Refusal :=
  .next (barIssue s t.h true
    (fun v tm =>
      let off := v.uniN t t.a
      let n := v.uniN t t.b
      let core := barCore v t
      [ barAlign fun _ => off, barWindow tm core fun _ => off, arrivalCheck fun _ => n,
        fun _ => if t.var = 1 ∧ n ≠ 1 then some (0x12, arg n) else none ] ++
      match tm.cores[core]? with
      | some tc => [batonCheck (batonAhead s tm.id core tc) (t.var == 1) off]
      | none => [])
    fun s v _ m =>
      barSend s v t m (.binit t) [arg (barCore v t), arg (v.uniN t t.a), arg (v.uniN t t.b)] [])

/-- BARV.ONE: one Apply for the issue (R219). -/
def execBarvOne (t : EI) (s : State) : Host.Outcome State Fault Refusal :=
  .next (barIssue s t.h true
    (fun v tm => [ barAlign fun _ => v.uniN t t.a, barWindow tm (barCore v t) fun _ => v.uniN t t.a,
                   arrivalCheck fun _ => v.uniN t t.b ])
    fun s v _ m =>
      barSend s v t m (.barvOne t) [arg (barCore v t), arg (v.uniN t t.a), arg (v.uniN t t.b), arg (v.uniN t t.c)] [])

/-- BARV.EACH: one Apply for each participant, in ascending lane order (R219). -/
def execBarvEach (t : EI) (s : State) : Host.Outcome State Fault Refusal :=
  .next (barIssue s t.h false
    (fun v tm => [ barAlign fun l => (v.src32 t.h l t.a).toNat,
                   barWindow tm (barCore v t) fun l => (v.src32 t.h l t.a).toNat,
                   arrivalCheck fun l => (v.src32 t.h l t.b).toNat ])
    fun s v _ m =>
      barSend s v t m (.barvEach t)
        (arg (barCore v t) :: (lanesOf m).flatMap fun l =>
          [(v.src32 t.h l t.a).setWidth 64, (v.src32 t.h l t.b).setWidth 64, (v.src32 t.h l t.c).setWidth 64]) [])

/-- BEXP (R219). -/
def execBexp (t : EI) (s : State) : Host.Outcome State Fault Refusal :=
  .next (barIssue s t.h true
    (fun v tm => [barAlign fun _ => v.uniN t t.a, barWindow tm (barCore v t) fun _ => v.uniN t t.a])
    fun s v _ m => barSend s v t m (.bexp t) [arg (barCore v t), arg (v.uniN t t.a), arg (v.uniN t t.b)] [])

/-- BWAIT: a wait, which holds the fibres of the issue (R208, R209, R217). Its arguments are core, offset, phase, limit and
how far it is: 0 on its way, 1 registered, 2 its phase has come, 3 a freeze flag has been set first. -/
def execBwait (t : EI) (s : State) : Host.Outcome State Fault Refusal :=
  .next (barIssue s t.h false
    (fun v tm => [barAlign fun _ => v.uniN t t.a, barWindow tm (barCore v t) fun _ => v.uniN t t.a])
    fun s v _ m =>
      endIssue (pushOp s v
        { i := .bwait t, mask := m, stage := .active
          args := [arg (barCore v t), arg (v.uniN t t.a), arg (v.uniN t t.b % 16), arg (v.uniN t t.c), 0]
          dsts := (lanesOf m).flatMap fun l => v.g.dsts l 1 t.d }))

/-- BTEST (R219). -/
def execBtest (t : EI) (s : State) : Host.Outcome State Fault Refusal :=
  .next (barIssue s t.h false
    (fun v tm => [barAlign fun _ => v.uniN t t.a, barWindow tm (barCore v t) fun _ => v.uniN t t.a])
    fun s v _ m =>
      barSend s v t m (.btest t) [arg (barCore v t), arg (v.uniN t t.a), arg (v.uniN t t.b % 16)]
        ((lanesOf m).flatMap fun l => v.g.dsts l 1 t.d))

/-- BRD (R219). -/
def execBrd (t : EI) (s : State) : Host.Outcome State Fault Refusal :=
  .next (barIssue s t.h false
    (fun v tm => [barAlign fun _ => v.uniN t t.a, barWindow tm (barCore v t) fun _ => v.uniN t t.a])
    fun s v _ m =>
      barSend s v t m (.brd t) [arg (barCore v t), arg (v.uniN t t.a)] ((lanesOf m).flatMap fun l => v.g.dsts l 4 t.d))

/-- Bind or free a region slot, and bring the tags of the barriers it leaves and joins up to date, whose words are read for it
(R210, R219, R404). -/
def bindRegion (s : State) (team slot : Nat) (r : Option Region) : State :=
  let old := ((getTeam s team).bind fun t => t.regions[slot]?).join
  let s1 := modTeam s team fun t => { t with regions := setNth t.regions slot r }
  let s2 := match old with
    | some x => retag (meetScratch s1 team x.core .gen x.bar 16) team x.core x.bar
    | none => s1
  match r with
  | some x => retag (meetScratch s2 team x.core .gen x.bar 16) team x.core x.bar
  | none => s2

/-- RBIND (R219). Of two values of one row of R218's table that fail together, TVAL is the first of offset and base, and of
offset, core and slot, which is the model's choice (log 81). -/
def execRbind (t : EI) (s : State) : Host.Outcome State Fault Refusal :=
  .next (barIssue s t.h true
    (fun v tm =>
      let slot := v.uniN t t.a
      let base := (v.uni64 t.h t.b).toNat
      let off := v.uniN t t.c
      let n := t.h.imm32.toNat
      [ barAlign fun _ => off, fun _ => if base % 192 ≠ 0 then some (0x07, arg base) else none,
        barWindow tm (barCore v t) fun _ => off,
        fun _ => if slot ≥ tm.k.nregion then some (0x12, arg slot) else none,
        fun _ => if n = 0 then some (0x12, 0) else if base + 192 * n > 2 ^ 57 then some (0x12, arg base) else none ])
    fun s v _ m =>
      barSend s v t m (.rbind t)
        [arg (barCore v t), arg (v.uniN t t.c), arg (v.uniN t t.a), v.uni64 t.h t.b, t.h.imm32.setWidth 64] [])

/-- RFREE (R219). -/
def execRfree (t : EI) (s : State) : Host.Outcome State Fault Refusal :=
  .next (barIssue s t.h true
    (fun v tm => [fun _ => if v.uniN t t.a ≥ tm.k.nregion then some (0x12, arg (v.uniN t t.a)) else none])
    fun s v _ m => barSend s v t m (.rfree t) [0, 0, arg (v.uniN t t.a)] [])

/-- An operation that holds the fibres of its issue, with no participant no effect (R217). -/
def holdFibres (s : State) (h : Hdr) (i : Instr) : State :=
  match viewOf s with
  | none => endIssue s
  | some v =>
    let m := v.parts h
    if m = 0 then issueDone s h.len.bytes else endIssue (pushOp s v { i := i, mask := m, stage := .active })

/-- FENCE (R221). -/
def execFence (t : MI) (s : State) : Host.Outcome State Fault Refusal := .next (holdFibres s t.h (.fence t))

/-- DRAIN (R222). -/
def execDrain (t : EI) (s : State) : Host.Outcome State Fault Refusal := .next (holdFibres s t.h (.drain t))

/-! ## The barrier unit -/

/-- A BARV by the holder of the baton lets it go (R156). -/
def passBaton (s : State) (o : Op) (core off : Nat) : State :=
  modTCore s o.team core fun tc =>
    if tc.baton = some off ∧ tc.held ∧ tc.holder = grpNo s o.grp then { tc with held := false } else tc

/-- The pacing hints that a phase's completion sends: to each device whose signals were counted in it, the stamp of the last
signal counted less that of the device's first, from 1,000 ns up (R361). The newest account stands first. -/
def hintsOf (sigs : List (Nat × Nat × Nat × Nat × Nat)) : List (Nat × Nat) :=
  let last := (sigs.head?.map fun x => x.2.2.2.2).getD 0
  sigs.filterMap fun x => if last - x.2.2.2.1 ≥ 1000 then some (x.2.2.1, last - x.2.2.2.1) else none

/-- A phase that completes ends the account of the signals counted in it, and sends its pacing hints (R361). -/
def endSignals (s : State) (team core off : Nat) : State :=
  let here (x : Nat × Nat × Nat × Nat × Nat) : Bool := x.1 == core && x.2.1 == off
  let hs := hintsOf (((getTeam s team).map Team.signals).getD [] |>.filter here)
  let s1 := modFab s fun f => { f with hints := hs ++ f.hints.filter fun x => !(hs.any fun y => y.1 == x.1) }
  modTeam s1 team fun t => { t with signals := t.signals.filter fun x => !here x }

/-- The unit's read of a barrier's word meets its granules (R404). R405 does not name the unit among the consumers of poison:
it takes the bytes as they stand (log 60). -/
def meetBar (s : State) (team core off : Nat) : State := meetScratch s team core .gen off 16

/-- The unit changes a barrier's word, which it reads first, and its waits see it (R208). -/
def changeBar (s : State) (team core off : Nat) (f : Bar → Bar) : State :=
  notifyWaits (modBar (meetBar s team core off) team core off f) team core off

/-- One operation of the unit on a barrier (R204, R205). -/
def applyBar (s : State) (team core off n add landed : Nat) : State :=
  let s := meetBar s team core off
  let s1 := modBar s team core off fun b => b.apply n add landed
  let s2 := if (getBar s1 team core off).phase ≠ (getBar s team core off).phase then endSignals s1 team core off else s1
  notifyWaits s2 team core off

/-- The word that BINIT writes (R203, R219). -/
def freshBar (baton : Bool) (tag : Nat × Nat) (n : Nat) : Bar :=
  { ffo := 0, baton := baton, gone := false, timeout := false, ovf := false, fault := false, nreg := tag.1, lreg := tag.2
    pbytes := 0, init := n, pend := n, phase := 0 }

/-- The barriers that an operation has still to act on, as core and offset. -/
def barTargets (o : Op) : List (Nat × Nat) :=
  match o.i with
  | .barvEach _ => ((List.range ((o.args.length - 1) / 3)).map fun k => (o.arg 0, o.arg (3 * k + 1)))
  | _ => if isBarrierOp o.i then [(o.arg 0, o.arg 1)] else []

/-- Has no earlier operation of the group on the same barrier to perform first (R204)? RBIND and RFREE, which reach the
tags of several barriers, keep their place among all barrier operations of their group (log 9). -/
def barTurn (s : State) (o : Op) (x : Nat × Nat) : Bool :=
  !gateHolds s o.core o.cyc && !s.ops.any fun p => p.grp == o.grp && decide (p.id < o.id) &&
    ((barTargets p).contains x || isRegionOp p.i || (isRegionOp o.i && isBarrierOp p.i)) &&
    match p.i with
    | .bwait _ => p.arg 4 == 0
    | _ => true

/-- BINIT performs, and the baton is bound or unbound with it (R219, R220). -/
def performBinit (s : State) (o : Op) (t : EI) : State :=
  let core := o.arg 0
  let off := o.arg 1
  let tag := match getTeam s o.team with
    | some tm => regionTag tm.regions core off
    | none => (0, 0xFF)
  let s1 := modTCore (dropOp s o.id) o.team core fun tc => tc.bindBaton (t.var == 1) off
  notifyWaits (modBar s1 o.team core off fun _ => freshBar (t.var == 1) tag (o.arg 2)) o.team core off

/-- The barrier unit performs what an operation has next (R204, R205, R219). -/
def barrierApply (s : State) (id : Nat) : State :=
  match getOp s id with
  | none => s
  | some o =>
    let core := o.arg 0
    let off := o.arg 1
    let go (m : Mask) : Bool := barTurn s o (core, off) && opReady s o m
    match o.i with
    | .binit t => if go 0 then performBinit s o t else s
    | .barvOne _ => if go o.mask then applyBar (passBaton (dropOp s id) o core off) o.team core off (o.arg 2) (o.arg 3) 0 else s
    | .barvEach _ =>
        let lane := (lanesOf o.mask).headD 0
        if go (Mask.bit lane) then
          let s1 := applyBar (passBaton s o core off) o.team core off (o.arg 2) (o.arg 3) 0
          if o.args.length ≤ 4 then dropOp s1 id
          else modOp s1 id fun o => { o with mask := o.mask &&& ~~~Mask.bit lane, args := arg core :: o.args.drop 4 }
        else s
    | .bexp _ => if go 0 then applyBar (dropOp s id) o.team core off 0 (o.arg 2) 0 else s
    | .btest _ =>
        if go 0 then
          let s := meetBar s o.team core off
          let r := decide ((getBar s o.team core off).phase = o.arg 2)
          landRegs (dropOp s id) o (o.dsts.map fun d => (d, bit32 r))
        else s
    | .brd _ =>
        if go 0 then
          let s := meetBar s o.team core off
          let w := (getBar s o.team core off).word
          landRegs (dropOp s id) o
            (o.dsts.zipIdx.map fun x => (x.1, BitVec.ofNat 32 (w / 2 ^ (32 * (x.2 % 4)))))
        else s
    | .rbind _ =>
        if go 0 then bindRegion (dropOp s id) o.team (o.arg 2)
          (some { base := nth 0 o.args 3, lines := o.arg 4, core := core, bar := off })
        else s
    | .rfree _ => if go 0 then bindRegion (dropOp s id) o.team (o.arg 2) none else s
    | _ => s

/-- Is a wait on its way to the unit able to register (R204, R208)? -/
def waitArrives (s : State) (o : Op) : Bool := o.arg 4 == 0 && barTurn s o (o.arg 0, o.arg 1)

/-- A wait registers, if it can, and looks at its barrier (R208). -/
def lookWait (s : State) (o : Op) : State :=
  if waitArrives s o then
    notifyWaits (modOp (meetBar s o.team (o.arg 0) (o.arg 1)) o.id fun o => { o with args := setNth o.args 4 1 }) o.team (o.arg 0) (o.arg 1)
  else if o.arg 4 = 1 then notifyWaits s o.team (o.arg 0) (o.arg 1)
  else s

/-- A wait ends: its destination is written and its fibres go on. -/
def endWait (s : State) (o : Op) (r : Bool) : State :=
  passOp (landRegs (dropOp s o.id) o (o.dsts.map fun d => (d, bit32 r))) o

/-- What a wait does when it is looked at: `f` of the state and the wait. -/
def onWait (s : State) (id : Nat) (f : State → Op → State) : State :=
  match getOp s id with
  | none => s
  | some o =>
    if isBwait o.i then
      let s1 := lookWait s o
      match getOp s1 id with
      | none => s1
      | some o1 => f s1 o1
    else s

/-- A wait completes, or registers and goes on waiting (R208). -/
def bwaitComplete (s : State) (id : Nat) : State :=
  onWait s id fun s o => if o.arg 4 = 2 then endWait s o true else s

/-- BARFAULT of a wait (R208). -/
def bwaitBarfault (s : State) (id : Nat) : State :=
  onWait s id fun s o => if o.arg 4 = 3 ∧ trapFree s o then trapOp s o 0x0C (arg (o.arg 1)) else s

/-- The limit of a wait is over (R208). -/
def bwaitLimitExpire (s : State) (id : Nat) : State :=
  onWait s id fun s o =>
    if o.arg 4 = 1 ∧ o.arg 3 ≠ 0 ∧ s.tb ≥ o.at_ + o.arg 3 then endWait s o false else s

/-! ## Fences and drains -/

/-- Are a fence's conditions met (R221, R237, R238)? -/
def fenceMet (s : State) (o : Op) (t : MI) : Bool :=
  let acq := t.ord != .rel
  let rel := t.ord != .acq
  !(earlierOps s o).any fun p =>
    ((rel && releaseWaits o.i p.i) || (acq && isReadOrAtomic p.i) || isAcquire p.i) && p.pending o.mask

/-- A fence ends (R221). -/
def fenceEnd (s : State) (id : Nat) : State :=
  match getOp s id with
  | none => s
  | some o =>
    match o.i with
    | .fence t => if fenceMet s o t then passOp (dropOp s id) o else s
    | _ => s

/-- Is an operation on the GLB path, or on REM (R215, R229)? One whose page is not known yet is on both. -/
def onPath (rem : Bool) (p : Op) : Bool :=
  match p.i with
  | .ld _ | .st _ | .gld _ | .atom _ | .red _ =>
      p.reqs.any fun q => !q.ended && (q.waits || q.peer.isSome == rem)
  | _ => false

/-- Is an operation on the SCR path (R215, R229)? A wait is until it has reached its unit. -/
def onScr (p : Op) : Bool :=
  (isBarrierOp p.i && !(isBwait p.i && p.arg 4 != 0)) || match p.i with
    | .atoms _ => true
    | _ => false

/-- Are the paths that a DRAIN names complete (R215, R222)? -/
def drainMet (s : State) (o : Op) (t : EI) : Bool :=
  let before (f : Op → Bool) : Bool := s.ops.any fun p => p.core == o.core && decide (p.id < o.id) && f p
  let c := getCore s o.core
  !(t.bit 0 && (before onScr || c.ergq.any fun e => decide (e.id < o.id))) &&
  !(t.bit 1 && before (onPath false)) &&
  !(t.bit 2 && before (onPath true)) &&
  !(t.bit 3 && c.mxq.any fun e => decide (e.id < o.id)) &&
  !(t.bit 4 && s.groups.any fun g => g.core == o.core && g.gs.any fun x => decide (x.id < o.id))

/-- A drain ends (R222). -/
def drainEnd (s : State) (id : Nat) : State :=
  match getOp s id with
  | none => s
  | some o =>
    match o.i with
    | .drain t => if drainMet s o t then passOp (dropOp s id) o else s
    | _ => s

/-! ## Events -/

/-- BARRIER_APPLY (R205). -/
def execBarrierApply (op : Nat) (s : State) : Host.Outcome State Fault Refusal := .next (barrierApply s op)

/-- BWAIT_COMPLETE (R208). -/
def execBwaitComplete (op : Nat) (s : State) : Host.Outcome State Fault Refusal := .next (bwaitComplete s op)

/-- BWAIT_BARFAULT (R208). -/
def execBwaitBarfault (op : Nat) (s : State) : Host.Outcome State Fault Refusal := .next (bwaitBarfault s op)

/-- BWAIT_LIMIT_EXPIRE (R208). -/
def execBwaitLimitExpire (op : Nat) (s : State) : Host.Outcome State Fault Refusal := .next (bwaitLimitExpire s op)

/-- DRAIN_END (R222). -/
def execDrainEnd (op : Nat) (s : State) : Host.Outcome State Fault Refusal := .next (drainEnd s op)

/-- FENCE_END (R221). -/
def execFenceEnd (op : Nat) (s : State) : Host.Outcome State Fault Refusal := .next (fenceEnd s op)

end Sys2Proof.Machine
end

