-- ==== Sys2Proof/Machine/Pool.lean ====
section
/-! DEFINITION. The command processors (spec/12 R309 to R324, R337 to R341; spec/14 R384): what they read and write, packets
and kernel descriptors, the ready pool, the overflow rings, take-in, rejection and completion of slices. -/

namespace Sys2Proof.Machine

/-! ## Reads and writes of the command processor (R384) -/

/-- The outcome of a read: bytes, a wait for the runtime, or a fault with cause and address. -/
inductive CpRes where
  | ok (bs : List Byte)
  | wait (malformed : Bool) (va : Nat)
  | fatal (cause va : Nat)
  /-- A copy engine owns a line of it: the read waits for the engine (R244). -/
  | busy
  deriving DecidableEq, Repr

/-- The context descriptor that the device works with (R373): while the context has slices in place, as read when a team of
one was placed or restored; else as the table holds it. -/
def descOf (s : State) (ctx : Nat) : CtxDesc :=
  ((s.slices.filter fun x => x.ctx == ctx).findSome? Slice.desc).getD (ctxDesc s ctx)

/-- The parts of a run of bytes that lie in one page each. -/
def pageChunks (va n : Nat) : List (Nat × Nat) :=
  if n = 0 then []
  else (List.range ((va + n - 1) / 65536 - va / 65536 + 1)).map fun i =>
    let lo := max va ((va / 65536 + i) * 65536)
    (lo, min (va + n) ((va / 65536 + i + 1) * 65536) - lo)

/-- Read the parts of a run in order. -/
def cpReadChunks (s : State) (root : Nat) (asid : BitVec 16) (lvlS : Bool) : List (Nat × Nat) → State × CpRes
  | [] => (s, .ok [])
  | (va, n) :: cs =>
    match translateRun s root asid lvlS va .read n with
    | (s1, .wait m, _) => (s1, .wait m va)
    | (s1, .fail c, _) => (s1, .fatal c va)
    | (s1, .ok _ _ pois, keys) =>
      let s2 := meetRun s1 (some root) va keys
      if linesHold s1 keys then (s1, .busy)
      else if pois || runPoisoned s2 (some root) va keys then (s2, .fatal 0x0B va)
      else match cpReadChunks s2 root asid lvlS cs with
        | (s3, .ok bs) => (s3, .ok (memGets s2.mem keys ++ bs))
        | r => r

/-- The command processor reads `n` bytes in a context at a level. -/
def cpRead (s : State) (ctx : Nat) (lvlS : Bool) (va n : Nat) : State × CpRes :=
  let d := descOf s ctx
  cpReadChunks s d.root d.asid lvlS (pageChunks va n)

/-- SRC of a die's command processor (R383). -/
def srcCp (die : Nat) : Nat := die + 124

/-- Write bytes sector by sector at keys that rise with the address. -/
def writeRun (s : State) (root va : Nat) (keys : List Nat) (bs : List Byte) : State :=
  let kbs := keys.zip bs
  ((List.range bs.length).filter fun i => i == 0 || (va + i) % 48 == 0).foldl (fun s i =>
    writeSector s none (some root) (va + i) (nth 0 keys i) ((kbs.drop i).take (48 - (va + i) % 48))) s

/-- Does a copy engine own a line that the command processor's bytes lie in (R244)? -/
def cpHeld (s : State) (ctx : Nat) (lvlS : Bool) (va n : Nat) : Bool :=
  !s.lines.isEmpty && match translateRun s (descOf s ctx).root (descOf s ctx).asid lvlS va .write n with
    | (_, .ok _ _ _, keys) => linesHold s keys
    | _ => false

/-- A completion write that faults is reported, and dropped (R320, R383). -/
def dropWrite (s : State) (die ctx cause : Nat) (malformed : Bool) (va : Nat) : State :=
  postReport s cause 5 (ctxByte ctx) (if malformed then 14 else 12) (descOf s ctx).asid (srcCp die) (BitVec.ofNat 64 va)

/-- The command processor writes bytes for a slice, or reports a fault and drops the write (R320). -/
def cpWrite (s : State) (die ctx : Nat) (lvlS : Bool) (va : Nat) (bs : List Byte) : State :=
  let d := descOf s ctx
  match translateRun s d.root d.asid lvlS va .write bs.length with
  | (s1, .ok _ _ pois, keys) => if pois then s1 else writeRun s1 d.root va keys bs
  | (s1, .wait m, _) => dropWrite s1 die ctx 0x08 m va
  | (s1, .fail c, _) => dropWrite s1 die ctx c false va

/-- Decrement a 64-bit signal by one, in one step (R320). -/
def cpDecrement (s : State) (die ctx : Nat) (lvlS : Bool) (va : Nat) : State :=
  let d := descOf s ctx
  match translateRun s d.root d.asid lvlS va .atomic 8 with
  | (s1, .ok _ _ pois, keys) =>
    let s2 := meetRun s1 (some d.root) va keys
    if pois || runPoisoned s2 (some d.root) va keys then dropWrite s2 die ctx 0x0B false va
    else writeRun s2 d.root va keys (dwordBytes (BitVec.ofNat 64 (ofBytes (memGets s2.mem keys)) - 1))
  | (s1, .wait m, _) => dropWrite s1 die ctx 0x08 m va
  | (s1, .fail c, _) => dropWrite s1 die ctx c false va

/-! ## Packets (R310, R311) -/

/-- A little-endian field of a structure. -/
def fieldAt (bs : List Byte) (off n : Nat) : Nat := ofBytes ((bs.drop off).take n)

/-- The packet or record that 64 bytes hold. -/
def parsePacket (bs : List Byte) : Packet :=
  { hdr := BitVec.ofNat 32 (fieldAt bs 0 4), nteam := fieldAt bs 4 4
    kdesc := BitVec.ofNat 64 (fieldAt bs 8 8), args := BitVec.ofNat 64 (fieldAt bs 0x10 8)
    signal := BitVec.ofNat 64 (fieldAt bs 0x18 8), crec := BitVec.ofNat 64 (fieldAt bs 0x20 8)
    deadline := BitVec.ofNat 64 (fieldAt bs 0x28 8), budget := BitVec.ofNat 32 (fieldAt bs 0x30 4)
    seed := BitVec.ofNat 32 (fieldAt bs 0x34 4), oplist := BitVec.ofNat 64 (fieldAt bs 0x38 8) }

/-- VALID. -/
def Packet.valid (p : Packet) : Bool := p.hdr.getLsbD 0
/-- KIND. -/
def Packet.kind (p : Packet) : Nat := p.hdr.toNat / 2 % 4
/-- AFTER. -/
def Packet.after (p : Packet) : Bool := p.hdr.getLsbD 3
/-- PRIV. -/
def Packet.priv (p : Packet) : Bool := p.hdr.getLsbD 4
/-- CHKSB. -/
def Packet.chksb (p : Packet) : Bool := p.hdr.getLsbD 5
/-- EXP. -/
def Packet.exp (p : Packet) : Bool := p.hdr.getLsbD 13
/-- ARGLEN. -/
def Packet.arglen (p : Packet) : Nat := p.hdr.toNat / 2 ^ 14 % 64
/-- NOPS. -/
def Packet.nops (p : Packet) : Nat := p.hdr.toNat / 2 ^ 20 % 16
/-- EXPB. -/
def Packet.expb (p : Packet) : Nat := p.hdr.toNat / 2 ^ 24
/-- A MARKER. -/
def Packet.marker (p : Packet) : Bool := p.kind == 2
/-- Does the slice export its teams' cores? A MARKER has no teams (R311, R317). -/
def Packet.exports (p : Packet) : Bool := p.exp && !p.marker

/-- The checks at take-in, by CAUSE, lowest first (R318). `privOk`: a PRIV slice is accepted; `slotsOk`: its export slots keep
R317. -/
def takeInCause (p : Packet) (privOk slotsOk : Bool) : Option Nat :=
  if p.kind = 3 ∨ p.hdr.toNat / 2 ^ 6 % 2 ^ 7 ≠ 0 ∨ p.nops > 8 ∨ p.arglen > 32 then some 1
  else if p.priv && !privOk then some 2
  else if !slotsOk then some 6
  else if p.kind = 1 ∧ (p.nteam = 0 ∨ p.nteam > 65536) then some 7
  else none

/-! ## Kernel descriptors (R17, R314 to R316) -/

/-- A role of its sixteen bytes. -/
def roleOf (bs : List Byte) : Role :=
  { entry := BitVec.ofNat 64 (fieldAt bs 0 8), groups := fieldAt bs 8 1, fibres := fieldAt bs 9 1
    regs := 16 * fieldAt bs 10 2 }

/-- NROLE. -/
def nroleOf (bs : List Byte) : Nat := fieldAt bs 4 1

/-- An image list entry (R315): window, offset, length, source, and whether a RES0 bit is set. -/
def imageOf (bs : List Byte) : Nat × Nat × Nat × Dword :=
  (fieldAt bs 11 1 / 64, fieldAt bs 8 3, fieldAt bs 12 4, BitVec.ofNat 64 (fieldAt bs 0 8))

/-- The kernel that the descriptor's fixed part declares, with the roles and images that could be read. -/
def kernelOf (bs : List Byte) (roles imgs : List (List Byte)) : Kernel :=
  { mask := fieldAt bs 0 2 % 2 == 1, cores := fieldAt bs 0 2 / 2 % 4 + 1, acc := fieldAt bs 2 2
    nregion := fieldAt bs 5 1, gen := fieldAt bs 8 2, wgt := fieldAt bs 10 2, act := fieldAt bs 12 2
    erg := fieldAt bs 14 2, images := imgs.map imageOf
    ergta := BitVec.ofNat 32 (fieldAt bs 0x18 4 % 2 ^ 31), ergtr := BitVec.ofNat 32 (fieldAt bs 0x1C 4 % 2 ^ 31)
    roles := roles.map roleOf }

/-- Is a RES0 bit of the descriptor set (R318, cause 1)? -/
def kernelRes0 (bs : List Byte) (roles : List (List Byte)) : Bool :=
  fieldAt bs 0 2 / 8 != 0 || fieldAt bs 6 2 != 0 || fieldAt bs 0x18 8 / 2 ^ 31 % 2 != 0 || fieldAt bs 0x1F 1 / 128 != 0 ||
    roles.any fun r => fieldAt r 12 4 != 0

/-- Is a role within R17? -/
def Role.ok (r : Role) : Bool :=
  decide (1 ≤ r.groups ∧ r.groups ≤ 64 ∧ 1 ≤ r.fibres ∧ r.fibres ≤ 64 ∧ 64 ≤ r.regs ∧ r.regs ≤ 1024) &&
    r.entry.toNat % 4 == 0

/-- Are the declarations, with `n` roles, within R17 and R314? -/
def Kernel.ok (k : Kernel) (n : Nat) : Bool :=
  decide (1 ≤ n ∧ n ≤ 4 ∧ k.nregion ≤ 64 ∧ k.acc ≤ 1024 ∧ k.acc % 16 = 0 ∧
    k.gen + k.wgt + k.act + k.erg ≤ 16384 ∧ (k.roles.map Role.groups).sum ≤ 64) && k.roles.all Role.ok

/-- A window's code (R315). -/
def imageWin : Nat → Win
  | 0 => .gen
  | 1 => .wgt
  | 2 => .act
  | _ => .erg

/-- Bytes of a kernel's window. -/
def Kernel.winLen (k : Kernel) (w : Win) : Nat :=
  536 * match w with
    | .gen => k.gen
    | .wgt => k.wgt
    | .act => k.act
    | .erg => k.erg

/-- Does an image break R315 or its window (R318, cause 5)? -/
def imageBad (k : Kernel) (x : Nat × Nat × Nat × Dword) : Bool :=
  x.2.2.1 % 8 != 0 || x.2.1 % 8 != 0 || decide (x.2.1 + x.2.2.1 > k.winLen (imageWin x.1))

/-- What keeps the reader of a slice's structures waiting. -/
inductive Held where
  | wait (malformed : Bool) (va : Nat)
  | busy
  deriving DecidableEq, Repr

/-- What a read of a slice's structures has given: entries, the faults met as cause and address, and what it waits for. -/
structure Got where
  bs : List (List Byte) := []
  faults : List (Nat × Nat) := []
  held : Option Held := none
  deriving DecidableEq, Repr

/-- Read one entry of a slice's structures; an address whose verdict was fatal faults. -/
def readEntry (s : State) (x : Slice) (va n : Nat) : State × Got :=
  match cpRead s x.ctx x.priv va n with
  | (s1, .ok bs) => (s1, { bs := [bs] })
  | (s1, .wait m a) => if x.fatals.contains a then (s1, { faults := [(0x08, a)] }) else (s1, { held := some (.wait m a) })
  | (s1, .fatal c a) => (s1, { faults := [(c, a)] })
  | (s1, .busy) => (s1, { held := some .busy })

/-- Read a list of at most `n` entries of sixteen bytes, up to one that ends it. A list that such an entry ends is read no
further than its first fault. -/
def readEntries (s : State) (x : Slice) (ends : Option (List Byte → Bool)) (va : Nat) : Nat → State × Got
  | 0 => (s, {})
  | n + 1 =>
    let (s1, g) := readEntry s x va 16
    if g.held.isSome then (s1, g)
    else if ends.any fun e => g.bs.any e then (s1, {})
    else if ends.isSome && !g.faults.isEmpty then (s1, g)
    else
      let (s2, r) := readEntries s1 x ends (va + 16) n
      (s2, { bs := g.bs ++ r.bs, faults := g.faults ++ r.faults, held := r.held })

/-- Sixteen-byte entries of a list. -/
def entries16 (bs : List Byte) : List (List Byte) :=
  (List.range (bs.length / 16)).map fun i => (bs.drop (16 * i)).take 16

/-- Does an image list entry end its list (R315)? -/
def imageEnd (e : List Byte) : Bool := fieldAt e 12 4 == 0

/-- The export slots that a slice whose teams have `cores` cores asks for (R317). -/
def exportSlots (p : Packet) (cores : Nat) : List Nat :=
  if p.exports then (List.range (p.nteam * cores)).map (p.expb + ·) else []

/-- The export slots that are live in a context. -/
def liveSlots (s : State) (ctx : Nat) : List Nat := (s.fab.exports.filter fun e => e.live && e.ctx == ctx).map Export.slot

/-- Are the export slots within the table, and none among those live at the take-in (R317)? -/
def exportsOk (p : Packet) (cores : Nat) (live : List Nat) : Bool :=
  !p.exports || (decide (p.expb + p.nteam * cores ≤ 256) && (exportSlots p cores).all fun n => !live.contains n)

/-- A slice holds its export slots from take-in until it completes (R317); while the cores of a team are not known, all that
it may ask for. -/
def holdExports (s : State) (x : Slice) (cores : Nat) : State :=
  let slots := ((List.range (min 256 (x.pkt.nteam * cores))).map (x.pkt.expb + ·)).zipIdx.map fun y =>
    ({ ctx := x.ctx, slot := y.1, team := 0, core := y.2 % cores, live := false, slice := x.id } : Export)
  modFab s fun f => { f with exports := (f.exports.filter fun e => e.slice != x.id) ++ slots }

/-- Cores per team as the kernel descriptor gives them at take-in, when its page is mapped then: the slots that a slice asks
for depend on them, and its descriptor is read only when it becomes Ready (R314, R317, R318, log 62). -/
def coresAtTakeIn (s : State) (x : Slice) : Option Nat :=
  match peekRun s (descOf s x.ctx).root x.pkt.kdesc.toNat 2 with
  | [] => none
  | ks => if x.pkt.kdesc.toNat ≥ 2 ^ 57 ∨ (x.pkt.kdesc.toNat ≥ 2 ^ 56 ∧ !x.priv) then none
    else some (ofBytes (memGets s.mem ks) / 2 % 4 + 1)

/-- Does a role's entry lie outside an executable page (R17)? A page that is not mapped yet faults, and waits, at the first
fetch. -/
def entryBad (s : State) (x : Slice) (r : Role) : Bool :=
  let va := r.entry.toNat
  decide (va ≥ 2 ^ 57) || (decide (va ≥ 2 ^ 56) && !x.priv) ||
    match walk s.mem (descOf s x.ctx).root va with
    | .leaf _ e L => (leafCheck e (leafPa e L va) .fetch).isSome
    | _ => false

/-- The structures of a slice, as far as they could be read: the fixed part of the kernel descriptor, its roles, the tile
operand list, the image list. -/
structure Structs where
  fixed : List Byte
  roles : List (List Byte)
  ops : List (List Byte)
  imgs : List (List Byte)
  faults : List (Nat × Nat)
  held : Option Held
  deriving DecidableEq, Repr

/-- Read the kernel descriptor and the lists that a Ready slice names (R318). -/
def readStructs (s : State) (x : Slice) : State × Structs :=
  let at_ := x.pkt.kdesc.toNat
  let (s1, f) := readEntry s x at_ 32
  let kb := f.bs.headD []
  let (s2, r) := readEntries s1 x none (at_ + 32) (min 4 (nroleOf kb))
  let (s3, o) := readEntries s2 x none x.pkt.oplist.toNat x.pkt.nops
  let (s4, i) := if fieldAt kb 0x10 8 = 0 then (s3, {}) else readEntries s3 x (some imageEnd) (fieldAt kb 0x10 8) 64
  (s4, { fixed := kb, roles := r.bs, ops := o.bs, imgs := i.bs, faults := f.faults ++ r.faults ++ o.faults ++ i.faults
         held := f.held.or (r.held.or (o.held.or i.held)) })

/-- The kernel that they declare. -/
def Structs.kernel (t : Structs) : Kernel := kernelOf t.fixed t.roles t.imgs

/-- The lowest CAUSE that the structures of a slice give, as far as they could be read, with its take-in (R318). -/
def structCause (s : State) (x : Slice) (t : Structs) : Option Nat :=
  let k := t.kernel
  let known := !t.fixed.isEmpty
  if kernelRes0 t.fixed t.roles ∨ t.imgs.any (fun e => fieldAt e 11 1 % 64 != 0) ∨
      t.ops.any (fun e => fieldAt e 0 8 / 2 ^ 57 != 0) then some 1
  else if x.fail = some 2 then some 2
  else if known ∧ (!k.ok (nroleOf t.fixed) ∨ k.roles.any (entryBad s x)) then some 3
  else if !t.faults.isEmpty ∨ !x.fatals.isEmpty then some 4
  else if 8 * x.pkt.arglen > k.winLen .gen ∨ k.images.any (imageBad k) then some 5
  else if !exportsOk x.pkt k.cores x.expLive then some 6
  else x.fail

/-! ## The ready pool (R323, R337) -/

/-- The lowest free general entry of a die. -/
def freeGeneral (s : State) (die : Nat) : Option Nat :=
  let used := (s.slices.filter fun x => x.die == die && !x.reserved).map Slice.entry
  (List.range 7168).find? fun e => !used.contains e

/-- Number of the reserved entry of a context and depth. -/
def reservedEntry (ctx depth : Nat) : Nat := 7168 + 16 * ctx + depth

/-- Is the reserved entry of a context and depth free on a die? The system context has none. -/
def freeReserved (s : State) (die ctx depth : Nat) : Bool :=
  decide (ctx < 64) && !s.slices.any fun x => x.die == die && x.reserved && x.entry == reservedEntry ctx depth

/-- SLICEID (R31). -/
def Slice.sliceId (x : Slice) : Nat := x.entry + x.die * 2 ^ 13

/-- A stamp or limit of which 0 stands for none (R324, R331). -/
def orNone (w : Dword) : Dword := if w = 0 then BitVec.allOnes 64 else w

/-- A slice of a packet before it has an entry. -/
def newSlice (die ctx : Nat) (p : Packet) : Slice :=
  { id := 0, die := die, entry := 0, reserved := false, ctx := ctx, priv := p.priv, depth := 0, st := .waiting
    pred := none, pkt := p, k := none, nextTeam := 0, left := orNone (p.budget.setWidth 64)
    budget := orNone (p.budget.setWidth 64), deadl := orNone p.deadline, quant := 0, quantCount := 0, used := 0, engy := 0
    thand := 0, tstart := none, tend := 0, ending := none, ballast := none, readyAt := 0, started := false
    preempting := false, queue := none, token := none, verdict := none }

/-! ## Completion (R319, R320) -/

/-- The completion record (R319). -/
def recordBytes (x : Slice) (code cause : Nat) (tepc tval : Dword) (tend : Nat) : List Byte :=
  let late := decide (x.deadl ≠ BitVec.allOnes 64 ∧ tend > x.deadl.toNat)
  toBytes (code + cause * 2 ^ 8 + (if late then 2 ^ 16 else 0)) 4 ++ toBytes 0 4 ++ dwordBytes x.engy ++ toBytes x.used 8 ++
    dwordBytes (x.tstart.getD 0) ++ toBytes tend 8 ++ dwordBytes tepc ++ dwordBytes tval ++
    toBytes x.sliceId 4 ++ toBytes 0 4

/-- A predecessor has completed: its successors' counts fall to zero (R320, R322). -/
def releaseSuccessors (s : State) (id : Nat) : State :=
  { s with
    slices := s.slices.map fun x =>
      if x.pred = some id then
        { x with pred := none, st := if x.st = .waiting then .ready else x.st
                 readyAt := s.nextId }
      else x
    nextId := s.nextId + 1 }

/-- The completion of a slice goes on (R320): record, signal, successors, entry; `true` once it is over. A write waits while a
copy engine owns a line of it (R244). -/
def closeSlice (s : State) (x : Slice) (e : Ending) : State × Bool :=
  let todo := !x.recorded && x.pkt.crec != 0
  if todo && cpHeld s x.ctx x.priv x.pkt.crec.toNat 64 then (s, false)
  else
    let s1 := if todo then
        modSlice (cpWrite s x.die x.ctx x.priv x.pkt.crec.toNat (recordBytes x e.code e.cause e.tepc e.tval x.tend.toNat)) x.id
          fun x => { x with recorded := true }
      else s
    if x.pkt.signal != 0 && cpHeld s1 x.ctx x.priv x.pkt.signal.toNat 8 then (s1, false)
    else
      let s2 := if x.pkt.signal = 0 then s1 else cpDecrement s1 x.die x.ctx x.priv x.pkt.signal.toNat
      let s3 := releaseSuccessors s2 x.id
      ({ s3 with
        slices := s3.slices.filter fun y => y.id != x.id
        fab := { s3.fab with exports := s3.fab.exports.filter fun e => e.slice != x.id }
        gangs := s3.gangs.filter fun g => g.2.slice != x.id }, true)

/-- Complete a slice (R320). -/
def completeSlice (s : State) (x : Slice) (code cause : Nat) (tepc tval : Dword) : State × Bool :=
  let e : Ending := { code := code, cause := cause, tepc := tepc, tval := tval }
  let y := { x with st := .completing, tend := BitVec.ofNat 64 s.tb, fin := some e, recorded := false }
  closeSlice (modSlice s x.id fun _ => y) y e

/-- Reject a slice (R318). -/
def rejectSlice (s : State) (x : Slice) (cause : Nat) : State := (completeSlice s x 1 cause 0 0).1

/-! ## Take-in (R321 to R323) -/

/-- Take a slice into its pool entry: it waits for its predecessor, is Ready, or is rejected. One that is Ready at once is
rejected when its structures are read too, unless they can give no lower CAUSE (R318). Its handle is given. -/
def takeIn (s : State) (x : Slice) (privOk : Bool) (pred : Option Nat) : State :=
  let live := pred.bind fun p => if s.slices.any fun y => y.id == p then some p else none
  let p := if x.pkt.after then live else none
  let y := { x with pred := p, st := if p.isSome then .waiting else .ready, readyAt := s.nextId, expLive := liveSlots s x.ctx }
  let s1 := { s with slices := s.slices ++ [y], nextId := s.nextId + 1 }
  let cores := if x.pkt.exports then coresAtTakeIn s x else none
  match takeInCause x.pkt privOk (cores.all fun n => exportsOk x.pkt n y.expLive) with
  | some c => if c = 1 ∨ p.isSome ∨ x.pkt.kind ≠ 1 then rejectSlice s1 y c else modSlice s1 y.id fun y => { y with fail := some c }
  | none => if x.pkt.exports then holdExports s1 y (cores.getD 4) else s1

/-- The oldest record of a context's ring, when a general entry of its die is free. -/
def ringHead (s : State) (ctx : Nat) : Option RingRec :=
  match s.rings.find? fun r => r.ctx == ctx with
  | some r => if (freeGeneral s r.slice.die).isSome then some r else none
  | none => none

/-- Take the first ring record that may go into the pool (R323). -/
def takeRing (s : State) : Option State :=
  ((List.range 65).findSome? (ringHead s)).bind fun r =>
    (freeGeneral s r.slice.die).map fun e =>
      let s1 := { s with
        rings := s.rings.filter fun q => q.slice.id != r.slice.id
        ctxs := modNth s.ctxs r.ctx fun c => { c with head := c.head + 1 } }
      takeIn s1 { r.slice with entry := e, reserved := false } r.slice.priv r.slice.pred

/-- Take ring records while entries are free. -/
def takeRings (s : State) : Nat → State
  | 0 => s
  | n + 1 => match takeRing s with
    | none => s
    | some s1 => takeRings s1 n

/-- Is the record at the head of some ring one that may go into the pool of a die now (R323)? -/
def ringDue (s : State) (die : Nat) : Bool :=
  ((List.range 65).filterMap (ringHead s)).any fun r => r.slice.die == die

/-- Blocked operations in the order in which they began to wait (R338). -/
def inParkOrder : List Op → List Op
  | [] => []
  | o :: os =>
    let rest := inParkOrder os
    (rest.filter fun p => decide (p.parkSeq < o.parkSeq)) ++ o :: rest.filter fun p => !decide (p.parkSeq < o.parkSeq)

/-- Blocked ENQs are retried at once, the one that began to wait first before the others (R337, R338). -/
def retryBlocked (s : State) : State :=
  later s ((inParkOrder (s.ops.filter fun o => o.stage == .blocked)).map fun o => .enqRetry o.id)

/-- The entry of a slice that has completed goes to the rings first, then to blocked ENQs (R320, R323). -/
def entryFreed (r : State × Bool) : State := if r.2 then retryBlocked (takeRings r.1 r.1.rings.length) else r.1

/-- A slice ends: it completes. -/
def endOfSlice (s : State) (x : Slice) (code cause : Nat) (tepc tval : Dword) : State :=
  entryFreed (completeSlice s x code cause tepc tval)

/-! ## Waiting reads of a slice's structures (R318) -/

/-- A read of a slice's structures waits in the fault queue. -/
def sliceWaits (s : State) (x : Slice) (malformed : Bool) (va : Nat) : State :=
  let (s1, tok) := postWaiting s 4 (ctxByte x.ctx) (if malformed then 2 else 0) (descOf s x.ctx).asid (srcCp x.die)
    (BitVec.ofNat 64 va)
  modSlice s1 x.id fun x => { x with token := some tok, verdict := none, waitFor := some (va, malformed) }

/-- A fatal fault on a slice's structures is reported (R318, cause 4; R383). -/
def sliceFault (s : State) (x : Slice) (cause va : Nat) (malformed : Bool) : State :=
  postReport s cause 4 (ctxByte x.ctx) (if malformed then 10 else 8) (descOf s x.ctx).asid (srcCp x.die) (BitVec.ofNat 64 va)

/-- What a slice knows after the verdict on what it waited for. -/
def Slice.answered (x : Slice) : Slice :=
  { x with token := none, verdict := none, waitFor := none
           fatals := match x.waitFor with
             | some w => if x.verdict = some true then w.1 :: x.fatals else x.fatals
             | none => x.fatals }

/-- The structures of a Ready slice are read and checked (R318): it is rejected with the lowest CAUSE, waits, or has its
kernel. A fault that no entry of the queue has told of is reported. -/
def prepareSlice (s : State) (x : Slice) : State :=
  if x.token.isSome ∧ x.verdict.isNone then s
  else
    let y := x.answered
    let (s1, t) := readStructs (modSlice s x.id fun _ => y) y
    match t.held with
    | some .busy => s
    | some (.wait m va) => sliceWaits s1 y m va
    | none => match structCause s1 y t with
      | some c =>
        endOfSlice ((t.faults.filter fun f => !y.fatals.contains f.2).foldl (fun s f => sliceFault s y f.1 f.2 false) s1) y 1 c 0 0
      | none =>
        let s2 := modSlice s1 x.id fun x => { x with k := some t.kernel, tiles := t.ops.flatten }
        if x.pkt.exports then holdExports s2 y t.kernel.cores else s2

end Sys2Proof.Machine
end

