-- ==== Sys2Proof/Machine/Tasks.lean ====
section
/-! DEFINITION. ENQ and BUDR (spec/12 R335 to R343), the places a child may take, and the host queues' packets (R309 to
R313). -/

namespace Sys2Proof.Machine

/-! ## ENQ (R335 to R341) -/

/-- ENQ: the first checks, then the record's four quarters wait for their grant (R336). -/
def execEnq (t : EI) (s : State) : Host.Outcome State Fault Refusal :=
  .next (match viewOf s with
    | none => endIssue s
    | some v =>
      let a := v.uni64 t.h t.a
      if !v.g.converged v.pc then takeTrap s 0x04 0
      else if a.toNat % 64 ≠ 0 then takeTrap s 0x07 a
      else if a.toNat ≥ 2 ^ 57 then takeTrap s 0x08 a
      else
        endIssue (pushOp s v
          { i := .enq t, mask := v.carried, stage := .grant
            reqs := (List.range 4).map fun i => Req.new i (a + BitVec.ofNat 64 (16 * i)) [] []
            dsts := (lanesOf v.carried).flatMap fun l => v.g.dsts l 1 t.d }))

/-- Is it an ENQ? -/
def isEnq : Instr → Bool
  | .enq _ => true
  | _ => false

/-- .NB of an ENQ (R335). -/
def enqNb : Instr → Bool
  | .enq t => t.bit 11
  | _ => false

/-- Does another ENQ of the die wait before a place in the order for a place that an ENQ wants (R338)? `f` tells the
ENQs that want it. -/
def enqAhead (s : State) (o : Op) (f : Op → Bool) : Bool :=
  s.ops.any fun p => p.stage == .blocked && dieOf p.core == dieOf o.core && p.id != o.id &&
    (o.stage != .blocked || decide (p.parkSeq < o.parkSeq)) && f p

/-- The slice of an operation. -/
def sliceOfOp (s : State) (o : Op) : Option Slice := (getTeam s o.team).bind fun t => getSlice s t.slice

/-- The child that a record makes (R340). -/
def childOf (die : Nat) (parent : Slice) (p : Packet) : Slice :=
  { newSlice die parent.ctx p with
    priv := parent.priv && p.priv, depth := parent.depth + 1, quant := parent.quant
    deadl := if p.deadline = 0 then parent.deadl else p.deadline }

/-- The overflow ring of a context: base and number of entries, when its descriptor gives one (R339, R372). -/
def ringOf (s : State) (ctx : Nat) : Option (Nat × Nat) :=
  let d := (descOf s ctx).ring.toNat
  let n := d % 32
  if 9 ≤ n ∧ n ≤ 24 ∧ d / 4096 ≠ 0 then some (d / 4096 % 2 ^ 45 * 4096, 2 ^ n) else none

/-- Address of a ring's next tail entry, while the ring is not full. -/
def ringTailVa (s : State) (ctx : Nat) : Option Nat :=
  let c := nth CtxSt.reset s.ctxs ctx
  match ringOf s ctx with
  | some (base, n) => if c.tail - c.head < n then some (base + 128 * (c.tail % n)) else none
  | none => none

/-- Is the page of the next tail entry mapped for a write (R339)? -/
def ringMapped (s : State) (ctx va : Nat) : State × Bool :=
  let d := descOf s ctx
  match translate s d.root d.asid true va .write with
  | (s1, .ok _ _ _) => (s1, true)
  | (s1, _) => (s1, false)

/-- RINGPF is posted once for a page (R339, R430). -/
def postRingpf (s : State) (die ctx va : Nat) : State :=
  if (nth CtxSt.reset s.ctxs ctx).ringpf then s
  else
    let s1 := postReport s 0x14 5 (ctxByte ctx) 4 (descOf s ctx).asid (srcCp die) (BitVec.ofNat 64 va)
    { s1 with ctxs := modNth s1.ctxs ctx fun c => { c with ringpf := true, ringAt := s.tb } }

/-- The place in the ring: the state in which the record stands there, else the state after the attempt. -/
def placeInRing (s : State) (o : Op) (child : Slice) : State × Bool :=
  if enqAhead s o fun p => ctxOfTeam s p.team == child.ctx then (s, false)
  else match ringTailVa s child.ctx with
    | none => (s, false)
    | some va =>
      match ringMapped s child.ctx va with
      | (s1, false) => (postRingpf s1 child.die child.ctx va, false)
      | (s1, true) =>
        ({ s1 with
            rings := s1.rings ++ [{ ctx := child.ctx, slice := { child with id := s1.nextId } }]
            nextId := s1.nextId + 1
            ctxs := modNth s1.ctxs child.ctx fun c => { c with tail := c.tail + 1, ringpf := false } }, true)

/-- Take a child into a pool entry. -/
def enterChild (s : State) (parent child : Slice) (entry : Nat) (reserved : Bool) : State :=
  takeIn { s with nextId := s.nextId + 1 }
    { child with id := s.nextId, entry := entry, reserved := reserved } parent.priv (some parent.id)

/-- Place a child in the first place that can take it (R337); `true` when it was accepted. A general entry that is free has
been left over by the ring records and by the ENQs that wait, which are retried as it frees. A NOP record makes no slice. -/
def placeChild (s : State) (o : Op) (parent : Slice) (p : Packet) : State × Bool :=
  let die := dieOf o.core
  let child := { childOf die parent p with pred := some parent.id }
  if p.kind = 0 then (s, true)
  else
    match (if o.stage = .blocked ∧ enqAhead s o (fun _ => true) then none else freeGeneral s die) with
    | some e => (enterChild s parent child e false, true)
    | none =>
      match placeInRing s o child with
      | (s1, true) => (s1, true)
      | (s1, false) =>
        if freeReserved s1 die child.ctx child.depth &&
            !(enqAhead s1 o fun q => match sliceOfOp s1 q with
              | some x => x.ctx == child.ctx && x.depth + 1 == child.depth
              | none => false) then
          (enterChild s1 parent child (reservedEntry child.ctx child.depth) true, true)
        else (s1, false)

/-- The ENQ is over: D is written, and its fibres go on. -/
def enqEnd (s : State) (o : Op) (r : Bool) : State :=
  passOp (landRegs (dropOp s o.id) o (o.dsts.map fun d => (d, bit32 r))) o

/-- Try to place the child of an ENQ whose record has been read (R337, R338). -/
def enqTry (s : State) (o : Op) : State :=
  match sliceOfOp s o with
  | none => dropOp s o.id
  | some parent =>
    match placeChild s o parent (parsePacket (o.reqs.flatMap Req.got)) with
    | (s1, true) => enqEnd s1 o true
    | (s1, false) =>
      if enqNb o.i then enqEnd s1 o false
      else if o.stage = .blocked then s1
      else { modOp s1 o.id fun o => { o with stage := .blocked, parkSeq := s1.nextId } with nextId := s1.nextId + 1 }

/-- The record of an ENQ has been read: POISON and DEPTH are precise (R336, checks 3 and 4), then the child is placed. -/
def enqRead (s : State) (o : Op) : State :=
  if !trapFree s o ∨ gateHolds s o.core o.cyc then s
  else match poisonTval o with
    | some tv => trapOp s o 0x0B tv
    | none =>
      match timeoutTval o with
      | some tv => trapOp s o 0x15 tv
      | none =>
        if (sliceOfOp s o).any fun x => x.depth == 15 then trapOp s o 0x0F 15 else enqTry s o

/-- An operation of a lane access or of an ENQ all of whose requests have ended goes on. -/
def settleOp (s : State) (id : Nat) : State :=
  match getOp s id with
  | none => s
  | some o =>
    if isEnq o.i then (if o.stage == .active && o.reqs.all Req.ended then enqRead s o else s) else finishOp s id

/-- Every active fibre of an operation's group, for which an ENQ releases (R341). -/
def activeOf (s : State) (o : Op) : Mask := o.mask ||| ((getGroup s o.grp).map Group.active).getD 0

/-- The quarters of an ENQ's record are read, once it may release what every active fibre has done before (R336, R341). -/
def enqReturn (s : State) (o : Op) : State :=
  if o.stage = .active ∧ opReady s { o with mask := activeOf s o } (activeOf s o) ∧ !o.reqs.any (ownedByEngine s o) then
    let s1 := sendLanes s o
    match getOp s1 o.id with
    | none => s1
    | some o1 =>
      let (s2, qs) := readReqs s1 (rootOf s1 o.team) o1.reqs
      settleOp (modOp s2 o.id fun o => { o with reqs := qs }) o.id
  else s

/-- ENQ_RETRY: a blocked ENQ tries again (R337). -/
def execEnqRetry (op : Nat) (s : State) : Host.Outcome State Fault Refusal :=
  .next (match getOp s op with
    | none => s
    | some o => if o.stage = .blocked then enqTry s o else s)

/-- RING_PAGE_RETRY: every 10 µs a ring page that was not mapped is tried again (R339). -/
def execRingPageRetry (ctx : Nat) (s : State) : Host.Outcome State Fault Refusal :=
  .next (
    let c := nth CtxSt.reset s.ctxs ctx
    if c.ringpf && decide (s.tb ≥ c.ringAt + 10000) then
      let s0 := { s with ctxs := modNth s.ctxs ctx fun c => { c with ringAt := s.tb } }
      match ringTailVa s0 ctx with
      | none => s0
      | some va =>
        match ringMapped s0 ctx va with
        | (s1, false) => s1
        | (s1, true) => retryBlocked { s1 with ctxs := modNth s1.ctxs ctx fun c => { c with ringpf := false } }
    else s)

/-! ## BUDR (R343) -/

/-- What BUDR reads of a slice. -/
def budrValue (t : EI) (x : Slice) : Dword :=
  if t.var = 0 then x.left else if t.var = 1 then BitVec.ofNat 64 x.used else x.engy

/-- BUDR (R343). -/
def execBudr (t : EI) (s : State) : Host.Outcome State Fault Refusal :=
  .next (match viewOf s with
    | none => endIssue s
    | some v =>
      if v.g.converged v.pc then
        let x := ((sliceOf s v.g).map (budrValue t)).getD 0
        issueDone (modGroup s v.g.id fun g => g.writes (v.g.put64 0 t.d x)) t.h.len.bytes
      else takeTrap s 0x04 0)

/-! ## Host queues (R309 to R313, R432) -/

/-- The physical address of a queue's descriptor. -/
def queueDescAt (s : State) (q : Nat) : Nat := s.host.qdtab.toNat % 2 ^ 52 / 4096 * 4096 + 16 * q

/-- The descriptor of a queue as its table holds it: EN is 0 when a field is out of range or a RES0 bit is set (R309), and of a
poisoned one (log 72). -/
def queueDesc (s : State) (q : Nat) : QDesc :=
  let w := memNum s.mem (queueDescAt s q) 16
  let log := w / 2 ^ 22 % 32
  let res0 := w / 2 ^ 6 % 2 ^ 14 != 0 || w / 2 ^ 27 % 32 != 0 || w / 2 ^ 64 % 128 != 0
  { ctx := w % 64, en := w.testBit 20 && !res0 && decide (6 ≤ log ∧ log ≤ 16) && !deadBytes s (queueDescAt s q) 16
    priv := w.testBit 21, log := log
    quant := w / 2 ^ 32 % 2 ^ 32, base := w / 2 ^ 71 }

/-- A queue before its first notify. -/
def Queue.first (q : Nat) : Queue :=
  { q := q, en := false, stopped := false, ridx := 0, widx := 0, lastSlice := none, token := none, verdict := none }

/-- The queue of a number. -/
def getQueue (s : State) (q : Nat) : Queue := (s.queues.find? fun x => x.q == q).getD (Queue.first q)

/-- Replace a queue. -/
def setQueue (s : State) (x : Queue) : State :=
  { s with queues := x :: s.queues.filter fun y => y.q != x.q }

/-- The die whose command processor serves a queue (R309). -/
def queueDie (q : Nat) : Nat := q / 16384 % 4

/-- Virtual address of the slot that a queue takes next: the low bits of BASE below the ring's size are not used. -/
def slotVa (d : QDesc) (x : Queue) : Nat := d.base + 64 * (x.ridx.toNat % 2 ^ d.log)

/-- May the command processor look at a queue's next slot: served, not empty, an entry free, and nobody before it (R312,
R323, R373)? -/
def packetReady (s : State) (q : Nat) : Bool :=
  let x := getQueue s q
  let d := x.desc
  s.host.ready && x.en && !x.stopped && (descOf s d.ctx).live && x.ridx != x.widx &&
    (x.token.isNone || x.verdict.isSome) && (freeGeneral s (queueDie q)).isSome &&
    !(s.ops.any fun o => o.stage == .blocked && dieOf o.core == queueDie q) && !ringDue s (queueDie q)

/-- The place of a queue in the round of its die that starts behind the queue served last (R312). -/
def roundOf (s : State) (q : Nat) : Nat := (q + 65535 - nth 0 s.served (queueDie q) % 65536) % 65536

/-- Is it a queue's turn: of the queues of its die that may be looked at, it is the next in the round (R312)? -/
def packetDue (s : State) (q : Nat) : Bool :=
  packetReady s q && s.queues.all fun y =>
    y.q == q || queueDie y.q != queueDie q || !packetReady s y.q || decide (roundOf s q < roundOf s y.q)

/-- A packet read whole: it makes a slice, or a NOP nothing, its VALID is cleared, and RIDX advances (R311, R312). -/
def takePacket (s : State) (q : Nat) (bs : List Byte) : State :=
  let x := getQueue s q
  let d := x.desc
  let p := parsePacket bs
  let va := slotVa d x
  let die := queueDie q
  let cleared := toBytes (p.hdr.toNat - p.hdr.toNat % 2) 4
  if p.kind = 0 then cpWrite (setQueue s { x with ridx := x.ridx + 1 }) die d.ctx true va cleared
  else match freeGeneral s die with
    | none => s
    | some e =>
      let y := { newSlice die d.ctx p with id := s.nextId, entry := e, quant := d.quant, queue := some q }
      let s1 := setQueue { s with nextId := s.nextId + 1 }
        { x with ridx := x.ridx + 1, lastSlice := some s.nextId }
      cpWrite (takeIn s1 y d.priv x.lastSlice) die d.ctx true va cleared

/-- The queue has been served: the round of its die goes on behind it (R312). -/
def passQueue (s : State) (q : Nat) : State := { s with served := setNth s.served (queueDie q) q }

/-- The command processor looks at a queue's next slot (R312): it reads HDR, and the rest only behind a VALID that reads 1
(R248). -/
def packetTakeIn (s : State) (q : Nat) : State :=
  if packetDue s q then
    let s := passQueue s q
    let x := getQueue s q
    let d := x.desc
    let va := slotVa d x
    let asid := (descOf s d.ctx).asid
    let stop (s : State) (c va : Nat) : State :=
      postReport (setQueue s { x with stopped := true, token := none, verdict := none }) c 4 (ctxByte d.ctx)
        (if x.malf && c == 0x08 then 10 else 8) asid (srcCp (queueDie q)) (BitVec.ofNat 64 va)
    if x.verdict = some true then stop s 0x08 va
    else if cpHeld s d.ctx true va 4 then s
    else
      let x := { x with token := none, verdict := none, malf := false }
      let s0 := setQueue s x
      match (match cpRead s0 d.ctx true va 4 with
        | (s1, .ok hdr) =>
          if (parsePacket hdr).valid then
            match cpRead s1 d.ctx true (va + 4) 60 with
            | (s2, CpRes.ok rest) => (s2, CpRes.ok (hdr ++ rest))
            | r => r
          else (s1, CpRes.ok [])
        | r => r) with
      | (s1, .ok bs) => if bs.isEmpty then s1 else takePacket s1 q bs
      | (s1, .busy) => s1
      | (s1, .wait m va') =>
        let (s2, tok) := postWaiting s1 4 (ctxByte d.ctx) (if m then 2 else 0) asid (srcCp (queueDie q))
          (BitVec.ofNat 64 va')
        setQueue s2 { x with token := some tok, malf := m }
      | (s1, .fatal c _) => stop s1 c va
  else s

/-- PACKET_TAKE_IN (R312): the queue's context is the one that its descriptor named at the last notify write (R432). -/
def execPacketTakeIn (ctx queue : Nat) (s : State) : Host.Outcome State Fault Refusal :=
  .next (if (getQueue s queue).desc.ctx = ctx then packetTakeIn s queue else s)

/-- A notify write of the host (R313, R432): the descriptor is read again, and a queue that becomes enabled starts at
zero; before READY, or while EN = 0, the write is ignored. -/
def execHostNotifyWrite (ctx queue : Nat) (widx : BitVec 32) (s : State) : Host.Outcome State Fault Refusal :=
  .next (
    if !s.host.ready || queue ≥ 65536 then s
    else
      let s := meetAt s (queueDescAt s queue) 16
      let d := queueDesc s queue
      if d.ctx ≠ ctx then s
      else
        let x := getQueue s queue
        if !d.en then setQueue s { x with en := false, stopped := false, desc := d }
        else
          let y := { (if x.en then x else { Queue.first queue with en := true, lastSlice := x.lastSlice }) with desc := d }
          let n := 2 ^ d.log
          setQueue s { y with widx := if (widx - y.ridx).toNat > n then y.ridx + BitVec.ofNat 32 n else widx })

end Sys2Proof.Machine
end

