-- ==== Sys2Proof/Machine/MemoryEvents.lean ====
section
/-! DEFINITION. The events by which memory operations go on (spec/07 R181, R195, R196, R200; spec/09 R235; spec/10 R265). -/

namespace Sys2Proof.Machine

/-- Lines that an issue wants to each peer fit in the allowance, and nobody waits ahead of it (R265). -/
def peersFree (s : State) (seq : Nat) (ps : List (Nat × Nat)) : Bool :=
  ps.all (room s) && !parkedAhead s seq ps

/-- Is a group of the slice halted by a debugger (R334)? -/
def sliceHalted (s : State) (sid : Nat) : Bool :=
  s.groups.any fun g => g.halted && ((sliceOf s g).map Slice.id) == some sid

/-- The slice of an operation's team. -/
def sliceOfTeam (s : State) (team : Nat) : Option Slice := (getTeam s team).bind fun t => getSlice s t.slice

/-- The accounts of a slice without an issue that has not been one. -/
def Slice.uncharge (x : Slice) (price : Nat) (counted halted : Bool) : Slice :=
  { x with
    engy := x.engy - BitVec.ofNat 64 price
    used := if counted then x.used - 1 else x.used
    quantCount := if counted && !halted then x.quantCount - 1 else x.quantCount
    spentAt := if counted && !halted && x.left == 0 then none else x.spentAt
    left := if counted && !halted && x.left != BitVec.allOnes 64 then x.left + 1 else x.left }

/-- An access that parks without having waited for a grant has not issued: the model, which learns of it behind the issue, takes
back what it has charged and counted, and charges it when the access issues at last (R344, R449). -/
def unchargeOp (s : State) (o : Op) : State :=
  match sliceOfTeam s o.team with
  | none => s
  | some x =>
    modCore (modSlice s x.id fun x => x.uncharge o.price o.counted (sliceHalted s x.id)) o.core fun c =>
      { c with level := min 1048576 (c.level + o.price)
               charged := if o.price ≤ c.charged then c.charged - o.price else c.charged }

/-- The grants of an operation go on (R194, R195): it traps on the first failed check, an ENQ with the address of its
record (R336), else, once every lane has its
grant, it proceeds, or parks for want of send allowance (R265, R449). One that waits for a grant has issued, and its charge
stands (R344, R394). -/
def memoryGrant (s : State) (id : Nat) : State :=
  match getOp s id with
  | none => s
  | some o =>
    if o.stage = .grant then
      let (s1, qs) := grantReqs s o o.reqs
      let o1 := { o with reqs := qs }
      let s2 := modOp s1 id fun _ => o1
      if qs.any Req.waits then modOp s2 id fun o => { o with price := 0, counted := false }
      else match firstGrantFail qs with
        | some (c, tv) =>
          let tv := if isEnq o.i then (qs.head?.map Req.va).getD tv else tv
          if trapFree s2 o1 then trapOp s2 o1 c tv else s2
        | none =>
          let ps := peersOfReqs qs
          if peersFree s2 s2.nextId ps then
            let s3 := modOp s2 id fun o => { o with stage := .active, at_ := s.tb }
            if isEnq o.i then s3 else passOp s3 o1
          else
            unchargeOp { modOp s2 id fun o => { o with stage := .parked, parkSeq := s2.nextId } with nextId := s2.nextId + 1 } o
    else s

/-- MEMORY_GRANT (R195). -/
def execMemoryGrant (op : Nat) (s : State) : Host.Outcome State Fault Refusal := .next (memoryGrant s op)

/-- LOAD_DATA_RETURN (R196); for an ENQ its record's quarters (R336). -/
def execLoadDataReturn (op : Nat) (s : State) : Host.Outcome State Fault Refusal :=
  .next (match getOp s op with
    | none => s
    | some o => if isEnq o.i then enqReturn s o else loadReturn s op)

/-- GLOBAL_WRITE_PERFORM (R235). -/
def execGlobalWritePerform (op sector : Nat) (s : State) : Host.Outcome State Fault Refusal :=
  .next (writePerform s op sector)

/-- SCRATCH_SERVICE_CYCLE (R181). -/
def execScratchServiceCycle (op : Nat) (s : State) : Host.Outcome State Fault Refusal := .next (scratchService s op)

/-- GATHER_ELEMENT_READ (R200). -/
def execGatherElementRead (grp : Nat) (s : State) : Host.Outcome State Fault Refusal := .next (gatherRead s grp)

end Sys2Proof.Machine
end

