-- ==== Sys2Proof/Machine/Copies.lean ====
section
/-! DEFINITION. Copies, signals and send allowance, class 0xB (spec/10 R250 to R257, R275 to R284), BRA.ALW (spec/11 R299),
and the work of the copy engine on a line. -/

namespace Sys2Proof.Machine

/-! ## Sides and lines (R250, R251) -/

/-- A side of a copy request. -/
inductive Side where
  | glob (va : Nat)
  | scratch (core : Nat) (w : Win) (off : Nat)
  | peer (h : Nat)
  deriving DecidableEq, Repr

/-- The encoding of a copy instruction. -/
def copyEnc : Instr → Option EI
  | .cpy t | .cpyr t | .cpyred t => some t
  | _ => none

/-- Is the destination a peer handle? -/
def toPeer : Instr → Bool
  | .cpyr t | .cpyred t => t.rm
  | _ => false

/-- Is the source a peer handle? -/
def fromPeer : Instr → Bool
  | .cpyr t => !t.rm
  | _ => false

/-- Bytes of a request. -/
def copyBytes (t : EI) : Nat := 2 ^ t.csize.toNat

/-- A value as a side. -/
def sideOf (handle scratch : Bool) (w : BitVec 2) (x : Dword) : Side :=
  if handle then .peer x.toNat
  else if scratch then .scratch (x.toNat / 2 ^ 24 % 4) (winOfCode w.toNat) (x.toNat % 2 ^ 24)
  else .glob x.toNat

/-- The destination side of a copy instruction. -/
def dstSide (i : Instr) (x : Dword) : Side :=
  match copyEnc i with
  | some t => sideOf (toPeer i) t.ds t.dw x
  | none => .glob 0

/-- The source side. -/
def srcSide (i : Instr) (x : Dword) : Side :=
  match copyEnc i with
  | some t => sideOf (fromPeer i) t.ss t.sw x
  | none => .glob 0

/-- The value that names a lane's side. -/
def sideVal (v : View) (h : Hdr) (handle scratch : Bool) (l : Nat) (o : Opd) : Dword :=
  if !handle && scratch then (v.src32 h l o).setWidth 64 else v.src64 h l false o

/-- A lane's destination value. -/
def dstVal (v : View) (i : Instr) (t : EI) (l : Nat) : Dword := sideVal v t.h (toPeer i) t.ds l t.a

/-- A lane's source value. -/
def srcVal (v : View) (i : Instr) (t : EI) (l : Nat) : Dword := sideVal v t.h (fromPeer i) t.ss l t.b

/-- Offset or address of a side within its space. -/
def Side.off : Side → Nat
  | .glob va => va
  | .scratch _ _ off => off
  | .peer h => h % 2 ^ 24

/-- The destination line of a side (R251), numbered apart for each space. -/
def Side.line : Side → Nat
  | .glob va => va / 192
  | .scratch c w off => 2 ^ 60 + scratchKey c w 0 / 2 ^ 32 * 2 ^ 18 + off / 192
  | .peer h => 2 ^ 128 + handleKey h

/-- The peers that a side names at issue: a handle's device, or the one whose page the tables map now (R264). -/
def Side.peers (s : State) (root : Nat) : Side → List Nat
  | .glob va => match walk s.mem root va with
    | .leaf _ e _ => if leafApt e = 1 then [leafPeer e] else []
    | _ => []
  | .scratch .. => []
  | .peer h => [h / 2 ^ 54]

/-- A lane's request before the engine has looked at it. -/
def newSeg (s : State) (root : Nat) (v : View) (i : Instr) (t : EI) (l : Nat) : Seg :=
  let d := dstVal v i t l
  { lane := l, sec := (dstSide i d).off / 48, dst := d, src := srcVal v i t l, size := copyBytes t
    dkeys := [], skeys := [], dpeer := none, speer := none, data := [], pois := false, drop := false, st := .fresh
    named := (dstSide i d).peers s root ++ (srcSide i (srcVal v i t l)).peers s root }

/-- The sectors that requests write in a line, ascending. -/
def sectorsOf (segs : List Seg) : List Nat :=
  (List.range 4).filterMap fun i => (segs.find? fun q => q.sec % 4 == i).map Seg.sec

/-- The line operations of an issue (R251). -/
def copyLines (s : State) (v : View) (i : Instr) (t : EI) (m : Mask) : List Line :=
  let (root, _) := teamSpace s v.g.team
  let segs := (lanesOf m).map (newSeg s root v i t)
  let keys := (segs.map fun q => (dstSide i q.dst).line).eraseDups
  keys.zipIdx.map fun x =>
    let mine := segs.filter fun q => (dstSide i q.dst).line == x.1
    { id := s.nextId + x.2, copy := s.nextId, grp := v.g.id, core := v.g.core, team := v.g.team, i := i, dline := x.1
      segs := mine, bar := (v.uni t.h t.c).setWidth 64, left := sectorsOf mine, started := false
      token := none, verdict := none, cause := none
      peers := (mine.flatMap Seg.named).eraseDups
      at_ := s.tb, cyc := v.cyc, lvl := levelS s v.g }

/-- Lines that line operations want to each peer (R264, R265). -/
def linePeers (ls : List Line) : List (Nat × Nat) :=
  (ls.flatMap Line.peers).eraseDups.map fun p => (p, (ls.filter fun l => l.peers.contains p).length)

/-! ## The checks (R277) -/

/-- Check 1. Where several values of the lowest failing lane fail, TVAL is the first of A, B and C, which is the model's choice
(log 84). -/
def copyAlign (v : View) (i : Instr) (t : EI) : Check := fun l =>
  let d := dstVal v i t l
  let x := srcVal v i t l
  let c := v.uni t.h t.c
  if (dstSide i d).off % copyBytes t ≠ 0 then some (0x07, d)
  else if (srcSide i x).off % copyBytes t ≠ 0 then some (0x07, x)
  else if c.toNat % 16 ≠ 0 then some (0x07, c.setWidth 64)
  else none

/-- A side that check 2 refuses. -/
def sideOut (tm : Team) (n : Nat) (x : Dword) : Side → Bool
  | .glob _ => false
  | .scratch c w off => decide (x.toNat / 2 ^ 26 ≠ 0) || decide (c ≥ tm.cores.length) || decide (off + n > winBytes tm w)
  | .peer h => decide (h / 2 ^ 24 % 2 ^ 20 ≠ 0) || decide (h / 2 ^ 54 = devN)

/-- A counting barrier that check 2 refuses. -/
def barOut (tm : Team) (remote : Bool) (c : Nat) : Bool :=
  if remote then decide (c / 2 ^ 24 ≠ 0)
  else decide (c / 2 ^ 26 ≠ 0) || decide (c / 2 ^ 24 % 4 ≥ tm.cores.length) || decide (c % 2 ^ 24 + 16 > winBytes tm .gen)

/-- Check 2. -/
def copyWindow (v : View) (tm : Team) (i : Instr) (t : EI) : Check := fun l =>
  let d := dstVal v i t l
  let x := srcVal v i t l
  let c := v.uni t.h t.c
  if sideOut tm (copyBytes t) d (dstSide i d) then some (0x12, d)
  else if sideOut tm (copyBytes t) x (srcSide i x) then some (0x12, x)
  else if barOut tm (toPeer i) c.toNat then some (0x12, c.setWidth 64)
  else none

/-- Is a side a global address whose upper bits are not zero? -/
def Side.high : Side → Bool
  | .glob va => decide (va ≥ 2 ^ 57)
  | _ => false

/-- Check 3. -/
def copyUpper (v : View) (i : Instr) (t : EI) : Check := fun l =>
  let d := dstVal v i t l
  let x := srcVal v i t l
  if (dstSide i d).high then some (0x08, d) else if (srcSide i x).high then some (0x08, x) else none

/-! ## Issue (R255, R265) -/

/-- Line operations of a core that have not completed (R255). -/
def queuedLines (s : State) (core : Nat) : Nat := (s.lines.filter fun l => l.core == core && !l.dead).length

/-- The place in the order of parking of an issue of a group (R265). -/
def parkSeqOf (s : State) (g : Group) : Nat :=
  match g.parked with
  | some c => c.seq
  | none => s.nextId

/-- The issue in hand parks (R265). -/
def parkIssue (s : State) (v : View) (ps : List (Nat × Nat)) : State :=
  endIssue { modGroup s v.g.id fun g =>
    { g with parked := some { mask := v.carried, pc := v.pc, seq := parkSeqOf s g, peers := ps } } with
      nextId := s.nextId + 1 }

/-- A copy instruction: its checks, then its line operations enter the engine. An issue that does not fit in the engine's
queue, or lacks allowance, does not issue now (R255, R265). -/
def copyOp (s : State) (i : Instr) (t : EI) : State :=
  match viewOf s with
  | none => endIssue s
  | some v =>
    match getTeam s v.g.team with
    | none => endIssue s
    | some tm =>
      let m := v.parts t.h
      match firstFail (lanesOf m) [copyAlign v i t, copyWindow v tm i t, copyUpper v i t] with
      | some (c, tv) => takeTrap (modGroup s v.g.id fun g => { g with parked := none }) c tv
      | none =>
        let ls := copyLines s v i t m
        let ps := linePeers ls
        if queuedLines s v.g.core + ls.length > 64 then endIssue s
        else if peersFree s (parkSeqOf s v.g) ps then
          let s1 := modGroup s v.g.id fun g => { g with parked := none }
          issueDone { s1 with lines := s1.lines ++ ls, nextId := s1.nextId + ls.length + 1 } t.h.len.bytes
        else parkIssue s v ps

/-- CPY (R278). -/
def execCpy (t : EI) (s : State) : Host.Outcome State Fault Refusal := .next (copyOp s (.cpy t) t)

/-- CPYR (R279). -/
def execCpyr (t : EI) (s : State) : Host.Outcome State Fault Refusal := .next (copyOp s (.cpyr t) t)

/-- CPYRED (R280). -/
def execCpyred (t : EI) (s : State) : Host.Outcome State Fault Refusal := .next (copyOp s (.cpyred t) t)

/-- The checks of CPYSIG (R281). -/
def signalChecks (h : Dword) (n : Nat) : List Check :=
  [ fun _ => if h.toNat % 16 ≠ 0 then some (0x07, h) else none,
    fun _ => if h.toNat / 2 ^ 24 % 2 ^ 20 ≠ 0 ∨ handleDev h = devN then some (0x12, h) else none,
    fun _ => if n = 0 ∨ n > 65535 then some (0x12, arg n) else none ]

/-- CPYSIG: a signal goes to the engine, or the issue parks (R281, R265). -/
def execCpysig (t : EI) (s : State) : Host.Outcome State Fault Refusal :=
  .next (match viewOf s with
    | none => endIssue s
    | some v =>
      let h := v.uni64 t.h t.a
      let n := v.uniN t t.b
      let clear := modGroup s v.g.id fun g => { g with parked := none }
      if !v.g.converged v.pc then takeTrap clear 0x04 0
      else match firstFail [0] (signalChecks h n) with
        | some (c, tv) => takeTrap clear c tv
        | none =>
          let ps := [(handleDev h, 1)]
          if peersFree s (parkSeqOf s v.g) ps then
            issueDone { clear with
              sigs := clear.sigs ++ [{ id := s.nextId, grp := v.g.id, core := v.g.core, team := v.g.team, handle := h
                                       arrivals := n, bytes := v.uniN t t.c, tag := none, at_ := s.tb, cyc := v.cyc }]
              nextId := s.nextId + 1 } t.h.len.bytes
          else parkIssue s v ps)

/-! ## Send allowance (R282, R283, R299) -/

/-- The context of a group. -/
def ctxOf (s : State) (g : Group) : Nat := ctxOfTeam s g.team

/-- ALWB (R282). Where slot and device are both out of range, TVAL is the slot, which is the model's choice (log 85). -/
def execAlwb (t : EI) (s : State) : Host.Outcome State Fault Refusal :=
  .next (barIssue s t.h true
    (fun v _ => [ fun _ => if v.uniN t t.a > 15 then some (0x12, arg (v.uniN t t.a)) else none,
                  fun _ => if v.uniN t t.b > 1023 ∨ v.uniN t t.b = devN then some (0x12, arg (v.uniN t t.b)) else none ])
    fun s v _ _ =>
      issueDone (modCore s v.g.core fun c =>
        { c with alw := setNth c.alw (v.uniN t t.a) { v := true, ctx := ctxOf s v.g, dev := v.uniN t t.b } })
        t.h.len.bytes)

/-- ALWR (R283). -/
def execAlwr (t : EI) (s : State) : Host.Outcome State Fault Refusal :=
  .next (barIssue s t.h true
    (fun v _ => [fun _ => if v.uniN t t.a > 15 then some (0x12, arg (v.uniN t t.a)) else none])
    fun s v _ _ =>
      let x := readAlw s v.g.core (v.uniN t t.a) (ctxOf s v.g)
      issueDone (modGroup s v.g.id fun g =>
        g.writes (v.g.put64 0 t.d (alwWord x) ++
          [(.gf v.g.onBank, (gfAllowance x.2.2.2 (v.uniN t t.b) x.1).setWidth 32)])) t.h.len.bytes)

/-- Does BRA.ALW branch: .OK holds when V = 1 and AVAIL ≥ max(B, 1) (R299)? -/
def alwTaken (s : State) (t : EI) (v : View) : Bool :=
  let x := readAlw s v.g.core (t.mod.toNat % 16) (ctxOf s v.g)
  (x.1 && decide (x.2.2.2 ≥ max (v.uniN t t.b) 1)) != t.bit 4

/-- BRA.ALW (R299). -/
def execBraAlw (t : EI) (s : State) : Host.Outcome State Fault Refusal :=
  .next (branch s t.h fun v _ => alwTaken s t v)

/-! ## The engine on a line -/

/-- The line of a handle. -/
def getLine (s : State) (id : Nat) : Option Line := s.lines.find? fun l => l.id == id

/-- Change a line. -/
def modLine (s : State) (id : Nat) (f : Line → Line) : State :=
  { s with lines := s.lines.map fun l => if l.id == id then f l else l }

/-- Remove a line. -/
def dropLine (s : State) (id : Nat) : State := { s with lines := s.lines.filter fun l => l.id != id }

/-- The counting barrier of a line, as core and offset, when it lies here (R278, R279). -/
def lineBar (l : Line) : Option (Nat × Nat) :=
  if toPeer l.i then none else some (l.bar.toNat / 2 ^ 24 % 4, l.bar.toNat % 2 ^ 24)

/-- Change a line's counting barrier here, and let its waits see it. -/
def markBar (s : State) (l : Line) (f : Bar → Bar) : State :=
  match lineBar l with
  | none => s
  | some (c, off) => changeBar s l.team c off f

/-- The notice of a timeout, or of a fatal fault, for a counting barrier that a handle names at its peer (R256, R270). -/
def noticeTo (h : Dword) (off : Nat) (fault : Option (Nat × Nat)) : Notice :=
  { dev := handleDev h, handle := h.toNat / 2 ^ 44 % 2 ^ 10, off := off, fault := fault }

/-- TIMEOUT is set on a line's counting barrier: here, or by a notice to its peer (R270). -/
def timeoutBar (s : State) (l : Line) : State :=
  if toPeer l.i then
    match l.segs with
    | q :: _ => sendNotice s (noticeTo q.dst l.bar.toNat none)
    | [] => s
  else markBar s l fun b => { b with timeout := true }

/-- Keys of the bytes of a scratch side. -/
def scratchKeys (core : Nat) (w : Win) (off n : Nat) : List Nat := (List.range n).map fun i => scratchKey core w (off + i)

/-- The further fatal conditions on a reduction's destination page (R257). -/
def reduceFault (i : Instr) (e : Nat) : Option Nat :=
  match i with
  | .cpyred _ => if leafApt e = 1 ∧ !leafRap e then some 0x0A else if leafApt e = 2 then some 0x13 else none
  | _ => none

/-- What looking up a side gives: keys, peer and page poison; a wait; or a fatal cause. -/
inductive SideRes where
  | ok (keys : List Nat) (peer : Option Nat) (pois : Bool)
  | wait (malformed : Bool)
  | fatal (cause : Nat)
  deriving DecidableEq, Repr

/-- What an engine wants of a side's page: a reduction reads and writes its destination (R379). -/
def wantSide (i : Instr) (write : Bool) : Want :=
  if write then match i with
    | .cpyred _ => .atomic
    | _ => .write
  else .read

/-- Look up one side of a request. -/
def resolveSide (s : State) (l : Line) (n : Nat) (write : Bool) (x : Side) : State × SideRes :=
  match x with
  | .scratch c w off => (s, .ok (scratchKeys c w off n) none false)
  | .peer h => (s, .ok [] (some (h / 2 ^ 54)) false)
  | .glob va =>
    let (root, asid) := teamSpace s l.team
    match translate s root asid l.lvl va (wantSide l.i write) with
    | (s1, .wait m) => (s1, .wait m)
    | (s1, .fail c) => (s1, .fatal c)
    | (s1, .ok key peer pois) =>
      match if write then reduceFault l.i (leafAt s1 asid va) else none with
      | some c => (s1, .fatal c)
      | none =>
        match if peer.isSome then admitPeer s1 l.team else (s1, true) with
        | (s2, true) => (s2, .ok ((List.range n).map (key + ·)) peer pois)
        | (s2, false) => (s2, .fatal 0x08)

/-- What looking up the requests of a sector comes to. -/
inductive LookRes where
  | ready
  | wait (va : Dword) (write malformed : Bool)
  | fatal (cause : Nat) (va : Dword) (write : Bool)
  deriving DecidableEq, Repr

/-- Look up one request: the source, then the destination. -/
def lookSeg (s : State) (l : Line) (q : Seg) : State × Seg × LookRes :=
  match q.st with
  | .fresh =>
    match resolveSide s l q.size false (srcSide l.i q.src) with
    | (s1, .wait m) => (s1, q, .wait q.src false m)
    | (s1, .fatal c) => (s1, q, .fatal c q.src false)
    | (s1, .ok sk sp pois) =>
      match resolveSide s1 l q.size true (dstSide l.i q.dst) with
      | (s2, .wait m) => (s2, q, .wait q.dst true m)
      | (s2, .fatal c) => (s2, q, .fatal c q.dst true)
      | (s2, .ok dk dp drop) =>
          (s2, { q with skeys := sk, dkeys := dk, speer := sp, dpeer := dp, pois := q.pois || pois, drop := drop
                        st := .granted }, .ready)
  | _ => (s, q, .ready)

/-- Look up the requests of a sector in lane order, up to the first that is not ready. -/
def lookSegs (s : State) (l : Line) (sec : Nat) : List Seg → State × List Seg × LookRes
  | [] => (s, [], .ready)
  | q :: qs =>
    if q.sec = sec then
      match lookSeg s l q with
      | (s1, q1, .ready) =>
          let (s2, qs2, r) := lookSegs s1 l sec qs
          (s2, q1 :: qs2, r)
      | (s1, q1, r) => (s1, q1 :: qs, r)
    else
      let (s2, qs2, r) := lookSegs s l sec qs
      (s2, q :: qs2, r)

/-- Has a request ended? -/
def Seg.ended (q : Seg) : Bool := q.st == .done || q.st == .timedOut

/-- Are earlier accesses of a request's participant to its bytes over: writes of the source bytes `sk`, anything of the
destination bytes `dk` (R253)? -/
def segOrdered (s : State) (l : Line) (q : Seg) (sk dk : List Nat) : Bool :=
  !s.ops.any fun o => o.grp == l.grp && decide (o.id < l.copy) && o.reqs.any fun r =>
    r.lane == q.lane && !r.ended && r.keys.any fun k => dk.contains k || (isWrite o.i && sk.contains k)

/-- The bytes that a request reads: as looked up, else as the tables map them now. -/
def sourceKeys (s : State) (l : Line) (q : Seg) : List Nat :=
  if !q.skeys.isEmpty then q.skeys
  else match srcSide l.i q.src with
    | .glob va => peekKeys s (teamSpace s l.team).1 va q.size
    | .scratch c w off => scratchKeys c w off q.size
    | .peer _ => []

/-- The bytes that a request writes here: as looked up, else as the tables map them now. -/
def destKeys (s : State) (l : Line) (q : Seg) : List Nat :=
  match dstSide l.i q.dst with
  | .scratch c w off => scratchKeys c w off q.size
  | _ => segKeys s l q

/-- May a line begin to write: every earlier access that one of its requests follows is over, so that the line, once begun,
holds none of them up (R244, R253); a trap entry or a TRET orders them too (R249)? -/
def lineOrdered (s : State) (l : Line) : Bool :=
  l.segs.all fun q => q.ended ||
    (segOrdered s l q (sourceKeys s l q) (destKeys s l q) && !fencedBehind s l.grp (Mask.bit q.lane) l.copy)

/-- Has another line begun to write some bytes of memory (R244)? -/
def heldBefore (s : State) (l : Line) (ks : List Nat) : Bool :=
  s.lines.any fun k => k.id != l.id && k.started && lineWrites s k ks

/-- Has another line that has begun to write still to read some bytes of memory here? -/
def readBefore (s : State) (l : Line) (ks : List Nat) : Bool :=
  s.lines.any fun k => k.id != l.id && k.started && !k.dead && k.segs.any fun q =>
    q.data.isEmpty && !q.ended && match srcSide k.i q.src with
      | .glob _ => (sourceKeys s k q).any ks.contains
      | _ => false

/-- May a line begin to write: no line that has begun writes bytes that it reads or writes, nor has still to read bytes that it
writes (R244)? So no reader, a line itself among them, meets a line half written. -/
def lineApart (s : State) (l : Line) : Bool :=
  l.segs.all fun q => q.ended || !(heldBefore s l (segKeys s l q) || readBefore s l (segKeys s l q) ||
    (q.data.isEmpty && match srcSide l.i q.src with
      | .glob _ => heldBefore s l (sourceKeys s l q)
      | _ => false))

/-- Is a request's source bytes still to be fetched from a peer? -/
def Seg.wantsFetch (q : Seg) : Bool := q.speer.isSome && q.data.isEmpty && q.st == .granted

/-- Is the source here and still to be read? -/
def Seg.wantsRead (q : Seg) : Bool := q.speer.isNone && q.data.isEmpty && q.st == .granted

/-- The key of the line that a request touches at a peer (R261). -/
def segKey (x : Side) (keys : List Nat) : Nat :=
  match x with
  | .peer h => handleKey h
  | _ => pageKey (peerPa (keys.headD 0))

/-- Send one request of a line to a peer, if it may go, with the context's FKEY (R385). -/
def sendSeg (s : State) (l : Line) (n : Nat) (dev : Nat) (x : Side) (keys : List Nat) : State :=
  match sendReq s (fkeyOf s l.team) dev (segKey x keys) (.line l.id n) with
  | some (s1, port, tag) =>
      modLine s1 l.id fun l => { l with segs := modNth l.segs n fun q => { q with st := .sent port tag } }
  | none => s

/-- Ask the peers for the sources of a sector, those of a reduction too, which is the model's choice (R280, log 83). -/
def fetchSegs (s : State) (l : Line) (sec : Nat) : State :=
  l.segs.zipIdx.foldl (fun s x =>
    if x.1.sec == sec && x.1.wantsFetch then sendSeg s l x.2 (x.1.speer.getD 0) (srcSide l.i x.1.src) x.1.skeys else s) s

/-- Does a request of a copy read, and has not read, in the source sector of memory of `q`? -/
def Seg.shares (p : Seg) (i : Instr) (q : Seg) : Bool :=
  p.data.isEmpty && !p.ended && p.speer.isNone && match srcSide i p.src, srcSide i q.src with
    | .glob a, .glob b => a / 48 == b / 48
    | _, _ => false

/-- The bytes of a request `p` that reads in the source sector of `q`, which is looked up: by their place in its page, else as
the tables map them now. -/
def nearKeys (s : State) (l : Line) (q p : Seg) : List Nat :=
  if !p.skeys.isEmpty then p.skeys
  else if p.src.toNat / 65536 = q.src.toNat / 65536 then
    (List.range p.size).map fun i => q.skeys.headD 0 + p.src.toNat + i - q.src.toNat
  else peekKeys s (teamSpace s l.team).1 p.src.toNat p.size

/-- Read the source sector of a request, at one instant, for every request of the copy that reads in it (R244, R254). -/
def readSector (s : State) (l : Line) (q : Seg) : State :=
  let root := some (teamSpace s l.team).1
  let s1 := meetSectors s root [(q.src.toNat, q.skeys.headD 0)]
  let bad := sectorPoisoned s1 root q.src.toNat (q.skeys.headD 0)
  let give (p : Seg) : Seg :=
    if p.shares l.i q then { p with data := memGets s1.mem (nearKeys s1 l q p), pois := p.pois || bad } else p
  { s1 with lines := s1.lines.map fun k => if k.copy == l.copy then { k with segs := k.segs.map give } else k }

/-- Read one request's source that is here. -/
def readSeg (s : State) (id n : Nat) : State :=
  match getLine s id with
  | none => s
  | some l =>
    match l.segs[n]? with
    | none => s
    | some q =>
      if q.wantsRead then
        match srcSide l.i q.src with
        | .scratch c w off =>
          let s1 := meetScratch s l.team c w off q.size
          match getTCore s1 l.team c with
          | some x => modLine s1 id fun l => { l with segs := modNth l.segs n fun q =>
              { q with data := x.bytes w off q.size, pois := x.poisoned w off q.size } }
          | none => s1
        | _ => readSector s l q
      else s

/-- Read every source of a sector that is here. -/
def readSegs (s : State) (l : Line) (sec : Nat) : State :=
  l.segs.zipIdx.foldl (fun s x => if x.1.sec == sec then readSeg s l.id x.2 else s) s

/-- May the source of a request be read now: the earlier writes of every participant that reads in its sector are over, and no
engine ahead holds it (R244, R253)? -/
def sourceFree (s : State) (l : Line) (q : Seg) : Bool :=
  !q.wantsRead || match srcSide l.i q.src with
    | .glob _ => s.lines.all fun k => k.copy != l.copy || k.segs.all fun p =>
        !p.shares l.i q || (segOrdered s k p (nearKeys s l q p) [] && !heldBefore s l (nearKeys s l q p))
    | _ => segOrdered s l q q.skeys []

/-- Operation code of R224 for a reduction's element (R280). -/
def reduceCode (op : Nat) : Nat := if op = 0 then 0xC else if op = 1 then 0xD else 0x0

/-- Reduce bytes into old bytes, four at a time (R280). -/
def reduceBytes (code : Nat) : List Byte → List Byte → List Byte
  | o1 :: o2 :: o3 :: o4 :: os, b1 :: b2 :: b3 :: b4 :: bs =>
      atomBytes code [o1, o2, o3, o4] [b1, b2, b3, b4] [] ++ reduceBytes code os bs
  | os, _ => os

/-- What a request leaves where `old` stood. -/
def landBytes (i : Instr) (old new : List Byte) : List Byte :=
  match i with
  | .cpyred t => reduceBytes (reduceCode t.cop.toNat) old new
  | _ => new

/-- Is an instruction a reduction, which reads what it writes? -/
def isReduce : Instr → Bool
  | .cpyred _ => true
  | _ => false

/-- Write bytes into local scratch, or reduce into it; poison stays in what a reduction has read poisoned (R254, R404), and
waits see the words written (R208). -/
def putScratch (s : State) (team c : Nat) (w : Win) (off n : Nat) (reduce pois : Bool) (f : List Byte → List Byte) : State :=
  let s1 := if reduce then meetScratch s team c w off n else s
  let bad := pois || (reduce && match getTCore s1 team c with
    | some x => x.poisoned w off n
    | none => false)
  let s2 := modTCore s1 team c fun x =>
    let x1 := x.write w off (f (x.bytes w off n))
    if bad then x1.poison w off n else x1
  notifyBytes s2 team c w off n

/-- Write one request's bytes into local scratch. -/
def landScratch (s : State) (l : Line) (q : Seg) (c : Nat) (w : Win) (off : Nat) : State :=
  putScratch s l.team c w off q.size (isReduce l.i) q.pois fun old => landBytes l.i old q.data

/-- The bytes that a request of a copy writes in memory: not those that a higher lane has written through another line (R7). -/
def Seg.writes (q : Seg) : List (Nat × Byte) := (q.dkeys.zip q.data).filter fun x => !q.skip.contains x.1

/-- Reduce one request into memory (R280, R406). -/
def reduceMemory (s : State) (l : Line) (root : Option Nat) (q : Seg) : State :=
  let s1 := meetSectors s root [(q.dst.toNat, q.dkeys.headD 0)]
  writeSector s1 none root q.dst.toNat (q.dkeys.headD 0) (q.dkeys.zip (landBytes l.i (memGets s1.mem q.dkeys) q.data))

/-- The bytes that are left poisoned where requests land in lane order: those last written by a poisoned one (R254). -/
def poisonLeft (qs : List Seg) : List Nat :=
  qs.foldl (fun ks q =>
    let ws := q.writes.map Prod.fst
    if q.pois then ks ++ ws else ks.filter fun k => !ws.contains k) []

/-- Lower lanes of the copy no longer write, through other lines, what these requests have written (R7). -/
def skipLower (s : State) (l : Line) (qs : List Seg) : State :=
  { s with lines := s.lines.map fun k =>
      if k.copy == l.copy && k.id != l.id then
        { k with segs := k.segs.map fun x =>
            { x with skip := x.skip ++ (qs.filter fun q => decide (x.lane < q.lane)).flatMap fun q =>
                q.dkeys.filter fun b => x.dkeys.isEmpty || x.dkeys.contains b } }
      else k }

/-- Write the requests of a sector that land in memory served here: the whole sector at once, or reductions in lane
order. -/
def landMemory (s : State) (l : Line) (qs : List Seg) : State :=
  match qs with
  | [] => s
  | q :: _ =>
    let root := some (teamSpace s l.team).1
    if isReduce l.i then
      poisonKeys (qs.foldl (fun s q => reduceMemory s l root q) s) (qs.flatMap fun q => if q.pois then q.dkeys else [])
    else
      skipLower (poisonKeys (writeSector s none root q.dst.toNat (q.dkeys.headD 0) (qs.flatMap Seg.writes)) (poisonLeft qs)) l qs

/-- Write every request of a sector whose destination is here. -/
def landHere (s : State) (l : Line) (sec : Nat) : State :=
  let mine := l.segs.filter fun q => q.sec == sec && q.st == .granted && q.dpeer.isNone
  let s1 := mine.foldl (fun s q =>
    match dstSide l.i q.dst with
    | .scratch c w off => landScratch s l q c w off
    | _ => s) s
  let s2 := landMemory s1 l (mine.filter fun q => match dstSide l.i q.dst with
    | .glob _ => !q.drop
    | _ => false)
  modLine s2 l.id fun l =>
    { l with started := true
             segs := l.segs.map fun q =>
               if q.sec == sec && q.st == .granted && q.dpeer.isNone then { q with st := .done } else q }

/-- Send every request of a sector whose destination is at a peer. -/
def sendOut (s : State) (l : Line) (sec : Nat) : State :=
  l.segs.zipIdx.foldl (fun s x =>
    if x.1.sec == sec && x.1.st == .granted && x.1.dpeer.isSome then
      sendSeg s l x.2 (x.1.dpeer.getD 0) (dstSide l.i x.1.dst) x.1.dkeys
    else s) s

/-- A sector all of whose requests have ended is over: it lands and is counted unless one of them failed (R252, R270). -/
def closeSector (s : State) (id sec : Nat) : State :=
  match getLine s id with
  | none => s
  | some l =>
    let qs := l.segs.filter fun q => q.sec == sec
    if qs.all Seg.ended then
      let s1 :=
        if qs.any fun q => q.st == .timedOut then s
        else match lineBar l with
          | some (c, off) => applyBar s l.team c off 0 0 ((qs.map Seg.size).sum)
          | none => s
      if l.left.length ≤ 1 then dropLine s1 id
      else modLine s1 id fun l => { l with left := l.left.drop 1 }
    else s

/-- May the engine work on a line: earlier lines of the group with the same destination line are over (R253), it waits for no
verdict and has met no fatal fault (R256), and before it begins to write its requests may, and no line that has begun is in its
way (R244)? -/
def lineFree (s : State) (l : Line) : Bool :=
  !gateHolds s l.core l.cyc && l.cause.isNone && (l.token.isNone || l.verdict.isSome) &&
    !(s.lines.any fun k => k.grp == l.grp && decide (k.id < l.id) && k.dline == l.dline && k.team == l.team && !k.dead) &&
    (l.started || (lineOrdered s l && lineApart s l))

/-- The engine's SRC (R383). -/
def srcOfLine (l : Line) : Nat := srcOfCore l.core

/-- A waiting entry of a line's fault (R256, R383). -/
def lineWaits (s : State) (l : Line) (va : Dword) (write malformed : Bool) : State :=
  let (_, asid) := teamSpace s l.team
  let (s1, tok) := postWaiting s 2 (ctxByte (ctxOfTeam s l.team))
    ((if malformed then 2 else 0) + (if write then 4 else 0)) asid (srcOfLine l) va
  modLine s1 l.id fun l => { l with token := some tok, verdict := none, wait := some (va, write), malf := malformed }

/-- A line has met a fatal fault of a page of its source or its destination; `malf`, of one whose entry was malformed (R383). -/
def lineFatal (s : State) (id cause : Nat) (va : Dword) (onDst malf : Bool) : State :=
  modLine s id fun l => { l with token := none, verdict := none, cause := some (cause, va), onDst := onDst, malf := malf }

/-- The engine works on a sector once its requests are looked up: fetch, read, write and land. -/
def moveSector (s : State) (id sec : Nat) : State :=
  match getLine s id with
  | none => s
  | some l =>
    let s1 := fetchSegs s l sec
    match getLine s1 id with
    | none => s1
    | some l1 =>
      let mine := l1.segs.filter fun q => q.sec == sec
      if (mine.any fun q => q.speer.isSome && q.data.isEmpty && !q.ended) || !mine.all (sourceFree s1 l1) then s1
      else
        let s2 := readSegs s1 l1 sec
        match getLine s2 id with
        | none => s2
        | some l2 => closeSector (sendOut (landHere s2 l2 sec) l2 sec) id sec

/-- A copy engine works on the next sector of a line (R252, R256): it looks up its pages, fetches and reads the sources,
writes, and counts the sector when every byte is written. -/
def copySector (s : State) (id sec : Nat) : State :=
  match getLine s id with
  | none => s
  | some l =>
    if lineFree s l && l.left.head? == some sec then
      if l.verdict = some true then
        let (va, d) := l.wait.getD (0, false)
        lineFatal s id 0x08 va d l.malf
      else
        let s0 := modLine s id fun l => { l with token := none, verdict := none }
        match lookSegs s0 l sec l.segs with
        | (s1, segs, r) =>
          let s2 := modLine s1 id fun l => { l with segs := segs }
          match r with
          | .ready => moveSector s2 id sec
          | .wait va w m => match getLine s2 id with
            | some l2 => lineWaits s2 l2 va w m
            | none => s2
          | .fatal c va w => lineFatal s2 id c va w false
    else s

/-- The lowest destination address or offset among the requests of sectors that do not land (R203, R256). -/
def lowestLeft (l : Line) : Nat :=
  let xs := (l.segs.filter fun q => l.left.contains q.sec).map fun q => (dstSide l.i q.dst).off
  xs.foldl min (xs.headD 0)

/-- A peer's copy among those that set FAULT, numbered apart from the copies issued here (R256). -/
def peerCopy (src copy : Nat) : Nat := (src + 1) * 2 ^ 128 + copy

/-- The copy that first set FAULT on a barrier, and the lowest place that it does not land so far (R203, R256). -/
def ffoCopy (s : State) (team core off : Nat) : Option (Nat × Nat) :=
  match getTeam s team with
  | some t => (t.ffo.find? fun x => x.1 == core && x.2.1 == off).map fun x => x.2.2
  | none => none

/-- FAULT stands on a barrier, and FFO holds bits 31:0 of the lowest place (R203, R256). -/
def markFault (s : State) (team c off copy low : Nat) : State :=
  modTeam (changeBar s team c off fun b => { b with fault := true, ffo := low % 2 ^ 32 }) team fun t =>
    { t with ffo := (c, off, copy, low) :: t.ffo.filter fun x => !(x.1 == c && x.2.1 == off) }

/-- A fatal fault of a copy sets FAULT on its counting barrier and FFO to the lowest place that does not land; a further one
of the same copy lowers FFO (R256). -/
def setFault (s : State) (team c off copy low : Nat) : State :=
  if !(getBar s team c off).fault then markFault s team c off copy low
  else match ffoCopy s team c off with
    | some x => if x.1 = copy then markFault s team c off copy (min x.2 low) else s
    | none => s

/-- A line's fatal fault sets FAULT and FFO on its counting barrier: here, or by a notice to the peer that holds it (R256, log
87). -/
def faultBar (s : State) (l : Line) : State :=
  match lineBar l with
  | some (c, off) => setFault s l.team c off l.copy (lowestLeft l)
  | none => match l.segs with
    | q :: _ => sendNotice s (noticeTo q.dst l.bar.toNat (some (l.copy, lowestLeft l)))
    | [] => s

/-- Is a request out at a peer? -/
def Seg.isSent (q : Seg) : Bool :=
  match q.st with
  | .sent _ _ => true
  | _ => false

/-- A line ends but for its requests that are out at peers, which it still counts for (R256, R264, R270). -/
def endLine (s : State) (id : Nat) : State :=
  match getLine s id with
  | none => s
  | some l =>
    if l.segs.any Seg.isSent then
      modLine s id fun l => { l with dead := true, left := [], cause := none
                                     segs := l.segs.map fun q => if q.isSent then q else { q with st := .done } }
    else dropLine s id

/-- A request of a line that has ended is over: answered, or timed out. -/
def settleDead (s : State) (id n : Nat) : State :=
  endLine (modLine s id fun l => { l with segs := modNth l.segs n fun q => { q with st := .done } }) id

/-- A line's fault is fatal (R256): what has not landed does not land, the barrier and the fault queue say so. -/
def copyFault (s : State) (id : Nat) : State :=
  match getLine s id with
  | none => s
  | some l =>
    match l.cause with
    | none => s
    | some (c, va) =>
      let (_, asid) := teamSpace s l.team
      endLine (postReport (faultBar s l) c 2 (ctxByte (ctxOfTeam s l.team))
        ((if l.onDst then 12 else 8) + (if l.malf then 2 else 0)) asid (srcOfLine l) va) id

/-! ## Signals (R246, R281) -/

/-- Does a copy's request still have to be sent to a device that a signal goes to (R281)? One whose destination page is not
looked up yet goes where the tables map it now; where they map nothing it holds the signal back. -/
def holdsSignal (s : State) (l : Line) (dev : Nat) (q : Seg) : Bool :=
  let waits := match q.st with
    | .sent _ _ => q.speer.isSome && q.data.isEmpty
    | _ => !q.ended
  waits && match dstSide l.i q.dst with
    | .scratch .. => false
    | .peer h => h / 2 ^ 54 == dev
    | .glob va =>
      if q.st == .fresh then
        match walk s.mem (teamSpace s l.team).1 va with
        | .leaf _ e _ => leafPeerOpt e == some dev
        | _ => true
      else q.dpeer == some dev

/-- Is a lane access that a signal releases still to be waited for (R237)? One sent to the signal's own device goes ahead of
its markers (R246). -/
def holdsRelease (o : Op) (dev : Nat) (q : Req) : Bool :=
  !q.ended && (isRead o.i || !(q.peer == some dev && match q.st with
    | .sent _ _ => true
    | _ => false))

/-- May a signal go: earlier copies of its group to the device are sent, and earlier accesses of its fibres are over,
or, at its device, sent (R237, R246, R281)? -/
def signalReady (s : State) (x : Signal) : Bool :=
  let dev := handleDev x.handle
  !gateHolds s x.core x.cyc && !fencedBehind s x.grp (BitVec.allOnes 64) x.id &&
    !(s.ops.any fun o => o.grp == x.grp && decide (o.id < x.id) && isAccess o.i && o.reqs.any (holdsRelease o dev)) &&
    !(s.lines.any fun l => l.grp == x.grp && decide (l.id < x.id) && !l.dead && l.segs.any (holdsSignal s l dev))

/-- The planes that appear in the plane table (R246). -/
def tablePlanes (s : State) : List Nat := s.fab.plane.eraseDups

/-- May a marker to a device go down a plane now: it is live, and the port of the signal's key on it is up? -/
def markerMayLeave (s : State) (dev k plane : Nat) : Bool :=
  let p := nth Port.reset s.fab.ports (4 * plane + (dev + k / 2 ^ 12 % 4) % 4)
  planeLive s plane && !p.down

/-- Send a signal: a marker down every plane of the plane table, if they may go (R246). -/
def sendSignal (s : State) (id : Nat) : State :=
  match s.sigs.find? fun x => x.id == id with
  | none => s
  | some x =>
    let dev := handleDev x.handle
    let k := handleKey x.handle.toNat
    if x.tag.isNone && signalReady s x && (tablePlanes s).all (markerMayLeave s dev k) then
      match sendReq s (fkeyOf s x.team) dev k (.sig id) with
      | some (s1, port, tag) =>
          { s1 with sigs := s1.sigs.map fun y =>
              if y.id == id then { y with tag := some (port, tag), planes := tablePlanes s } else y }
      | none => s
    else s

/-- COPY_SECTOR_LAND: the copy engine goes on with a line's sector, or with a signal (R252, R281). -/
def execCopySectorLand (line sector : Nat) (s : State) : Host.Outcome State Fault Refusal :=
  .next (if s.sigs.any fun x => x.id == line then sendSignal s line else copySector s line sector)

/-- COPY_LINE_FAULT (R256). -/
def execCopyLineFault (line : Nat) (s : State) : Host.Outcome State Fault Refusal := .next (copyFault s line)

end Sys2Proof.Machine
end

