-- ==== Sys2Proof/Machine/Matrix.lean ====
section
/-! DEFINITION. The matrix engine, class 0xC (spec/05 R138 to R159): issue, start and completion of its operations. -/

namespace Sys2Proof.Machine

/-! ## Issue (R151, R152) -/

/-- The weight latch that an operation issued now will use: the last MXLW in the queue, else the descriptor (R148). -/
def lastLatch (s : State) (v : View) : Option (Ty × Nat) :=
  let q := (getCore s v.g.core).mxq.filterMap fun m =>
    match m.i with
    | .mxlw t => if m.team == v.g.team then some (t.ty, mxK t) else none
    | _ => none
  match q.getLast? with
  | some x => some x
  | none => ((getTCore s v.g.team v.g.coreNo).bind TCore.latch).map fun l => (l.ty, l.k)

/-- Check 1: the baton is held by another group, or by none (R152, R156). -/
def holderCheck (s : State) (v : View) : Check := fun _ =>
  match getTCore s v.g.team v.g.coreNo with
  | none => none
  | some tc => match tc.baton with
    | none => none
    | some b => if tc.held ∧ tc.holder = v.g.grp then none else some (0x12, arg b)

/-- A stride, then offsets, that are no multiple of 8 (R152, check 4). -/
def strideChecks (stride : Nat) (off : Nat → Nat) : List Check :=
  [ fun _ => if stride % 8 ≠ 0 then some (0x07, arg stride) else none,
    fun l => if off l % 8 ≠ 0 then some (0x07, arg (off l)) else none ]

/-- Bytes outside a window, or a row that the team does not have (R152, check 5). -/
def boundCheck (tm : Team) (w : Win) (off n row : Nat → Nat) : Check := fun l =>
  if off l + n l > winBytes tm w then some (0x12, arg (off l))
  else if row l ≥ tm.k.acc then some (0x12, arg (row l))
  else none

/-- A row that the team does not have. -/
def rowCheck (tm : Team) (row : Nat → Nat) : Check := fun l =>
  if row l ≥ tm.k.acc then some (0x12, arg (row l)) else none

/-- A run of rows beyond those of the team; an empty run is none. -/
def runCheck (tm : Team) (a n : Nat) : Check := fun _ =>
  if n ≠ 0 ∧ a + n - 1 ≥ tm.k.acc then some (0x12, arg (a + n - 1)) else none

/-- What an engine instruction puts into its queue. -/
structure EngSpec where
  args : List Dword
  data : List (Nat × List Word) := []
  dsts : List Dst := []

/-- Is the engine queue full (R141)? -/
def mxFull (s : State) (core : Nat) : Bool := decide ((getCore s core).mxQueue.length ≥ 16)

/-- A matrix instruction: convergence, its checks, then an entry of the engine queue (R141, R151, R152). With no
participant it has no effect; facing a full queue it does not issue now. -/
def mxIssue (s : State) (h : Hdr) (i : Instr) (checks : View → Team → List Check) (x : View → Mask → EngSpec) : State :=
  match viewOf s with
  | none => endIssue s
  | some v =>
    match getTeam s v.g.team with
    | none => endIssue s
    | some tm =>
      let m := v.parts h
      if !v.g.converged v.pc then takeTrap s 0x04 0
      else if m = 0 then issueDone s h.len.bytes
      else match firstFail (lanesOf m) (holderCheck s v :: checks v tm) with
        | some (c, tv) => takeTrap s c tv
        | none =>
          if mxFull s v.g.core then endIssue s
          else
            let y := x v m
            let o : MxOp :=
              { id := s.nextId, grp := v.g.id, team := v.g.team, i := i, pc := v.pc, mask := m, carried := v.carried
                args := y.args, data := y.data, started := false, doneLanes := 0, dsts := y.dsts, sys := v.g.onBank
                cyc := v.cyc }
            issueDone { modCore s v.g.core fun c => { c with mxq := c.mxq ++ [o] } with nextId := s.nextId + 1 }
              h.len.bytes

/-- MXLW (R153). -/
def execMxlw (t : EI) (s : State) : Host.Outcome State Fault Refusal :=
  .next (mxIssue s t.h (.mxlw t)
    (fun v tm =>
      let a := v.uniN t t.a
      let b := if t.ty.isB8 then v.uniN t t.b else 0
      [ fun _ => if a % 8 ≠ 0 then some (0x07, arg a) else if b % 8 ≠ 0 then some (0x07, arg b) else none,
        fun _ =>
          if a + mxK t * 128 * elemSize t.ty > winBytes tm .wgt then some (0x12, arg a)
          else if t.ty.isB8 ∧ b + 128 * (mxK t / 16) > winBytes tm .wgt then some (0x12, arg b)
          else none ])
    fun v _ => { args := [arg (v.uniN t t.a), arg (if t.ty.isB8 then v.uniN t t.b else 0)] })

/-- Offset of lane `i`'s row: A + i·B. -/
def rowOff (v : View) (t : EI) (i : Nat) : Nat := v.uniN t t.a + i * v.uniN t t.b

/-- MXROW (R154). -/
def execMxrow (t : EI) (s : State) : Host.Outcome State Fault Refusal :=
  .next (mxIssue s t.h (.mxrow t)
    (fun v tm =>
      let latch := lastLatch s v
      let K := (latch.map Prod.snd).getD 0
      [ fun _ => if latch.isNone then some (0x01, 1) else none,
        fun _ => if (latch.map fun x => x.1 == .i8) != some (t.ty == .i8) then some (0x01, 2) else none ] ++
      strideChecks (v.uniN t t.b) (rowOff v t) ++
      [boundCheck tm .act (rowOff v t) (fun _ => rowBytes t.ty K) fun i => v.uniN t t.c + i])
    fun v _ =>
      { args := [arg (v.uniN t t.a), arg (v.uniN t t.b), arg (v.uniN t t.c),
                 arg (((lastLatch s v).map Prod.snd).getD 0)] })

/-- MXZERO; an empty run has no effect (R155). -/
def execMxzero (t : EI) (s : State) : Host.Outcome State Fault Refusal :=
  .next (mxIssue s t.h (.mxzero t) (fun v tm => [runCheck tm (v.uniN t t.a) (v.uniN t t.b)])
    fun v _ => { args := [arg (v.uniN t t.a), arg (v.uniN t t.b)] })

/-- A column that is no multiple of the width, or beyond the row (R157). -/
def colCheck (w col : Nat) : Check := fun _ => if col % w ≠ 0 ∨ col ≥ 128 then some (0x12, arg col) else none

/-- MXRD (R157). Its column is checked before its row, to which R152 gives the column no place (log 65). -/
def execMxrd (t : EI) (s : State) : Host.Outcome State Fault Refusal :=
  .next (mxIssue s t.h (.mxrd t)
    (fun v tm => [colCheck t.mxWidth (v.uniN t t.b), rowCheck tm fun i => v.uniN t t.a + i])
    fun v m =>
      { args := [arg (v.uniN t t.a), arg (v.uniN t t.b)]
        dsts := (lanesOf m).flatMap fun l => v.g.dsts l t.mxWidth t.d })

/-- The registers that MXWR reads in a lane. -/
def mxwrData (v : View) (t : EI) (l : Nat) : List Word :=
  match t.a with
  | .v k => (List.range t.mxWidth).map fun i => v.v l (k.toNat + i)
  | _ => []

/-- MXWR: its lane registers are read at issue (R157). Its column is checked before its row (log 65). -/
def execMxwr (t : EI) (s : State) : Host.Outcome State Fault Refusal :=
  .next (mxIssue s t.h (.mxwr t)
    (fun v tm => [colCheck t.mxWidth (v.uniN t t.c), rowCheck tm fun i => v.uniN t t.b + i])
    fun v m =>
      { args := [arg (v.uniN t t.b), arg (v.uniN t t.c)]
        data := (lanesOf m).map fun l => (l, mxwrData v t l) })

/-- MXST (R158). -/
def execMxst (t : EI) (s : State) : Host.Outcome State Fault Refusal :=
  .next (mxIssue s t.h (.mxst t)
    (fun v tm =>
      strideChecks (v.uniN t t.b) (rowOff v t) ++
        [boundCheck tm .act (rowOff v t) (fun _ => storeBytes t.ty) fun i => v.uniN t t.c + i])
    fun v _ => { args := [arg (v.uniN t t.a), arg (v.uniN t t.b), arg (v.uniN t t.c)] })

/-- MXFLG.RD (R159). -/
def execMxflgRd (t : EI) (s : State) : Host.Outcome State Fault Refusal :=
  .next (mxIssue s t.h (.mxflgRd t) (fun v tm => [rowCheck tm fun i => v.uniN t t.a + i])
    fun v m => { args := [arg (v.uniN t t.a)], dsts := (lanesOf m).flatMap fun l => v.g.dsts l 1 t.d })

/-- MXFLG.CLR (R159). -/
def execMxflgClr (t : EI) (s : State) : Host.Outcome State Fault Refusal :=
  .next (mxIssue s t.h (.mxflgClr t) (fun v tm => [runCheck tm (v.uniN t t.a) (v.uniN t t.b)])
    fun v _ => { args := [arg (v.uniN t t.a), arg (v.uniN t t.b)] })

/-- MXFLG.ORR (R159). -/
def execMxflgOrr (t : EI) (s : State) : Host.Outcome State Fault Refusal :=
  .next (mxIssue s t.h (.mxflgOrr t) (fun v tm => [runCheck tm (v.uniN t t.a) (v.uniN t t.b)])
    fun v _ => { args := [arg (v.uniN t t.a), arg (v.uniN t t.b)], dsts := v.g.dsts 0 1 t.d })

/-! ## Order on the engine (R142, R143) -/

/-- Accumulator rows that an operation has still to act on, and whether it changes them or their flags. -/
def MxOp.rows (m : MxOp) : List Nat × Bool :=
  let run (a n : Nat) : List Nat := (List.range n).map (a + ·)
  match m.i with
  | .mxrow _ => (m.due.map (m.arg 2 + ·), true)
  | .mxst _ => (m.due.map (m.arg 2 + ·), true)
  | .mxzero _ => (run (m.arg 0) (m.arg 1), true)
  | .mxrd _ => (m.due.map (m.arg 0 + ·), false)
  | .mxwr _ => (m.due.map (m.arg 0 + ·), true)
  | .mxflgRd _ => (m.due.map (m.arg 0 + ·), false)
  | .mxflgClr _ => (run (m.arg 0) (m.arg 1), true)
  | .mxflgOrr _ => (run (m.arg 0) (m.arg 1), false)
  | _ => ([], false)

/-- Do two stores step the generator of one lane, which then steps in issue order (R81, R96)? -/
def stepsSame (p q : MxOp) : Bool :=
  isSrStore p.i && isSrStore q.i && p.grp == q.grp && p.due.any fun i => q.due.contains i

/-- Must operation `q` wait for the earlier operation `p`: they meet at an accumulator row or a generator, or at the weight
buffers, which an MXLW fills one after another and swaps in behind every earlier MXROW (R142, R144, R148)? -/
def mxConflict (p q : MxOp) : Bool :=
  (p.team == q.team && ((p.rows.2 || q.rows.2) && (p.rows.1.any fun r => q.rows.1.contains r))) || stepsSame p q ||
    (isMxlw p.i && (isMxlw q.i || isMxrow q.i)) || (isMxrow p.i && isMxlw q.i && q.due.isEmpty)

/-- Are the group's earlier scratch stores, and its Erg operations, to bytes that an operation reads or writes over
(R143, R170)? -/
def mxBytesFree (s : State) (core : Nat) (q : MxOp) : Bool :=
  let cn := coreNoOf s q.grp
  !(s.ops.any fun o => o.grp == q.grp && decide (o.id < q.id) && isWrite o.i && o.reqs.any fun r =>
    !r.ended && match r.scr with
      | some (c, w) => c == cn && q.ranges.any fun x =>
          !x.write && x.clash { win := w, off := r.va.toNat, n := r.keys.length, write := true }
      | none => false) &&
  !((getCore s core).ergq.any fun e => e.grp == q.grp && decide (e.id < q.id) &&
    e.ranges.any fun x => q.ranges.any fun y => x.clash y)

/-- Is it an operation that pre-emption stops at a row boundary (R150)? -/
def stopsAtRow : Instr → Bool
  | .mxrow _ | .mxst _ => true
  | _ => false

/-- Does a team's pre-emption hold its engine operations: its slice is told to stop and has not ended, and no system handler of
it is at work (R150, R171, R392, R394)? -/
def engineStops (s : State) (team : Nat) : Bool :=
  match (getTeam s team).bind fun t => getSlice s t.slice with
  | some x => x.preempting && x.ending.isNone &&
      !s.groups.any fun g => g.st.active && (getTeam s g.team).any fun t => t.slice == x.id
  | none => false

/-- Does a later operation of the core wait for an engine operation: a DRAIN of its path, or an access to its bytes? Such an
operation completes before its group is saved (R394). -/
def engineWaited (s : State) (core id : Nat) : Bool :=
  s.ops.any fun o => o.core == core && decide (id < o.id) &&
    match o.i with
    | .drain t => t.bit 0 || t.bit 3
    | _ => o.reqs.any fun q => !q.ended && engineHolds s o q

/-- Does pre-emption hold an engine operation of a team: one that nothing to be completed first waits for (R150, R171, R394;
log 90)? -/
def engineHeld (s : State) (core team id : Nat) : Bool := engineStops s team && !engineWaited s core id

/-- The operations of a core that may do their next piece of work. -/
def mxReady (s : State) (core : Nat) : List MxOp :=
  let q := (getCore s core).mxq
  (q.zipIdx.filter fun x =>
    x.1.started && !(stopsAtRow x.1.i && engineHeld s core x.1.team x.1.id) &&
      !((q.take x.2).any fun p => mxConflict p x.1) && mxBytesFree s core x.1).map Prod.fst

/-- Is a row pass in the array of a core: may a started MXROW go on (R145, R446)? -/
def rowMoves (s : State) (core : Nat) : Bool := (mxReady s core).any fun m => isMxrow m.i

/-- An idle array has the cadence of MXCAD, and is as narrow as the alarms make it (R145, R146, R446). -/
def settleArray (s : State) (core : Nat) : State :=
  if rowMoves s core then s
  else modCore s core fun c => { c with cade := c.cad, narrow := c.droop || s.pw.storageAlarm }

/-- The operations that a pre-emption has stopped, and those that wait for one of them: they stay pending (R150). -/
def mxStuck (s : State) (core : Nat) : List MxOp :=
  let c := getCore s core
  c.mxq.foldl (fun stuck m =>
    if (stopsAtRow m.i && engineHeld s core m.team m.id) || stuck.any (fun p => mxConflict p m) ||
        c.ergq.any (fun e => e.grp == m.grp && decide (e.id < m.id) && !e.started && engineHeld s core e.team e.id &&
          e.ranges.any fun x => m.ranges.any fun y => x.clash y)
    then stuck ++ [m] else stuck) []

/-- Change an operation of the engine queue. -/
def modMx (s : State) (core id : Nat) (f : MxOp → MxOp) : State :=
  modCore s core fun c => { c with mxq := c.mxq.map fun m => if m.id == id then f m else m }

/-- Remove an operation from the engine queue. -/
def dropMx (s : State) (core id : Nat) : State :=
  modCore s core fun c => { c with mxq := c.mxq.filter fun m => m.id != id }

/-! ## The weight latch (R148, R153) -/

/-- The descriptor that an MXLW records (R153). -/
def MxOp.latch (m : MxOp) : Option Latch :=
  match m.i with
  | .mxlw t => some { ty := t.ty, k := mxK t, wbase := m.arg 0, sbase := m.arg 1 }
  | _ => none

/-- What a descriptor loads from WGT as it stands (R153). -/
def loadLatch (tc : TCore) (l : Latch) : WBuf :=
  let n := l.k * 128 * elemSize l.ty
  let ns := if l.ty.isB8 then 128 * (l.k / 16) else 0
  { desc := some l, w := tc.bytes .wgt l.wbase n, sw := tc.bytes .wgt l.sbase ns
    pois := tc.poisoned .wgt l.wbase n || tc.poisoned .wgt l.sbase ns }

/-- Fill the inactive buffer from a descriptor, all its cells at one instant (log 66). -/
def fillBuffer (s : State) (core team cn : Nat) (l : Latch) (whole : Option Nat) : State :=
  let s1 := (latchRanges l.ty l.k l.wbase l.sbase).foldl (fun s r => meetScratch s team cn r.win r.off r.n) s
  match getTCore s1 team cn with
  | some tc => modCore s1 core fun c => { c with filling := loadLatch tc l, filled := whole }
  | none => s1

/-- Reload a team's weights from its descriptor into the inactive buffer (R148): every cell is of this instant, where the
manual lets each hold an earlier value (log 66). -/
def reloadLatch (s : State) (core team cn : Nat) : State :=
  match (getTCore s team cn).bind TCore.latch with
  | some l => fillBuffer s core team cn l (some team)
  | none => s

/-- The buffers swap: the filled one is active, with a team's weights (R144, R148). -/
def Core.swap (c : Core) (team : Nat) : Core :=
  { c with active := c.filling, filling := c.active, filled := none, mxTeam := some team }

/-- Is an MXLW at work on the inactive buffer of a core? -/
def loadsNow (c : Core) : Bool := c.mxq.any fun m => m.started && isMxlw m.i

/-- The first operation of the queue starts and leaves it (R142), unless its team's pre-emption holds it (R150), or a replay may
still discard its issue (R417, log 39). Where the active buffer last held another team's weights, or at the engine's choice
(log 3) for another reason, the team's latch is reloaded (R148). An MXLW records its descriptor as it starts (R446). An MXROW
starts with its team's weights in the active buffer: behind every earlier MXLW, and for a reload once no earlier MXROW is
left. -/
def mxStart (s : State) (core : Nat) : State :=
  let c := getCore s core
  match c.mxq.find? fun m => !m.started with
  | none => s
  | some m =>
    let cn := coreNoOf s m.grp
    let start (s : State) : State := modMx s core m.id fun m => { m with started := true }
    let record (s : State) : State := match m.latch with
      | some l => modTCore s m.team cn fun tc => { tc with latch := some l }
      | none => s
    let other := c.mxTeam != some m.team
    if engineHeld s core m.team m.id || gateHolds s core m.cyc then s
    else if isMxrow m.i then
      let s := settleArray s core
      if loadsNow c then s
      else if other || Config.freeBool s.fresh then
        if c.mxq.any fun p => p.started && isMxrow p.i then bump s
        else
          let s1 := if other && c.filled == some m.team then bump s else reloadLatch (bump s) core m.team cn
          start (modCore s1 core fun c => c.swap m.team)
      else start (bump s)
    else record (start (if other && c.filled != some m.team && !loadsNow c then reloadLatch s core m.team cn else s))

/-! ## Row arithmetic (R154, R158) -/

/-- The element codes that bytes hold. -/
def elemCodes (size : Nat) : List Byte → List Nat
  | a :: b :: bs => if size = 2 then (a.toNat + 256 * b.toNat) :: elemCodes size bs else a.toNat :: b.toNat :: elemCodes size bs
  | [a] => [a.toNat]
  | [] => []

/-- The columns of `n` rows that are each a list. -/
def columns {α : Type} (rows : List (List α)) : Nat → List (List α)
  | 0 => []
  | n + 1 => rows.filterMap List.head? :: columns (rows.map fun r => r.drop 1) n

/-- A list in pieces of `k`. -/
def pieces {α : Type} (k : Nat) (xs : List α) : Nat → List (List α)
  | 0 => []
  | n + 1 => xs.take k :: pieces k (xs.drop k) n

/-- The 4-bit row flags OF SAT IV NX of float flags (R139). -/
def rowFlags (f : BitVec 5) : BitVec 4 :=
  (if f &&& flOF != 0 then 8 else 0) ||| (if f &&& flIV != 0 then 2 else 0) ||| (if f &&& flNX != 0 then 1 else 0)

/-- One column of a float MXROW: the accumulator and its flags (R105, R154). -/
def mxFloatCol (acc : Word) (J : Nat) (a : List FVal) (sa : List Nat) (w : List FVal) (sw : List Nat) : Word × BitVec 4 :=
  let blocks := ((pieces 16 a J).zip (pieces 16 w J)).mapIdx fun j x =>
    (nth 127 sa j, nth 127 sw j, x.1.zip x.2)
  let r := blockDot acc.toNat blocks
  (BitVec.ofNat 32 r.code, rowFlags r.flags)

/-- One column of an I8 MXROW (R106, R154). -/
def mxIntCol (sat : Bool) (acc : Word) (J : Nat) (a w : List Int) : Word × BitVec 4 :=
  let r := intDot sat acc (((pieces 16 a J).zip (pieces 16 w J)).map fun x => x.1.zip x.2)
  (r.1, (if r.2.1 then 8 else 0) ||| (if r.2.2 then 4 else 0))

/-- A byte code as a signed integer. -/
def i8Of (c : Nat) : Int := (BitVec.ofNat 8 c).toInt

/-- An accumulator row after one activation row `bs` under a latch and its weights (R154). -/
def mxRowSum (t : EI) (l : Latch) (b : WBuf) (row : Row) (bs : List Byte) : Row :=
  let K := l.k
  let J := K / 16
  let act := elemCodes (elemSize t.ty) (bs.take (K * elemSize t.ty))
  let sa := if t.ty.isB8 then (bs.drop (K * elemSize t.ty)).map BitVec.toNat else []
  let wRows := (pieces (128 * elemSize l.ty) b.w K).map (elemCodes (elemSize l.ty))
  let wCols := columns wRows 128
  let sCols := columns ((pieces 128 b.sw J).map fun r => r.map BitVec.toNat) 128
  let out :=
    if t.ty = .i8 then
      (row.cols.zip wCols).map fun x => mxIntCol (t.bit 9) x.1 J (act.map i8Of) (x.2.map i8Of)
    else
      let a := act.map (tyFmt t.ty).decode
      (row.cols.zip (wCols.zip sCols)).map fun x =>
        mxFloatCol x.1 J a sa (x.2.1.map (tyFmt l.ty).decode) (if l.ty.isB8 then x.2.2 else [])
  { row with cols := out.map Prod.fst, flags := out.foldl (fun f x => f ||| x.2) row.flags }

/-- One code of an MXST to a narrow float format, with its flags (R158). -/
def mxNarrow (f : Fmt) (mode : Rnd) (sat : Bool) (rnd : Nat) (v : FVal) : Nat × BitVec 4 :=
  let r := roundNarrow v f mode sat rnd
  let clamped := sat && r.code != (roundNarrow v f mode false rnd).code
  (r.code, rowFlags r.flags ||| (if clamped then 4 else 0))

/-- The number of a column from 1 up, as random bits of the lane's generator (R96, R158). -/
def colRnd (gen : Word) (n : Nat) : Nat := randOf (genSteps gen (n + 1))

/-- The codes of one block of a binary8 row under its scale (R158). -/
def mxBlock (t : EI) (gen : Word) (first : Nat) (vs : List FVal) : Nat × List (Nat × BitVec 4) :=
  let f := tyFmt t.ty
  let e := blockScale f vs
  (e.1, vs.mapIdx fun i v =>
    if e.1 = 0xFF then (f.nan, rowFlags (e.2 ||| flIV))
    else
      let r := mxNarrow f t.rnd (t.bit 9) (colRnd gen (first + i)) (scaleBy v e.1 true)
      (r.1, r.2 ||| rowFlags e.2))

/-- The bytes that MXST makes of a row, and the flags it raises (R158). -/
def mxStoreRow (t : EI) (gen : Word) (row : Row) : List Byte × BitVec 4 :=
  let vals := row.cols.map fun w => fmtF32.decode w.toNat
  let flags (xs : List (Nat × BitVec 4)) : BitVec 4 := xs.foldl (fun f x => f ||| x.2) 0
  match t.ty with
  | .f32 | .i32 => (row.cols.flatMap wordBytes, 0)
  | .f16 | .bf16 =>
      let xs := vals.mapIdx fun n v => mxNarrow (tyFmt t.ty) t.rnd (t.bit 9) (colRnd gen n) v
      (xs.flatMap fun x => toBytes x.1 2, flags xs)
  | .i8 =>
      let one (w : Word) : Nat × BitVec 4 :=
        let x := w.toInt
        let out := decide (x < -128) || decide (x > 127)
        if t.bit 9 then ((BitVec.ofInt 8 (max (-128) (min 127 x))).toNat, if out then 4 else 0)
        else ((BitVec.ofInt 8 x).toNat, if out then 8 else 0)
      let xs := row.cols.map one
      (xs.flatMap fun x => toBytes x.1 1, flags xs)
  | _ =>
      let bs := (pieces 16 vals 8).mapIdx fun j vs => mxBlock t gen (16 * j) vs
      let xs := bs.flatMap Prod.snd
      (xs.flatMap (fun x => toBytes x.1 1) ++ bs.flatMap (fun b => toBytes b.1 1), flags xs)

/-! ## Completion (R144) -/

/-- A row of a team's store. -/
def TCore.row (tc : TCore) (r : Nat) : Row := nth { cols := [], flags := 0, pois := false } tc.acc r

/-- Change a row. -/
def TCore.modRow (tc : TCore) (r : Nat) (f : Row → Row) : TCore := { tc with acc := modNth tc.acc r f }

/-- Change a run of rows. -/
def TCore.modRows (tc : TCore) (a n : Nat) (f : Row → Row) : TCore :=
  (List.range n).foldl (fun tc i => tc.modRow (a + i) f) tc

/-- A zeroed row (R140, R155). -/
def zeroRow (clrf : Bool) (r : Row) : Row :=
  { cols := List.replicate 128 0, flags := if clrf then 0 else r.flags, pois := false }

/-- An MXZERO writes a run of rows whole, so they hold fresh check bits (R155, R404). -/
def TCore.zeroRows (tc : TCore) (a n : Nat) (clrf : Bool) : TCore :=
  { tc.modRows a n (zeroRow clrf) with
    errs := tc.errs.filter fun e => !(e.1 == none && decide (a ≤ e.2.1 ∧ e.2.1 < a + n)) }

/-- MXROW for lane `i` (R154, R405). -/
def mxInject (tc : TCore) (b : WBuf) (t : EI) (m : MxOp) (i : Nat) : TCore :=
  match b.desc with
  | none => tc
  | some l =>
    let base := m.arg 0 + i * m.arg 1
    let n := rowBytes t.ty l.k
    let bad := tc.poisoned .act base n || b.pois
    tc.modRow (m.arg 2 + i) fun r =>
      let r1 := mxRowSum t l b r (tc.bytes .act base n)
      { r1 with pois := r.pois || bad }

/-- MXST for lane `i`: bytes and flags. -/
def mxStore (tc : TCore) (t : EI) (m : MxOp) (gen : Word) (i : Nat) : TCore :=
  let x := mxStoreRow t gen (tc.row (m.arg 2 + i))
  (tc.write .act (m.arg 0 + i * m.arg 1) x.1).modRow (m.arg 2 + i) fun r => { r with flags := r.flags ||| x.2 }

/-- The index of a lane among an operation's participants. -/
def MxOp.idx (m : MxOp) (i : Nat) : Nat := (lanesOf m.mask).findIdx (· == i)

/-- The destinations of a lane. -/
def MxOp.laneDsts (m : MxOp) (per i : Nat) : List Dst := (m.dsts.drop (per * m.idx i)).take per

/-- A matrix operation is complete. -/
def mxDone (s : State) (core : Nat) (m : MxOp) : State := dropMx s core m.id

/-- A row of an operation is done; with none left it is complete. -/
def mxLaneDone (s : State) (core : Nat) (m : MxOp) (i : Nat) : State :=
  if m.due.length ≤ 1 then mxDone s core m
  else modMx s core m.id fun m => { m with doneLanes := m.doneLanes ||| Mask.bit i }

/-- A deferred POISON of a matrix operation that met a poisoned row; it is over (R405). -/
def mxPoison (s : State) (core : Nat) (m : MxOp) (row : Nat) : State :=
  deferAt (mxDone s core m) m.id m.grp m.carried m.pc 0x0B (arg row) none

/-- The accumulator rows that the next piece of work reads. -/
def MxOp.rowsRead (m : MxOp) : List Nat :=
  let i := m.due.headD 0
  match m.i with
  | .mxrow _ | .mxst _ => [m.arg 2 + i]
  | .mxrd _ | .mxflgRd _ => m.due.map (m.arg 0 + ·)
  | .mxflgOrr _ => (List.range (m.arg 1)).map (m.arg 0 + ·)
  | _ => []

/-- The next piece of work meets SRAM errors in what it reads (R404). -/
def mxMeet (s : State) (cn : Nat) (m : MxOp) : State :=
  let rs := match m.i with
    | .mxrow _ => m.ranges.take 1
    | _ => []
  m.rowsRead.foldl (fun s r => meetRow s m.team cn r)
    (rs.foldl (fun s r => meetScratch s m.team cn r.win r.off r.n) s)

/-- The next piece of work of an operation: a row of MXROW or MXST, the load or the swap of MXLW, or the whole of any other
(R144, R150). -/
def mxWork (s : State) (core : Nat) (m : MxOp) : State :=
  let cn := coreNoOf s m.grp
  let s := mxMeet s cn m
  let tcore (f : TCore → TCore) : State := modTCore s m.team cn f
  let g (f : Group → Group) (s : State) : State := modGroupSince s m.grp m.id f
  match getTCore s m.team cn with
  | none => mxDone s core m
  | some tc =>
    let i := m.due.headD 0
    match m.i with
    | .mxlw _ =>
        if m.due.isEmpty then mxDone (modCore s core fun c => c.swap m.team) core m
        else match m.latch with
          | some l => modMx (fillBuffer s core m.team cn l none) core m.id fun m => { m with doneLanes := m.mask }
          | none => mxDone s core m
    | .mxrow t => mxLaneDone (tcore fun tc => mxInject tc (getCore s core).active t m i) core m i
    | .mxzero t => mxDone (tcore fun tc => tc.zeroRows (m.arg 0) (m.arg 1) (t.bit 11)) core m
    | .mxrd t =>
        match m.due.find? fun i => (tc.row (m.arg 0 + i)).pois with
        | some i => mxPoison s core m (m.arg 0 + i)
        | none =>
          let ws := m.due.flatMap fun i =>
            (m.laneDsts t.mxWidth i).zip (((tc.row (m.arg 0 + i)).cols.drop (m.arg 1)).take t.mxWidth)
          mxDone (g (fun g => g.writes ws) s) core m
    | .mxwr _ =>
        mxDone (tcore fun tc => m.data.foldl (fun tc x =>
          tc.modRow (m.arg 0 + x.1) fun r =>
            { r with cols := x.2.zipIdx.foldl (fun cs y => setNth cs (m.arg 1 + y.2) y.1) r.cols }) tc) core m
    | .mxst t =>
        if (tc.row (m.arg 2 + i)).pois then mxPoison s core m (m.arg 2 + i)
        else
          let gen := match getGroup s m.grp with
            | some g => (g.lane i).gen
            | none => 1
          let s1 := tcore fun tc => mxStore tc t m gen i
          let s2 := if t.rnd = .sr then g (fun g => g.modLane i fun l => { l with gen := genSteps l.gen 128 }) s1 else s1
          mxLaneDone s2 core m i
    | .mxflgRd _ =>
        match m.due.find? fun i => (tc.row (m.arg 0 + i)).pois with
        | some i => mxPoison s core m (m.arg 0 + i)
        | none =>
          let ws := m.due.flatMap fun i =>
            (m.laneDsts 1 i).map fun d => (d, (tc.row (m.arg 0 + i)).flags.setWidth 32)
          mxDone (g (fun g => g.writes ws) s) core m
    | .mxflgClr _ => mxDone (tcore fun tc => tc.modRows (m.arg 0) (m.arg 1) fun r => { r with flags := 0 }) core m
    | .mxflgOrr _ =>
        let f := (List.range (m.arg 1)).foldl (fun f k => f ||| (tc.row (m.arg 0 + k)).flags) 0
        mxDone (g (fun g => g.writes (m.dsts.map fun d => (d, f.setWidth 32))) s) core m
    | _ => mxDone s core m

/-- What the engine remembers of an MXROW for the price of its rate (R363). -/
def noteRow (s : State) (core : Nat) (m : MxOp) : State :=
  if isMxrow m.i then modCore s core fun c => { c with cade := c.cad, rowRan := true, narrow := c.droop || s.pw.storageAlarm }
  else s

/-- A row or an operation completes (R144); which, where several may, is free (log 3). -/
def mxComplete (s : State) (core : Nat) : State :=
  let rs := mxReady s core
  match rs[Config.choice s.fresh % rs.length]? with
  | none => s
  | some m => noteRow (mxWork (bump s) core m) core m

/-- MATRIX_OP_START (R142). -/
def execMatrixOpStart (core : Nat) (s : State) : Host.Outcome State Fault Refusal := .next (mxStart s core)

/-- MATRIX_ROW_COMPLETE (R144). -/
def execMatrixRowComplete (core : Nat) (s : State) : Host.Outcome State Fault Refusal := .next (mxComplete s core)

end Sys2Proof.Machine
end

