-- ==== Sys2Proof/Machine/Price.lean ====
section
/-! DEFINITION. Prices (spec/13 R345 to R347): the table entry and the units that an issue is charged. -/

namespace Sys2Proof.Machine

/-- Nominal price of a table entry (R345); none for an entry that the table does not name. -/
def nominalPrice (ix : Nat) : Option Nat :=
  match ix / 16, ix % 16 with
  | 0x0, 0 => some 16
  | 0x1, 0 => some 16
  | 0x1, 1 => some 28
  | 0x2, 2 => some 40
  | 0x2, 3 => some 36
  | 0x3, 0 => some 24
  | 0x3, 2 => some 24
  | 0x3, 3 => some 24
  | 0x3, 4 => some 28
  | 0x4, 2 => some 120
  | 0x5, 0 => some 30
  | 0x5, 1 => some 40
  | 0x5, 2 => some 30
  | 0x6, 0 => some 4
  | 0x6, 8 => some 60
  | 0x7, 0 => some 4
  | 0x8, 0 => some 60
  | 0x8, 1 => some 64
  | 0x8, 2 => some 72
  | 0x8, 3 => some 96
  | 0x8, 4 => some 140
  | 0x8, 5 => some 40
  | 0x8, 6 => some 400
  | 0x8, 7 => some 8
  | 0x8, 8 => some 20
  | 0x8, 9 => some 20
  | 0x8, 10 => some 24
  | 0x8, 11 => some 32
  | 0x8, 12 => some 48
  | 0x9, 2 => some 200
  | 0x9, 3 => some 220
  | 0x9, 10 => some 48
  | 0x9, 11 => some 56
  | 0xA, 0 => some 8
  | 0xB, 0 => some 600
  | 0xB, 1 => some 4
  | 0xB, 2 => some 900
  | 0xB, 3 => some 900
  | 0xB, 4 => some 900
  | 0xC, 0 => some 1400
  | 0xC, 3 => some 3200
  | 0xC, 4 => some 1600
  | 0xC, 5 => some 200
  | 0xC, 6 => some 300
  | 0xC, 7 => some 24
  | 0xC, 8 => some 16
  | 0xD, 0 => some 500
  | 0xD, 1 => some 450
  | 0xD, 2 => some 300
  | 0xD, 3 => some 4
  | 0xD, 4 => some 300
  | 0xD, 5 => some 4
  | 0xE, 0 => some 8
  | 0xE, 1 => some 8
  | 0xE, 2 => some 2000
  | 0xE, 3 => some 2000
  | 0xE, 4 => some 50
  | 0xE, 5 => some 4
  | _, _ => none

/-- The calibrated entry (R346): within 15 % of nominal where the table names one, else free (log 3). -/
def calibratedPrice (core ix : Nat) : Nat :=
  let f := Config.priceScale (256 * core + ix)
  match nominalPrice ix with
  | some p => ceilDiv (p * 85) 100 + f % (p * 115 / 100 - ceilDiv (p * 85) 100 + 1)
  | none => f % 8193

/-- The entry that a core's table holds (R347). -/
def priceEntry (core : Nat) (c : Core) (ix : Nat) : Nat :=
  match c.prices.find? fun x => x.1 == ix with
  | some x => x.2
  | none => calibratedPrice core ix

/-- Class of an instruction (R64), from its operation code; none for an event. -/
def classOf (i : Instr) : Option Nat := i.toRaw.map fun r => r.opc.toNat / 64

/-- Column of a memory size (R345). -/
def sizeCol (z : Size) : Nat := z.code.toNat

/-- Price-table index of an instruction (R345). -/
def priceIndex (i : Instr) : Nat :=
  let c := (classOf i).getD 0
  let col := match i with
    | .spmap _ => 0
    | .iadd64 _ | .isub64 _ | .imad64 _ | .shl64 _ | .shr64 _ | .lea _ | .mov64 _ | .icmp64 _ => 1
    | .fadd t | .fsub t | .fmul t | .ffma t | .fmin t | .fmax t | .fcmp t | .frnd t | .hadd2 t | .hmul2 t | .hfma2 t
    | .fscale t | .fclass t => if t.ty.isHalf then 3 else 2
    | .cvt t _ => if t.ty.isB8 then 4 else if t.ty.isHalf then 3 else if t.ty == .f32 then 2 else 0
    | .pkb8 _ | .bscale _ => 4
    | .upkb8 _ => 2
    | .rcp _ | .rsq _ | .sqrt _ | .exp2 _ | .log2 _ | .sint _ | .cost _ | .tanh _ => 2
    | .shflIdx t | .shflUp t | .shflDn t | .shflXor t | .ballot t | .vote t | .mpopc t | .redux t | .matchOp t =>
        if t.ty == .f32 then 2 else if t.ty.is64 then 1 else 0
    | .gld _ => 8
    | .ld t | .st t => sizeCol t.size
    | .pref _ => 5
    | .gath _ => 6
    | .qpop _ => 7
    | .lds t | .sts t | .ldsr t | .stsr t => 8 + sizeCol t.size
    | .atom t | .red t => sizeCol t.size
    | .atoms t => 8 + sizeCol t.size
    | .cpysig _ => 0
    | .alwb _ | .alwr _ => 1
    | .cpy t | .cpyr t | .cpyred t => t.csize.toNat
    | .mxrow t => if t.ty == .i8 then 0 else if t.ty.isHalf then 3 else 4
    | .mxlw _ => 5
    | .mxst _ => 6
    | .mxrd _ | .mxwr _ | .mxflgRd _ => 7
    | .mxzero _ | .mxflgClr _ | .mxflgOrr _ => 8
    | .ergc _ => 0
    | .ergkIn _ | .ergkOut _ => 1
    | .ergkRst _ => 2
    | .ergkInv _ | .ergt _ | .ergmRd _ | .ergmWr _ | .ergmClr _ | .ergmDesc _ => 3
    | .enq _ => 4
    | .budr _ => 5
    | .crd _ | .crdStk _ | .crdJs _ | .crdTs _ => 0
    | .cwr _ | .cwrStk _ | .cwrJs _ | .cwrTs _ | .cwrSrseed _ | .cwrFstat _ | .cwrSkipw _ | .cwrMxcad _ | .cwrPlane _
    | .cwrChecksb _ | .cwrUven _ | .cwrSiteal _ | .cwrSlew _ | .cwrPriced _ | .cwrCrwrej _ | .cwrFabstat _
    | .cwrHealth _ | .cwrSpconf _ => 1
    | .scrbRow _ | .scrbQry _ => 2
    | .rspr _ => 3
    | .tlbi _ => 4
    | .haltcHalt _ | .haltcResume _ | .haltcStep _ => 5
    | _ => 0
  16 * c + col

end Sys2Proof.Machine
end

