-- ==== Sys2Proof/Machine/CtrlRegs.lean ====
section
/-! DEFINITION. Control registers (spec/01 R28 to R40; spec/14 R393, R401): what each reads, who may write it, and CRD and
CWR in their .CR form, with the registers whose writes have a row of their own in the opcode table. -/

namespace Sys2Proof.Machine

/-! ## The table (R31) -/

/-- Is the number assigned? -/
def crAssigned (n : Nat) : Bool :=
  n ≤ 0x010 || (0x100 ≤ n && n ≤ 0x103) || (0x140 ≤ n && n ≤ 0x17F) || (0x200 ≤ n && n ≤ 0x210) ||
  (0x218 ≤ n && n ≤ 0x221) || (0x300 ≤ n && n ≤ 0x30A) || n == 0x400 || n == 0x401 || (0xF00 ≤ n && n ≤ 0xF02)

/-- Writable at level U (RW or W1C). -/
def crWriteU (n : Nat) : Bool :=
  n == 0x000 || n == 0x002 || n == 0x003 || n == 0x00E || n == 0x00F || n == 0x102 || n == 0x103 ||
  (0x140 ≤ n && n ≤ 0x17F)

/-- Writable at level S (RW or W1C). -/
def crWriteS (n : Nat) : Bool :=
  crWriteU n || n == 0x004 || n == 0x008 || n == 0x00B || n == 0x00C || n == 0x00D || n == 0x010 || n == 0x100 ||
  n == 0x210 || (0x218 ≤ n && n ≤ 0x21F) || n == 0x220 || n == 0x221 || n == 0x303 || n == 0x304 || n == 0x305 ||
  n == 0x307 || n == 0x308 || n == 0x309 || n == 0x30A || n == 0x400 || n == 0x401

/-- Expert-level registers (R9). -/
def crExpert (n : Nat) : Bool :=
  n == 0x010 || (0x218 ≤ n && n ≤ 0x21F) || n == 0x220 || n == 0x221 || n == 0x304 || n == 0x305 ||
  (0x307 ≤ n && n ≤ 0x30A) || n == 0x401

/-- Does the context of a group hold expert permission (R10)? -/
def expertOf (s : State) (g : Group) : Bool := ((getTeam s g.team).map fun t => t.desc.expert).getD false

/-- May the group write the register (R9, R29)? -/
def crMayWrite (s : State) (g : Group) (n : Nat) : Bool :=
  if levelS s g then crWriteS n
  else crWriteU n || (crExpert n && n != 0x305 && expertOf s g && crWriteS n)

/-! ## Reading -/

/-- A number as a register. -/
def reg64 (n : Nat) : Dword := BitVec.ofNat 64 n

/-- MXSTAT (R147); of an idle array CADE is MXCAD's and NARROW follows the alarms (R446). -/
def mxstat (s : State) (core : Nat) (tc : Option TCore) : Nat :=
  let c := getCore (settleArray s core) core
  let held := (tc.map TCore.held).getD false
  let latch := tc.bind TCore.latch
  (min c.mxq.length 16) * 2 ^ 32 + bitNat held 31 + bitNat (tc.bind TCore.baton).isSome 30 +
    (if held then (tc.map TCore.holder).getD 0 % 64 * 2 ^ 24 else 0) + bitNat latch.isSome 15 +
    (match latch with
      | some l => (l.k / 16 - 1) % 8 * 2 ^ 12 + l.ty.code.toNat * 2 ^ 6
      | none => 0) +
    c.cade % 32 * 2 + bitNat c.narrow 0

/-- GRPINFO (R37). -/
def grpInfo (k : Option Kernel) (g : Group) : Nat :=
  let n := match k with
    | some k => ((k.roles[g.role]?).map Role.groups).getD 0
    | none => 0
  n % 256 * 2 ^ 16 + g.idx % 256 * 2 ^ 8 + g.role % 4

/-- TOPO (R39). -/
def topo (g : Group) : Nat :=
  devN * 2 ^ 32 + g.slot % 4 * 2 ^ 12 + g.core % 4 * 2 ^ 10 + g.core / 4 % 24 * 2 ^ 5 + dieOf g.core % 4

/-- FABSTAT (R272). -/
def fabstat (f : Fabric) : Nat :=
  f.stale % 2 ^ 16 * 2 ^ 48 + f.tmo % 2 ^ 16 * 2 ^ 32 + f.sigtmo % 2 ^ 8 * 2 ^ 24 + f.refuse % 2 ^ 8 * 2 ^ 16 +
    f.retr % 2 ^ 8 * 2 ^ 8 + f.dead.toNat

/-- HEALTH (R425). -/
def healthWord (h : Health) : Nat :=
  bitNat (h.stkdeg != 0 || h.spr75 != 0 || h.pldead != 0 || h.retired != 0) 63 + h.stkdeg.toNat * 2 ^ 48 +
    h.spr75.toNat * 2 ^ 40 + h.pldead.toNat * 2 ^ 32 + h.retired % 2 ^ 9 * 2 ^ 23 + bitNat h.mclost 22 +
    h.mce % 2 ^ 8 * 2 ^ 8 + h.replay % 2 ^ 8

/-- TOKB (R351). -/
def tokb (c : Core) : Nat := bitNat (!c.tokQ.isEmpty || c.debt != 0) 63 + c.level % 2 ^ 21

/-- DEVID (R40). -/
def devid : Dword := 0x1F4A096000000001

/-- The plane that an entry was last written with: a change still pending counts (R262, R263). -/
def planeRead (s : State) (e : Nat) : Nat :=
  match s.fab.pending.find? fun x => x.1 == e with
  | some x => x.2.1
  | none => planeOf s e

/-- The trap registers of the level that a group runs at (R393; log 10). -/
def trapRegs (s : State) (g : Group) : TrapSt := if levelS s g then g.st else g.ut

/-- Registers of the slice, by number. -/
def crSlice (s : State) (g : Group) (n : Nat) : Option Dword :=
  (sliceOf s g).bind fun x =>
    match n with
    | 0x001 => some (reg64 (bitNat ((x.k.map Kernel.mask).getD false) 0))
    | 0x004 => some x.left
    | 0x005 => some (reg64 x.sliceId)
    | 0x008 => some x.deadl
    | 0x009 => some (reg64 (x.depth % 16))
    | 0x00A => some (reg64 (grpInfo x.k g))
    | 0x00E => some x.thand
    | 0x300 => some x.engy
    | _ => none

/-- Registers of the group, the context, the team and the core, by number. -/
def crOwn (s : State) (g : Group) (n : Nat) : Option Dword :=
  let c := getCore s g.core
  let ctx := ctxOf s g
  match n with
  | 0x000 => some (reg64 (bitNat g.checksb 0))
  | 0x002 => some ((if g.onBank then g.bfstat else g.fstat).setWidth 64)
  | 0x003 => some (g.seed.setWidth 64)
  | 0x006 => some (reg64 ((asidOf s g).toNat * 2 ^ 16 + (if ctx = 64 then 64 else ctx)))
  | 0x007 => some (reg64 (bitNat (expertOf s g) 1 + bitNat (levelS s g) 0))
  | 0x00B => some (trapRegs s g).tcause
  | 0x00C => some (trapRegs s g).tepc
  | 0x00D => some (trapRegs s g).tval
  | 0x00F =>
      let x := nth CtxSt.reset s.ctxs ctx
      some (reg64 (bitNat x.rej 63 + x.num % 2 ^ 12))
  | 0x010 => some (reg64 (nth 0 s.agelim (dieOf g.core)))
  | 0x100 => some (reg64 c.cad)
  | 0x101 => some (reg64 (mxstat s g.core (getTCore s g.team g.coreNo)))
  | 0x102 => some (((getTeam s g.team).map Team.ergta).getD 0 |>.setWidth 64)
  | 0x103 => some (((getTeam s g.team).map Team.ergtr).getD 0 |>.setWidth 64)
  | 0x302 => some (reg64 (tokb c))
  | 0x307 => some (reg64 c.priceix)
  | 0x308 => some (reg64 (priceEntry g.core c c.priceix))
  | 0x309 => some (reg64 (c.uvSteps * 2 ^ 8 + bitNat c.uvTrip 1 + bitNat c.uvEn 0))
  | 0x30A => some (reg64 (bitNat c.cmpgrp 0))
  | 0x400 => some (reg64 (c.xarb % 2 ^ 32 * 2 ^ 32 + c.conf % 2 ^ 32))
  | 0xF01 => some (reg64 (topo g))
  | _ =>
    if 0x140 ≤ n ∧ n ≤ 0x17F then some (((getTeam s g.team).map fun t => nth 0 t.skip (n - 0x140)).getD 0)
    else if 0x200 ≤ n ∧ n ≤ 0x20F then some (alwWord (readAlw s g.core (n - 0x200) ctx))
    else none

/-- Registers of the device, by number. -/
def crDevice (s : State) (n : Nat) : Dword :=
  match n with
  | 0x210 => reg64 (fabstat s.fab)
  | 0x220 => reg64 s.fab.rqtmo
  | 0x221 => reg64 s.fab.shedt
  | 0x301 => reg64 (Config.capm % 2 ^ 16 * 2 ^ 32 + s.pw.chg % 2 ^ 32)
  | 0x303 => reg64 (healthWord s.health)
  | 0x304 => reg64 s.pw.slew
  | 0x305 => reg64 s.pw.siteal
  | 0x306 => reg64 (s.pw.thcap % 2 ^ 22)
  | 0x401 => reg64 s.hbm.errth
  | 0xF00 => devid
  | 0xF02 => reg64 s.tb
  | _ => if 0x218 ≤ n ∧ n ≤ 0x21F then reg64 (planeRead s (n - 0x218)) else 0

/-- What a control register reads at this instant (R32). -/
def crValue (s : State) (g : Group) (n : Nat) : Dword :=
  match crSlice s g n with
  | some x => x
  | none => (crOwn s g n).getD (crDevice s n)

/-- CRD: each participant's v pair, or the group's g pair (R401). TVAL of its ILLOP is the instruction's bits [63:0], which
the manual leaves open (log 58). -/
def execCrd (t : EI) (s : State) : Host.Outcome State Fault Refusal :=
  .next (match viewOf s with
    | none => endIssue s
    | some v =>
      let n := t.h.crnum
      let once := match t.d with
        | .g _ => true
        | _ => false
      if once && !v.g.converged v.pc then takeTrap s 0x04 0
      else if !crAssigned n then takeTrap s 0x01 (fetchTval s v.g v.pc)
      else
        let x := crValue s v.g n
        let lanes := if once then [0] else lanesOf (v.parts t.h)
        issueDone (modGroup s v.g.id fun g => g.writes (lanes.flatMap fun l => v.g.put64 l t.d x)) t.h.len.bytes)

/-! ## Writing -/

/-- CWR: convergence, the number, access, then `f` of the view and the value (R401). TVAL of its ILLOP and of its PERM is the
instruction's bits [63:0], which the manual leaves open (log 58). -/
def cwrOp (s : State) (t : EI) (f : View → Dword → State) : State :=
  match viewOf s with
  | none => endIssue s
  | some v =>
    let n := t.h.crnum
    if !v.g.converged v.pc then takeTrap s 0x04 0
    else if !crAssigned n then takeTrap s 0x01 (fetchTval s v.g v.pc)
    else if !crMayWrite s v.g n then takeTrap s 0x09 (fetchTval s v.g v.pc)
    else f v (v.uni64 t.h t.b)

/-- CWR of a register of the group itself: it is written with the issue. -/
def cwrIn (s : State) (t : EI) (f : Dword → Group → Group) : State :=
  cwrOp s t fun v x => issueDone (modGroup s v.g.id (f x)) t.h.len.bytes

/-- CWR of a register outside the group: it holds its fibres, and writes the register when it passes the commit gate (R401, R418;
log 39). -/
def cwrOut (s : State) (t : EI) (i : Instr) : State :=
  cwrOp s t fun v x => endIssue (pushOp s v { i := i, mask := v.parts t.h, stage := .active, args := [x] })

/-- A write that is out of range leaves the register and sets CRWREJ of the context (R11, R38). -/
def rejectWrite (s : State) (g : Group) (n : Nat) : State :=
  { s with ctxs := modNth s.ctxs (ctxOf s g) fun c => { c with rej := true, num := n } }

/-- An expert write of a field `x` within a range, or a rejection (R11). -/
def expertWrite (s : State) (g : Group) (n x lo hi : Nat) (f : State → State) : State :=
  if lo ≤ x ∧ x ≤ hi then f s else rejectWrite s g n

/-- Change the slice of a group. -/
def modSliceOf (s : State) (g : Group) (f : Slice → Slice) : State :=
  match sliceOf s g with
  | some x => modSlice s x.id f
  | none => s

/-- Change the trap registers of level S (R393). The user handler of a privileged slice runs at that level, and its TRET
resumes at what it has written (R391; log 10). -/
def Group.modTrapRegs (g : Group) (f : TrapSt → TrapSt) : Group :=
  { g with st := f g.st, ut := if !g.st.active && g.ut.active then f g.ut else g.ut }

/-- The trap registers, which are the group's own (R393, R401). -/
def cwrTrap (n : Nat) (x : Dword) (g : Group) : Group :=
  match n with
  | 0x00B => g.modTrapRegs fun r => { r with tcause := x &&& 0xFF01FF }
  | 0x00C => g.modTrapRegs fun r => { r with tepc := x &&& 0x1FFFFFFFFFFFFFF }
  | _ => g.modTrapRegs fun r => { r with tval := x }

/-- The other registers of CWR that have no row of their own (R401). -/
def cwrPlain (s : State) (g : Group) (n : Nat) (x : Dword) : State :=
  match n with
  | 0x004 => modSliceOf s g fun y => { y with left := x }
  | 0x008 => modSliceOf s g fun y => { y with deadl := x }
  | 0x00E => modSliceOf s g fun y => { y with thand := x &&& 0x1FFFFFFFFFFFFFC }
  | 0x010 => expertWrite s g n (x.toNat % 128) 1 64 fun s =>
      { s with agelim := setNth s.agelim (dieOf g.core) (x.toNat % 128) }
  | 0x102 => modTeam s g.team fun tm => { tm with ergta := BitVec.ofNat 32 (x.toNat % 2 ^ 31) }
  | 0x103 => modTeam s g.team fun tm => { tm with ergtr := BitVec.ofNat 32 (x.toNat % 2 ^ 31) }
  | 0x220 => expertWrite s g n (x.toNat % 2 ^ 20) 1000 1000000 fun s =>
      modFab s fun f => { f with rqtmo := x.toNat % 2 ^ 20 }
  | 0x221 => expertWrite s g n (x.toNat % 2 ^ 20) 5000 1000000 fun s =>
      modFab s fun f => { f with shedt := x.toNat % 2 ^ 20 }
  | 0x307 => modCore s g.core fun c => { c with priceix := x.toNat % 256 }
  | 0x30A => modCore s g.core fun c => { c with cmpgrp := x.getLsbD 0 }
  | 0x401 => expertWrite s g n (x.toNat % 16) 2 15 fun s => modHbm s fun h => { h with errth := x.toNat % 16 }
  | _ => s

/-- CWR (R401). -/
def execCwr (t : EI) (s : State) : Host.Outcome State Fault Refusal :=
  .next (if 0x00B ≤ t.h.crnum ∧ t.h.crnum ≤ 0x00D then cwrIn s t (cwrTrap t.h.crnum) else cwrOut s t (.cwr t))

/-- The lanes of a group whose generators a store with stochastic rounding has still to step (R81, R97). -/
def srLanes (s : State) (g : Group) : List Nat :=
  (getCore s g.core).mxq.flatMap fun m => if m.grp == g.id && isSrStore m.i then m.due else []

/-- Is such a store of the group still at work (R97)? -/
def srPending (s : State) (g : Group) : Bool := !(srLanes s g).isEmpty

/-- CWR of SRSEED: every lane's generator starts again (R97). It waits for conversions of the group still to step. -/
def execCwrSrseed (t : EI) (s : State) : Host.Outcome State Fault Refusal :=
  .next (match viewOf s with
    | none => endIssue s
    | some v =>
      if srPending s v.g then endIssue s
      else cwrIn s t fun x g =>
        { g with seed := x.lo, lanes := g.lanes.mapIdx fun i l => { l with gen := seedState x.lo v.teamNo g.grp i } })

/-- CWR of FSTAT (R101). -/
def execCwrFstat (t : EI) (s : State) : Host.Outcome State Fault Refusal :=
  .next (cwrIn s t fun x g =>
    if g.onBank then { g with bfstat := x.setWidth 5 } else { g with fstat := x.setWidth 5 })

/-- CWR of a SKIPW word (R33). -/
def execCwrSkipw (t : EI) (s : State) : Host.Outcome State Fault Refusal := .next (cwrOut s t (.cwrSkipw t))

/-- CWR of MXCAD (R145). -/
def execCwrMxcad (t : EI) (s : State) : Host.Outcome State Fault Refusal := .next (cwrOut s t (.cwrMxcad t))

/-- CWR of a plane-table entry (R263). -/
def execCwrPlane (t : EI) (s : State) : Host.Outcome State Fault Refusal := .next (cwrOut s t (.cwrPlane t))

/-- CWR of CHECKSB (R34). -/
def execCwrChecksb (t : EI) (s : State) : Host.Outcome State Fault Refusal :=
  .next (cwrIn s t fun x g => { g with checksb := x.getLsbD 0 })

/-- CWR of UVEN (R369). -/
def execCwrUven (t : EI) (s : State) : Host.Outcome State Fault Refusal := .next (cwrOut s t (.cwrUven t))

/-- CWR of SITEAL (R356). -/
def execCwrSiteal (t : EI) (s : State) : Host.Outcome State Fault Refusal := .next (cwrOut s t (.cwrSiteal t))

/-- CWR of SLEW (R356). -/
def execCwrSlew (t : EI) (s : State) : Host.Outcome State Fault Refusal := .next (cwrOut s t (.cwrSlew t))

/-- CWR of PRICED (R347). -/
def execCwrPriced (t : EI) (s : State) : Host.Outcome State Fault Refusal := .next (cwrOut s t (.cwrPriced t))

/-- CWR of CRWREJ (R38). -/
def execCwrCrwrej (t : EI) (s : State) : Host.Outcome State Fault Refusal := .next (cwrOut s t (.cwrCrwrej t))

/-- CWR of FABSTAT (R272). -/
def execCwrFabstat (t : EI) (s : State) : Host.Outcome State Fault Refusal := .next (cwrOut s t (.cwrFabstat t))

/-- CWR of HEALTH (R425). -/
def execCwrHealth (t : EI) (s : State) : Host.Outcome State Fault Refusal := .next (cwrOut s t (.cwrHealth t))

/-- CWR of SPCONF (R185). -/
def execCwrSpconf (t : EI) (s : State) : Host.Outcome State Fault Refusal := .next (cwrOut s t (.cwrSpconf t))

/-! ## What a write outside the group does as it leaves the core (R401, R418) -/

/-- MXCAD: a value outside 1 to 16 leaves it; an idle array takes the cadence at once (R145, R446). -/
def writeMxcad (s : State) (core : Nat) (x : Dword) : State :=
  let c := x.toNat % 32
  if 1 ≤ c ∧ c ≤ 16 then settleArray (modCore s core fun k => { k with cad := c }) core else s

/-- A change of a plane-table entry, in effect once the old plane has no request in flight (R263). -/
def changePlane (s : State) (e new : Nat) : State :=
  modFab s fun f =>
    { f with pending := (e, new, nth 0 f.plane e) :: f.pending.filter fun x => x.1 != e }

/-- A plane-table entry; a dead plane is rejected (R263). -/
def writePlane (s : State) (g : Group) (n : Nat) (x : Dword) : State :=
  let q := x.toNat % 8
  let e := n - 0x218
  if planeLive s q then (if planeRead s e = q then s else changePlane s e q) else rejectWrite s g n

/-- A W1C field of `n` bits at `lo`: the bits written as 1 are cleared, the others left (R29), so that a write of all ones
clears the field (R185, R272, R425). -/
def clearOnes (x : Dword) (lo n old : Nat) : Nat := old ^^^ (old &&& (x.toNat / 2 ^ lo % 2 ^ n))

/-- FABSTAT (R272). -/
def writeFabstat (s : State) (x : Dword) : State :=
  modFab s fun f =>
    { f with
      stale := clearOnes x 48 16 f.stale, tmo := clearOnes x 32 16 f.tmo
      sigtmo := clearOnes x 24 8 f.sigtmo, refuse := clearOnes x 16 8 f.refuse
      retr := clearOnes x 8 8 f.retr }

/-- HEALTH (R425). -/
def writeHealth (s : State) (x : Dword) : State :=
  { s with health :=
    { s.health with
      mclost := s.health.mclost && !x.getLsbD 22
      mce := clearOnes x 8 8 s.health.mce, replay := clearOnes x 0 8 s.health.replay } }

/-- The write that an operation of CWR makes: UVEN.EN = 1 clears TRIP (R369), PRICED writes the entry that PRICEIX names (R347),
and CRWREJ.REJ is cleared by a 1 (R38). -/
def cwrPerform (s : State) (g : Group) (i : Instr) (x : Dword) : State :=
  match i with
  | .cwr t => cwrPlain s g t.h.crnum x
  | .cwrSkipw t => modTeam s g.team fun tm => { tm with skip := setNth tm.skip (t.h.crnum - 0x140) x }
  | .cwrMxcad _ => writeMxcad s g.core x
  | .cwrPlane t => writePlane s g t.h.crnum x
  | .cwrUven _ => modCore s g.core fun c => { c with uvEn := x.getLsbD 0, uvTrip := c.uvTrip && !x.getLsbD 0 }
  | .cwrSiteal _ => expertWrite s g 0x305 (x.toNat % 2 ^ 22) 200000 2400000 fun s =>
      { s with pw := { s.pw with siteal := x.toNat % 2 ^ 22 } }
  | .cwrSlew _ => expertWrite s g 0x304 (x.toNat % 2 ^ 9) 1 400 fun s =>
      { s with pw := { s.pw with slew := x.toNat % 2 ^ 9 } }
  | .cwrPriced _ => expertWrite s g 0x308 (x.toNat % 2 ^ 14) 0 8192 fun s => modCore s g.core fun c =>
      { c with prices := (c.priceix, x.toNat % 2 ^ 14) :: c.prices.filter fun y => y.1 != c.priceix }
  | .cwrCrwrej _ =>
      if x.getLsbD 63 then { s with ctxs := modNth s.ctxs (ctxOf s g) fun c => { c with rej := false } } else s
  | .cwrFabstat _ => writeFabstat s x
  | .cwrHealth _ => writeHealth s x
  | .cwrSpconf _ => modCore s g.core fun c => { c with xarb := clearOnes x 32 32 c.xarb, conf := clearOnes x 0 32 c.conf }
  | _ => s

/-- Is it a CWR of a register outside the group? -/
def isCwrOut : Instr → Bool
  | .cwr _ | .cwrSkipw _ | .cwrMxcad _ | .cwrPlane _ | .cwrUven _ | .cwrSiteal _ | .cwrSlew _ | .cwrPriced _ | .cwrCrwrej _
  | .cwrFabstat _ | .cwrHealth _ | .cwrSpconf _ => true
  | _ => false

end Sys2Proof.Machine
end

