-- ==== Sys2Proof/Machine/Erg.lean ====
section
/-! DEFINITION. The Erg timestep sequencer, class 0xD functions 0x00 to 0x03 (spec/06 R161 to R177). -/

namespace Sys2Proof.Machine

/-! ## Tiles and sums (R161, R165) -/

/-- A saturating sum and whether it has saturated (R165). -/
structure SatSum where
  val : Int
  sat : Bool
  deriving DecidableEq, Repr

/-- Add a term under limits; saturation is sticky. -/
def SatSum.add (x : SatSum) (lo hi d : Int) : SatSum :=
  if x.sat then x
  else if x.val + d > hi then ⟨hi, true⟩
  else if x.val + d < lo then ⟨lo, true⟩
  else ⟨x.val + d, false⟩

/-- The limit of a sum of magnitudes. -/
def l1Max : Int := (2 ^ 80 - 1 : Nat)

/-- The limits of SUM. -/
def sumMin : Int := -(2 ^ 79 : Nat)

/-- The greatest SUM. -/
def sumMax : Int := (2 ^ 79 - 1 : Nat)

/-- An element in units of 2^q0; none for an infinity or a NaN (R165). -/
def ergUnits (f : Fmt) (code : Nat) : Option Int :=
  match f.decode code with
  | .fin neg n q => some (unitsAt neg n (q - f.qmin).toNat)
  | _ => none

/-- The bytes of a tile in ACT, row by row (R161). -/
def tileBytes (tc : TCore) (base pitch : Nat) : List Byte :=
  (List.range 16).flatMap fun r => tc.bytes .act (base + r * pitch) 128

/-- Does a tile in ACT hold poison (R405)? -/
def tilePoisoned (tc : TCore) (base pitch : Nat) : Bool :=
  (List.range 16).any fun r => tc.poisoned .act (base + r * pitch) 128

/-- SUM and L1 of a tile, and whether it holds an infinity or a NaN. -/
def tileSums (ty : Ty) (bs : List Byte) : SatSum × SatSum × Bool :=
  (elemCodes (elemSize ty) bs).foldl (fun acc c =>
    match ergUnits (tyFmt ty) c with
    | none => (acc.1, acc.2.1, true)
    | some u => (acc.1.add sumMin sumMax u, acc.2.1.add 0 l1Max u.natAbs, acc.2.2)) (⟨0, false⟩, ⟨0, false⟩, false)

/-- The distance of two tiles, and whether either holds an infinity or a NaN (R174). -/
def tileDist (ty : Ty) (xs ys : List Byte) : SatSum × Bool :=
  ((elemCodes (elemSize ty) xs).zip (elemCodes (elemSize ty) ys)).foldl (fun acc c =>
    match ergUnits (tyFmt ty) c.1, ergUnits (tyFmt ty) c.2 with
    | some x, some y => (acc.1.add 0 l1Max (x - y).natAbs, acc.2)
    | _, _ => (acc.1, true)) (⟨0, false⟩, false)

/-- ERG offset of a slot (R162). -/
def slotOff (j : Nat) : Nat := 2144 * j

/-- DESC of a slot (R163). -/
def slotDesc (tc : TCore) (j : Nat) : Nat := ofBytes (tc.bytes .erg (slotOff j + 0x820) 8)

/-- L1 of a slot. -/
def slotL1 (tc : TCore) (j : Nat) : Nat := ofBytes (tc.bytes .erg (slotOff j + 0x810) 16)

/-- Slots of a window (R162). -/
def slotCount (tm : Team) : Nat := min 4096 (tm.k.sweeps .erg / 4)

/-- A DESC word (R163). -/
def descWord (valid kind nf lsat ssat : Bool) (ty : Ty) (kseq : Nat) : Nat :=
  bitNat valid 63 + bitNat kind 62 + bitNat nf 58 + bitNat lsat 57 + bitNat ssat 56 + ty.code.toNat * 2 ^ 32 + kseq % 2 ^ 32

/-- ERGK.IN and ERGK.OUT keep a tile in a slot (R175); a poisoned tile leaves VALID at 0 (R405). -/
def keepTile (tc : TCore) (ty : Ty) (kind : Bool) (base pitch j : Nat) : TCore :=
  let bs := tileBytes tc base pitch
  let (sum, l1, nf) := tileSums ty bs
  let desc := descWord (!tilePoisoned tc base pitch) kind nf l1.sat sum.sat ty (slotDesc tc j % 2 ^ 32 + 1)
  tc.write .erg (slotOff j)
    (bs ++ toBytes (BitVec.ofInt 128 sum.val).toNat 16 ++ toBytes l1.val.toNat 16 ++ toBytes desc 8)

/-- ERGK.RST brings a kept tile back (R175). -/
def restoreTile (tc : TCore) (base pitch j : Nat) : TCore :=
  if (slotDesc tc j).testBit 63 then
    (List.range 16).foldl (fun tc r =>
      let bad := tc.poisoned .erg (slotOff j + 128 * r) 128
      let tc1 := tc.write .act (base + r * pitch) (tc.bytes .erg (slotOff j + 128 * r) 128)
      if bad then tc1.poison .act (base + r * pitch) 128 else tc1) tc
  else tc

/-- Is a threshold a NaN? -/
def thrNan (w : Word) : Bool := (fmtF32.decode (w.toNat % 2 ^ 31)).isNan

/-- Is the exact distance within TA + T (R168)? -/
def withinThreshold (ta tr : Word) (q0 : Int) (dist l1 : Nat) : Bool :=
  let t : FVal := if l1 = 0 then .fin false 0 q0 else (mulExact (fmtF32.decode (tr.toNat % 2 ^ 31)) (.fin false l1 q0)).v
  let bound := (addExact .rne (fmtF32.decode (ta.toNat % 2 ^ 31)) t).v
  cmpVal (.fin false dist q0) bound != .gt

/-- The status that ERGC gives, its bit 0 the skip bit (R168, R174); bit 1 tells of poison in what it reads (R405). -/
def ergCompare (tc : TCore) (ty : Ty) (ta tr : Word) (base pitch j : Nat) : Nat :=
  let d := slotDesc tc j
  let bad := tc.poisoned .erg (slotOff j + 0x820) 8
  if !d.testBit 63 ∨ d.testBit 62 ∨ d / 2 ^ 32 % 64 ≠ ty.code.toNat then 8 + bitNat bad 1
  else
    let kept := tc.bytes .erg (slotOff j) 2048
    let (dist, nf) := tileDist ty (tileBytes tc base pitch) kept
    let bad := bad || nf || tilePoisoned tc base pitch || tc.poisoned .erg (slotOff j) 2048 ||
      tc.poisoned .erg (slotOff j + 0x810) 16
    let l1 := slotL1 tc j
    let big := decide (tr.toNat % 2 ^ 31 ≠ 0 ∧ l1 ≠ 0) && d.testBit 57
    let skip := !bad && !d.testBit 58 && !dist.sat && !thrNan ta && !thrNan tr && !big &&
      withinThreshold ta tr (tyFmt ty).qmin dist.val.toNat l1
    bitNat skip 0 + bitNat bad 1 + bitNat dist.sat 2

/-! ## The skip map (R166) -/

/-- Skip bit `j` of a team. -/
def skipBit (t : Team) (j : Nat) : Bool := (nth 0 t.skip (j / 64)).getLsbD (j % 64)

/-- Set or clear a skip bit. -/
def setSkip (t : Team) (j : Nat) (b : Bool) : Team :=
  { t with skip := modNth t.skip (j / 64) fun w => if b then w ||| Mask.bit (j % 64) else w &&& ~~~Mask.bit (j % 64) }

/-- Clear a run of skip bits. -/
def clearSkips (t : Team) (a n : Nat) : Team := (List.range n).foldl (fun t i => setSkip t (a + i) false) t

/-! ## Issue (R169, R173) -/

/-- Is the Erg queue full (R169)? An operation that has started and is not complete fills its entry, which R169 leaves open (log
77). -/
def ergFull (s : State) (core : Nat) : Bool := decide ((getCore s core).ergq.length ≥ 8)

/-- The TYPEs that the tile forms of Erg accept (R173, check 1); the forms that use none carry none. -/
def ergTypeOk : Instr → Bool
  | .ergc t | .ergkIn t | .ergkOut t => t.ergType
  | _ => true

/-- An Erg instruction: convergence, its checks, then an entry of the Erg queue; with no participant it has no effect, and
facing a full queue it does not issue now (R169, R173). R173 states no TVAL for its check 1: the value is free (log 76). -/
def ergIssue (s : State) (h : Hdr) (i : Instr) (checks : View → Team → List Check) (x : View → Mask → EngSpec) : State :=
  match viewOf s with
  | none => endIssue s
  | some v =>
    match getTeam s v.g.team with
    | none => endIssue s
    | some tm =>
      let m := v.parts h
      if !v.g.converged v.pc then takeTrap s 0x04 0
      else if m = 0 then issueDone s h.len.bytes
      else if !ergTypeOk i then takeTrap (bump s) 0x01 (BitVec.ofNat 64 (Config.freeNat s.fresh))
      else match firstFail (lanesOf m) (checks v tm) with
        | some (c, tv) => takeTrap s c tv
        | none =>
          if ergFull s v.g.core then endIssue s
          else
            let y := x v m
            let o : ErgOp :=
              { id := s.nextId, grp := v.g.id, team := v.g.team, i := i, pc := v.pc, mask := m, carried := v.carried
                args := y.args, started := false, ta := 0, tr := 0, doneLanes := 0, dsts := y.dsts, sys := v.g.onBank
                cyc := v.cyc }
            issueDone { modCore s v.g.core fun c => { c with ergq := c.ergq ++ [o] } with nextId := s.nextId + 1 }
              h.len.bytes

/-- The checks of a tile form (R173): stride, base, tile bytes, slot. For a tile that lies outside ACT in any byte TVAL is the
offset of its base, and a participant's tile comes before its slot (log 67). -/
def tileChecks (v : View) (tm : Team) (t : EI) : List Check :=
  let off := rowOff v t
  strideChecks (v.uniN t t.b) off ++
    [ fun i =>
        if off i + 15 * ergPitch t + 128 > winBytes tm .act then some (0x12, arg (off i))
        else if v.uniN t t.c + i ≥ slotCount tm then some (0x12, arg (v.uniN t t.c + i)) else none ]

/-- The operands of a tile form. -/
def tileArgs (v : View) (t : EI) : List Dword := [arg (v.uniN t t.a), arg (v.uniN t t.b), arg (v.uniN t t.c)]

/-- ERGC (R174). -/
def execErgc (t : EI) (s : State) : Host.Outcome State Fault Refusal :=
  .next (ergIssue s t.h (.ergc t) (fun v tm => tileChecks v tm t)
    fun v m => { args := tileArgs v t, dsts := (lanesOf m).flatMap fun l => v.g.dsts l 1 t.d })

/-- ERGK.IN (R175). -/
def execErgkIn (t : EI) (s : State) : Host.Outcome State Fault Refusal :=
  .next (ergIssue s t.h (.ergkIn t) (fun v tm => tileChecks v tm t) fun v _ => { args := tileArgs v t })

/-- ERGK.OUT (R175). -/
def execErgkOut (t : EI) (s : State) : Host.Outcome State Fault Refusal :=
  .next (ergIssue s t.h (.ergkOut t) (fun v tm => tileChecks v tm t) fun v _ => { args := tileArgs v t })

/-- ERGK.RST (R175). -/
def execErgkRst (t : EI) (s : State) : Host.Outcome State Fault Refusal :=
  .next (ergIssue s t.h (.ergkRst t) (fun v tm => tileChecks v tm t) fun v _ => { args := tileArgs v t })

/-- ERGK.INV (R175). -/
def execErgkInv (t : EI) (s : State) : Host.Outcome State Fault Refusal :=
  .next (ergIssue s t.h (.ergkInv t)
    (fun v tm => [fun i => if v.uniN t t.c + i ≥ slotCount tm then some (0x12, arg (v.uniN t t.c + i)) else none])
    fun v _ => { args := [0, 0, arg (v.uniN t t.c)] })

/-- Lanes to a skip bit of ERGT (R176). -/
def ergtShare (t : EI) : Nat := if t.var = 0 then 1 else if t.var = 1 then 4 else 16

/-- A skip bit beyond the map (R173). -/
def bitCheck (bit : Nat → Nat) : Check := fun i => if bit i > 4095 then some (0x12, arg (bit i)) else none

/-- ERGT (R176). -/
def execErgt (t : EI) (s : State) : Host.Outcome State Fault Refusal :=
  .next (ergIssue s t.h (.ergt t) (fun v _ => [bitCheck fun i => v.uniN t t.a + i / ergtShare t])
    fun v m => { args := [arg (v.uniN t t.a)], dsts := (lanesOf m).flatMap fun l => v.g.dsts l 1 t.d })

/-- A word of the map beyond the last (R173). -/
def skipWordCheck (n : Nat) : Check := fun _ => if n > 63 then some (0x12, arg n) else none

/-- ERGM.RD (R177). -/
def execErgmRd (t : EI) (s : State) : Host.Outcome State Fault Refusal :=
  .next (ergIssue s t.h (.ergmRd t) (fun v _ => [skipWordCheck (v.uniN t t.a)])
    fun v _ => { args := [arg (v.uniN t t.a)], dsts := v.g.dsts 0 2 t.d })

/-- ERGM.WR (R177). -/
def execErgmWr (t : EI) (s : State) : Host.Outcome State Fault Refusal :=
  .next (ergIssue s t.h (.ergmWr t) (fun v _ => [skipWordCheck (v.uniN t t.a)])
    fun v _ => { args := [arg (v.uniN t t.a), v.uni64 t.h t.b] })

/-- ERGM.CLR (R177). -/
def execErgmClr (t : EI) (s : State) : Host.Outcome State Fault Refusal :=
  .next (ergIssue s t.h (.ergmClr t)
    (fun v _ =>
      let a := v.uniN t t.a
      let n := v.uniN t t.b
      [fun _ => if n ≠ 0 ∧ a + n - 1 > 4095 then some (0x12, arg (a + n - 1)) else none])
    fun v _ => { args := [arg (v.uniN t t.a), arg (v.uniN t t.b)] })

/-- ERGM.DESC (R177). -/
def execErgmDesc (t : EI) (s : State) : Host.Outcome State Fault Refusal :=
  .next (ergIssue s t.h (.ergmDesc t)
    (fun v tm => [fun _ => if v.uniN t t.a ≥ slotCount tm then some (0x12, arg (v.uniN t t.a)) else none])
    fun v _ => { args := [arg (v.uniN t t.a)], dsts := v.g.dsts 0 2 t.d })

/-! ## Completion (R169, R170, R172) -/

/-- Change the head of an Erg queue. -/
def modErgHead (s : State) (core : Nat) (f : ErgOp → ErgOp) : State :=
  modCore s core fun c => { c with ergq := match c.ergq with
    | m :: ms => f m :: ms
    | [] => [] }

/-- Remove the head of an Erg queue. -/
def dropErgHead (s : State) (core : Nat) : State := modCore s core fun c => { c with ergq := c.ergq.drop 1 }

/-- Are the group's earlier accesses to the bytes of an Erg operation over (R170)? -/
def ergBytesFree (s : State) (core : Nat) (e : ErgOp) : Bool :=
  let cn := coreNoOf s e.grp
  !(s.ops.any fun o => o.grp == e.grp && decide (o.id < e.id) && o.reqs.any fun r =>
    !r.ended && match r.scr with
      | some (c, w) => c == cn && e.ranges.any fun x =>
          x.clash { win := w, off := r.va.toNat, n := r.keys.length, write := isWrite o.i }
      | none => false) &&
  !((getCore s core).mxq.any fun m => m.grp == e.grp && decide (m.id < e.id) &&
    m.ranges.any fun x => e.ranges.any fun y => x.clash y)

/-- A participant of the head operation is done; after the last the operation leaves. -/
def ergLaneDone (s : State) (core : Nat) (e : ErgOp) (i : Nat) : State :=
  if e.due.length ≤ 1 then dropErgHead s core
  else modErgHead s core fun e => { e with doneLanes := e.doneLanes ||| Mask.bit i }

/-- The destination of a lane of an Erg operation. -/
def ErgOp.laneDst (e : ErgOp) (i : Nat) : List Dst := (e.dsts.drop ((lanesOf e.mask).findIdx (· == i))).take 1

/-- The next participant's work meets SRAM errors in what it reads: a tile, a slot, or the descriptor of one alone (R404). -/
def ergMeet (s : State) (cn : Nat) (e : ErgOp) : State :=
  let tile := (e.ranges.take 16).filter fun r => !r.write
  let slot := match e.i with
    | .ergc _ | .ergkRst _ => [slotOff (e.arg 2 + e.due.headD 0)]
    | _ => []
  let desc := match e.i with
    | .ergkIn _ | .ergkOut _ => [slotOff (e.arg 2 + e.due.headD 0) + 0x820]
    | .ergmDesc _ => [slotOff (e.arg 0) + 0x820]
    | _ => []
  desc.foldl (fun s off => meetScratch s e.team cn .erg off 8) <|
  slot.foldl (fun s off => meetScratch s e.team cn .erg off 2088)
    (tile.foldl (fun s r => meetScratch s e.team cn r.win r.off r.n) s)

/-- The head operation does its next participant, or the whole of an operation that acts once (R172). -/
def ergWork (s : State) (core : Nat) (e : ErgOp) : State :=
  let cn := coreNoOf s e.grp
  let s := ergMeet s cn e
  let tcore (f : TCore → TCore) : State := modTCore s e.team cn f
  let put (s : State) (ws : List (Dst × Word)) : State := modGroupSince s e.grp e.id fun g => g.writes ws
  let i := e.due.headD 0
  let base := e.arg 0 + i * e.arg 1
  let j := e.arg 2 + i
  match getTeam s e.team with
  | none => dropErgHead s core
  | some tm =>
    match e.i with
    | .ergc t =>
        match getTCore s e.team cn with
        | none => dropErgHead s core
        | some tc =>
          let st := ergCompare tc t.ty e.ta e.tr base (ergPitch t) j
          let s1 := modTeam s e.team fun tm => setSkip tm j (st.testBit 0)
          ergLaneDone (put s1 ((e.laneDst i).map fun d => (d, BitVec.ofNat 32 st))) core e i
    | .ergkIn t => ergLaneDone (tcore fun tc => keepTile tc t.ty false base (ergPitch t) j) core e i
    | .ergkOut t => ergLaneDone (tcore fun tc => keepTile tc t.ty true base (ergPitch t) j) core e i
    | .ergkRst t => ergLaneDone (tcore fun tc => restoreTile tc base (ergPitch t) j) core e i
    | .ergkInv _ => ergLaneDone (tcore fun tc => tc.write .erg (slotOff j + 0x820) (toBytes 0 8)) core e i
    | .ergt t =>
        let ws := e.due.flatMap fun i =>
          (e.laneDst i).map fun d => (d, bit32 (skipBit tm (e.arg 0 + i / ergtShare t)))
        dropErgHead (put s ws) core
    | .ergmRd _ =>
        let w := nth 0 tm.skip (e.arg 0)
        dropErgHead (put s (e.dsts.zip [w.lo, w.hi])) core
    | .ergmWr _ =>
        dropErgHead (modTeam s e.team fun tm => { tm with skip := setNth tm.skip (e.arg 0) (nth 0 e.args 1) }) core
    | .ergmClr _ => dropErgHead (modTeam s e.team fun tm => clearSkips tm (e.arg 0) (e.arg 1)) core
    | .ergmDesc _ =>
        match getTCore s e.team cn with
        | none => dropErgHead s core
        | some tc =>
          let w := arg (slotDesc tc (e.arg 0))
          dropErgHead (put s (e.dsts.zip [w.lo, w.hi])) core
    | _ => dropErgHead s core

/-- The head of the Erg queue starts once the group's earlier accesses to its bytes are over, reading the thresholds (R167,
R170), unless its team's pre-emption holds it (R171), or a replay may still discard its issue (R417, log 39); started, it goes
on (R172). -/
def ergComplete (s : State) (core : Nat) : State :=
  match (getCore s core).ergq with
  | [] => s
  | e :: _ =>
    if !e.started then
      if engineHeld s core e.team e.id || gateHolds s core e.cyc || !ergBytesFree s core e then s
      else match getTeam s e.team with
      | none => dropErgHead s core
      | some tm => modErgHead s core fun e => { e with started := true, ta := tm.ergta, tr := tm.ergtr }
    else ergWork s core e

/-- ERG_OP_COMPLETE (R172). -/
def execErgOpComplete (core : Nat) (s : State) : Host.Outcome State Fault Refusal := .next (ergComplete s core)

end Sys2Proof.Machine
end

