-- ==== Sys2Proof/Machine/System.lean ====
section
/-! DEFINITION. System instructions, class 0xE beside CRD and CWR .CR (spec/14 R399, R402, R403; spec/15 R408 to R416): the
forms of system handlers, TLBI, HALTC, SCRB and RSPR. -/

namespace Sys2Proof.Machine

/-! ## Levels (R27, R58 check 5, R400) -/

/-- An instruction of level S (R27): at level U it traps PERM with the word as TVAL. -/
def levelSOnly (s : State) (f : View → State) : State :=
  match viewOf s with
  | none => endIssue s
  | some v => if levelS s v.g then f v else takeTrap s 0x09 (fetchTval s v.g v.pc)

/-- A form of the system handlers (R400): at level U it traps PERM, outside a system handler ILLOP. -/
def handlerForm (s : State) (f : View → State) : State :=
  levelSOnly s fun v => if v.g.st.active then f v else takeTrap s 0x01 (fetchTval s v.g v.pc)

/-! ## The forms of system handlers (R402) -/

/-- Does a stack register, of which there are 65,536 (R23), lie in the resident range of a lane? -/
def Lane.holds (l : Lane) (x : Nat) : Bool := decide (l.rb ≤ x ∧ x < l.rb + l.rz ∧ x < 65536)

/-- CRD.STK (R402). -/
def execCrdStk (t : EI) (s : State) : Host.Outcome State Fault Refusal :=
  .next (handlerForm s fun v =>
    let ws := (lanesOf (v.parts t.h)).flatMap fun i =>
      let x := (v.src32 t.h i t.a).toNat
      let l := v.g.lane i
      v.g.put32 i t.d (if l.holds x then l.stk x else 0)
    issueDone (modGroup s v.g.id fun g => g.writes ws) t.h.len.bytes)

/-- CWR.STK (R402). -/
def execCwrStk (t : EI) (s : State) : Host.Outcome State Fault Refusal :=
  .next (handlerForm s fun v =>
    let m := v.parts t.h
    let ws := (lanesOf m).filterMap fun i =>
      let x := (v.src32 t.h i t.a).toNat
      if (v.g.lane i).holds x then some (.v i x, v.src32 t.h i t.b) else none
    issueDone (modGroup s v.g.id fun g => g.writes ws) t.h.len.bytes)

/-- Word `w` of a resident join entry counted from the oldest (R289, R402). -/
def jsWord (g : Group) (depth w : Nat) : Word :=
  match g.js.reverse[depth]? with
  | some e => BitVec.ofNat 32 (ofBytes (((jentBytes e).drop (4 * w)).take 4))
  | none => 0

/-- CRD.JS (R402). -/
def execCrdJs (t : EI) (s : State) : Host.Outcome State Fault Refusal :=
  .next (handlerForm s fun v =>
    let ws := (lanesOf (v.parts t.h)).flatMap fun i => v.g.put32 i t.d (jsWord v.g (v.uniN t t.a) (i % 8))
    issueDone (modGroup s v.g.id fun g => g.writes ws) t.h.len.bytes)

/-- CWR.JS: the 16 oldest resident entries leave (R402). -/
def execCwrJs (t : EI) (s : State) : Host.Outcome State Fault Refusal :=
  .next (handlerForm s fun v =>
    issueDone (modGroup s v.g.id fun g =>
      if g.js.length < 16 then g
      else { g with js := g.js.take (g.js.length - 16), jsd := g.jsd + 16, sjsd := g.sjsd.map (· + 16) }) t.h.len.bytes)

/-- Word `w` of the trap state in a lane (R402): a value that the handler has written, which TRET puts in force (R391), or
the one in force. -/
def tsWord (g : Group) (w : Nat) (l : Lane) : Dword :=
  match w with
  | 0 => BitVec.ofNat 64 (l.sb % 2 ^ 16 + l.sp.toNat * 2 ^ 16)
  | 1 => BitVec.ofNat 64 (l.srb.getD l.rb % 2 ^ 16)
  | 2 => BitVec.ofNat 64 (g.sjsd.getD g.jsd)
  | _ => g.sjspa.getD g.jspa

/-- CRD.TS (R402). -/
def execCrdTs (t : EI) (s : State) : Host.Outcome State Fault Refusal :=
  .next (handlerForm s fun v =>
    let w := t.h.imm32.toNat
    if w > 3 then takeTrap s 0x01 (fetchTval s v.g v.pc)
    else
      let ws := (lanesOf (v.parts t.h)).flatMap fun i =>
        let x := tsWord v.g w (v.g.lane i)
        if w = 3 then v.g.put64 i t.d x else v.g.put32 i t.d x.lo
      issueDone (modGroup s v.g.id fun g => g.writes ws) t.h.len.bytes)

/-- Is a saved window inside a resident range (R402)? -/
def windowIn (base rb rz : Nat) : Bool := decide (rb ≤ base ∧ base + 64 ≤ rb + rz)

/-- Write a word of the trap state in a lane, in force at TRET (R391); what would break R402 is ignored. -/
def tsWrite (g : Group) (w i : Nat) (x : Dword) : Group :=
  match w with
  | 0 => g.modLane i fun l =>
      let b := x.toNat % 2 ^ 16
      if windowIn b (l.srb.getD l.rb) l.rz then { l with sb := b, sp := x.extractLsb' 16 7 } else l
  | 1 => g.modLane i fun l =>
      let rb := x.toNat % 2 ^ 16
      if rb % 16 = 0 && windowIn l.sb rb l.rz then { l with srb := some rb } else l
  | 2 => { g with sjsd := some (min 992 x.lo.toNat) }
  | _ => { g with sjspa := some (x &&& 0x1FFFFFFFFFFFFE0) }

/-- CWR.TS (R402). -/
def execCwrTs (t : EI) (s : State) : Host.Outcome State Fault Refusal :=
  .next (handlerForm s fun v =>
    let w := t.h.imm32.toNat
    if w > 3 then takeTrap s 0x01 (fetchTval s v.g v.pc)
    else
      let val (i : Nat) : Dword := if w = 3 then v.src64 t.h i false t.b else (v.src32 t.h i t.b).setWidth 64
      issueDone (modGroup s v.g.id fun g => (lanesOf (v.parts t.h)).foldl (fun g i => tsWrite g w i (val i)) g)
        t.h.len.bytes)

/-! ## Instructions that hold their fibres till what they ask for is done -/

/-- A system instruction that acts once for a converged group: its checks, then an operation that holds its fibres, and begins
when it passes the commit gate (R418; log 39). -/
def systemHold (s : State) (t : EI) (i : Instr) (checks : View → List Check) (args : View → List Dword)
    (dsts : View → List Dst) : State :=
  levelSOnly s fun v =>
    if !v.g.converged v.pc then takeTrap s 0x04 0
    else match firstFail [0] (checks v) with
      | some (c, tv) => takeTrap s c tv
      | none => endIssue (pushOp s v { i := i, mask := v.parts t.h, stage := .active, args := args v, dsts := dsts v })

/-- An operation that held its fibres is over: it writes its pair, if it has one, and the fibres go on. -/
def endHold (s : State) (o : Op) (ws : List Word) : State :=
  passOp (landRegs (dropOp s o.id) o (o.dsts.zip ws)) o

/-! ## TLBI (R403) -/

/-- Does a TLBI of variant `var` with ASID `a`, address `b` and count `n` cover an access of an ASID at an address? The
page of .VA may be of any size. -/
def tlbiCovers (var a b n : Nat) (asid : BitVec 16) (va : Nat) : Bool :=
  match var with
  | 0 => true
  | 1 => asid.toNat == a
  | 2 => asid.toNat == a && va / 2 ^ 30 == b / 2 ^ 30
  | _ => asid.toNat == a && decide (b ≤ va ∧ va < b + 65536 * n)

/-- Does it cover a run of `size` bytes from `base`: a page, or what a pointer serves? -/
def tlbiCoversRun (var a b n : Nat) (asid : BitVec 16) (base size : Nat) : Bool :=
  match var with
  | 0 => true
  | 1 => asid.toNat == a
  | 2 => asid.toNat == a && decide (base ≤ b ∧ b < base + size)
  | _ => asid.toNat == a && n != 0 && decide (base < b + 65536 * n ∧ b < base + size)

/-- Does it cover a cached leaf? -/
def tlbiCoversPage (var a b n : Nat) (x : BitVec 16 × Nat × Nat × Dword) : Bool :=
  tlbiCoversRun var a b n x.1 x.2.1 x.2.2.1

/-- Discard covered leaves and pointers, and held instruction bytes. -/
def tlbiDiscard (s : State) (var a b n : Nat) : State :=
  { s with
    tlb := s.tlb.filter fun x => !tlbiCoversPage var a b n x
    ptrs := s.ptrs.filter fun x => !tlbiCoversRun var a b n x.1 x.2.1 (entrySpan (x.2.2.1 - 1))
    cores := s.cores.map fun c =>
      { c with fetch := c.fetch.filter fun w => !tlbiCovers var a b n w.asid w.va.toNat } }

/-- The pages of the leaves that a TLBI discards: ASID, base and size of each. -/
def tlbiPages (s : State) (var a b n : Nat) : List Dword :=
  (s.tlb.filter (tlbiCoversPage var a b n)).flatMap fun x => [x.1.setWidth 64, arg x.2.1, arg x.2.2.1]

/-- Does an address lie in one of such pages? -/
def inPages (asid : BitVec 16) (va : Nat) : List Dword → Bool
  | x :: base :: size :: rest =>
      (x == asid.setWidth 64 && decide (base.toNat ≤ va ∧ va < base.toNat + size.toNat)) || inPages asid va rest
  | _ => false

/-- Is an access granted before handle `k`, or a line an engine owns, not yet over that `hit` covers? -/
def tlbiBusy (s : State) (hit : BitVec 16 → Nat → Bool) (k : Nat) : Bool :=
  (s.ops.any fun o => decide (o.id < k) && o.reqs.any fun q =>
    q.scr.isNone && !q.ended && !q.waits && q.failure.isNone && hit (teamSpace s o.team).2 q.va.toNat) ||
  (s.groups.any fun g => g.gs.any fun x => x.sent && decide (x.id < k) && hit (teamSpace s g.team).2 (gatherAddr s g x).toNat) ||
  s.lines.any fun l => decide (l.id < k) && l.cause.isNone && l.segs.any fun q =>
    (match q.st with
      | .fresh => false
      | _ => !(q.st == .done || q.st == .timedOut)) &&
    ((q.dkeys != [] && hit (teamSpace s l.team).2 q.dst.toNat) || (q.skeys != [] && hit (teamSpace s l.team).2 q.src.toNat))

/-- A TLBI goes on: past the commit gate and after its fibres' earlier writes it discards, and it ends when what was granted is over, discarding what
has been cached meanwhile. -/
def settleTlbi (s : State) (id : Nat) : State :=
  match getOp s id with
  | none => s
  | some o =>
    match o.i with
    | .tlbi t =>
      let var := t.var.toNat
      let a := (nth 0 o.args 0).toNat
      let b := (nth 0 o.args 1).toNat
      let n := (nth 0 o.args 2).toNat
      let phase := (nth 0 o.args 3).toNat
      let s1 : State :=
        if phase ≠ 0 ∨ gateHolds s o.core o.cyc ∨ (earlierOps s o).any (fun p => isWrite p.i && p.pending o.mask) then s
        else modOp (tlbiDiscard s var a b n) id fun o =>
          { o with args := setNth o.args 3 (BitVec.ofNat 64 s.nextId) ++ tlbiPages s var a b n }
      match getOp s1 id with
      | none => s1
      | some o1 =>
        let k := (nth 0 o1.args 3).toNat
        let hit (asid : BitVec 16) (va : Nat) : Bool := tlbiCovers var a b n asid va || inPages asid va (o1.args.drop 4)
        if k ≠ 0 ∧ !tlbiBusy s1 hit k then endHold (tlbiDiscard s1 var a b n) o1 [] else s1
    | _ => s

/-- TLBI (R403). -/
def execTlbi (t : EI) (s : State) : Host.Outcome State Fault Refusal :=
  .next (systemHold s t (.tlbi t)
    (fun v =>
      let a := v.uniN t t.a
      let b := v.uni64 t.h t.b
      [ fun _ => if t.var ≠ 0 ∧ a / 2 ^ 16 ≠ 0 then some (0x12, arg a) else none,
        fun _ => if (t.var = 2 ∨ t.var = 3) ∧ b.toNat / 2 ^ 57 ≠ 0 then some (0x12, b) else none,
        fun _ => if t.var = 3 ∧ b.toNat % 65536 ≠ 0 then some (0x07, b) else none ])
    (fun v => [arg (v.uniN t t.a), v.uni64 t.h t.b, arg (v.uniN t t.c), 0]) fun _ => [])

/-! ## HALTC (R399) -/

/-- .CORE of HALTC. -/
def haltcCore (t : EI) : Bool := t.bit 9

/-- Physical core of HALTC.CORE's operand. -/
def haltcPhys (a : Nat) : Nat := a % 4 * 96 + a / 4 % 32 * 4 + a / 128 % 4

/-- The slice of a SLICEID. -/
def sliceById (s : State) (n : Nat) : Option Slice := s.slices.find? fun x => x.sliceId == n

/-- The checks of HALTC (R399). -/
def haltcChecks (s : State) (t : EI) (v : View) : List Check :=
  let a := v.uniN t t.a
  let b := v.uniN t t.b
  let c := v.uniN t t.c
  if haltcCore t then [fun _ => if a ≥ 512 ∨ a / 4 % 32 > 23 then some (0x12, arg a) else none]
  else
    [ fun _ => if a ≥ 2 ^ 15 then some (0x12, arg a) else none,
      fun _ => if b ≥ 16 then some (0x12, arg b) else none,
      fun _ => if c ≥ 65536 ∧ c ≠ 0xFFFFFFFF then some (0x12, arg c) else none,
      fun _ => match sliceById s a with
        | some x => if x.st = .running ∨ x.st = .saved then none else some (0x12, arg a)
        | none => some (0x12, arg a) ]

/-- The targets of HALTC: groups that match its operands, the issuing group apart (R399). -/
def haltcTargets (s : State) (t : EI) (v : View) : List Nat :=
  let a := v.uniN t t.a
  let b := v.uniN t t.b
  let c := v.uniN t t.c
  (s.groups.filter fun g => g.id != v.g.id &&
    if haltcCore t then g.resident && g.core == haltcPhys a
    else match getTeam s g.team with
      | some tm => ((sliceById s a).map Slice.id) == some tm.slice && b.testBit g.role &&
          (c == 0xFFFFFFFF || tm.no == c)
      | none => false).map Group.id

/-- A HALTC: its arguments are whether it has acted on its targets, and the targets, which are those at its issue. -/
def haltcIssue (s : State) (t : EI) (i : Instr) : State :=
  systemHold s t i (haltcChecks s t) (fun v => 0 :: (haltcTargets s t v).map arg) fun _ => []

/-- A HALTC acts on every target: between steps each stands at an instruction boundary. -/
def haltcAct (s : State) (o : Op) (f : Group → Group) : State :=
  (o.args.drop 1).foldl (fun s a => modGroupSince s a.toNat 0 f) s

/-- HALTC.HALT (R399). -/
def execHaltcHalt (t : EI) (s : State) : Host.Outcome State Fault Refusal := .next (haltcIssue s t (.haltcHalt t))

/-- HALTC.RESUME (R399). -/
def execHaltcResume (t : EI) (s : State) : Host.Outcome State Fault Refusal := .next (haltcIssue s t (.haltcResume t))

/-- Does an operation hold fibres that it carries? -/
def Op.holds (o : Op) : Bool :=
  match o.stage with
  | .grant | .parked | .blocked => true
  | .active => match o.i with
    | .bwait _ | .fence _ | .drain _ | .enq _ | .tlbi _ | .rspr _ | .haltcHalt _ | .haltcResume _ | .haltcStep _ | .scrbRow _
    | .scrbQry _ => true
    | i => isCwrOut i

/-- The fibres of a group that operations hold. -/
def heldMask (s : State) (gid : Nat) : Mask :=
  s.ops.foldl (fun m o => if o.grp == gid && o.holds then m ||| o.carried else m) 0

/-- Is every running fibre of a group held, so that it forms no issue? -/
def groupHeld (s : State) (g : Group) : Bool :=
  g.parked.isSome || g.sysPend.isSome ||
    ((g.lanes.zipIdx).all fun x => x.1.st != .live || !g.scope.has x.2 || (heldMask s g.id).has x.2)

/-- A HALTC.STEP that has acted ends when each target has issued, or is Held (R399). -/
def settleStep (s : State) (id : Nat) : State :=
  match getOp s id with
  | none => s
  | some o =>
    let isOver (a : Dword) : Bool := match getGroup s a.toNat with
      | some g => !g.stepping || groupHeld s g || !g.resident
      | none => true
    if o.arg 0 = 1 ∧ (o.args.drop 1).all isOver then endHold s o [] else s

/-- A HALTC.STEP lets each halted target form one issue (R399). -/
def startStep (s : State) (o : Op) : State :=
  if o.arg 0 = 0 then
    settleStep (haltcAct (modOp s o.id fun o => { o with args := setNth o.args 0 1 }) o
      fun g => { g with stepping := g.stepping || g.halted }) o.id
  else s

/-- HALTC.STEP (R399). -/
def execHaltcStep (t : EI) (s : State) : Host.Outcome State Fault Refusal := .next (haltcIssue s t (.haltcStep t))

/-! ## Row repair (R408 to R416) -/

/-- WINDOW of an HRA (R413). All eight stacks are fitted (spec/00), so STACK names one whatever it holds. -/
def hraCheck (a : Nat) : Check := fun _ =>
  if a / 2 ^ 19 % 16 > 11 ∨ a / 2 ^ 16 % 8 ≠ 0 then some (0x12, arg a) else none

/-- The remap entries of a bank. -/
def bankRemaps (s : State) (bank : Nat) : List Remap := s.hbm.remaps.filter fun r => r.bank == bank

/-- The status word (R414). -/
def rowStatus (s : State) (hra : Nat) (ue : Bool) (ce : Nat) : Word :=
  let rs := bankRemaps s (bankOfHra hra)
  let row := rowOfHra hra
  let busy := rs.find? fun r => r.busy && r.row == row
  let map := rs.find? fun r => r.v && r.row == row
  let e := rowErr s hra
  let spare := match busy with
    | some r => r.spare
    | none => (map.map Remap.spare).getD 0
  BitVec.ofNat 32 (bitNat ue 31 + bitNat e.req 30 + bitNat map.isSome 29 + bitNat busy.isSome 28 +
    spare % 64 * 2 ^ 22 + rs.length % 128 * 2 ^ 15 + e.cnt % 16 * 2 ^ 11 + ce % 32)

/-- HRA of the lowest-numbered row of a bank with REQ = 1 (R415). -/
def lowestReq (s : State) (bank : Nat) : Word :=
  let xs := (s.hbm.errs.filter fun e => e.req && bankOfHra e.hra == bank).map RowErr.hra
  match xs with
  | [] => 0xFFFFFFFF
  | x :: _ => BitVec.ofNat 32 (xs.foldl min x)

/-- The patrol cursor of a bank. -/
def cursorOf (s : State) (bank : Nat) : Nat :=
  ((s.hbm.cursors.find? fun x => x.1 == bank).map Prod.snd).getD 0

/-- A completed patrol pass leaks the bank's counters (R408). -/
def leakBank (errs : List RowErr) (bank : Nat) : List RowErr :=
  (errs.map fun e => if bankOfHra e.hra == bank then { e with cnt := e.cnt - 1 } else e).filter fun e =>
    !(bankOfHra e.hra == bank && e.cnt == 0 && !e.req)

/-- A scrub of the cursor's row moves it (R415). -/
def stepCursor (s : State) (hra : Nat) : State :=
  let bank := bankOfHra hra
  let c := cursorOf s bank
  if rowOfHra hra = c then
    let c1 := (c + 1) % 65536
    modHbm s fun h =>
      { h with cursors := (if c1 = 0 then [] else [(bank, c1)]) ++ h.cursors.filter fun x => x.1 != bank
               errs := if c1 = 0 then leakBank h.errs bank else h.errs }
  else s

/-- Scrub one codeword: an uncorrectable one is stored poisoned and reported, a corrected one written back (R415). What a failed
pseudo-channel returns is poison and no codeword (R424). The state after it, whether it was corrected, and whether it was
uncorrectable; what is corrected while the row is copied is not counted (R411). -/
def scrubCodeword (s : State) (hra k : Nat) : State × Bool × Bool :=
  let pa := cwAddr hra k
  let cw := pa / 64
  if failedKey s pa then (s, false, false)
  else if s.hbm.ue.contains cw then
    (machineCheck (poisonCodeword s cw) 0x02 0x80 (islandOfStack (pa / 2 ^ 36 % 8)) (64 * cw) hra, false, true)
  else if correctable s cw then (modHbm s fun h => { h with ce := h.ce.filter (· != cw) }, true, false)
  else (s, false, false)

/-- The end of a scrub: its corrections and uncorrectable codewords count against the row, and the cursor moves (R415). -/
def endScrub (s : State) (hra ce : Nat) (ue : Bool) : State :=
  let s1 := countRow s hra (if rowCopies s hra then 0 else ce)
  stepCursor (if ue then requestRow s1 hra else s1) hra

/-- A SCRB ends with its pair (R414, R415). -/
def scrbPair (s : State) (o : Op) (ce : Nat) (ue : Bool) : State :=
  endHold s o [rowStatus s (o.arg 0) ue ce, lowestReq s (bankOfHra (o.arg 0))]

/-- The next step of a SCRB.ROW: one codeword, or after the last the end (R415). Its arguments are the row address, the number of
the codeword, the corrections, and whether one was uncorrectable. -/
def scrubStep (s : State) (o : Op) : State :=
  let hra := o.arg 0
  let k := o.arg 1
  if k < 16 then
    let (s1, ce, ue) := scrubCodeword s hra k
    modOp s1 o.id fun o => { o with
      args := [arg hra, arg (k + 1), arg (o.arg 2 + bitNat ce 0), arg (if ue then 1 else o.arg 3)] }
  else
    let ue := o.arg 3 == 1
    scrbPair (endScrub s hra (o.arg 2) ue) o (o.arg 2) ue

/-- SCRB: its checks, then an operation that holds its fibres (R413 to R415). -/
def scrbIssue (s : State) (t : EI) (i : Instr) : State :=
  systemHold s t i (fun v => [hraCheck (v.uniN t t.a)]) (fun v => [arg (v.uniN t t.a), 0, 0, 0]) fun v => v.g.dsts 0 2 t.d

/-- SCRB.ROW (R415). -/
def execScrbRow (t : EI) (s : State) : Host.Outcome State Fault Refusal := .next (scrbIssue s t (.scrbRow t))

/-- SCRB.QRY (R415). -/
def execScrbQry (t : EI) (s : State) : Host.Outcome State Fault Refusal := .next (scrbIssue s t (.scrbQry t))

/-- A remap entry as a word (R410). -/
def remapWord (r : Remap) : Word :=
  BitVec.ofNat 32 (bitNat r.v 31 + bitNat r.busy 30 + r.spare % 64 * 2 ^ 16 + r.row % 65536)

/-- The lowest-numbered unused spare of a bank. -/
def freeSpare (s : State) (bank : Nat) : Option Nat :=
  (List.range 64).find? fun n => !(bankRemaps s bank).any fun r => r.spare == n

/-- More than 48 spares of a bank come into use: machine check 0x08 and SPR75 (R410). -/
def checkSpares (s : State) (bank : Nat) : State :=
  let n := (bankRemaps s bank).length
  if n = 49 then
    let stack := bank / 2 ^ 10 % 8
    checkReplace (machineCheck { s with health := { s.health with
      spr75 := s.health.spr75 ||| BitVec.ofNat 8 (2 ^ stack) } } 0x08 0x80 (islandOfStack stack) (bank * 2 ^ 19) n)
  else s

/-- An RSPR past the commit gate starts its copy, unless the bank copies already; with no spare left it ends unchanged (R413, R416). -/
def settleRspr (s : State) (id : Nat) : State :=
  match getOp s id with
  | none => s
  | some o =>
    let hra := (nth 0 o.args 0).toNat
    let bank := bankOfHra hra
    if gateHolds s o.core o.cyc ∨ (bankRemaps s bank).any Remap.busy then s
    else match freeSpare s bank with
      | none => endHold s o [rowStatus s hra false 0, 0xFFFFFFFF]
      | some n =>
        let old := ((bankRemaps s bank).find? fun r => r.v && r.row == rowOfHra hra).map Remap.spare
        checkSpares (modHbm s fun h => { h with
          remaps := h.remaps ++ [{ bank := bank, spare := n, row := rowOfHra hra, v := false, busy := true, copied := 0
                                   fixed := 0, bad := false, old := old, op := some id }] }) bank

/-- RSPR (R416). -/
def execRspr (t : EI) (s : State) : Host.Outcome State Fault Refusal :=
  .next (systemHold s t (.rspr t) (fun v => [hraCheck (v.uniN t t.a)]) (fun v => [arg (v.uniN t t.a)])
    (fun v => v.g.dsts 0 2 t.d))

/-- The last codeword has been copied: the row is served from the spare, an earlier spare is given up, and the error
entry is freed (R411, R416). -/
def finishCopy (s : State) (r : Remap) (hra : Nat) : State :=
  let done := { r with v := true, busy := false, fixed := 0, bad := false, op := none, old := none }
  let cws := (List.range 16).map fun k => cwAddr hra k / 64
  let lost := (List.range 16).filter fun k => s.hbm.stuck.contains (cwAddr hra k / 64)
  let s1 := modHbm s fun h => { h with
    oldStuck := h.oldStuck ++ lost.map fun k => (hra, r.old, k)
    remaps := h.remaps.map fun q =>
      if q.bank == r.bank && q.spare == r.spare then done
      else if q.bank == r.bank && some q.spare == r.old then { q with v := false, row := 0 } else q
    errs := h.errs.filter fun e => e.hra != hra
    ce := h.ce.filter fun c => !cws.contains c
    stuck := h.stuck.filter fun c => !cws.contains c }
  match r.op.bind (getOp s1) with
  | some o => endHold s1 o [rowStatus s1 hra r.bad r.fixed, remapWord done]
  | none => s1

/-- The RSPR of a bank, past the commit gate, that has waited longest for a copy in it. -/
def waitingRspr (s : State) (bank : Nat) : Option Nat :=
  (s.ops.find? fun o => match o.i with
    | .rspr _ => bankOfHra (nth 0 o.args 0).toNat == bank && !gateHolds s o.core o.cyc
    | _ => false).map Op.id

/-- SPARE_ROW_COPY_STEP: the bank's copy takes one codeword; an uncorrectable one lands poisoned (R411, R416). -/
def execSpareRowCopyStep (bank : Nat) (s : State) : Host.Outcome State Fault Refusal :=
  .next (match (bankRemaps s bank).find? Remap.busy with
    | none => s
    | some r =>
      let hra := bank * 2 ^ 19 + r.row
      let cw := cwAddr hra r.copied / 64
      let bad := s.hbm.ue.contains cw
      let fixed := !bad && correctable s cw
      let s1 := if bad then
          requestRow (machineCheck (poisonCodeword s cw) 0x02 0x80 (islandOfStack (bank / 2 ^ 10 % 8)) (64 * cw) hra) hra
        else s
      let next := { r with copied := r.copied + 1, fixed := r.fixed + (if fixed then 1 else 0), bad := r.bad || bad }
      let s2 := modHbm s1 fun h => { h with remaps := h.remaps.map fun q =>
        if q.bank == bank && q.spare == r.spare then next else q }
      if r.copied + 1 < 16 then s2
      else
        let s3 := finishCopy s2 next hra
        match waitingRspr s3 bank with
        | some id => settleRspr s3 id
        | none => s3)

/-- What an operation that has waited at the commit gate of its core does past it (R418). -/
def passGate (s : State) (o : Op) : State :=
  match o.i with
  | .scrbRow _ => scrubStep s o
  | .scrbQry _ => scrbPair s o 0 false
  | .rspr _ => settleRspr s o.id
  | .tlbi _ => settleTlbi s o.id
  | .haltcHalt _ => endHold (haltcAct s o fun g => { g with halted := true, stepping := false }) o []
  | .haltcResume _ => endHold (haltcAct s o fun g => { g with halted := false, stepping := false }) o []
  | .haltcStep _ => startStep s o
  | i =>
    if isCwrOut i then match getGroup s o.grp with
      | some g => endHold (cwrPerform s g i (nth 0 o.args 0)) o []
      | none => dropOp s o.id
    else s

/-- Does an operation wait at the commit gate, or go on by it, that `passGate` performs? -/
def gated (i : Instr) : Bool :=
  isCwrOut i || match i with
    | .scrbRow _ | .scrbQry _ | .rspr _ | .tlbi _ | .haltcHalt _ | .haltcResume _ | .haltcStep _ => true
    | _ => false

/-- Every operation that holds its fibres for TLBI or HALTC.STEP is looked at again. -/
def settleHolds (s : State) : State :=
  s.ops.foldl (fun s o => match o.i with
    | .tlbi _ => settleTlbi s o.id
    | .haltcStep _ => settleStep s o.id
    | _ => s) s

end Sys2Proof.Machine
end

