-- ==== Sys2Proof/Machine/Place.lean ====
section
/-! DEFINITION. Placement of teams (spec/12 R324 to R327; spec/01 R15 to R19), the launch prologue (R315), and the
retirement of groups, teams and slices (R25, R304, R320, R392). -/

namespace Sys2Proof.Machine

/-! ## Room on a core (R19, R325) -/

/-- What a team takes of one of its cores. -/
structure Need where
  groups : Nat
  regs : Nat
  acc : Nat
  /-- Sweeps of GEN, WGT, ACT, ERG. -/
  wins : List Nat
  deriving DecidableEq, Repr

/-- The roles of a team's groups, in the order of GRP (R14): role, index and the role's sizes. -/
def groupRoles (k : Kernel) : List (Nat × Nat × Role) :=
  k.roles.zipIdx.flatMap fun x => (List.range x.1.groups).map fun i => (x.2, i, x.1)

/-- What core `c` of a team needs: group g is on core g mod cores (R15). -/
def needOf (k : Kernel) (c : Nat) : Need :=
  let mine := (groupRoles k).zipIdx.filter fun x => x.2 % k.cores == c
  { groups := mine.length, regs := (mine.map fun x => 64 * x.1.2.2.regs).sum, acc := k.acc
    wins := [k.gen, k.wgt, k.act, k.erg] }

/-- What is taken of a physical core, by teams in place and by waiting gangs: groups, registers, rows, and runs of
sweeps. -/
structure Taken where
  groups : Nat
  regs : Nat
  acc : Nat
  runs : List (Nat × Nat)
  deriving DecidableEq, Repr

/-- The runs of sweeps at given positions. -/
def runsOf (pos wins : List Nat) : List (Nat × Nat) := (pos.zip wins).filter fun x => x.2 != 0

/-- Add a team's share. -/
def Taken.add (t : Taken) (n : Need) (pos : List Nat) : Taken :=
  { groups := t.groups + n.groups, regs := t.regs + n.regs, acc := t.acc + n.acc, runs := t.runs ++ runsOf pos n.wins }

/-- What resident teams hold of a physical core. -/
def takenByTeams (s : State) (core : Nat) : Taken :=
  (s.teams.filter fun t => t.st == .running).foldl (fun a t =>
    (t.cores.zipIdx.filter fun x => x.1.phys == core).foldl (fun a x => a.add (needOf t.k x.2) x.1.pos) a)
    { groups := 0, regs := 0, acc := 0, runs := [] }

/-- Add what waiting gangs reserve on a physical core, the gang of `own` apart (R325). -/
def takenWithGangs (s : State) (core : Nat) (own : Nat × Nat) : Taken :=
  s.gangs.foldl (fun a x =>
    let g := x.2
    if (g.slice, g.team) = own then a
    else match (getSlice s g.slice).bind Slice.k with
      | none => a
      | some k => (g.cores.zipIdx.filter fun y => y.1 == core).foldl
          (fun a y => a.add (needOf k y.2) (nth [] g.pos y.2)) a) (takenByTeams s core)

/-- Does a run of sweeps lie free? -/
def runFree (runs : List (Nat × Nat)) (at_ n : Nat) : Bool :=
  decide (at_ + n ≤ 16384) && runs.all fun r => decide (at_ + n ≤ r.1 ∨ r.1 + r.2 ≤ at_)

/-- Where a free run of a length may start: at 0 or behind a taken run. -/
def startsFor (runs : List (Nat × Nat)) (n : Nat) : List Nat :=
  if n = 0 then [0]
  else (0 :: runs.map fun r => r.1 + r.2).filter fun a => runFree runs a n

/-- Positions for the windows, if any arrangement of them fits (R325): windows can be pushed down against what is taken, and
within one gap their order does not matter. -/
def placeWins (runs : List (Nat × Nat)) : List Nat → Option (List Nat)
  | [] => some []
  | n :: ns => (startsFor runs n).findSome? fun a =>
      (placeWins (if n = 0 then runs else (a, n) :: runs) ns).map (a :: ·)

/-- Does a share fit, its windows apart? -/
def fitsCounts (t : Taken) (n : Need) : Bool :=
  decide (t.groups + n.groups ≤ 64 ∧ t.regs + n.regs ≤ 262144 ∧ t.acc + n.acc ≤ 1024)

/-- Positions for a team core's windows on a physical core, when everything it declares is free there (R325). Positions
that its own gang has reserved are kept. -/
def fitCore (s : State) (own : Nat × Nat) (k : Kernel) (c core : Nat) (fixed : Option (List Nat)) : Option (List Nat) :=
  let t := takenWithGangs s core own
  let n := needOf k c
  let cs := getCore s core
  if cs.retired || cs.stopped || !fitsCounts t n then none
  else match fixed with
    | some pos => if (runsOf pos n.wins).all fun r => runFree t.runs r.1 r.2 then some pos else none
    | none => placeWins t.runs n.wins

/-- Ordered choices of `n` distinct cores. -/
def coreChoices : Nat → List Nat → List (List Nat)
  | 0, _ => [[]]
  | n + 1, cs => cs.flatMap fun c => (coreChoices n (cs.filter (· != c))).map (c :: ·)

/-- The placements of a team on a choice of cores. -/
def fitOn (s : State) (own : Nat × Nat) (k : Kernel) (cores : List Nat) (pos : List (List Nat)) : Option (List (List Nat)) :=
  cores.zipIdx.foldr (fun x acc =>
    match acc, fitCore s own k x.2 x.1 (pos[x.2]?) with
    | some ps, some p => some (p :: ps)
    | _, _ => none) (some [])

/-- The cores of a cluster. -/
def clusterCores (cl : Nat) : List Nat := (List.range 4).map (4 * cl + ·)

/-- The waiting gang of a team. -/
def gangOf (s : State) (own : Nat × Nat) : Option (Nat × Gang) :=
  s.gangs.find? fun x => (x.2.slice, x.2.team) == own

/-- The waiting gang of a cluster. -/
def clusterGang (s : State) (cl : Nat) : Option Gang := (s.gangs.find? fun x => x.1 == cl).map Prod.snd

/-- Is a cluster closed to a team by a gang that has reached the ageing limit (R326)? -/
def clusterClosed (s : State) (cl : Nat) (own : Nat × Nat) : Bool :=
  match clusterGang s cl with
  | some g => (g.slice, g.team) != own && g.closed
  | none => false

/-- May a slice's teams stand in a cluster? A ballast slice of prefetch work stands on its die alone (R355). -/
def dieAllows (s : State) (slice cl : Nat) : Bool :=
  match getSlice s slice with
  | some x => !x.onDie || cl / 24 == x.die
  | none => true

/-- The ways to place a team in a cluster: its physical cores and the positions of its windows (R325). -/
def fitsIn (s : State) (own : Nat × Nat) (k : Kernel) (cl : Nat) : List (List Nat × List (List Nat)) :=
  if clusterClosed s cl own || !dieAllows s own.1 cl then []
  else match gangOf s own with
    | some (c, g) =>
      if c = cl then
        match fitOn s own k g.cores g.pos with
        | some ps => [(g.cores, ps)]
        | none => []
      else []
    | none => (coreChoices k.cores (clusterCores cl)).filterMap fun cs => (fitOn s own k cs []).map fun ps => (cs, ps)

/-- Does a team fit anywhere? -/
def fitsAnywhere (s : State) (own : Nat × Nat) (k : Kernel) : Bool :=
  (List.range 96).any fun cl => !(fitsIn s own k cl).isEmpty

/-! ## Order of dispatch (R324, R355) -/

/-- Has a slice a team to place? -/
def hasUnplaced (x : Slice) : Bool :=
  (x.st == .ready || x.st == .running) && x.ending.isNone && !x.preempting && x.k.isSome && decide (x.nextTeam < x.pkt.nteam)

/-- Does slice `a` come before slice `b`: ordinary before ballast, then the earlier deadline, then the order of becoming
Ready (R324, R355)? -/
def before (a b : Slice) : Bool :=
  if a.ballast.isSome != b.ballast.isSome then a.ballast.isNone
  else decide (a.deadl.toNat < b.deadl.toNat) || (a.deadl == b.deadl && decide (a.readyAt < b.readyAt))

/-- The cores that a gang takes in a cluster. -/
def gangCores (s : State) (k : Kernel) (cl : Nat) : List Nat :=
  ((clusterCores cl).filter fun c => !(getCore s c).retired).take k.cores

/-- May a team that fits nowhere still become the waiting gang of a cluster (R325)? -/
def mayTarget (s : State) (own : Nat × Nat) (k : Kernel) : Bool :=
  (gangOf s own).isNone && (List.range 96).any fun cl =>
    (clusterGang s cl).isNone && dieAllows s own.1 cl && decide ((gangCores s k cl).length = k.cores)

/-! ## The launch prologue (R315) -/

/-- The outcome of the prologue's reads. -/
inductive ProRes where
  | ok (bytes : List (Win × Nat × List Byte))
  | wait (malformed : Bool) (va : Nat)
  | fatal (cause va : Nat)
  | busy
  deriving DecidableEq, Repr

/-- Read the images in list order. -/
def readImageBytes (s : State) (x : Slice) : List (Nat × Nat × Nat × Dword) → State × ProRes
  | [] => (s, .ok [])
  | im :: rest =>
    match cpRead s x.ctx x.priv im.2.2.2.toNat im.2.2.1 with
    | (s1, .wait m va) => (s1, .wait m va)
    | (s1, .fatal c va) => (s1, .fatal c va)
    | (s1, .busy) => (s1, .busy)
    | (s1, .ok bs) => match readImageBytes s1 x rest with
      | (s2, .ok l) => (s2, .ok ((imageWin im.1, im.2.1, bs) :: l))
      | r => r

/-- Read what the prologue copies: the images, then the argument block. -/
def readPrologue (s : State) (x : Slice) (k : Kernel) : State × ProRes :=
  match readImageBytes s x k.images with
  | (s1, .ok l) =>
    if x.pkt.arglen = 0 then (s1, .ok l)
    else match cpRead s1 x.ctx x.priv x.pkt.args.toNat (8 * x.pkt.arglen) with
      | (s2, .ok bs) => (s2, .ok (l ++ [(.gen, 0, bs)]))
      | (s2, .wait m va) => (s2, .wait m va)
      | (s2, .fatal c va) => (s2, .fatal c va)
      | (s2, .busy) => (s2, .busy)
  | r => r

/-- Does a slice's prologue wait: for a verdict on one of its pages, or for a copy engine's line? -/
def prologueWaits (s : State) (x : Slice) (k : Kernel) : Bool :=
  (x.token.isSome && x.verdict.isNone) || match (readPrologue s x k).2 with
    | .busy => true
    | _ => false

/-- Has the dispatcher done with every slice ahead: its next team's prologue waits, or the team fits nowhere, and has its target
if one is to be had (R324, R325)? -/
def dispatchTurn (s : State) (x : Slice) : Bool :=
  s.slices.all fun y => !(hasUnplaced y && before y x) || match y.k with
    | some k => prologueWaits s y k ||
        (!fitsAnywhere s (y.id, y.nextTeam) k && !mayTarget s (y.id, y.nextTeam) k)
    | none => true

/-- A core's share at a team's start (R25, R164, R315): images, then slot descriptors zero, then arguments. -/
def TCore.start (k : Kernel) (phys : Nat) (pos : List Nat) (bytes : List (Win × Nat × List Byte)) (args : Bool) : TCore :=
  let blank : TCore :=
    { phys := phys, pos := pos, gen := [], wgt := [], act := [], erg := [], pois := []
      acc := List.replicate k.acc { cols := List.replicate 128 0, flags := 0, pois := false }
      latch := none, baton := none, held := false, holder := 0 }
  let images := if args then bytes.dropLast else bytes
  let c1 := images.foldl (fun c x => c.write x.1 x.2.1 x.2.2) blank
  let c2 := (List.range (k.erg / 4)).foldl (fun c j => c.write .erg (slotOff j + 0x820) (toBytes 0 8)) c1
  if args then (bytes.drop images.length).foldl (fun c x => c.write x.1 x.2.1 x.2.2) c2 else c2

/-! ## Slots for groups (R18, R325) -/

/-- Places of a slot that groups on a core take. -/
def placesTaken (s : State) (core slot : Nat) : List Nat :=
  (s.groups.filter fun g => g.resident && g.core == core && g.slot == slot).map Group.place

/-- The slot of a core with the fewest groups, and its lowest free place. -/
def freePlace (s : State) (core : Nat) : Nat × Nat :=
  let loads := (List.range 4).map fun i => (placesTaken s core i).length
  let slot := (List.range 4).foldl (fun b i => if nth 0 loads i < nth 0 loads b then i else b) 0
  let taken := placesTaken s core slot
  (slot, ((List.range 16).find? fun p => !taken.contains p).getD 15)

/-- Start one group of a team (R13, R24). -/
def startGroup (s : State) (x : Slice) (team no : Nat) (cores : List Nat) (n : Nat) (r : Nat × Nat × Role) : State :=
  let c := n % cores.length
  let core := nth 0 cores c
  let (slot, place) := freePlace s core
  let g := Group.create
    { id := s.nextId, grp := n, role := r.1, idx := r.2.1, team := team, teamNo := no, coreNo := c, core := core
      slot := slot, place := place, fibres := r.2.2.fibres, regs := r.2.2.regs, entry := r.2.2.entry
      checksb := x.pkt.chksb, seed := x.pkt.seed }
  let t := (getCore s core).cyc
  let g1 := { g with lanes := g.lanes.map fun l => { l with readyAt := t, since := t } }
  { s with groups := s.groups ++ [g1], nextId := s.nextId + 1 }

/-- Discard the held instruction bytes of an ASID on cores (R381). -/
def dropFetch (s : State) (asid : BitVec 16) (cores : List Nat) : State :=
  cores.foldl (fun s c => modCore s c fun c => { c with fetch := c.fetch.filter fun w => w.asid != asid }) s

/-- A team is placed on cores of a cluster: another team's placement ages the waiting gang, and at the limit in force then
closes the cluster (R326, R327). -/
def ageGang (s : State) (cl : Nat) (own : Nat × Nat) : State :=
  let lim := nth 8 s.agelim (cl / 24)
  let aged (x : Nat × Gang) : Nat × Gang :=
    if x.1 = cl then
      (x.1, { x.2 with age := x.2.age + 1, closed := x.2.closed || decide (x.2.age + 1 ≥ lim) })
    else x
  { s with gangs := (s.gangs.filter fun x => (x.2.slice, x.2.team) != own).map aged }

/-- Address, row pitch, rows and bytes per row of a tile operand (R316). -/
def tileOf (e : List Byte) : Nat × Nat × Nat × Nat :=
  (fieldAt e 0 8 % 2 ^ 57, fieldAt e 8 4, fieldAt e 12 2, fieldAt e 14 2 % 2 ^ 15)

/-- The lines that the prefetch of a tile brings in: every line of each of its rows, as a PREF at the slice's level (R199,
R316). -/
def tileLines (t : Nat × Nat × Nat × Nat) : List Nat :=
  (List.range t.2.2.1).flatMap fun r =>
    let a := (t.1 + r * t.2.1) % 2 ^ 64
    if t.2.2.2 = 0 then []
    else (List.range ((a + t.2.2.2 - 1) / 192 - a / 192 + 1)).map fun i => (a / 192 + i) * 192

/-- Before the first team of a slice starts, its tiles are prefetched; the codewords read count as any read's (R316, R408). -/
def prefetchTiles (s : State) (x : Slice) : State :=
  if x.started then s
  else ((entries16 x.tiles).flatMap fun e => tileLines (tileOf e)).foldl (fun s va =>
    if va < 2 ^ 57 ∧ (va < 2 ^ 56 ∨ x.priv) then prefLine s (descOf s x.ctx).root va else s) s

/-- Cores take a team of a slice: no self-test stands on them any more, and a pacing hint in force for the slice holds for them too
(R355, R361). -/
def takeCores (s : State) (x : Slice) (cores : List Nat) : State :=
  cores.foldl (fun s c => modCore s c fun c =>
    { c with selfTest := false
             pacing := match x.pacing with
               | some p => if s.tb < p.1 then some p else c.pacing
               | none => c.pacing }) s

/-- A slice's next team starts: prologue, groups, exports (R315, R317, R325). -/
def startTeam (s : State) (x : Slice) (k : Kernel) (cl : Nat) (cores : List Nat) (pos : List (List Nat))
    (bytes : List (Win × Nat × List Byte)) : State :=
  let s := takeCores (meetCtx s x.ctx) x cores
  let id := s.nextId
  let d := ctxDesc s x.ctx
  let tm : Team :=
    { id := id, no := x.nextTeam, slice := x.id, cluster := cl, st := .running
      cores := (cores.zip pos).map fun y => TCore.start k y.1 y.2 bytes (x.pkt.arglen != 0)
      k := k, desc := d, regions := List.replicate k.nregion none, skip := List.replicate 64 0
      ergta := k.ergta, ergtr := k.ergtr, record := 0, heldReqs := [], signals := [], ffo := [], mxPend := [], ergPend := [] }
  let s1 := ageGang { s with teams := s.teams ++ [tm], nextId := id + 1 } cl (x.id, x.nextTeam)
  let s2 := (groupRoles k).zipIdx.foldl (fun s r => startGroup s x id x.nextTeam cores r.2 r.1) s1
  let base := x.pkt.expb + x.nextTeam * k.cores
  let mine (e : Export) : Bool := e.slice == x.id && decide (base ≤ e.slot ∧ e.slot < base + k.cores)
  let open_ (e : Export) : Export := if mine e then { e with live := true, team := id } else e
  let s3 := modFab s2 fun f => { f with exports := f.exports.map open_ }
  dropFetch (modSlice s3 x.id fun x =>
    { x with st := .running, started := true, nextTeam := x.nextTeam + 1
             quantCount := if x.started then x.quantCount else 0, desc := some d }) d.asid cores

/-- A slice whose last team has retired completes (R320, R392). -/
def sliceOver (s : State) (sid : Nat) : State :=
  match getSlice s sid with
  | none => s
  | some x =>
    let more := decide (x.nextTeam < x.pkt.nteam) && x.ending.isNone
    if x.st = .completing ∨ more || s.teams.any (fun t => t.slice == sid) then s
    else match x.ending with
      | some e =>
        endOfSlice s x e.code e.cause e.tepc e.tval
      | none => endOfSlice s x 0 0 0 0

/-- A fatal fault of the prologue: a slice none of whose teams has started is rejected; else it ends, at once when its placed
teams have all retired (R318, R320). -/
def prologueFault (s : State) (x : Slice) (cause va : Nat) (malformed : Bool) : State :=
  let s1 := sliceFault s x cause va malformed
  if x.started then
    sliceOver (endSlice (modSlice s1 x.id fun x => { x with token := none, verdict := none, waitFor := none }) x.id
      { code := 3, cause := 0, tepc := 0, tval := 0 }) x.id
  else endOfSlice s1 x 1 4 0 0

/-- Place the slice's next team on one of the ways it fits; which is free (log 3). -/
def placeTeam (s : State) (x : Slice) (k : Kernel) (cl : Nat) (ways : List (List Nat × List (List Nat))) : State :=
  let at_ := x.waitFor.getD (0, false)
  if x.verdict = some true then prologueFault s x 0x08 at_.1 at_.2
  else if x.token.isSome ∧ x.verdict.isNone then s
  else
    let s0 := bump (modSlice s x.id fun x => { x with token := none, verdict := none, waitFor := none })
    match readPrologue s0 x k with
    | (s1, .wait m va) => sliceWaits s1 x m va
    | (s1, .fatal c va) => prologueFault s1 x c va false
    | (_, .busy) => s
    | (s1, .ok bytes) =>
      let w := nth ([], []) ways (Config.choice s.fresh % ways.length)
      startTeam (prefetchTiles s1 x) x k cl w.1 w.2 bytes

/-- A team that fits nowhere becomes the waiting gang of a cluster that has none (R325). -/
def makeGang (s : State) (own : Nat × Nat) (k : Kernel) (cl : Nat) : State :=
  let cores := gangCores s k cl
  if (gangOf s own).isSome ∨ (clusterGang s cl).isSome ∨ !dieAllows s own.1 cl ∨ cores.length < k.cores then s
  else
    let pos := [0, k.gen, k.gen + k.wgt, k.gen + k.wgt + k.act]
    { s with gangs := s.gangs ++ [(cl, { slice := own.1, team := own.2, age := 0, cores := cores
                                         pos := List.replicate k.cores pos })] }

/-- TEAM_PLACE (R318, R320, R324 to R326): the completion of a slice goes on; a MARKER completes; a Ready slice whose structures are not read has them read;
else, in its turn, its next team is placed in the cluster, or waits there when it fits nowhere. -/
def execTeamPlace (slice cluster : Nat) (s : State) : Host.Outcome State Fault Refusal :=
  .next (match getSlice s slice with
    | none => s
    | some x =>
      match x.fin with
      | some e => entryFreed (closeSlice s x e)
      | none =>
      match meetRecord s x with
      | (s1, true) => sliceOver (endSlice s1 x.id { code := 3, cause := 0, tepc := 0, tval := 0 }) x.id
      | (s, false) =>
      if x.st = .ready ∧ x.pkt.marker then endOfSlice s x 0 0 0 0
      else match x.k with
        | none => if x.st = .ready then prepareSlice s x else s
        | some k =>
          if !hasUnplaced x || cluster ≥ 96 || !dispatchTurn s x then s
          else
            match fitsIn s (x.id, x.nextTeam) k cluster with
            | [] => if fitsAnywhere s (x.id, x.nextTeam) k then s else makeGang s (x.id, x.nextTeam) k cluster
            | ways => placeTeam s x k cluster ways)

/-! ## Retirement (R25, R304, R320, R392) -/

/-- Has a group an operation that is not over, wherever it is? -/
def groupBusy (s : State) (gid : Nat) : Bool :=
  (s.ops.any fun o => o.grp == gid) || (s.lines.any fun l => l.grp == gid) || (s.sigs.any fun x => x.grp == gid) ||
    (s.groups.any fun g => g.id == gid && g.gs.any GStream.sent) || s.cores.any fun c => (c.mxq.any fun m => m.grp == gid) || c.ergq.any fun e => e.grp == gid

/-- At the end of a slice what pre-emption would save as unissued is discarded, and so are matrix and Erg operations that have
not started; everything else in flight completes (R392, R394). -/
def dropPending (s : State) (gid : Nat) : State :=
  { s with
    cores := s.cores.map fun c =>
      { c with mxq := c.mxq.filter fun m => m.grp != gid || m.started
               ergq := c.ergq.filter fun e => e.grp != gid || e.started }
    ops := s.ops.filter fun o => o.grp != gid || !o.unissues }

/-- A holder that retires lets the baton go and arrives once (R156). -/
def releaseBaton (s : State) (g : Group) : State :=
  match getTeam s g.team with
  | none => s
  | some tm => tm.cores.zipIdx.foldl (fun s x =>
      match x.1.baton with
      | some off =>
        if x.1.held ∧ x.1.holder = g.grp then
          applyBar (modTCore s g.team x.2 fun tc => { tc with held := false }) g.team x.2 off 1 0 0
        else s
      | none => s) s

/-- No weight buffer counts as a team's any more. -/
def Core.forget (c : Core) (team : Nat) : Core :=
  { c with mxTeam := if c.mxTeam == some team then none else c.mxTeam
           filled := if c.filled == some team then none else c.filled }

/-- A team retires: its windows, regions and exports are gone (R25, R258). -/
def retireTeam (s : State) (tm : Team) : State :=
  { s with
    teams := s.teams.filter fun t => t.id != tm.id
    cores := s.cores.map fun c => if c.mxTeam == some tm.id || c.filled == some tm.id then c.forget tm.id else c
    fab := { s.fab with exports := s.fab.exports.map fun e => { e with live := e.live && e.team != tm.id } } }

/-- Take a group out. -/
def removeGroup (s : State) (g : Group) : State :=
  let s0 := releaseBaton s g
  let s1 := { s0 with groups := s0.groups.filter fun h => h.id != g.id }
  let sl := getSlot s1 g.core g.slot
  let s2 := modSlot s1 g.core g.slot fun sl => { sl with bankQ := sl.bankQ.filter (· != g.id) }
  let s3 := if g.resident && sl.bank == some g.id then releaseBank s2 g.core g.slot else s2
  let s4 := if g.resident then modCore s3 g.core fun c =>
      { c with tokQ := c.tokQ.filter (· != g.id), hist := c.hist.filter fun h => h.grp.id != g.id }
    else s3
  if s4.groups.any (fun h => h.team == g.team) then s4
  else match getTeam s4 g.team with
    | some tm => sliceOver (retireTeam s4 tm) tm.slice
    | none => s4

/-- Is the slice of a group ending (R392)? -/
def sliceEnding (s : State) (g : Group) : Bool := ((sliceOf s g).map fun x => x.ending.isSome).getD false

/-- May a replay still take back an issue of a group, or the trap that has ended its slice (R417, log 39)? -/
def mayReplay (s : State) (g : Group) : Bool :=
  replayable s g.core g.id || match (sliceOf s g).bind Slice.endedBy with
    | some (gid, _) => match getGroup s gid with
      | some h => replayable s h.core gid
      | none => false
    | none => false

/-- GROUP_RETIRE: a group with no fibre left, or of a slice that ends, retires once its operations are over and no replay can
bring it back (R304, R392, R417). -/
def execGroupRetire (grp : Nat) (s : State) : Host.Outcome State Fault Refusal :=
  .next (match getGroup s grp with
    | none => s
    | some g =>
      if mayReplay s g then s
      else if sliceEnding s g then
        let s1 := dropPending s grp
        if groupBusy s1 grp then s1 else removeGroup s1 g
      else if g.active = 0 ∧ !groupBusy s grp ∧ g.gs.isEmpty then removeGroup s g
      else s)

end Sys2Proof.Machine
end

