-- ==== Sys2Proof/Machine/Issue.lean ====
section
/-! DEFINITION. Forming, choosing and paying for issues: ISSUE_CYCLE, TOKEN_REFILL, COMMIT_GATE_RELEASE and
PARKED_ISSUE_PROCEED (spec/11 R285 to R288; spec/12 R329 to R334; spec/13 R344 to R351; spec/02 R48, R58 to R63; spec/14
R381; spec/15 R418). -/

namespace Sys2Proof.Machine

/-- Does the device run: neither held by FREEZE nor switched off? -/
def live (s : State) : Bool := !s.host.frozen && !s.host.powerOff

/-! ## What an issue reads and writes (R58 to R63) -/

/-- The view that an issue of a group's fibres at an address has. -/
def viewAt (s : State) (g : Group) (mask : Mask) (pc : Dword) : Option View :=
  viewOf { s with cur := { grp := g.id, mask := mask, pc := pc, cyc := (getCore s g.core).cyc } }

/-- The places of an operand field of a kind, in the lanes that read or write it; none where no lane does (R111). -/
def fieldPlaces (g : Group) (k : Kind) (lanes : List Nat) (o : Opd) : List Dst :=
  if k = .none ∨ lanes = [] then []
  else match o with
    | .v n => lanes.flatMap fun l => (List.range k.regs).map fun j => g.vPlace l (n.toNat + j)
    | .g n => (List.range k.regs).map fun j => g.gPlace (n.val + j)
    | .p n => lanes.map fun l => g.pPlace l n.toNat
    | _ => []

/-- A narrow conversion keeps the other elements of D, and so reads D (R123). -/
def readsD : Instr → Bool
  | .cvt t _ => t.ty.narrow
  | _ => false

/-- Places that an entry reads beside its operand fields: GF, the link of a RET, RDLN's lane, a stack register by number. -/
def moreReads (v : View) (i : Instr) (lanes : List Nat) : List Dst :=
  if lanes = [] then [] else
  match i with
  | .brc _ => [.gf v.g.onBank]
  | .ret _ => lanes.flatMap fun l => [.v l ((v.g.lane l).base - 2), .v l ((v.g.lane l).base - 1)]
  | .rdln t => match t.a with
      | .v k => (List.range (if t.ty.is64 then 2 else 1)).map fun j =>
          v.g.laneReg ((v.src32 t.h 0 t.b).toNat % 64) (k.toNat + j)
      | _ => []
  | .crdStk t => lanes.map fun l => .v l (v.src32 t.h l t.a).toNat
  | _ => []

/-- Places that an entry writes beside its field D: GF, the link of a call, a child's v0 and predicates, a stack register by
number. -/
def moreWrites (v : View) (i : Instr) (lanes : List Nat) : List Dst :=
  if lanes = [] then [] else
  match i with
  | .gcmp _ | .vote _ | .alwr _ => [.gf v.g.onBank]
  | .call t | .callr t => lanes.flatMap fun l =>
      [.v l ((v.g.lane l).base + callK t - 2), .v l ((v.g.lane l).base + callK t - 1)]
  | .fork _ =>
      (((List.range v.g.lanes.length).filter fun l => (v.g.lane l).st == .free).take lanes.length).flatMap fun l =>
        .v l 0 :: (List.range 7).map fun n => .p l n
  | .cwrStk t => lanes.map fun l => .v l (v.src32 t.h l t.a).toNat
  | _ => []

/-- The guard's places: it is read in every carried fibre. -/
def guardPlaces (v : View) (h : Hdr) : List Dst :=
  if h.pred = 7 then [] else (lanesOf v.carried).map fun l => v.g.pPlace l h.pred.toNat

/-- Is it a cross-lane instruction (R112)? -/
def crossLane (i : Instr) : Bool :=
  classOf i == some 5 || match i with
    | .bscale _ => true
    | _ => false

/-- What an issue reads: its guard, and in some lanes its sources. -/
def readsIn (v : View) (i : Instr) (lanes : List Nat) : List Dst :=
  match sig i, hdrOf i, opdsOf i with
  | some x, some h, some (d, a, b, c) =>
    let own := match i with
      | .rdln _ => fieldPlaces v.g x.b lanes b
      | _ => fieldPlaces v.g x.a lanes a ++ fieldPlaces v.g x.b lanes b ++ fieldPlaces v.g x.c lanes c
    guardPlaces v h ++ own ++ (if readsD i then fieldPlaces v.g x.d lanes d else []) ++ moreReads v i lanes
  | _, _, _ => []

/-- What an issue writes in some lanes. -/
def writesIn (v : View) (i : Instr) (lanes : List Nat) : List Dst :=
  match sig i, opdsOf i with
  | some x, some (d, _, _, _) => (fieldPlaces v.g x.d lanes d ++ moreWrites v i lanes).filter Dst.real
  | _, _ => []

/-- The lanes of an issue's participants (R56). -/
def partLanes (v : View) (i : Instr) : List Nat := ((hdrOf i).map fun h => lanesOf (v.parts h)).getD []

/-- The lanes whose sources an issue reads: its participants, and for a cross-lane instruction of a converged group those
of the whole group (R107, R112). -/
def readLanes (v : View) (i : Instr) : List Nat :=
  if crossLane i then ((hdrOf i).map fun h => lanesOf (v.sharers h)).getD [] else partLanes v i

/-- What an issue reads: its guard, and its sources in the fibres whose guard holds (R56, R58, R111). -/
def readPlaces (v : View) (i : Instr) : List Dst := readsIn v i (readLanes v i)

/-- What an issue writes, in its participants. -/
def writePlaces (v : View) (i : Instr) : List Dst := writesIn v i (partLanes v i)

/-- Does it read a g register (R54)? -/
def readsG (v : View) (i : Instr) : Bool :=
  (readPlaces v i).any fun d => match d with
    | .g _ => true
    | _ => false

/-- Results of a group that variable-latency instructions have still to write (R61). -/
def pendingDsts (s : State) (g : Group) : List Dst :=
  let c := getCore s g.core
  (s.ops.flatMap fun o => if o.grp == g.id then o.dsts else []) ++
    (c.mxq.flatMap fun m => if m.grp == g.id then m.dsts else []) ++
    c.ergq.flatMap fun e => if e.grp == g.id then e.dsts else []

/-- Is a fixed-latency write to a place not readable yet (R60)? A place is one lane's register or predicate, or the group's
register or flags. -/
def earlyAt (g : Group) (cyc : Nat) (d : Dst) : Bool := g.early.any fun e => e.dst == d && decide (cyc < e.untl)

/-- Does an issue convert with stochastic rounding in a lane whose generator an earlier store has still to step (R81, R96)? -/
def waitsForSteps (s : State) (v : View) (i : Instr) : Bool :=
  match i with
  | .cvt t _ | .pkb8 t => t.rnd == .sr && (partLanes v i).any fun l => (srLanes s v.g).contains l
  | _ => false

/-- Must an issue wait for a result (R61), for the end of a write to what it writes (R63), or BRC for GF (R297)? A fibre
whose guard is false reads and writes nothing but its guard (R56), and another lane's register is another destination. -/
def interlocked (s : State) (v : View) (i : Instr) : Bool :=
  let pend := pendingDsts s v.g
  let brc := match i with
    | .brc _ => true
    | _ => false
  waitsForSteps s v i ||
  (readPlaces v i).any (fun d => pend.contains d || (brc && d == .gf v.g.onBank && earlyAt v.g v.cyc d)) ||
    (writePlaces v i).any fun d => pend.contains d || earlyAt v.g v.cyc d

/-! ## Fetch and decode (R48, R58, R381) -/

/-- What the fetch at an address gives: a trap of R58, bytes still to be fetched, or an instruction. -/
inductive FetchRes where
  | trap (cause : Nat) (tval : Dword)
  | need
  | ok (i : Instr)
  deriving DecidableEq, Repr

/-- The length of an instruction from its first parcel; none for LEN = 0b11 (R42). -/
def parcelLen (bs : List Byte) : Option Nat :=
  let n := (bs.headD 0).toNat % 4
  if n = 3 then none else some (8 + 4 * n)

/-- Level and mode of an instruction, the last part of check 5 (R27, R288, R400): the level first, then the mode, an order
that the manual leaves open (log 68). -/
def legalHere (s : State) (g : Group) (i : Instr) (word : Dword) : FetchRes :=
  if i.levelS && !levelS s g then .trap 0x09 word
  else if (i.sysForm && !g.st.active) || !i.modeOk (maskMode s g) then .trap 0x01 word
  else .ok i

/-- Checks 1 to 5 of R58 on the bytes that a core holds. Within check 5 a malformed word comes before its level and mode
(log 68). -/
def fetchRes (s : State) (g : Group) (pc : Dword) : FetchRes :=
  if pc.toNat % 4 ≠ 0 then .trap 0x02 pc
  else if pc.toNat ≥ 2 ^ 57 then .trap 0x08 pc
  else if pc.toNat ≥ 2 ^ 56 ∧ !levelS s g then .trap 0x09 pc
  else match fetchBytes s g pc with
    | none => .need
    | some bs =>
      if fetchPoisoned s g pc ((parcelLen bs).getD 4) then .trap 0x0B pc
      else match parcelLen bs with
      | none => .trap 0x01 (BitVec.ofNat 64 (bitsOfBytes (bs.take 4)))
      | some n =>
        if bs.length < n then .trap 0x02 (BitVec.ofNat 64 ((pc.toNat / 32 + 1) * 32))
        else
          let word := BitVec.ofNat 64 (bitsOfBytes (bs.take 8))
          match decodeBytes bs with
          | .ok i => legalHere s g i word
          | .error _ => .trap 0x01 word

/-- Checks 6 and 7 of R58 (R54, R62, R111). That a matrix or Erg instruction finds its group converged is a check of its entry,
which comes after them (R151, R173). -/
def lateCheck (v : View) (i : Instr) : Option Nat :=
  let conv := ((sig i).map Sig.conv).getD false && classOf i != some 12 && classOf i != some 13
  let parts := ((hdrOf i).map fun h => v.parts h).getD 0
  if (conv || (parts != 0 && readsG v i)) && !v.g.converged v.pc then some 0x04
  else if v.g.checksb && (readPlaces v i).any (earlyAt v.g v.cyc) then some 0x03
  else none

/-- Has an issue of these fibres at this address been charged already (R344)? -/
def Group.chargedIssue (g : Group) (mask : Mask) (pc : Dword) : Bool :=
  mask &&& ~~~((g.free.filter fun x => x.2 == pc).foldl (fun m x => m ||| x.1) 0) == 0

/-- A group's fetch waits no more. -/
def clearFetch (s : State) (gid : Nat) : State :=
  modGroup s gid fun g => { g with fetchTok := none, fetchVerdict := none, fetchFor := none }

/-- Fetch the window of an address for fibres of a group (R381): it waits, traps, or is held with its poison. -/
def fetchWindow (s : State) (g : Group) (mask : Mask) (pc : Dword) : State :=
  let trap (s : State) (c : Nat) : State := takeTrapAt s g.id mask c pc pc (g.chargedIssue mask pc)
  if g.fetchTok.isSome ∧ g.fetchVerdict.isNone then s
  else
    let (root, asid) := teamSpace s g.team
    let s0 := clearFetch s g.id
    let at_ := pc.toNat % 32
    match translate s0 root asid (levelS s0 g) pc.toNat .fetch with
    | (s1, .fail c) => trap s1 c
    | (s1, .wait m) =>
        let (s2, tok) := postWaiting s1 1 (ctxByte (ctxOfTeam s1 g.team)) (if m then 2 else 0) asid (srcOfCore g.core) pc
        modGroup s2 g.id fun g => { g with fetchTok := some tok, fetchFor := some (mask, pc) }
    | (s1, .ok key _ pois) =>
        let keys := (List.range 32).map fun i => key - at_ + i
        let s2 := meetRun s1 (some root) (pc.toNat - at_) keys
        modCore s2 g.core fun c =>
          { c with fetch :=
              { asid := asid, va := BitVec.ofNat 64 (pc.toNat - at_), bytes := memGets s2.mem keys
                pois := (List.range 32).filter fun i => pois || poisonedKey s2 (key - at_ + i) } :: c.fetch }

/-! ## Forming an issue (R285, R286) -/

/-- May a group form an issue at all: it stands on its core, its slice goes on, and nothing holds all of it (R195, R209,
R265, R394, R399)? -/
def mayForm (s : State) (g : Group) : Bool :=
  g.resident && (!g.halted || g.stepping) && g.sysPend.isNone && g.parked.isNone &&
    !(g.fetchTok.isSome && g.fetchVerdict.isNone) &&
    !(s.ops.any fun o => o.grp == g.id && !isEnq o.i && (o.stage == .grant || o.stage == .parked)) &&
    match sliceOf s g with
    | some x => x.ending.isNone && (!x.preempting || g.st.active)
    | none => false

/-- The fibres that no hold and no stall stops: they run, in the handler in hand if there is one (R60, R285). -/
def standing (s : State) (g : Group) (cyc : Nat) : List Nat :=
  let held := heldMask s g.id
  (List.range g.lanes.length).filter fun l =>
    (g.lane l).st == .live && g.scope.has l && !held.has l && decide ((g.lane l).readyAt ≤ cyc)

/-- Does the instruction at an address wait for a result (R61, R63)? It waits as one issue for all the standing fibres at
that address, so a fibre whose guard is false stays with those that wait (log 8). -/
def pcWaits (s : State) (g : Group) (among : List Nat) (pc : Dword) : Bool :=
  match fetchRes s g pc, viewAt s g (maskOf fun l => among.contains l && (g.lane l).pc == pc) pc with
  | .ok i, some v => interlocked s v i
  | _, _ => false

/-- The addresses of some fibres, each once. -/
def pcsOf (g : Group) : List Nat → List Dword
  | [] => []
  | l :: ls => let r := pcsOf g ls
    if r.contains (g.lane l).pc then r else (g.lane l).pc :: r

/-- The oldest of some fibres; of equals the lowest lane. -/
def oldest (g : Group) : List Nat → Option Nat
  | [] => none
  | l :: ls => match oldest g ls with
    | none => some l
    | some m => if (g.lane l).since ≤ (g.lane m).since then some l else some m

/-- The issue that Ready fibres, in ascending order, form (R286). -/
def formIssue (g : Group) (ready : List Nat) : Option (Mask × Dword) :=
  let sel (q : Nat) : Option Dword := (oldest g (ready.filter fun l => l / 16 == q)).map fun l => (g.lane l).pc
  match oldest g ready with
  | none => none
  | some l0 =>
    let q0 := l0 / 16
    let pc := (g.lane l0).pc
    let h := if q0 % 2 = 0 then q0 + 1 else q0 - 1
    let ok (q : Nat) : Bool := sel q == some pc || sel q == none
    let all64 := (List.range 4).all ok && (List.range 4).any fun q => q != q0 && q != h && sel q == some pc
    let inGang (l : Nat) : Bool :=
      if all64 then true else if sel h == some pc then l / 32 == q0 / 2 else l / 16 == q0
    some (maskOf fun l => ready.contains l && inGang l && (g.lane l).pc == pc, pc)

/-- The fibres that may issue. A cross-lane instruction of a converged group reads the sources of all its fibres (R112), so
it waits until each of them that runs may issue. -/
def readyLanes (s : State) (g : Group) : List Nat :=
  let among := standing s g (getCore s g.core).cyc
  let waits := (pcsOf g among).filter (pcWaits s g among)
  let ready := among.filter fun l => !waits.contains (g.lane l).pc
  let all := (List.range g.lanes.length).all fun l =>
    (g.lane l).st != .live || !g.scope.has l || ready.contains l
  ready.filter fun l => all || match fetchRes s g (g.lane l).pc with
    | .ok i => !(crossLane i && g.converged (g.lane l).pc)
    | _ => true

/-- Width of a gang from the fibres it carries: a gang reaches only as far as its fibres (R286). -/
def gangWidth (m : Mask) : Nat :=
  let q (i : Nat) : Bool := (lanesOf m).any fun l => l / 16 == i
  if (q 0 || q 1) && (q 2 || q 3) then 64 else if (q 0 && q 1) || (q 2 && q 3) then 32 else 16

/-! ## Price (R344, R345) -/

/-- Units of an issue (R160, R172, R284, R345). -/
def unitsOf (s : State) (v : View) (i : Instr) : Nat :=
  let quarters := gangWidth v.carried / 16
  let parts (h : Hdr) : Nat := popMask (v.parts h)
  match i with
  | .gath t => min 1024 (ceilDiv (v.uni t.h t.c).toNat 64)
  | .cpy t | .cpyr t | .cpyred t => (copyLines s v i t (v.parts t.h)).length
  | .mxrow t | .mxst t | .mxrd t | .mxwr t | .mxflgRd t | .ergc t | .ergkIn t | .ergkOut t | .ergkRst t | .ergkInv t =>
      parts t.h
  | .mxlw t => mxK t
  | .mxzero t | .mxflgClr t => min 1024 (v.uniN t t.b)
  | .qpop _ => quarters
  | _ =>
    match (classOf i).getD 0 with
    | 0 | 1 | 2 | 3 | 4 | 5 | 8 | 9 => quarters
    | _ => 1

/-- The price of an issue (R345). -/
def issuePrice (s : State) (v : View) (i : Instr) : Nat :=
  unitsOf s v i * priceEntry v.g.core (getCore s v.g.core) (priceIndex i)

/-- Is the group inside a BUDGET handler (R331, R333)? -/
def inBudget (g : Group) : Bool := g.ut.active && g.ut.cause == 0x0E

/-- Is the slice out of budget, so that issues outside a BUDGET handler raise BUDGET (R333, R334)? An issue of the cycle in
which another slot's issue brought LEFT to 0 completes. -/
def outOfBudget (s : State) (g : Group) (x : Slice) : Bool :=
  x.left == 0 && !inBudget g && !sliceHalted s x.id && x.spentAt != some (g.core, (getCore s g.core).cyc)

/-! ## Waits at issue that are no issues -/

/-- Does an instruction wait for room: a full engine, gather or copy queue, an empty gather queue that will fill, or a
store that still steps the generators (R97, R141, R169, R200, R201, R255)? -/
def waitsForRoom (s : State) (v : View) (i : Instr) : Bool :=
  let some_ (h : Hdr) : Bool := v.parts h != 0
  match i with
  | .mxlw t | .mxrow t | .mxzero t | .mxrd t | .mxwr t | .mxst t | .mxflgRd t | .mxflgClr t | .mxflgOrr t =>
      some_ t.h && mxFull s v.g.core
  | .ergc t | .ergkIn t | .ergkOut t | .ergkRst t | .ergkInv t | .ergt t | .ergmRd t | .ergmWr t | .ergmClr t
  | .ergmDesc t => some_ t.h && ergFull s v.g.core
  | .gath t => (v.uni t.h t.c).toNat != 0 && decide (v.g.gs.length ≥ 4)
  | .qpop t => some_ t.h && v.g.gq.isEmpty && !v.g.gs.isEmpty
  | .cpy t | .cpyr t | .cpyred t =>
      decide (queuedLines s v.g.core + (copyLines s v i t (v.parts t.h)).length > 64)
  | .cwrSrseed _ => srPending s v.g
  | _ => false

/-- The peers that a copy or a signal names, with the lines to each (R265). -/
def issuePeers (s : State) (v : View) (i : Instr) : List (Nat × Nat) :=
  match i with
  | .cpy t | .cpyr t | .cpyred t => linePeers (copyLines s v i t (v.parts t.h))
  | .cpysig t => [(handleDev (v.uni64 t.h t.a), 1)]
  | _ => []

/-- Does the issue of some fibres at an address wait for room? -/
def roomWait (s : State) (g : Group) (mask : Mask) (pc : Dword) : Bool :=
  match fetchRes s g pc, viewAt s g mask pc with
  | .ok i, some v => waitsForRoom s v i
  | _, _ => false

/-- The issue that some fibres form: fibres whose issue waits for room are Held, and the others form one (R285, R286). -/
def formAmong (s : State) (g : Group) : Nat → List Nat → Option (Mask × Dword)
  | 0, _ => none
  | n + 1, ready => match formIssue g ready with
    | none => none
    | some (mask, pc) =>
      if roomWait s g mask pc then formAmong s g n (ready.filter fun l => !mask.has l) else some (mask, pc)

/-- The issue that a group forms now. -/
def formed (s : State) (g : Group) : Option (Mask × Dword) := formAmong s g 65 (readyLanes s g)

/-- Does it lack send allowance (R265)? -/
def lacksAllowance (s : State) (v : View) (i : Instr) : Bool := !peersFree s (parkSeqOf s v.g) (issuePeers s v i)

/-! ## The instruction boundary -/

/-- Take the group's waiting issue back out of the line for tokens. -/
def dropChosen (s : State) (gid core : Nat) : State :=
  modCore (modGroup s gid fun g => { g with chosen := none }) core fun c => { c with tokQ := c.tokQ.filter (· != gid) }

/-- Can a deferred trap be raised now: no handler that its fibres are not in is at work (R387, R390)? -/
def deferredFree (g : Group) (d : Deferred) : Bool :=
  !g.st.active && g.sysPend.isNone && (!g.ut.active || d.set &&& ~~~g.ut.set == 0)

/-- Raise the first deferred trap of a group. -/
def raiseDeferred (s : State) (g : Group) (d : Deferred) : State :=
  let s1 := dropChosen (modGroup s g.id fun g => { g with deferred := g.deferred.drop 1, parked := none }) g.id g.core
  let set := d.set &&& g.active
  if set = 0 then
    match sliceOf s1 g with
    | some x => endSlice s1 x.id { code := 2, cause := d.cause, tepc := d.tepc, tval := d.tval }
    | none => s1
  else takeTrapAt s1 g.id set d.cause d.tepc d.tval true

/-- The resuming fetch of TRET.SKIP: the fibres go past the instruction at their address, or the fetch traps (R308). -/
def resolveSkip (s : State) (g : Group) : State :=
  let set := g.skipMask &&& g.active
  let pc := (g.lane ((lanesOf set).headD 0)).pc
  let clear (s : State) : State := modGroup s g.id fun g => { g with skipMask := 0 }
  let trap (c : Nat) (tv : Dword) : State := takeTrapAt (clear s) g.id set c pc tv false
  if set = 0 then clear s
  else if pc.toNat % 4 ≠ 0 then trap 0x02 pc
  else if pc.toNat ≥ 2 ^ 57 then trap 0x08 pc
  else if pc.toNat ≥ 2 ^ 56 ∧ !levelS s g then trap 0x09 pc
  else match fetchBytes s g pc with
    | none =>
        let s1 := fetchWindow s g set pc
        match getGroup s1 g.id with
        | some g1 => if g1.ut.active != g.ut.active || g1.st.active || g1.sysPend.isSome then clear s1 else s1
        | none => s1
    | some bs =>
      if fetchPoisoned s g pc 4 then trap 0x0B pc
      else match parcelLen bs with
      | none => trap 0x01 (BitVec.ofNat 64 (bitsOfBytes (bs.take 4)))
      | some n => modGroup (clear s) g.id fun g => g.advance set n

/-- The issue that a group would make: its chosen one while that waits for tokens (R287), else the one it forms. -/
def nextIssue (s : State) (g : Group) : Option (Mask × Dword) :=
  match g.chosen with
  | some c => some (c.mask, c.pc)
  | none => formed s g

/-- The verdict on a group's fetch is fatal: PFAULT for the fibres that it was for, those of them that still stand at its address
(R381). -/
def fetchFatal (s : State) (g : Group) : State :=
  let s1 := dropChosen (clearFetch s g.id) g.id g.core
  match g.fetchFor with
  | none => s1
  | some (mask, pc) =>
    let set := maskOf fun l => mask.has l && (g.lane l).st != .free && (g.lane l).pc == pc
    if set = 0 then s1 else takeTrapAt s1 g.id set 0x08 pc pc (g.chargedIssue set pc)

/-- Park an issue that lacks send allowance (R265). -/
def parkGroup (s : State) (gid core : Nat) (mask : Mask) (pc : Dword) (peers : List (Nat × Nat)) : State :=
  { modGroup (dropChosen s gid core) gid fun g =>
      { g with parked := some { mask := mask, pc := pc, seq := s.nextId, peers := peers } } with
    nextId := s.nextId + 1 }

/-- The issue that a group would make traps on BUDGET or on checks 1 to 5 of R58, is fetched for, or parks. Checks 6 and 7
come when the slot chooses it. -/
def boundaryIssue (s : State) (g : Group) (x : Slice) : State :=
  match nextIssue s g with
  | none => s
  | some (mask, pc) =>
    let trap (c : Nat) (tv : Dword) : State :=
      takeTrapAt (dropChosen s g.id g.core) g.id mask c pc tv (g.chargedIssue mask pc)
    if outOfBudget s g x then trap 0x0E 0
    else match fetchRes s g pc with
      | .need => fetchWindow s g mask pc
      | .trap c tv => trap c tv
      | .ok i =>
        match viewAt s g mask pc with
        | none => s
        | some v =>
          if (lateCheck v i).isNone && !waitsForRoom s v i && lacksAllowance s v i then
            parkGroup s g.id g.core mask pc (issuePeers s v i)
          else s

/-- What happens to a group at an instruction boundary before it may issue. -/
def boundary (s : State) (gid : Nat) : State :=
  match getGroup s gid with
  | none => s
  | some g =>
    match sliceOf s g with
    | none => s
    | some x =>
      if !g.resident || g.halted && !g.stepping || x.ending.isSome then s
      else match g.deferred.find? fun d => deferredFree g d && g.deferred.head? == some d with
        | some d => raiseDeferred s g d
        | none =>
          if !mayForm s g then s
          else if g.fetchVerdict = some true then fetchFatal s g
          else if g.skipMask ≠ 0 then resolveSkip s g
          else boundaryIssue s g x

/-! ## Choosing (R329, R330, R355, R366) -/

/-- An issue that a group offers; `late` is the cause of check 6 or 7 that it fails, for which nothing is charged (R344). -/
structure Offer where
  g : Group
  mask : Mask
  pc : Dword
  i : Instr
  price : Nat
  late : Option Nat
  deriving DecidableEq, Repr

/-- The offer of an issue at an address, if its instruction may issue but for tokens. -/
def offerAt (s : State) (g : Group) (mask : Mask) (pc : Dword) : Option Offer :=
  match fetchRes s g pc, viewAt s g mask pc with
  | .ok i, some v =>
    let late := lateCheck v i
    if late.isNone && (waitsForRoom s v i || lacksAllowance s v i) then none
    else some { g := g, mask := mask, pc := pc, i := i, late := late
                price := if late.isSome || g.chargedIssue mask pc then 0 else issuePrice s v i }
  | _, _ => none

/-- The offer of a Ready group, YIELD apart. -/
def offer (s : State) (g : Group) : Option Offer :=
  if mayForm s g && g.chosen.isNone && g.deferred.isEmpty && g.skipMask == 0 then
    match formed s g with
    | some (mask, pc) =>
      match sliceOf s g with
      | some x => if outOfBudget s g x then none else offerAt s g mask pc
      | none => none
    | none => none
  else none

/-- Is the group one of a ballast slice? -/
def ballastGroup (s : State) (g : Group) : Bool := ((sliceOf s g).map fun x => x.ballast.isSome).getD false

/-- The slots's order of choice as a list of numbers, the least first: ordinary before ballast (R355), urgent groups by
the time they became so (R330), deadline, same class (R366), round robin (R329). -/
def choiceKey (s : State) (core slot : Nat) (o : Offer) : List Nat :=
  let c := getCore s core
  let sl := getSlot s core slot
  let ballast := if ballastGroup s o.g then 1 else 0
  match o.g.urgent with
  | some t => [ballast, 0, t, o.g.place]
  | none =>
    let deadl := ((sliceOf s o.g).map fun x => x.deadl.toNat).getD 0
    let recent := match sl.otherAt with
      | some t => decide (c.cyc < t + 32)
      | none => false
    let same := if c.cmpgrp && recent && classOf o.i == sl.lastClass then 0 else 1
    [ballast, 1, deadl, same, (o.g.place + 16 - sl.last - 1) % 16]

/-- Lexicographic order. -/
def lexLt : List Nat → List Nat → Bool
  | [], [] => false
  | [], _ :: _ => true
  | _ :: _, [] => false
  | a :: as, b :: bs => decide (a < b) || (a == b && lexLt as bs)

/-- The offer that a slot chooses. -/
def chooseOffer (s : State) (core slot : Nat) : List Offer → Option Offer
  | [] => none
  | o :: os => match chooseOffer s core slot os with
    | none => some o
    | some b => if lexLt (choiceKey s core slot b) (choiceKey s core slot o) then some b else some o

/-- A choice passes over the slot's other Ready groups (R330). -/
def passOver (s : State) (cyc : Nat) (chosen : Nat) (os : List Offer) : State :=
  let passed (g : Group) : Bool := g.id != chosen && os.any fun o => o.g.id == g.id
  { s with groups := s.groups.map fun g =>
      if passed g then
        { g with pass := g.pass + 1, urgent := if g.pass + 1 ≥ 256 ∧ g.urgent.isNone then some cyc else g.urgent }
      else g }

/-! ## Paying (R348, R349, R354) -/

/-- Capacity of a core's bucket. -/
def bucketCap : Nat := 1048576

/-- The offer of an issue that waits for tokens. -/
def waitingOffer (s : State) (gid : Nat) : Option Offer :=
  (getGroup s gid).bind fun g => g.chosen.bind fun c => offerAt s g c.mask c.pc

/-- Price of an issue that waits: while it has no offer, the one it was formed with. -/
def waitingPrice (s : State) (gid : Nat) : Nat :=
  match waitingOffer s gid with
  | some o => o.price
  | none => (((getGroup s gid).bind Group.chosen).map Chosen.price).getD 0

/-- May an issue of a group take a price with these waiting ahead of it (R348, R349)? A ballast issue takes only where no other
issue waits (R354). -/
def payable (s : State) (core : Nat) (g : Group) (price : Nat) (ahead : List Nat) : Bool :=
  let c := getCore s core
  let others := c.tokQ.filter (· != g.id)
  price == 0 ||
    (c.debt == 0 && (!ballastGroup s g || others.isEmpty) &&
      if price > bucketCap then ahead.isEmpty && c.level == bucketCap
      else decide (price + (ahead.map (waitingPrice s)).sum ≤ c.level))

/-- May an offer take its tokens? -/
def canTake (s : State) (core : Nat) (o : Offer) (ahead : List Nat) : Bool := payable s core o.g o.price ahead

/-- The registers of an issue that are poisoned: TVAL of the first (R405). -/
def poisonedRead (g : Group) (ds : List Dst) : Option Dword :=
  ds.findSome? fun d => match d with
    | .v l x => if (g.lane l).pois.contains x then some (arg x) else none
    | .g n => if g.gpois.contains n then some (arg (0x40 + n)) else none
    | _ => none

/-- Does an instruction read the join stack, the gather queue or the trap state, whose loss ends the slice (R405)? -/
def readsGroupState : Instr → Bool
  | .join _ | .exit _ | .mark _ | .qpop _ | .tret _ | .crdJs _ | .crdTs _ => true
  | .crd t => decide (0x00B ≤ t.h.crnum ∧ t.h.crnum ≤ 0x00D)
  | _ => false

/-- A read of a group's join stack, gather queue or trap state: an uncorrectable error ends the slice with CODE 3 (R405). -/
def meetArray6 (s : State) (g : Group) (x : Slice) : State :=
  match meetUnit s g.core 6 (g.slot * 16 + g.place) (ctxByte x.ctx) with
  | (s1, true) => endSlice s1 x.id { code := 3, cause := 0, tepc := 0, tval := 0 }
  | (s1, false) => s1

/-- An instruction that reads that state meets it. -/
def meetGroupState (s : State) (g : Group) (x : Slice) (i : Instr) : State :=
  if readsGroupState i then meetArray6 s g x else s

/-- The slice's accounts of an issue on a core in a cycle (R319, R331 to R334, R344, R370). -/
def Slice.account (x : Slice) (tb price core cyc : Nat) (again counted halted : Bool) : Slice :=
  { x with
    yielded := false
    spentAt := if counted && !halted && x.left == 1 then some (core, cyc) else x.spentAt
    engy := x.engy + BitVec.ofNat 64 price
    used := if counted then x.used + 1 else x.used
    quantCount := if counted && !halted then x.quantCount + 1 else x.quantCount
    left := if counted && !halted && x.left != BitVec.allOnes 64 && x.left != 0 then x.left - 1 else x.left
    tstart := if again then x.tstart else some (x.tstart.getD (BitVec.ofNat 64 tb)) }

/-- The core's and the slot's accounts of an issue (R59, R329, R348, R349, R363, R366, R417). -/
def Core.account (c : Core) (slot : Nat) (o : Offer) (h : Hist) (rowPrice : Nat) : Core :=
  let one (sl : Slot) : Slot :=
    { sl with
      lastClass := classOf o.i
      otherAt := if sl.lastClass.isSome && sl.lastClass != classOf o.i then some sl.lastAt else sl.otherAt
      lastAt := c.cyc
      freeAt := c.cyc + (if gangWidth o.mask = 64 then 2 else 1) }
  let row := match o.i with
    | .mxrow _ => true
    | _ => false
  { c with
    level := c.level - o.price
    debt := c.debt + (o.price - bucketCap)
    charged := c.charged + o.price
    tokQ := c.tokQ.filter (· != o.g.id)
    rowPrice := if row then rowPrice else c.rowPrice
    slots := modNth c.slots slot one
    hist := c.hist ++ [h] }

/-- The group's part of an issue: ages, stalls, the marks of charged reissues, the end of its YIELD (R59, R286, R306, R330, R344,
R399). -/
def Group.issueAt (g : Group) (cyc : Nat) (o : Offer) : Group :=
  let stall := ((hdrOf o.i).map fun h => h.stall.toNat).getD 0
  let d := if gangWidth o.mask = 64 then 2 else 1
  { g with
    pass := 0, urgent := none, chosen := none, stepping := false, yieldFor := [], rdy := g.rdy &&& ~~~o.mask
    free := (g.free.map fun x => (x.1 &&& ~~~o.mask, x.2)).filter fun x => x.1 != 0
    lanes := g.lanes.mapIdx fun i l => if o.mask.has i then { l with since := cyc, readyAt := cyc + max stall d } else l }

/-- The issue is made: it is charged and counted, and runs as the next step; a poisoned source traps instead (R405). -/
def issueNow (s : State) (core slot : Nat) (o : Offer) : State :=
  let c := getCore s core
  match sliceOf s o.g, viewAt s o.g o.mask o.pc with
  | some x, some v =>
    let again := o.g.chargedIssue o.mask o.pc
    let counted := !again && !inBudget o.g
    let h : Hist :=
      { cyc := c.cyc, grp := o.g, mask := o.mask, pc := o.pc, nextId := s.nextId }
    let s1 := modSlice s x.id fun y => y.account s.tb o.price core c.cyc again counted (sliceHalted s x.id)
    let s2 := modCore s1 core fun c => c.account slot o h (priceEntry core c (priceIndex o.i))
    let unyield (g : Group) : Group := { g with yieldFor := g.yieldFor.filter (· != o.g.id) }
    let s3 := { s2 with groups := s2.groups.map fun g =>
      if g.id == o.g.id then (unyield g).issueAt c.cyc o
      else if g.core == core && g.slot == slot then unyield g else g }
    let reads := readPlaces v o.i
    let s4 := meetGroupState (meetRegs s3 o.g reads) o.g x o.i
    match (getGroup s4 o.g.id).bind fun g => poisonedRead g reads with
    | some tv => takeTrapAt s4 o.g.id o.mask 0x0B o.pc tv true
    | none =>
      { s4 with
        cur := { grp := o.g.id, mask := o.mask, pc := o.pc, cyc := c.cyc, price := o.price, counted := counted }
        busy := true }
  | _, _ => s

/-- The chosen issue goes: check 6 or 7 traps it (R58), else it is made. -/
def issueOrTrap (s : State) (core slot : Nat) (o : Offer) : State :=
  match o.late with
  | some c => takeTrapAt (dropChosen s o.g.id core) o.g.id o.mask c o.pc 0 (o.g.chargedIssue o.mask o.pc)
  | none => issueNow s core slot o

/-- The waiting issue of a slot that can be taken now, first in the order of waiting (R348). -/
def takeWaiting (s : State) (core slot : Nat) (ahead : List Nat) : List Nat → Option Offer
  | [] => none
  | gid :: rest =>
    match waitingOffer s gid with
    | some o => if o.g.slot = slot ∧ canTake s core o ahead then some o else takeWaiting s core slot (ahead ++ [gid]) rest
    | none => takeWaiting s core slot (ahead ++ [gid]) rest

/-- Groups of a slot that stand on it, in place order. -/
def slotGroups (s : State) (core slot : Nat) : List Group :=
  let gs := s.groups.filter fun g => g.resident && g.core == core && g.slot == slot
  (List.range 16).flatMap fun p => gs.filter fun g => g.place == p

/-- Place of a group's chosen issue in the order of waiting. -/
def chosenSeq (s : State) (gid : Nat) : Nat := (((getGroup s gid).bind Group.chosen).map Chosen.seq).getD 0

/-- A waiting issue takes its place in the line: behind those that have waited longer (R348). -/
def lineUp (s : State) (core gid : Nat) : State :=
  let k := chosenSeq s gid
  modCore s core fun c =>
    let before := c.tokQ.filter fun y => decide (chosenSeq s y ≤ k)
    { c with tokQ := before ++ gid :: c.tokQ.filter fun y => !decide (chosenSeq s y ≤ k) }

/-- An issue waits for tokens: it stays chosen and joins the line (R287, R348). -/
def waitTokens (s : State) (core gid : Nat) (mask : Mask) (pc : Dword) (price : Nat) : State :=
  lineUp { modGroup s gid fun g =>
      { g with chosen := some { mask := mask, pc := pc, seq := s.nextId, peers := [], price := price } } with
    nextId := s.nextId + 1 } core gid

/-- The groups of a slot that may go now, with their issues (R329); whether YIELD holds one back (R306). -/
def yieldHolds (ready : List Offer) (g : Group) : Bool := g.yieldFor.any fun y => ready.any fun p => p.g.id == y

/-- A free slot chooses among its Ready groups; the issue takes its price or waits for it (R329, R348). A ballast issue is
not chosen while another issue of the core waits for tokens (R354). -/
def slotChoice (s : State) (core slot : Nat) : State :=
  let c := getCore s core
  let ready := (slotGroups s core slot).filterMap (offer s)
  let may := ready.filter fun o =>
    !yieldHolds ready o.g && !(ballastGroup s o.g && o.price != 0 && !c.tokQ.isEmpty)
  match chooseOffer s core slot may with
  | none => s
  | some o =>
    let s1 := modSlot (passOver s c.cyc o.g.id may) core slot fun sl => { sl with last := o.g.place }
    if canTake s core o c.tokQ then
      match getGroup s1 o.g.id with
      | some g => issueOrTrap s1 core slot { o with g := g }
      | none => s1
    else waitTokens s1 core o.g.id o.mask o.pc o.price

/-- Waiting issues whose group cannot issue any more leave the line; those of a halted group stay chosen and take their
place again when it goes on, and one that is fetched again keeps its place (R287, R348, R398). -/
def tidyLine (s : State) (core : Nat) : State :=
  let s1 := (getCore s core).tokQ.foldl (fun s gid =>
    match getGroup s gid with
    | some g =>
        if g.core != core || g.chosen.isNone || !mayForm s { g with halted := false, fetchTok := none } then dropChosen s gid core
        else if g.halted && !g.stepping then
          modCore s core fun c => { c with tokQ := c.tokQ.filter (· != gid) }
        else s
    | none => dropChosen s gid core) s
  (s1.groups.filter fun g =>
    g.core == core && g.chosen.isSome && mayForm s1 g && !(getCore s1 core).tokQ.contains g.id).foldl
    (fun s g => lineUp s core g.id) s1

/-- The Ready fibres of a group (R285): those that may issue and whose issue does not wait for room. -/
def readyMask (s : State) (g : Group) : Mask :=
  let ready := readyLanes s g
  let at_ (pc : Dword) : Mask := maskOf fun l => ready.contains l && (g.lane l).pc == pc
  let waits := (pcsOf g ready).filter fun pc => roomWait s g (at_ pc) pc
  maskOf fun l => ready.contains l && !waits.contains (g.lane l).pc

/-- Fibres that have become Ready are younger than those that were Ready before (R286, R287; log 86); a halted group keeps its
ages. -/
def noteReady (s : State) (gid : Nat) : State :=
  match getGroup s gid with
  | none => s
  | some g =>
    if !g.resident || g.halted && !g.stepping then s
    else
      let m := readyMask s g
      if m = g.rdy then s
      else modGroup s gid fun g =>
        ({ g with rdy := m }).modLanes (m &&& ~~~g.rdy) fun l => { l with since := (getCore s g.core).cyc }

/-- What one slot does in the cycle: boundaries, then the issue that waits, or a new choice. -/
def slotCycle (s : State) (core slot : Nat) : State :=
  let gs := slotGroups s core slot
  let s0 := gs.foldl (fun s g => noteReady s g.id) (settleHolds s)
  let s1 := gs.foldl (fun s g => boundary s g.id) (tidyLine s0 core)
  let c := getCore s1 core
  if (getSlot s1 core slot).freeAt > c.cyc then s1
  else match takeWaiting s1 core slot [] c.tokQ with
    | some o => issueOrTrap s1 core slot o
    | none => slotChoice s1 core slot

/-! ## Tokens and time (R22, R350) -/

/-- The contexts that have groups on a core, each once. -/
def coreContexts (s : State) (core : Nat) : List Nat :=
  ((s.groups.filter fun g => g.resident && g.core == core).map fun g => ctxOfTeam s g.team).eraseDups

/-- FLOOR of a context as the last governor step read it (R373, R386). -/
def floorOf (s : State) (ctx : Nat) : Nat := nth 0 s.pw.floors ctx

/-- The sum of FLOOR over all pairs of resident context and core (R386). -/
def floorSum (s : State) : Nat :=
  ((List.range s.cores.length).map fun c => ((coreContexts s c).map (floorOf s)).sum).sum

/-- The least rate of a core: its contexts' floors scaled by m, and 16 while an issue waits for tokens or a debt stands
(R349, R350, R386). -/
def leastRate (s : State) (core : Nat) : Nat :=
  let fl := ((coreContexts s core).map (floorOf s)).sum
  let c := getCore s core
  let floor := if fl = 0 then 0 else
    let all := floorSum s
    if all ≤ s.pw.room then fl else ceilDiv (fl * s.pw.room) all
  max floor (if c.tokQ.isEmpty && c.debt == 0 then 0 else 16)

/-- A core's bucket is credited: the debt is paid before the level rises (R349, R350). -/
def Core.credited (c : Core) (n : Nat) : Core :=
  { c with debt := c.debt - n, level := min bucketCap (c.level + (n - c.debt)) }

/-- The refill of a nanosecond boundary (R350): it counts before the charges of the first cycle at or after it, so one that
falls inside a cycle waits for the cycle's end. -/
def Core.refill (c : Core) (rate : Nat) : Core :=
  if c.nextSlot = 0 then c.credited rate else { c with credit := c.credit + rate }

/-- The next slot of the cycle, or the first of the next cycle, for which the boundaries passed meanwhile are credited. -/
def nextSlotOf (c : Core) : Core :=
  if c.nextSlot ≥ 3 then { c.credited c.credit with nextSlot := 0, cyc := c.cyc + 1, credit := 0 }
  else { c with nextSlot := c.nextSlot + 1 }

/-- ISSUE_CYCLE (R329, R348): the next slot of a core looks for an issue. -/
def execIssueCycle (core slot : Nat) (s : State) : Host.Outcome State Fault Refusal :=
  .next (
    let c := getCore s core
    if !live s || core ≥ Config.cores || slot ≠ c.nextSlot || c.stopped || c.retired then s
    else modCore (slotCycle s core slot) core nextSlotOf)

/-- Does a side of a copy request go to a peer: a handle, or a page that is looked up or mapped now as a peer's? -/
def peerSide (s : State) (root : Nat) (looked : Bool) (peer : Option Nat) (x : Side) : Bool :=
  if looked then peer.isSome else !(x.peers s root).isEmpty

/-- Has a request of a line still to be sent to a peer (R263)? -/
def unsentSeg (s : State) (l : Line) (q : Seg) : Bool :=
  let root := (teamSpace s l.team).1
  match q.st with
  | .sent _ _ | .done | .timedOut => false
  | st => peerSide s root (st == .granted) q.dpeer (dstSide l.i q.dst) ||
      (q.data.isEmpty && peerSide s root (st == .granted) q.speer (srcSide l.i q.src))

/-- Has a lane's request still to be sent to a peer? -/
def unsentReq (q : Req) : Bool := q.peer.isSome && q.st == .granted

/-- Lines, signals and lane accesses that have something to send which no plane has let out for RQTMO ns, while none is live
(R263). -/
def unsentDue (s : State) : List Nat :=
  if anyPlane s then []
  else
    let due (t : Nat) : Bool := decide (t + s.fab.rqtmo ≤ s.tb)
    ((s.lines.filter fun l => !l.dead && due l.at_ && l.segs.any (unsentSeg s l)).map Line.id) ++
      ((s.sigs.filter fun x => due x.at_ && x.tag.isNone).map Signal.id) ++
      ((s.ops.filter fun o => due o.at_ && o.stage == .active && o.reqs.any unsentReq).map Op.id)

/-- What falls due at a timebase nanosecond. -/
def dueEvents (s : State) : List Instr :=
  let cores := s.cores.zipIdx
  (if s.tb % 100 = 0 then [.governorStep] else []) ++
  (if s.tb % 10000 = 0 ∧ (s.pw.members ≠ [] ∨ s.pw.newMembers.isSome) then [.powerIntentSend] else []) ++
  (cores.filterMap fun x => if x.1.uvAt + 1000000 ≤ s.tb then some (.undervoltWindowEnd x.2) else none) ++
  (s.isles.zipIdx.filterMap fun x => if x.1.at_ + 1000000 ≤ s.tb then some (.undervoltWindowEnd (384 + x.2)) else none) ++
  (cores.filterMap fun x => match x.1.pacing with
    | some p => if p.1 ≤ s.tb then some (.pacingExpire x.2) else none
    | none => none) ++
  (s.ctxs.zipIdx.filterMap fun x => if x.1.ringpf && decide (x.1.ringAt + 10000 ≤ s.tb) then some (.ringPageRetry x.2) else none) ++
  (if (s.pw.leasesIn.any fun l => decide (l.2 ≤ s.tb + 20)) || (s.pw.leasesOut.any fun l => decide (l.2 + 20 ≤ s.tb)) then
    [.leaseExpire] else []) ++
  (s.fab.quar.filterMap fun q => if q.2.2 ≤ s.tb then some (.tagQuarantineExpire (q.1 * 4096 + q.2.1)) else none) ++
  (s.fab.out.filterMap fun r => if r.deadline ≤ s.tb then some (.requestTimeout (r.port * 4096 + r.tag)) else none) ++
  ((unsentDue s).map .unsentTimeout) ++
  (s.ops.filterMap fun o => match o.i with
    | .bwait _ => some (.bwaitLimitExpire o.id)
    | _ => none) ++
  ((s.teams.flatMap Team.heldReqs ++ s.fab.held ++ s.fab.parts).filterMap fun r =>
    if r.deadline ≤ s.tb then some (.portRequestDiscard r) else none)

/-- One nanosecond of timebase passes (R350), and what falls due comes next. -/
def tick (s : State) : State :=
  let s1 := { s with tb := s.tb + 1 }
  if live s then
    let s2 := { s1 with cores := s1.cores.mapIdx fun i c => c.refill (max c.rate (leastRate s1 i)) }
    sooner s2 (dueEvents s2)
  else s1

/-- TOKEN_REFILL (R22, R350): the timebase counts also under FREEZE (R427). -/
def execTokenRefill (s : State) : Host.Outcome State Fault Refusal := .next (tick s)

/-! ## The commit gate and parked issues -/

/-- A system bank whose group has left its handler, and that no replay brings back to it, goes to the next (R389, R417). -/
def settleBank (s : State) (core slot : Nat) : State :=
  match (getSlot s core slot).bank with
  | none => s
  | some gid =>
    if replayable s core gid || ((getGroup s gid).map Group.onBank).getD false then s
    else releaseBank (dropBankWrites s gid) core slot

/-- COMMIT_GATE_RELEASE (R418): what issued four cycles ago or earlier may leave the core, and can be replayed no more; the
operations that wait at the gate go on. -/
def execCommitGateRelease (core : Nat) (s : State) : Host.Outcome State Fault Refusal :=
  .next (
    let s1 := modCore s core fun c => { c with hist := c.hist.filter fun h => decide (c.cyc < h.cyc + 4) }
    let s2 := (List.range 4).foldl (fun s slot => settleBank s core slot) s1
    (s2.ops.filter fun o => o.core == core && gated o.i && !gateHolds s2 core o.cyc).foldl (fun s o =>
      match getOp s o.id with
      | some o => passGate s o
      | none => s) s2)

/-- A parked access issues at last: it is charged and counted now, unless it has been (R344, R449). -/
def chargeOp (s : State) (o : Op) : State :=
  match sliceOfTeam s o.team with
  | none => s
  | some x =>
    if o.price = 0 ∧ !o.counted then s
    else
      let cyc := (getCore s o.core).cyc
      modCore (modSlice s x.id fun x => x.account s.tb o.price o.core cyc false o.counted (sliceHalted s x.id)) o.core
        fun c => { c with level := c.level - o.price, charged := c.charged + o.price }

/-- A parked operation goes on, once it can take its tokens; without budget it is not made (R265, R333, R344, R449). -/
def opProceeds (s : State) (g : Group) (o : Op) : State :=
  let ready := peersFree s o.parkSeq (peersOfReqs o.reqs) && payable s o.core g o.price (getCore s o.core).tokQ
  if g.halted then s
  else if o.counted && (sliceOf s g).any (outOfBudget s g) then dropOp s o.id
  else if ready then
    let s1 := modOp (chargeOp s o) o.id fun o => { o with stage := .active, at_ := s.tb }
    if isEnq o.i then s1 else passOp s1 o
  else s

/-- A parked copy or signal issues once its slot is free and no YIELD holds it back; lacking tokens it waits for them in the
line (R265, R306, R348). -/
def parkedProceeds (s : State) (g : Group) (p : Chosen) : State :=
  let c := getCore s g.core
  if !live s || c.stopped || c.retired || (getSlot s g.core g.slot).freeAt > c.cyc || g.chosen.isSome ||
      !mayForm s { g with parked := none } || yieldHolds ((slotGroups s g.core g.slot).filterMap (offer s)) g then s
  else if (sliceOf s g).any (outOfBudget s g) then modGroup s g.id fun g => { g with parked := none }
  else match offerAt s g p.mask p.pc with
    | none => s
    | some o =>
      let s1 := modGroup s g.id fun g => { g with parked := none }
      if canTake s g.core o c.tokQ then issueOrTrap s1 g.core g.slot { o with g := { o.g with parked := none } }
      else waitTokens s1 g.core g.id p.mask p.pc o.price

/-- PARKED_ISSUE_PROCEED (R265). -/
def execParkedIssueProceed (grp : Nat) (s : State) : Host.Outcome State Fault Refusal :=
  .next (match getGroup s grp with
    | none => s
    | some g =>
      match g.parked with
      | some p => parkedProceeds s g p
      | none =>
        match s.ops.find? fun o => o.grp == grp && o.stage == .parked with
        | some o => opProceeds s g o
        | none => s)

end Sys2Proof.Machine
end

