-- ==== Sys2Proof/Machine/FabricEvents.lean ====
section
/-! DEFINITION. Events of the fabric (spec/10 R258 to R274, R454; spec/14 R385; spec/15 R421 to R423; spec/09 R246): requests
of peers, replies, timeouts, markers, plane changes and links. -/

namespace Sys2Proof.Machine

/-! ## Requests of peers (R258 to R260, R269, R385) -/

/-- Is the context of a team live, by the descriptor that its placement or restore read (R373)? -/
def ctxLive (s : State) (team : Nat) : Bool := ((getTeam s team).map fun t => t.desc.live).getD false

/-- The live export that a slot, a CORE value and an FKEY name (R258, R259, R373, R385). -/
def findExport (s : State) (fkey : BitVec 16) (slot core : Nat) : Option Export :=
  s.fab.exports.find? fun e =>
    e.live && e.slot == slot && e.core == core && fkey != 0 && fkeyOf s e.team == fkey && ctxLive s e.team

/-- Does an aperture entry admit an access of a kind to a frame (R385)? -/
def apertureAdmits (s : State) (fkey : BitVec 16) (pa n : Nat) (k : PeerKind) : Bool :=
  let permit (e : Aperture) : Bool := match k with
    | .memRead => e.r
    | .memWrite => e.w
    | .memAtomic _ | .memReduce _ => e.a
    | _ => false
  fkey != 0 && paOk pa && paOk (pa + n - 1) && [pa, pa + n - 1].all fun a =>
    s.fab.apertures.any fun e => e.fkey == fkey && permit e && decide (e.base ≤ a / 65536 ∧ a / 65536 < e.base + e.count)

/-- Do bytes lie in a window of a team? -/
def inWindow (tm : Team) (w : Win) (off n : Nat) : Bool := decide (off + n ≤ winBytes tm w)

/-- The bytes of a request, as many as its size says. -/
def reqBytes (r : PeerReq) : List Byte := (List.range r.size).map fun i => nth 0 r.data i

/-- Count bytes of a peer's copy at a GEN offset of a core, when a barrier can stand there (R279). The manual says nothing of an
offset beyond GEN: the model counts nothing there (log 82). -/
def countAt (s : State) (tm : Team) (core off n : Nat) : State :=
  if off % 16 = 0 ∧ inWindow tm .gen off 16 then applyBar s tm.id core off 0 0 n else s

/-- FAULT is set at a GEN offset of a core, when a barrier can stand there: a peer's copy has met a fatal fault, and `low` is
its lowest place that does not land (R256). -/
def faultAt (s : State) (tm : Team) (core off : Nat) (r : PeerReq) (low : Nat) : State :=
  if off % 16 = 0 ∧ inWindow tm .gen off 16 then setFault s tm.id core off (peerCopy r.src r.copy) low else s

/-- The window and the counting barrier of a copy's request to scratch. -/
def copyPlace : PeerKind → Option (Win × Nat)
  | .scratchWrite w bar | .scratchReduce w _ bar => some (w, bar)
  | _ => none

/-- One request of a landing sector writes, or reduces. -/
def landPart (tm : Team) (core : Nat) (s : State) (r : PeerReq) : State :=
  match r.kind with
  | .scratchWrite w _ => putScratch s tm.id core w r.addr r.size false r.pois fun _ => reqBytes r
  | .scratchReduce w op _ =>
      putScratch s tm.id core w r.addr r.size true r.pois fun old => reduceBytes (reduceCode op) old (reqBytes r)
  | _ => s

/-- The requests of a sector of a peer's copy line, in lane order, land together and are counted (R252). One with a window
offset outside its window is a fatal fault of the line: nothing lands, and FAULT is set on the counting barrier with the
sector's lowest offset; the answer says so (R256, R257). -/
def landParts (s : State) (tm : Team) (core : Nat) (rs : List PeerReq) : State :=
  match rs with
  | [] => s
  | r :: _ =>
    match copyPlace r.kind with
    | none => s
    | some (w, bar) =>
      if rs.all fun x => inWindow tm w x.addr x.size then
        countAt (rs.foldl (landPart tm core) s) tm core bar ((rs.map PeerReq.size).sum)
      else faultAt s tm core bar r ((rs.map PeerReq.addr).foldl min r.addr)

/-- Do two requests belong to one sector of one line of a peer's copy (R250, R252)? -/
def sameSector (r x : PeerReq) : Bool := x.src == r.src && x.copy == r.copy && x.line == r.line && x.sec == r.sec

/-- A request takes its place in ascending lane order. -/
def inLaneOrder (r : PeerReq) : List PeerReq → List PeerReq
  | [] => [r]
  | x :: xs => if r.lane < x.lane then r :: x :: xs else x :: inLaneOrder r xs

/-- A request of a peer's copy waits until every request of its sector is here, and then they land (R252, log 89). -/
def receivePart (s : State) (tm : Team) (core : Nat) (r : PeerReq) : State :=
  let mates := s.fab.parts.filter fun x => sameSector r x && x != r
  if mates.length + 1 < r.parts then modFab s fun f => { f with parts := f.parts.filter (· != r) ++ [r] }
  else landParts (modFab s fun f => { f with parts := f.parts.filter fun x => !sameSector r x }) tm core
    ((r :: mates).foldr inLaneOrder [])

/-- Perform an admitted request on a team's scratch: a read meets its granules, a copy's fault at its sender sets FAULT, the rest
lands (R252, R256). -/
def performScratch (s : State) (tm : Team) (core : Nat) (r : PeerReq) : State :=
  match r.kind with
  | .scratchWrite _ _ | .scratchReduce _ _ _ => receivePart s tm core r
  | .scratchRead w => if inWindow tm w r.addr r.size then meetScratch s tm.id core w r.addr r.size else s
  | .scratchFault bar => faultAt s tm core bar r r.addr
  | _ => s

/-- The keys of the bytes of memory that a request reaches. -/
def reqKeys (r : PeerReq) : List Nat := (List.range r.size).map (r.addr + ·)

/-- Perform an admitted request on memory; poison travels with the data (R254, R406). -/
def performMemory (s : State) (r : PeerReq) : State :=
  let keys := reqKeys r
  let put (s : State) (bs : List Byte) : State :=
    let s1 := writeSector s none none r.addr r.addr (keys.zip bs)
    if r.pois then poisonKeys s1 keys else s1
  let update (f : List Byte → List Byte) : State :=
    let s1 := meetKeys s keys
    if sectorPoisoned s1 none r.addr r.addr then s1 else put s1 (f (memGets s1.mem keys))
  match r.kind with
  | .memWrite => put s (reqBytes r)
  | .memRead => meetKeys s keys
  | .memAtomic op => update fun old => atomBytes op old (reqBytes r) (r.data.drop r.size)
  | .memReduce op => update fun old => reduceBytes (reduceCode op) old (reqBytes r)
  | _ => s

/-- Must a request to memory wait: a copy engine owns a line that it reaches (R244), or an earlier request of its device to the
same line waits (R245)? -/
def memoryHeld (s : State) (r : PeerReq) : Bool :=
  linesHold s (reqKeys r) ||
    (s.fab.held.takeWhile (· != r)).any fun x => x.src == r.src && x.addr / 192 == r.addr / 192

/-- Does a request go to scratch? -/
def onScratch : PeerKind → Bool
  | .scratchWrite _ _ | .scratchRead _ | .scratchReduce _ _ _ | .scratchFault _ => true
  | _ => false

/-- Has a request bytes to reach? A fault's word has none. -/
def hasBytes (r : PeerReq) : Bool :=
  match r.kind with
  | .scratchFault _ => true
  | _ => r.size != 0

/-- Admit and perform a request to an export; one to a Saved team is held (R385). -/
def receiveScratch (s : State) (r : PeerReq) : State :=
  match findExport s r.fkey r.exp r.core with
  | none => countRefuse s
  | some e =>
    match getTeam s e.team with
    | none => countRefuse s
    | some tm =>
      if tm.st = .saved then modTeam s tm.id fun t => { t with heldReqs := t.heldReqs ++ [r] }
      else performScratch s tm e.core r

/-- A held request of a Saved team is gone; the signals held after it move up. -/
def Team.unhold (t : Team) (r : PeerReq) : Team :=
  let k := t.heldReqs.idxOf r
  { t with heldReqs := t.heldReqs.filter (· != r)
           heldSigs := t.heldSigs.map fun x => (if k < t.heldReqs.length ∧ k < x.1 then x.1 - 1 else x.1, x.2) }

/-- PORT_REQUEST_DISCARD (R269, R385): a request that waits or is held and is still unstarted at its deadline is gone, unanswered. -/
def execPortRequestDiscard (r : PeerReq) (s : State) : Host.Outcome State Fault Refusal :=
  .next (
    if live s && decide (r.deadline ≤ s.tb) then
      modFab { s with teams := s.teams.map fun t => t.unhold r } fun f =>
        { f with held := f.held.filter (· != r)
                 parts := f.parts.filter (· != r) }
    else s)

/-! ## Signals of peers (R246, R281, R361) -/

/-- Remember a counted signal's stamp for the pacing hints of its phase (R361). -/
def noteSignal (sigs : List (Nat × Nat × Nat × Nat × Nat)) (core off dev stamp : Nat) : List (Nat × Nat × Nat × Nat × Nat) :=
  match sigs.find? fun x => x.1 == core && x.2.1 == off && x.2.2.1 == dev with
  | some x => (core, off, dev, x.2.2.2.1, stamp) :: sigs.filter (· != x)
  | none => (core, off, dev, stamp, stamp) :: sigs

/-- The markers of the signal that a marker belongs to. -/
def markersOf (s : State) (m : Marker) : List Marker :=
  s.fab.markers.filter fun x => x.src == m.src && x.sig == m.sig && x.fkey == m.fkey

/-- Has one marker come down every plane of the sender's table? -/
def gathered (s : State) (m : Marker) : Bool :=
  m.planes.all fun p => (markersOf s m).any fun x => x.plane == p

/-- Forget a signal's markers. -/
def dropMarkers (s : State) (m : Marker) : State :=
  modFab s fun f => { f with markers := f.markers.filter fun x => !(x.src == m.src && x.sig == m.sig && x.fkey == m.fkey) }

/-- Perform a signal on a team's barrier (R281). The manual says nothing of an offset beyond GEN: the model drops the signal
(log 82). -/
def performSignal (s : State) (tm : Team) (core : Nat) (m : Marker) : State :=
  if m.off % 16 = 0 ∧ inWindow tm .gen m.off 16 then
    applyBar (modTeam s tm.id fun t => { t with signals := noteSignal t.signals core m.off m.src m.stamp })
      tm.id core m.off m.arrivals m.bytes 0
  else s

/-- A gathered signal past its deadline is discarded unanswered (R269). It waits for its sender's earlier writes that wait at the
port for a line (R244, R246); then it is admitted, held for a Saved team, or refused (R260, R385). -/
def settleSignal (s : State) (m : Marker) : State :=
  if m.deadline ≤ s.tb then dropMarkers s m
  else if s.fab.held.any fun r => r.src == m.src then s
  else match findExport s m.fkey m.exp m.core with
  | none => countRefuse (dropMarkers s m)
  | some e =>
    match getTeam s e.team with
    | none => countRefuse (dropMarkers s m)
    | some tm =>
      if tm.st = .saved then
        modTeam (dropMarkers s m) tm.id fun t => { t with heldSigs := t.heldSigs ++ [(t.heldReqs.length, m)] }
      else performSignal (dropMarkers s m) tm e.core m

/-- FLUSH_MARKER_RECEIVE (R246). -/
def execFlushMarkerReceive (m : Marker) (s : State) : Host.Outcome State Fault Refusal :=
  .next (
    if !live s then s
    else
      let s1 := modFab s fun f => { f with markers := f.markers.filter (· != m) ++ [m] }
      if gathered s1 m then settleSignal s1 m else s1)

/-- The gathered signals that have waited for a write are settled now, where none of their senders waits any more (R246). -/
def performMarkers (s : State) : State :=
  s.fab.markers.foldl (fun s m => if s.fab.markers.contains m && gathered s m then settleSignal s m else s) s

/-- An admitted request to memory performs, or waits at its port; one that has waited lets signals go on (R244 to R246). -/
def receiveMemory (s : State) (r : PeerReq) : State :=
  if memoryHeld s r then
    if s.fab.held.contains r then s else modFab s fun f => { f with held := f.held ++ [r] }
  else if s.fab.held.contains r then
    performMarkers (performMemory (modFab s fun f => { f with held := f.held.filter (· != r) }) r)
  else performMemory s r

/-- PEER_REQUEST_RECEIVE (R269): a request is admitted and performed if it can start before its deadline. The answer goes
out. -/
def execPeerRequestReceive (r : PeerReq) (s : State) : Host.Outcome State Fault Refusal :=
  .next (
    if !live s || r.deadline ≤ s.tb || !hasBytes r then s
    else if onScratch r.kind then receiveScratch s r
    else if apertureAdmits s r.fkey r.addr r.size r.kind then receiveMemory s r
    else countRefuse s)

/-- A held request of a team that is back performs, unless its deadline has passed (R385). -/
def releaseReq (team : Nat) (s : State) (r : PeerReq) : State :=
  match findExport s r.fkey r.exp r.core, getTeam s team with
  | some e, some tm => if e.team = team ∧ s.tb < r.deadline then performScratch s tm e.core r else s
  | _, _ => s

/-- The signals held behind `k` requests perform (R385). -/
def releaseSigs (sigs : List (Nat × Marker)) (s : State) (k : Nat) : State :=
  (sigs.filter fun x => x.1 == k).foldl (fun s x => settleSignal s x.2) s

/-- What was held for a team that is back performs, requests and signals in the order of their arrival (R385). -/
def performHeld (s : State) (team : Nat) : State :=
  match getTeam s team with
  | none => s
  | some tm =>
    let s1 := tm.heldReqs.zipIdx.foldl (fun s x => releaseReq team (releaseSigs tm.heldSigs s x.2) x.1)
      (modTeam s team fun t => { t with heldReqs := [], heldSigs := [] })
    releaseSigs tm.heldSigs s1 tm.heldReqs.length

/-- TIMEOUT_NOTICE_RECEIVE (R270): TIMEOUT is set on the counting barrier that a handle's EXP and CORE and a GEN offset
name. -/
def execTimeoutNoticeReceive (fkey : BitVec 16) (handle off : Nat) (s : State) : Host.Outcome State Fault Refusal :=
  .next (
    match if live s then findExport s fkey (handle / 4) (handle % 4) else none with
    | none => s
    | some e =>
      match getTeam s e.team with
      | none => s
      | some tm =>
        if off % 16 = 0 ∧ inWindow tm .gen off 16 then
          notifyWaits (modBar s tm.id e.core off fun b => { b with timeout := true }) tm.id e.core off
        else s)

/-! ## Replies (R264, R268) -/

/-- `n` bytes of a reply. -/
def replyBytes (r : Reply) (n : Nat) : List Byte := (List.range n).map fun i => nth 0 r.data i

/-- The report of a refused peer handle (R260, R383). -/
def reportGone (s : State) (team port : Nat) (handle : Dword) : State :=
  postReport s 0x0D 6 (ctxByte (ctxOfTeam s team)) 0 (teamSpace s team).2 (port / 8 + 4 * 31 + 512 * port) handle

/-- A reply to a request of a copy line: refused, with an offset outside its window, or with the data (R254, R257, R260). A line
that has met a fatal fault only loses the request (R256). -/
def replyLine (s : State) (r : Reply) (refused : Bool) (id n : Nat) : State :=
  match getLine s id with
  | none => s
  | some l =>
    match l.segs[n]? with
    | none => s
    | some q =>
      let fetch := q.speer.isSome && q.data.isEmpty
      let side := if fetch then srcSide l.i q.src else dstSide l.i q.dst
      let va := if fetch then q.src else q.dst
      let set (s : State) (f : Seg → Seg) : State := modLine s id fun l => { l with segs := modNth l.segs n f }
      let gone := l.dead || l.cause.isSome
      let ended (s : State) : State := if l.dead then settleDead s id n else set s fun q => { q with st := .done }
      let fatal (s : State) (c : Nat) : State :=
        if gone then ended s else lineFatal (set s fun q => { q with st := .done }) id c va (!fetch) false
      if refused then
        match side with
        | .peer _ =>
            let s1 := reportGone (countRefuse s) l.team r.port va
            let s2 := if fetch then markBar s1 l fun b => { b with gone := true } else s1
            if gone then ended s2 else closeSector (set s2 fun q => { q with st := .timedOut }) id q.sec
        | _ => fatal (countRefuse s) 0x08
      else if r.window then fatal s 0x12
      else if gone then ended s
      else if fetch then set s fun q => { q with data := replyBytes r q.size, pois := q.pois || r.pois, st := .granted }
      else closeSector (set s fun q => { q with st := .done }) id q.sec

/-- A reply to a lane access: a refused one was admitted at its grant and stays unanswered (R385). Poison comes with the
data, of an access that takes data (R254, R227). -/
def replyOp (s : State) (r : Reply) (id lane : Nat) : State :=
  match getOp s id with
  | none => s
  | some o => settleOp (modReq s id lane fun q =>
      { q with st := .done, got := replyBytes r (bytesOf o.i), bad := if r.pois ∧ isRead o.i then some q.va.toNat else q.bad }) id

/-- A reply to a signal. -/
def replySignal (s : State) (r : Reply) (refused : Bool) (id : Nat) : State :=
  let s1 := { s with sigs := s.sigs.filter fun x => x.id != id }
  match s.sigs.find? fun x => x.id == id with
  | some x => if refused then reportGone (countRefuse s1) x.team r.port x.handle else s1
  | none => s1

/-- The first stream of a group, if it is one that waits for an element of its own. -/
def sentStream (s : State) (gid stream : Nat) : Option (Group × GStream) :=
  match getGroup s gid with
  | none => none
  | some g => match g.gs with
    | [] => none
    | x :: _ => if x.id = stream ∧ x.sent then some (g, x) else none

/-- A reply to an element of a gather stream: its value, or a fault mark (R190, R200, R254). -/
def replyGather (s : State) (r : Reply) (gid stream : Nat) : State :=
  match sentStream s gid stream with
  | none => s
  | some (g, x) =>
    gatherGive s gid
      (if r.pois then GElem.fault 0x0B (gatherAddr s g x)
       else { val := gatherVal x.size (replyBytes r x.size), mark := none })

/-- Deliver a reply to what waits for it. -/
def deliver (s : State) (r : Reply) (refused : Bool) : Ref → State
  | .line id n => replyLine s r refused id n
  | .op id lane => replyOp s r id lane
  | .sig id => replySignal s r refused id
  | .gath gid stream => replyGather s r gid stream

/-- Is it an access whose page its peer has admitted at the grant, and which is not refused later (R385)? -/
def admitted : Ref → Bool
  | .op _ _ | .gath _ _ => true
  | _ => false

/-- FABRIC_REPLY_RECEIVE (R264, R268): a stale reply is dropped and counted; another frees its tag and goes to what waits
for it. A peer refuses a request whose FKEY is 0 (R372, R385). -/
def execFabricReplyReceive (r : Reply) (s : State) : Host.Outcome State Fault Refusal :=
  .next (
    if !live s then s
    else match s.fab.out.find? fun x => x.port == r.port && x.tag == r.tag && x.gen == r.gen with
    | none => modFab s fun f => { f with stale := satInc f.stale 16 }
    | some x =>
      let refused := r.refused || x.fkey == 0
      if refused && admitted x.ref then s
      else
        let s1 := releaseTag s x.port x.tag false
        let s2 := setPeer s1 ((getPeer s1 x.dev).reply s.tb (s.tb - x.sentAt))
        deliver s2 r refused x.ref)

/-! ## Timeouts (R263, R268, R270, R454) -/

/-- Count a timeout. -/
def countTmo (s : State) (sig : Bool) : State :=
  modFab s fun f => { f with tmo := satInc f.tmo 16, sigtmo := if sig then satInc f.sigtmo 8 else f.sigtmo }

/-- A request of a line, an access or a signal has timed out (R270, R454). The value of a gather element is then free: the manual
states none (log 63). -/
def timeOutRef (s : State) : Ref → State
  | .line id n =>
    match getLine s id with
    | none => s
    | some l =>
      let s1 := timeoutBar (countTmo s false) l
      match l.segs[n]? with
      | some q =>
        let s2 := modLine s1 id fun l => { l with segs := modNth l.segs n fun q => { q with st := .timedOut } }
        if l.dead then settleDead s2 id n else if l.cause.isSome then s2 else closeSector s2 id q.sec
      | none => s1
  | .op id lane =>
    match getOp s id with
    | some o =>
      let s1 := countTmo s false
      if isEnq o.i then settleOp (modReq s1 id lane fun q => { q with st := .timedOut }) id else timeOutLane s1 id lane
    | none => s
  | .sig id =>
    match s.sigs.find? fun x => x.id == id with
    | some x => sendNotice { countTmo s true with sigs := s.sigs.filter fun x => x.id != id }
        (noticeTo x.handle (x.handle.toNat % 2 ^ 24) none)
    | none => s
  | .gath gid stream =>
    match sentStream s gid stream with
    | none => s
    | some (_, x) =>
      gatherGive (bump (countTmo s false)) gid
        { val := gatherVal x.size (toBytes (Config.freeNat s.fresh) 8), mark := none }

/-- REQUEST_TIMEOUT (R270): the tag is port × 4,096 + tag. -/
def execRequestTimeout (tag : Nat) (s : State) : Host.Outcome State Fault Refusal :=
  .next (match if live s then s.fab.out.find? fun x => x.port * 4096 + x.tag == tag && decide (x.deadline ≤ s.tb) else none with
    | none => s
    | some x => timeOutRef (releaseTag s x.port x.tag true) x.ref)

/-- UNSENT_TIMEOUT (R263): what no plane has let out of a line operation, a signal or an access for RQTMO ns, with none live
now, times out unsent. A line none of whose requests has ended is gone whole. -/
def execUnsentTimeout (req : Nat) (s : State) : Host.Outcome State Fault Refusal :=
  .next (
    if !live s || !(unsentDue s).contains req then s
    else match getLine s req with
    | some l =>
      let s1 := timeoutBar (countTmo s false) l
      let segs := l.segs.map fun q => if unsentSeg s l q then { q with st := .timedOut } else q
      if segs.all fun q => q.st == .timedOut then dropLine s1 req
      else modLine s1 req fun l => { l with segs := segs }
    | none =>
      if s.sigs.any fun x => x.id == req then timeOutRef s (.sig req)
      else match getOp s req with
        | some o => ((o.reqs.filter unsentReq).map Req.lane).foldl (fun s l => timeOutRef s (.op req l)) s
        | none => s)

/-- TAG_QUARANTINE_EXPIRE (R268). -/
def execTagQuarantineExpire (tag : Nat) (s : State) : Host.Outcome State Fault Refusal :=
  .next (if live s then modFab s fun f =>
      { f with quar := f.quar.filter fun q => !(q.1 * 4096 + q.2.1 == tag && decide (q.2.2 ≤ s.tb)) }
    else s)

/-! ## Planes (R261, R263) -/

/-- The lowest-numbered live plane above `q`, counting mod 8 (R263). -/
def nextPlane (s : State) (q : Nat) : Option Nat := ((List.range 7).map fun i => (q + 1 + i) % 8).find? (planeLive s)

/-- PLANE_ENTRY_SWITCH (R263): a changed entry takes effect once its old plane has no request in flight. -/
def execPlaneEntrySwitch (entry : Nat) (s : State) : Host.Outcome State Fault Refusal :=
  .next (match if live s then s.fab.pending.find? fun x => x.1 == entry else none with
    | none => s
    | some x =>
      if s.fab.out.any fun r => r.plane == x.2.2 then s
      else modFab s fun f =>
        { f with plane := setNth f.plane entry x.2.1, pending := f.pending.filter fun y => y.1 != entry })

/-- The plane that an entry names, a change in progress included. -/
def entryPlane (s : State) (e : Nat) : Nat :=
  match s.fab.pending.find? fun x => x.1 == e with
  | some x => x.2.1
  | none => planeOf s e

/-- Hardware rewrites every entry that names a dead plane, while a plane is live (R263). -/
def rewriteEntries (s : State) (q : Nat) : State :=
  match nextPlane s q with
  | none => s
  | some n => (List.range 8).foldl (fun s e => if entryPlane s e = q then changePlane s e n else s) s

/-! ## Links (R273, R421 to R423) -/

/-- A port. -/
def getPort (s : State) (p : Nat) : Port := nth Port.reset s.fab.ports p

/-- Change a port. -/
def modPort (s : State) (p : Nat) (f : Port → Port) : State :=
  modFab s fun fb => { fb with ports := modNth fb.ports p f }

/-- A training attempt starts and is counted (R421); a fallback is on the lanes of `lanes` (R423). -/
def startTraining (s : State) (p attempt : Nat) (lanes : BitVec 4) : State :=
  modPort (modFab s fun f => { f with retr := satInc f.retr 8 }) p fun x =>
    { x with training := true, attempt := attempt, fall := lanes, resends := 0 }

/-- LINK_FLIT_RESEND (R421): the 32nd resend of one flit in a row starts a retraining. Whether it is the flit of the resend
before is free (log 3). -/
def execLinkFlitResend (port : Nat) (s : State) : Host.Outcome State Fault Refusal :=
  .next (
    let p := getPort s port
    if !live s || port ≥ 32 || p.down || p.training then s
    else
      let n := if Config.freeBool s.fresh then p.resends + 1 else 1
      if n ≥ 32 then startTraining (bump s) port 0 0 else modPort (bump s) port fun x => { x with resends := n })

/-- LINK_RETRAIN (R421): a lane has lost lock, or the management controller asks. -/
def execLinkRetrain (port : Nat) (s : State) : Host.Outcome State Fault Refusal :=
  .next (if !live s || port ≥ 32 || (getPort s port).training then s else startTraining s port 0 0)

/-- A state beat as 16 bits (R422). -/
def beat (r : TrainResult) : Nat := r.att % 16 * 2 ^ 12 + r.map.toNat * 2 ^ 8 + r.speed % 16 * 16 + r.width % 16

/-- Ports of a plane that are down, as a mask over the 32 ports. -/
def downMask (s : State) (q : Nat) : Nat :=
  ((List.range 4).map fun i => if (getPort s (4 * q + i)).down then 2 ^ (4 * q + i) else 0).sum

/-- A port is declared down (R423): its records, and its plane's death. -/
def portDown (s : State) (p : Nat) (mine theirs : TrainResult) : State :=
  let q := p / 4
  let s1 := machineCheck (modPort s p fun x => { x with down := true, training := false })
    0x06 0x80 (islandOfPort p) p (beat mine + 2 ^ 16 * beat theirs)
  if planeLive s q then
    let bit : BitVec 8 := BitVec.ofNat 8 (2 ^ q)
    let s2 := { s1 with fab := { s1.fab with dead := s1.fab.dead ||| bit }
                        health := { s1.health with pldead := s1.health.pldead ||| bit } }
    checkReplace (rewriteEntries (machineCheck s2 0x07 0x80 (islandOfPort p) q (downMask s2 q)) q)
  else s1

/-- A link comes up; a plane all of whose ports are up carries traffic again (R423, R425). -/
def linkUp (s : State) (p : Nat) (r : TrainResult) : State :=
  let q := p / 4
  let s1 := modPort s p fun x =>
    { x with down := false, training := false, width := r.width, trained := r.width, speed := r.speed, map := r.map
             lightSince := s.tb }
  if downMask s1 q = 0 then modFab s1 fun f => { f with dead := f.dead &&& ~~~BitVec.ofNat 8 (2 ^ q) } else s1

/-- What a fallback attempt is made at: WIDTH 1, SPEED 2 and the lanes that both sides had (R423). -/
def fellBack (p : Port) (r : TrainResult) : Bool := r.width == 1 && r.speed == 2 && r.map == p.fall

/-- LINK_TRAINING_BEAT (R422, R423): our outcome, of the attempt in progress, is compared with the other side's. -/
def execLinkTrainingBeat (port : Nat) (mine theirs : TrainResult) (s : State) : Host.Outcome State Fault Refusal :=
  .next (
    let p := getPort s port
    let own := { mine with att := p.attempt }
    if !live s || port ≥ 32 || !p.training then s
    else if own.map &&& theirs.map = 0 then portDown s port own theirs
    else if own.width = theirs.width ∧ own.speed = theirs.speed ∧ own.map = theirs.map ∧
        (p.attempt = 0 ∨ fellBack p own) then linkUp s port own
    else if p.attempt = 0 then startTraining s port 1 (own.map &&& theirs.map)
    else portDown s port own theirs)

/-- LANE_SHED (R273): after an interval of light traffic a port wider than ×1 halves its width. -/
def execLaneShed (port : Nat) (s : State) : Host.Outcome State Fault Refusal :=
  .next (
    let p := getPort s port
    if !live s || port ≥ 32 || p.down || p.training || p.width ≤ 1 || s.tb < p.lightSince + s.fab.shedt then s
    else modPort s port fun x => { x with width := x.width / 2, lightSince := s.tb })

/-- LANE_REGAIN (R273, R423): a port under load returns to its trained width. -/
def execLaneRegain (port : Nat) (s : State) : Host.Outcome State Fault Refusal :=
  .next (
    let p := getPort s port
    if !live s || port ≥ 32 || p.down || p.training then s
    else modPort s port fun x => { x with width := x.trained, lightSince := s.tb })

end Sys2Proof.Machine
end

