-- ==== Sys2Proof/Machine/Governor.lean ====
section
/-! DEFINITION. The governor, the power group, alarms and undervolting (spec/13 R352 to R369; spec/14 R386; spec/22 R451). -/

namespace Sys2Proof.Machine

/-- Change the power state. -/
def modPw (s : State) (f : Power → Power) : State := { s with pw := f s.pw }

/-! ## Ceiling and demand (R352, R360) -/

/-- EALLOC at a time, as the leases held now make it: the site allocation adjusted by leases, and in no power group the
site allocation itself (R12, R360). -/
def eallocAt (s : State) (t : Nat) : Nat :=
  if s.pw.members.isEmpty then s.pw.siteal
  else s.pw.siteal + ((s.pw.leasesIn.filter fun l => decide (t + 20 < l.2)).map Prod.fst).sum -
    ((s.pw.leasesOut.filter fun l => decide (t < l.2 + 20)).map Prod.fst).sum

/-- EALLOC now. -/
def ealloc (s : State) : Nat := eallocAt s s.tb

/-- The ceiling C (R352). -/
def ceiling (s : State) : Nat := min (ealloc s) s.pw.thcap

/-- The rate from which the steps left before a lease's end can still bring PR down to what EALLOC is then (R360). -/
def leasePlan (s : State) (expiry : Nat) : Nat :=
  let last := expiry - 20
  min (eallocAt s last) s.pw.thcap + s.pw.slew * 100 * (last / 100 - s.tb / 100)

/-- The most that the planned ramps down allow PR to be (R360). -/
def plannedCap (s : State) : Nat := (s.pw.leasesIn.map fun l => leasePlan s l.2).foldl min (ceiling s)

/-- Core demand over the last step, in tokens/ns (R352). -/
def coreDemand (s : State) : Nat :=
  (s.cores.map fun c => c.charged + (c.tokQ.map (waitingPrice s)).sum + c.debt).sum / 100

/-- May an upward ramp start now (R359)? The rule binds the members of a power group. -/
def mayRamp (s : State) : Bool :=
  s.pw.members.isEmpty || s.pw.ramping || decide (s.tb < s.pw.heldSince + 100000) || s.tb / 1000 % 100 == devN * 61 % 100

/-- The slew-bounded move of the package rate towards what is wanted, at most `plan`, and the step down that a falling
ceiling forces (R352, R356, R360). -/
def movePr (pr want plan ceil slew : Nat) (up : Bool) : Nat :=
  let step := slew * 100
  let target := min want plan
  let moved := if target > pr then (if up then min target (pr + step) else pr) else max target (pr - step)
  min moved ceil

/-! ## The division of the rate (R350, R386) -/

/-- The cores on which a context has groups. -/
def contextCores (s : State) (ctx : Nat) : Nat :=
  ((s.groups.filter fun g => g.resident && ctxOfTeam s g.team == ctx).map Group.core).eraseDups.length

/-- The most that the ceilings of a core's contexts leave it; none without a ceiling (R386). -/
def mostRate (s : State) (core : Nat) : Option Nat :=
  let cs := (coreContexts s core).map fun x => (x, (ctxDesc s x).ceil)
  if cs.isEmpty || cs.any fun x => x.2 == 0 then none
  else some ((cs.map fun x => x.2 / max 1 (contextCores s x.1)).sum)

/-- Hand out what a division has left over, in core order, to the cores that may take more. -/
def topUp (s : State) : Nat → Nat → List Nat → List Nat
  | _, _, [] => []
  | left, core, r :: rest =>
    let more := match mostRate s core with
      | some m => min left (m - r)
      | none => left
    (r + more) :: topUp s (left - more) (core + 1) rest

/-- Each core's least rate and a free part of what the least rates leave (log 3), within its ceiling. -/
def shareRate (s : State) : Nat → List Nat → Nat → List Nat
  | _, [], _ => []
  | spare, core :: rest, k =>
    let low := leastRate s core
    let extra := Config.freeNat k % (spare + 1)
    let rate := match mostRate s core with
      | some m => max low (min m (low + extra))
      | none => low + extra
    rate :: shareRate s (spare - (rate - low)) rest (k + 1)

/-- The core rates: the whole of `total` is handed out, but for what floors ask beyond it and ceilings refuse (R350, R352,
R386). -/
def divideRate (s : State) (total : Nat) (cores : List Nat) (k : Nat) : List Nat :=
  let rates := shareRate s (total - (cores.map (leastRate s)).sum) cores k
  topUp s (total - rates.sum) 0 rates

/-! ## Cadence (R363) -/

/-- The cadence for a price per row, a clock in MHz and a refill rate. -/
def cadenceOf (price mhz rate : Nat) : Nat :=
  if rate = 0 then (if price = 0 then 1 else 16) else min 16 (max 1 (ceilDiv (price * mhz) (1000 * rate)))

/-- The island clock in MHz: free within its range (R362), and under a pacing hint at most what R361 leaves of it. -/
def Core.clock (c : Core) (k : Nat) : Nat :=
  let f := 800 + Config.freeNat k % 1451
  match c.pacing with
  | none => f
  | some p => max 800 (f * (200000 - min 50000 p.2) / 200000)

/-- Every idle array has the cadence of its MXCAD, and is as narrow as the alarms make it (R145, R146, R446). -/
def settleArrays (s : State) : State :=
  { s with cores := s.cores.mapIdx fun i c =>
      if rowMoves s i then c else { c with cade := c.cad, narrow := c.droop || s.pw.storageAlarm } }

/-- The governor writes MXCAD of a core whose engine ran MXROW (R363). -/
def Core.cadence (c : Core) (k : Nat) : Core :=
  if c.rowRan then { c with cad := cadenceOf c.rowPrice (c.clock k) c.rate, rowRan := false } else c

/-! ## Ballast (R354, R355, R451) -/

/-- The physical address of a record of the ballast list. -/
def ballastAt (s : State) (n : Nat) : Nat := s.host.ballstEff.toNat % 2 ^ 52 / 4096 * 4096 + 64 * n

/-- A record of the ballast list. -/
def ballastRecord (s : State) (n : Nat) : Packet := parsePacket (memRead s.mem (ballastAt s n) 64)

/-- May a record be launched (R451)? One that is poisoned is skipped (log 72). -/
def ballastFits (s : State) (n : Nat) : Bool :=
  let p := ballastRecord s n
  p.valid && p.priv && !p.after && !deadBytes s (ballastAt s n) 64 && !s.slices.any fun x => x.ballast == some n

/-- The records in the order of the governor's look: list order, after the last one launched, wrapping at N (R451). -/
def ballastOrder (s : State) : List Nat :=
  let n := s.host.ballstEff.toNat % 64
  let first := if s.pw.launched && decide (s.pw.ballast + 1 < n) then s.pw.ballast + 1 else 0
  (List.range n).map fun i => (first + i) % n

/-- The next record that may be launched. -/
def nextBallast (s : State) : Option Nat := (ballastOrder s).find? (ballastFits s)

/-- The governor reads the records that it looks at: their cells are met (R404, R406). -/
def meetBallast (s : State) : State :=
  let skipped := (ballastOrder s).takeWhile fun n => !ballastFits s n
  (skipped ++ (nextBallast s).toList).foldl (fun s n => meetAt s (ballastAt s n) 64) s

/-- The dies on which a ballast slice of a kind may be placed (R355): scrub anywhere, prefetch where a slice is Ready or
Waiting. Which kind of work a record holds is free (log 3). -/
def ballastDies (s : State) (prefetch : Bool) : List Nat :=
  (List.range Config.dies).filter fun d =>
    !prefetch || s.slices.any fun x => x.ballast.isNone && x.die == d && (x.st == .ready || x.st == .waiting)

/-- Launch at most one ballast slice (R355, R451); a Saved one comes back first. Its die is free (log 3). -/
def launchBallast (s : State) : State :=
  if s.slices.any fun x => x.ballast.isSome && x.st == .saved then s
  else
    let s := meetBallast s
    match nextBallast s with
    | none => s
    | some n =>
      let dies := ballastDies s (Config.freeBool s.fresh)
      let die := nth 0 dies (Config.choice (s.fresh + 1) % dies.length)
      let taken := ringDue s die || s.ops.any fun o => o.stage == .blocked && dieOf o.core == die
      match if dies.isEmpty || taken then none else freeGeneral s die with
      | none => s
      | some e =>
        let p := ballastRecord s n
        let s1 := modPw { s with fresh := s.fresh + 2 } fun w => { w with ballast := n, launched := true }
        if p.kind = 0 then s1
        else takeIn { s1 with nextId := s.nextId + 1 }
          { newSlice die 64 p with
            id := s.nextId, entry := e, priv := true, deadl := BitVec.allOnes 64, ballast := some n
            onDie := Config.freeBool s.fresh } true none

/-- Every ballast slice is stopped at its next boundary (R355). -/
def stopBallast (s : State) : State :=
  { s with slices := s.slices.map fun x =>
      if x.ballast.isSome && x.st == .running then { x with preempting := true } else x }

/-! ## Leases (R360) -/

/-- The highest planned rate, in tokens/ns. -/
def highestPlan (s : State) : Nat := 1000 * s.pw.plan.foldl max 0

/-- The governor may lend what it does not need; whether it does, and how much, is free (log 3). -/
def lend (s : State) (k : Nat) : State :=
  let most := (ealloc s - max s.pw.pr (highestPlan s)) / 1000
  let a := 1000 * (Config.freeNat k % (most + 1))
  if s.pw.members.isEmpty || a = 0 then s
  else modPw s fun w => { w with leasesOut := (a, s.tb + 100000) :: w.leasesOut }

/-! ## The step (R352 to R354) -/

/-- The ceiling in force over the step just ended: the C of the step before it (R352, R353). -/
def Power.stepCeil (w : Power) (ceil : Nat) : Nat := w.ceil.getD ceil

/-- The average package input power that the step just ended, under the ceiling `c`, may show. What has been drawn in the
microsecond stays at or below what the ceilings in force in it have allowed so far, and its average, where it still can, at or
below the least of them; the average stays within the slew bound of the one before, but for a fall that a drop of C forces
(R353, log 88). What it is inside these bounds is free (log 3). -/
def inputOf (w : Power) (c tb free : Nat) : Nat :=
  let hi := min (w.inCap + c) (min (10 * min c (w.inCeil.getD c)) (w.inLast + 10000 * w.slew)) - w.inSum
  let lo := if tb % 1000 = 0 then min hi (w.inLast - 10000 * w.slew - w.inSum) else 0
  lo + free % (hi - lo + 1)

/-- The record of input power after a step under the ceiling `c` (R353): ten steps make a microsecond. -/
def Power.measured (w : Power) (c tb input : Nat) : Power :=
  if tb % 1000 = 0 then { w with inSum := 0, inCap := 0, inCeil := none, inLast := w.inSum + input }
  else { w with inSum := w.inSum + input, inCap := w.inCap + c, inCeil := some (min c (w.inCeil.getD c)) }

/-- What the storage holds at half of CAPM, in tokens (R354, R357). -/
def halfCharge : Nat := Config.capm * 500000

/-- Tokens of a surplus that charge the storage, up to half (R354). -/
def chargeTake (chg surplus : Nat) : Nat := min (100 * surplus) (halfCharge - chg)

/-- What the storage returns to the cores' rates while it stands above half, within the slew bound (R354). -/
def chargeReturn (chg slew : Nat) : Nat := min ((chg - halfCharge) / 100) (100 * slew)

/-- Does any team stand on a core? -/
def coreIdle (s : State) (core : Nat) : Bool :=
  !s.teams.any fun t => t.st == .running && t.cores.any fun c => c.phys == core

/-- One step of the governor (R352 to R355). The measured draw of the package and of the non-core islands, the thermal cap
and the transients of the storage are free (log 3). -/
def governorStep (s : State) : State :=
  let s := (List.range 65).foldl meetCtx s
  let k := s.fresh
  let s0 := modPw { s with fresh := k + 1600, host := { s.host with ballstEff := s.host.ballst } } fun w =>
    { w with thcap := Config.freeNat k % 2 ^ 22, govAt := s.tb
             floors := (List.range 65).map fun c => (ctxDesc s c).floor }
  let ceil := ceiling s0
  let nonCore := Config.freeNat (k + 1)
  let ended := s.pw.stepCeil ceil
  let input := inputOf s.pw ended s.tb (Config.freeNat (k + 2))
  let static := s.pw.static + (input - ended)
  let want := coreDemand s0 + nonCore + static
  let pr := movePr s.pw.pr want (plannedCap s0) ceil s.pw.slew (mayRamp s0)
  let surplus := pr - want
  let store := chargeTake s.pw.chg surplus
  let back := chargeReturn s.pw.chg s.pw.slew
  let s1 := modPw s0 fun w =>
    { w.measured ended s.tb input with
      pr := pr, ceil := some ceil, static := static, surplus := decide (0 < surplus), bleed := surplus - store / 100
      room := ceil - static - nonCore
      chg := min (Config.capm * 1000000)
        (s.pw.chg + store - 100 * back + Config.freeNat (k + 790) - Config.freeNat (k + 792))
      heldSince := if pr = s.pw.pr then s.pw.heldSince else s.tb
      ramping := decide (pr > s.pw.pr) }
  let rates := divideRate s1 (pr - static - nonCore + back) (List.range s.cores.length) (k + 3)
  let s2 := { s1 with
    cores := (s.cores.zip rates).zipIdx.map fun x =>
      Core.cadence { x.1.1 with
        rate := x.1.2, charged := 0
        selfTest := decide (0 < surplus) && coreIdle s x.2 && Config.freeBool (k + 1200 + x.2) } (k + 400 + x.2) }
  let s3 := lend (settleArrays s2) (k + 791)
  let s4 := if 0 < surplus then launchBallast s3 else stopBallast s3
  later s4 (if s4.pw.storageAlarm then [.storageAlarmClear] else [.storageAlarmRaise])

/-- GOVERNOR_STEP (R352): once at each multiple of 100 ns. -/
def execGovernorStep (s : State) : Host.Outcome State Fault Refusal :=
  .next (if live s && s.tb % 100 == 0 && s.pw.govAt != s.tb then governorStep s else s)

/-! ## The power group (R358 to R361) -/

/-- POWER_INTENT_SEND (R358): the interval's plan, which is free (log 3), goes to every member; a new member list is in
effect. -/
def execPowerIntentSend (s : State) : Host.Outcome State Fault Refusal :=
  .next (
    if live s && s.tb % 10000 == 0 && s.pw.intentAt != s.tb then
      modPw { s with fresh := s.fresh + 10 } fun w =>
        { w with members := w.newMembers.getD w.members, newMembers := none, intentAt := s.tb
                 plan := (List.range 10).map fun i => Config.freeNat (s.fresh + i) % (ceiling s / 1000 + 1) }
    else s)

/-- POWER_INTENT_RECEIVE (R358): the last plan of a member stands till its next. -/
def execPowerIntentReceive (m : Intent) (s : State) : Host.Outcome State Fault Refusal :=
  .next (
    if live s && s.pw.members.contains m.dev then
      modPw s fun w => { w with intents := (m.dev, m.plan) :: w.intents.filter fun x => x.1 != m.dev }
    else s)

/-- LEASE_RECEIVE (R360): counted until 20 ns before its expiry; one that comes after that, or to a device in no power
group (R12), is discarded. -/
def execLeaseReceive (alloc expires : BitVec 64) (s : State) : Host.Outcome State Fault Refusal :=
  .next (
    if live s && !s.pw.members.isEmpty && decide (s.tb + 20 ≤ expires.toNat) then
      modPw s fun w => { w with leasesIn := (alloc.toNat, expires.toNat) :: w.leasesIn }
    else s)

/-- LEASE_EXPIRE (R360): the receiver stops counting at E − 20 ns, the sender at E + 20 ns. -/
def execLeaseExpire (s : State) : Host.Outcome State Fault Refusal :=
  .next (
    if live s then
      modPw s fun w =>
        { w with leasesIn := w.leasesIn.filter fun l => decide (s.tb + 20 < l.2)
                 leasesOut := w.leasesOut.filter fun l => decide (s.tb < l.2 + 20) }
    else s)

/-- Does a core hold a team of a slice? -/
def holdsSlice (s : State) (core slice : Nat) : Bool :=
  s.teams.any fun t => t.slice == slice && t.st == .running && t.cores.any fun c => c.phys == core

/-- PACING_HINT_RECEIVE (R361): for the next 100 µs the cores that hold teams of the signalling slice run slower by the
hint's h, those that a team of it takes later too; a new hint replaces the old one. -/
def execPacingHintReceive (slice : Nat) (h : BitVec 64) (s : State) : Host.Outcome State Fault Refusal :=
  .next (
    if live s then
      let s1 := modSlice s slice fun x => { x with pacing := some (s.tb + 100000, h.toNat) }
      { s1 with cores := s.cores.mapIdx fun i c =>
          if holdsSlice s i slice then { c with pacing := some (s.tb + 100000, h.toNat) } else c }
    else s)

/-- PACING_EXPIRE (R361). -/
def execPacingExpire (core : Nat) (s : State) : Host.Outcome State Fault Refusal :=
  .next (
    if live s then modCore s core fun c => { c with pacing := c.pacing.filter fun p => decide (s.tb < p.1) }
    else s)

/-- POWER_GROUP_MEMBER_LIST_WRITE (R358, R433): up to 1,024 members, from the next intent interval on. -/
def execPowerGroupMemberListWrite (members : List Nat) (s : State) : Host.Outcome State Fault Refusal :=
  .next (modPw s fun w => { w with newMembers := some (members.take 1024) })

/-! ## Alarms (R146, R364): an array with a row in progress takes its width at the end of the row -/

/-- DROOP_ALARM_RAISE (R364): the supply of a core's island is below its threshold. -/
def execDroopAlarmRaise (core : Nat) (s : State) : Host.Outcome State Fault Refusal :=
  .next (if live s then settleArrays (modCore s core fun c => { c with droop := true, droopAt := s.tb }) else s)

/-- DROOP_ALARM_CLEAR (R364): the supply has stayed above its threshold for 2 µs. -/
def execDroopAlarmClear (core : Nat) (s : State) : Host.Outcome State Fault Refusal :=
  .next (
    if live s && decide ((getCore s core).droopAt + 2000 ≤ s.tb) then
      settleArrays (modCore s core fun c => { c with droop := false })
    else s)

/-- STORAGE_ALARM_RAISE (R364): below a quarter of CAPM. -/
def execStorageAlarmRaise (s : State) : Host.Outcome State Fault Refusal :=
  .next (
    if live s && decide (4 * s.pw.chg < Config.capm * 1000000) then
      settleArrays (modPw s fun w => { w with storageAlarm := true })
    else s)

/-- STORAGE_ALARM_CLEAR (R364): at half of CAPM. -/
def execStorageAlarmClear (s : State) : Host.Outcome State Fault Refusal :=
  .next (
    if live s && decide (2 * s.pw.chg ≥ Config.capm * 1000000) then
      settleArrays (modPw s fun w => { w with storageAlarm := false })
    else s)

/-! ## Undervolting (R367) -/

/-- The voltage steps after a window with a number of corrected errors. -/
def uvMove (steps errs : Nat) : Nat :=
  if errs = 0 then min 16 (steps + 1) else if errs = 1 then steps else if errs ≤ 7 then steps - 1 else 0

/-- The window of a non-core island has ended (R367, R369). -/
def Isle.windowEnd (x : Isle) (tb : Nat) : Isle :=
  { x with at_ := tb, errs := 0, steps := if x.en then uvMove x.steps x.errs else x.steps }

/-- UNDERVOLT_WINDOW_END (R367, R369): a window of 1,000 µs has ended, of a core's island or, from 384 on, of a non-core
island. -/
def execUndervoltWindowEnd (core : Nat) (s : State) : Host.Outcome State Fault Refusal :=
  .next (
    if core ≥ 384 then
      if live s && (s.isles[core - 384]?).any fun x => decide (x.at_ + 1000000 ≤ s.tb) then
        modIsle s core fun x => x.windowEnd s.tb
      else s
    else if live s && decide ((getCore s core).uvAt + 1000000 ≤ s.tb) then
      modCore s core fun c =>
        { c with uvAt := s.tb, uvErrs := 0, uvSteps := if c.uvEn then uvMove c.uvSteps c.uvErrs else c.uvSteps }
    else s)

end Sys2Proof.Machine
end

