-- ==== Sys2Proof/Machine/Recovery.lean ====
section
/-! DEFINITION. Timing errors and degraded stacks: TIMING_ERROR_REPLAY, LATE_TIMING_ERROR, STACK_DEGRADED (spec/15 R417 to
R419, R424). -/

namespace Sys2Proof.Machine

/-! ## Replay (R417, R418) -/

/-- The history of a group from a cycle on, oldest first. -/
def discarded (c : Core) (named : Nat) (gid : Nat) : List Hist :=
  c.hist.filter fun h => h.grp.id == gid && decide (named ≤ h.cyc)

/-- Take out what a group's discarded issues put in flight. -/
def dropIssued (s : State) (core gid first : Nat) : State :=
  let old (grp id : Nat) : Bool := grp != gid || decide (id < first)
  modCore { s with
      ops := s.ops.filter fun o => old o.grp o.id
      lines := s.lines.filter fun l => old l.grp l.id
      sigs := s.sigs.filter fun x => old x.grp x.id } core fun c =>
    { c with mxq := c.mxq.filter fun m => old m.grp m.id
             ergq := c.ergq.filter fun e => old e.grp e.id
             tokQ := c.tokQ.filter (· != gid) }

/-- The group as it stood before its earliest discarded issue, with what earlier operations have done to it since; its
discarded issues are not charged again (R344). A fetch that waits goes on. -/
def replayGroup (now : Group) (hs : List Hist) : Group :=
  match hs with
  | [] => now
  | h :: _ =>
    hs.foldl (fun g h => g.markFree h.mask h.pc)
      { h.grp with
        chosen := none, fetchTok := now.fetchTok, fetchVerdict := now.fetchVerdict, fetchFor := now.fetchFor }

/-- An end of a slice by an issue that is discarded is taken back. -/
def Slice.resumed (x : Slice) (gid first : Nat) : Slice :=
  match x.endedBy with
  | some (g, n) => if g = gid ∧ first ≤ n then { x with ending := none, endedBy := none } else x
  | none => x

/-- A group that waits for no bank stands in no slot's line for it. -/
def leaveBankQ (s : State) (core gid : Nat) : State :=
  match getGroup s gid with
  | none => s
  | some g =>
    if g.sysPend.isSome then s
    else modSlot s core g.slot fun sl => { sl with bankQ := sl.bankQ.filter (· != gid) }

/-- Replay one group. -/
def replayOne (s : State) (core named gid : Nat) : State :=
  match discarded (getCore s core) named gid with
  | [] => s
  | h :: hs =>
    let s1 := modGroup (dropIssued s core gid h.nextId) gid fun g => replayGroup g (h :: hs)
    leaveBankQ { s1 with slices := s1.slices.map fun x => x.resumed gid h.nextId } core gid

/-- TIMING_ERROR_REPLAY (R417): the named cycle is at most three back; which is free (log 3). -/
def execTimingErrorReplay (core : Nat) (s : State) : Host.Outcome State Fault Refusal :=
  .next (
    let c := getCore s core
    if !live s || core ≥ Config.cores || c.stopped || c.retired then s
    else
      let named := c.cyc - Config.choice s.fresh % 4
      let gids := ((c.hist.filter fun h => decide (named ≤ h.cyc)).map fun h => h.grp.id).eraseDups
      let s1 := gids.foldl (fun s gid => replayOne s core named gid) (bump s)
      let s2 := modCore s1 core fun c => { c with hist := c.hist.filter fun h => decide (h.cyc < named) }
      let s3 := (List.range 4).foldl (fun s slot => settleBank s core slot) s2
      { s3 with
        busy := s.busy && !gids.contains s.cur.grp
        health := { s3.health with replay := min 255 (s3.health.replay + 1) } })

/-! ## Late detections (R419) -/

/-- The slices with a group on a core. -/
def slicesOn (s : State) (core : Nat) : List Nat :=
  ((s.groups.filter fun g => g.resident && g.core == core).filterMap fun g => (sliceOf s g).map Slice.id).eraseDups

/-- Must an operation pass the commit gate before another agent sees it (R418)? -/
def passesGate (i : Instr) : Bool := isWrite i || isBarrierOp i || isEnq i || gated i

/-- What a stopped core still holds at its commit gate never leaves it (R418, R419). -/
def dropGated (s : State) (core : Nat) : State :=
  let held (c cyc : Nat) : Bool := c == core && gateHolds s core cyc
  modCore { s with
      ops := s.ops.filter fun o => !(held o.core o.cyc && passesGate o.i)
      lines := s.lines.filter fun l => !held l.core l.cyc
      sigs := s.sigs.filter fun x => !held x.core x.cyc } core fun c =>
    { c with mxq := c.mxq.filter fun m => !held core m.cyc
             ergq := c.ergq.filter fun e => !held core e.cyc }

/-- LATE_TIMING_ERROR (R419): machine check of class 0x04, the island retired, its slices ended with CODE 3. TEPC and the
slice named are of one of the groups on the core, or free (log 3). -/
def execLateTimingError (core : Nat) (s : State) : Host.Outcome State Fault Refusal :=
  .next (
    let c := getCore s core
    if !live s || core ≥ Config.cores || c.retired then s
    else
      let sids := slicesOn s core
      let ctx := match (sids[Config.choice s.fresh % sids.length]?).bind (getSlice s) with
        | some x => ctxByte x.ctx
        | none => 0x80
      let s1 := machineCheck (dropGated (bump s) core) 0x04 ctx (islandOf core) (Config.freeNat s.fresh % 2 ^ 57) 0
      let s2 := modCore s1 core fun c => { c with stopped := true, retired := true, hist := [] }
      let s3 := sids.foldl (fun s sid => endSlice s sid { code := 3, cause := 0, tepc := 0, tval := 0 }) s2
      checkReplace { s3 with
        health := { s3.health with retired := min 384 (s3.health.retired + 1) }
        host := { s3.host with retiredList := core :: s3.host.retiredList } })

/-! ## Degraded stacks (R424) -/

/-- The failed pseudo-channels of a stack as a mask. -/
def failedMask (s : State) (stack : Nat) : Nat :=
  ((List.range 64).map fun p => if s.hbm.failed.contains (stack * 64 + p) then 2 ^ p else 0).sum

/-- A pseudo-channel of a stack fails. -/
def degrade (s : State) (stack pch : Nat) : State :=
  let n := stack * 64 + pch
  let s1 := modHbm s fun h => { h with failed := if h.failed.contains n then h.failed else n :: h.failed }
  let s2 := machineCheck s1 0x09 0x80 (islandOfStack stack) stack (failedMask s1 stack)
  checkReplace { s2 with health := { s2.health with stkdeg := s2.health.stkdeg ||| BitVec.ofNat 8 (2 ^ stack) } }

/-- STACK_DEGRADED (R424): which pseudo-channel fails is free (log 3). -/
def execStackDegraded (stack : Nat) (s : State) : Host.Outcome State Fault Refusal :=
  .next (if !live s || stack ≥ 8 then s else degrade (bump s) stack (Config.choice s.fresh % 64))

end Sys2Proof.Machine
end

