-- ==== Sys2Proof/Machine/Sched.lean ====
section
/-! DEFINITION. Pre-emption and restore (spec/14 R394 to R397; spec/12 R328; spec/05 R150; spec/06 R171; spec/08 R230): PREEMPT
and CONTEXT_RESTORE. -/

namespace Sys2Proof.Machine

/-! ## The save stack (R395) -/

/-- An address of a slice's save stack: the count, then the record addresses. -/
def stackAt (s : State) (x : Slice) (i : Nat) : Nat := (descOf s x.ctx).saves.toNat + 8 * i

/-- The count of the save stack; none where it cannot be read. -/
def stackCount (s : State) (x : Slice) : State × Nat :=
  match cpRead s x.ctx true (stackAt s x 0) 8 with
  | (s1, .ok bs) => (s1, ofBytes bs)
  | (s1, _) => (s1, 0)

/-- Write one word of the save stack. -/
def stackWrite (s : State) (x : Slice) (i n : Nat) : State :=
  cpWrite s x.die x.ctx true (stackAt s x i) (dwordBytes (BitVec.ofNat 64 n))

/-- The count of the save stack less the entry on top, and the address in that entry. -/
def topRecord (s : State) (x : Slice) : State × Option (Nat × Nat) :=
  match stackCount s x with
  | (s1, 0) => (s1, none)
  | (s1, n + 1) =>
    match cpRead s1 x.ctx true (stackAt s1 x (n + 1)) 8 with
    | (s2, .ok bs) => (s2, some (n, ofBytes bs))
    | (s2, _) => (s2, none)

/-- Does a copy engine own the line of an entry of the save stack, so that its write has to wait (R244)? -/
def stackHeld (s : State) (x : Slice) (i : Nat) : Bool := cpHeld s x.ctx true (stackAt s x i) 8

/-- Put an address back on the save stack. -/
def pushRecord (s : State) (x : Slice) (a : Nat) : State :=
  let (s1, n) := stackCount s x
  stackWrite (stackWrite s1 x (n + 1) a) x 0 (n + 1)

/-! ## The save record (R396) -/

/-- Bytes whose layout the manual leaves open (log 3). -/
def openBytes (k n : Nat) : List Byte := (List.range n).map fun i => BitVec.ofNat 8 (Config.freeNat (k + i))

/-- The next multiple of 4,096. -/
def roundPage (n : Nat) : Nat := (n + 4095) / 4096 * 4096

/-- The Skip map and the Erg thresholds behind it. -/
def skipBytes (t : Team) : List Byte :=
  t.skip.flatMap dwordBytes ++ toBytes t.ergta.toNat 8 ++ toBytes t.ergtr.toNat 8

/-- The region table; of an entry only the base's place is fixed. -/
def regionBytes (t : Team) (k : Nat) : List Byte :=
  (List.range 64).flatMap fun i =>
    match nth none t.regions i with
    | some r => toBytes (r.base.toNat + 2 ^ 57 * (Config.freeNat (k + 2 * i) % 128)) 8 ++ openBytes (k + 2 * i) 8
    | none => openBytes (k + 2 * i) 16

/-- The windows of a core's section, in order. -/
def winOrder : List Win := [.gen, .wgt, .act, .erg]

/-- The content of a core's section up to its last 512 bytes: windows, rows, row flags with the row's poison in bit 4 (R396,
R405). -/
def coreBytes (t : Team) (c : TCore) : List Byte :=
  (winOrder.flatMap fun w => c.bytes w 0 (winBytes t w)) ++ (c.acc.flatMap fun r => r.cols.flatMap wordBytes) ++
    c.acc.flatMap fun r => toBytes (r.flags.toNat + bitNat r.pois 4) 1

/-- Length of a core's section. -/
def coreSection (t : Team) : Nat := (winOrder.map (winBytes t)).sum + 513 * t.k.acc + 512

/-- The resident registers of a group's section, lane-major, RB first. -/
def residentBytes (g : Group) : List Byte :=
  g.lanes.flatMap fun l => (List.range l.rz).flatMap fun j => wordBytes (l.stk (l.rb + j))

/-- Registers per lane of a group. -/
def Group.rz (g : Group) : Nat := (g.lane 0).rz

/-- A group's section. -/
def groupBytes (g : Group) (k : Nat) : List Byte :=
  g.g.flatMap wordBytes ++ openBytes k 160 ++
    ((g.js.reverse.flatMap jentBytes) ++ toBytes 0 (1024 - 32 * g.js.length)) ++ openBytes (k + 160) (256 + 4096 + 32768) ++
    toBytes 0 2560 ++ residentBytes g

/-- The groups of a team in GRP order. -/
def groupsOf (s : State) (team : Nat) : List Group :=
  let gs := s.groups.filter fun g => g.team == team
  (List.range 64).flatMap fun n => gs.filter fun g => g.grp == n

/-- Offsets of the core sections. -/
def coreOff (t : Team) (c : Nat) : Nat := 4096 + c * roundPage (coreSection t)

/-- Offset of the group sections, which follow one another. -/
def groupOffs (t : Team) (gs : List Group) : List (Nat × Group) :=
  let first := coreOff t t.cores.length
  (gs.foldl (fun (acc : Nat × List (Nat × Group)) g =>
    (acc.1 + roundPage (40960 + 256 * g.rz), acc.2 ++ [(acc.1, g)])) (first, [])).2

/-- The parts of a record: offset and bytes. -/
def recordParts (t : Team) (gs : List Group) (k : Nat) : List (Nat × List Byte) :=
  [(0, openBytes k 256), (256, regionBytes t (k + 256)), (1280, skipBytes t)] ++
    (t.cores.zipIdx.map fun x => (coreOff t x.2, coreBytes t x.1 ++ openBytes (k + 512 + 512 * x.2) 512)) ++
    (groupOffs t gs).zipIdx.map fun x => (x.1.1, groupBytes x.1.2 (k + 4096 + 65536 * x.2))

/-- Write bytes that may span pages. -/
def recordWrite (s : State) (x : Slice) (va : Nat) (bs : List Byte) : State :=
  (pageChunks va bs.length).foldl (fun s c =>
    cpWrite s x.die x.ctx true c.1 ((bs.drop (c.1 - va)).take c.2)) s

/-- Does a copy engine own a line of a team's record, so that its write or read has to wait (R244)? -/
def recordHeld (s : State) (x : Slice) (t : Team) (a : Nat) : Bool :=
  !s.lines.isEmpty && (recordParts t (groupsOf s t.id) s.fresh).any fun p => cpHeld s x.ctx true (a + p.1) p.2.length

/-- Write a team's record. -/
def writeRecord (s : State) (x : Slice) (t : Team) (a : Nat) : State :=
  (recordParts t (groupsOf s t.id) s.fresh).foldl (fun s p => recordWrite s x (a + p.1) p.2)
    { s with fresh := s.fresh + 2 ^ 23 }

/-! ## Stopping a slice (R394) -/

/-- The waits of a group that end by being saved as unissued; a system handler's own go on. -/
def unissuedOps (s : State) (g : Group) : List Op :=
  s.ops.filter fun o => o.grp == g.id && o.unissues && !(o.sys && g.st.active)

/-- Has the issue of an operation been charged and counted? That of a parked access is, unless it was free, only when it
proceeds (R344, R394, R449). -/
def Op.charged (o : Op) : Bool := o.stage != .parked || (o.price == 0 && !o.counted)

/-- Save operations that wait as unissued: those that had issued are neither charged nor counted again (R394). -/
def saveOps (s : State) (g : Group) : State :=
  let os := unissuedOps s g
  let ids := os.map Op.id
  modGroup { s with ops := s.ops.filter fun o => !ids.contains o.id } g.id fun g =>
    { (os.filter Op.charged).foldl (fun g o => g.markFree o.carried o.pc) g with
      unissued := os.foldl (fun m o => m ||| o.carried) g.unissued }

/-- Save the issue that waits before it is made: for tokens, for allowance or for its bytes (R265, R348, R381). -/
def saveChosen (s : State) (g : Group) : State :=
  let waiting := match g.parked, g.chosen with
    | some p, _ => p.mask
    | none, some p => p.mask
    | none, none => 0
  modGroup (dropChosen s g.id g.core) g.id fun g =>
    { g with
      parked := none, fetchTok := none, fetchVerdict := none, fetchFor := none, unissued := g.unissued ||| waiting
      gs := g.gs.map fun x => { x with token := none, verdict := none } }

/-- Save the waits of a group as unissued; a system handler goes on (R394). -/
def saveWaits (s : State) (g : Group) : State :=
  if g.st.active then saveOps s g else saveChosen (saveOps s g) g

/-- Has everything of a group that completes before it is saved completed: its operations, copies and signals, what the
engines have started, its deferred traps, its system handler, and what a replay may still discard? -/
def groupQuiet (s : State) (g : Group) : Bool :=
  !replayable s g.core g.id && !g.st.active && g.sysPend.isNone && (g.deferred.isEmpty || g.halted) &&
    !(s.ops.any fun o => o.grp == g.id) && !(s.lines.any fun l => l.grp == g.id) && !(s.sigs.any fun x => x.grp == g.id) &&
    !(g.gs.any GStream.sent) &&
    let c := getCore s g.core
    !(c.mxq.any fun m => m.grp == g.id && m.started && !(mxStuck s g.core).contains m) && !c.ergq.any fun e => e.grp == g.id && e.started

/-- The groups of a slice that stand on cores. -/
def residentGroups (s : State) (sid : Nat) : List Group :=
  s.groups.filter fun g => g.resident && ((sliceOf s g).map Slice.id) == some sid

/-- The teams of a slice that stand on cores. -/
def residentTeams (s : State) (sid : Nat) : List Team := s.teams.filter fun t => t.slice == sid && t.st == .running

/-! ## Saving -/

/-- A team's pending engine operations on a core, each as it will resume, in their order (R150, R171). -/
def pendingMx (s : State) (t : Team) : List (Nat × MxOp) :=
  t.cores.zipIdx.flatMap fun x => ((getCore s x.1.phys).mxq.filter fun m => m.team == t.id && coreNoOf s m.grp == x.2).map
    fun m => (x.2, { m with started := false, doneLanes := if isMxlw m.i then 0 else m.doneLanes })

/-- The same for the Erg engine. -/
def pendingErg (s : State) (t : Team) : List (Nat × ErgOp) :=
  t.cores.zipIdx.flatMap fun x => ((getCore s x.1.phys).ergq.filter fun e => e.team == t.id && coreNoOf s e.grp == x.2).map
    fun e => (x.2, e)

/-- The descriptor to save: with an MXLW pending again, the one that the team's earlier MXROW use (R150). -/
def savedLatch (s : State) (mx : List (Nat × MxOp)) (t : Team) (x : TCore × Nat) : Option Latch :=
  let c := getCore s x.1.phys
  if mx.any (fun m => m.1 == x.2 && isMxlw m.2.i) && c.mxq.any (fun m => m.started && m.team == t.id && isMxlw m.i) &&
      c.mxTeam == some t.id then c.active.desc
  else x.1.latch

/-- Take a team off its cores. -/
def liftTeam (s : State) (t : Team) (record : Nat) : State :=
  let mx := pendingMx s t
  let erg := pendingErg s t
  let phys := t.cores.map TCore.phys
  let s1 := phys.foldl (fun s c => modCore s c fun c =>
    { c.forget t.id with
      mxq := c.mxq.filter fun m => m.team != t.id
      ergq := c.ergq.filter fun e => e.team != t.id }) s
  let off (g : Group) : Group := if g.team == t.id then { g with resident := false, early := [] } else g
  modTeam { s1 with groups := s1.groups.map off } t.id fun t =>
    { t with
      st := .saved, record := BitVec.ofNat 64 record, mxPend := mx, ergPend := erg
      cores := t.cores.zipIdx.map fun x => { x.1 with latch := savedLatch s mx t x } }

/-- The save reads a team's arrays: it meets the errors of its windows, rows and registers (R404, R405). -/
def meetTeam (s : State) (t : Team) : State :=
  let s1 := t.cores.zipIdx.foldl (fun s x => x.1.errs.foldl (fun s e => meetPart s t.id x.2 e.1 e.2.1) s) s
  (groupsOf s1 t.id).foldl (fun s g => meetRegs s g (g.errs.map Prod.fst)) s1

/-- It reads the join stacks, gather queues and trap state of the groups; what cannot be corrected ends the slice (R405). -/
def meetEntries (s : State) (x : Slice) (t : Team) : State :=
  (groupsOf s t.id).foldl (fun s g => meetArray6 s g x) s

/-- Save one team into the record on top of the save stack, once no engine owns a line to be written (R244, R395, R396). -/
def saveTeam (s : State) (x : Slice) (t : Team) : State :=
  match topRecord s x with
  | (s1, none) => s1
  | (s1, some (n, a)) =>
    if stackHeld s1 x 0 || recordHeld s1 x t a then s1
    else
      let s2 := meetTeam s1 t
      match getTeam s2 t.id with
      | none => s2
      | some t => liftTeam (writeRecord (stackWrite s2 x 0 n) x t a) t a

/-- The slice is Saved once no team of it stands on cores. -/
def settleSaved (s : State) (sid : Nat) : State :=
  if (residentTeams s sid).isEmpty then modSlice s sid fun x => { x with st := .saved, preempting := false } else s

/-- PREEMPT (R394 to R396): a running slice is told to stop, when the save stack holds a record for each of its teams; its
waits are saved as unissued, and once its groups are quiet its teams are saved. Without records no pre-emption is
attempted. -/
def execPreempt (slice : Nat) (s : State) : Host.Outcome State Fault Refusal :=
  .next (match getSlice s slice with
    | none => s
    | some x =>
      if !live s || x.st != .running || x.ending.isSome then s
      else
        let ts := residentTeams s slice
        let (s1, n) := stackCount s x
        if ts.isEmpty ∨ n < ts.length then modSlice s1 slice fun x => { x with preempting := false }
        else
          let s2 := modSlice s1 slice fun x => { x with preempting := true }
          let s3 := (residentGroups s2 slice).foldl saveWaits s2
          if (residentGroups s3 slice).all (groupQuiet s3) then
            let s4 := ts.foldl (fun s t => meetEntries s x t) s3
            if ((getSlice s4 slice).bind Slice.ending).isSome then s4
            else settleSaved (ts.foldl (fun s t => saveTeam s x t) s4) slice
          else s3)

/-! ## Restore (R397) -/

/-- Read a part of a record; none where it cannot be read. -/
def readPart (s : State) (x : Slice) (va n : Nat) : State × Option (List Byte) :=
  match cpRead s x.ctx true va n with
  | (s1, .ok bs) => (s1, some bs)
  | (s1, _) => (s1, none)

/-- Chunks of equal length. -/
def chunksOf (n : Nat) (bs : List Byte) (count : Nat) : List (List Byte) :=
  (List.range count).map fun i => (bs.drop (n * i)).take n

/-- The word that bytes hold. -/
def wordOf (bs : List Byte) : Word := BitVec.ofNat 32 (ofBytes bs)

/-- The Skip map and thresholds as read. -/
def Team.loadSkip (t : Team) (bs : List Byte) : Team :=
  { t with
    skip := (chunksOf 8 bs 64).map fun b => BitVec.ofNat 64 (ofBytes b)
    ergta := wordOf (bs.drop 512), ergtr := wordOf (bs.drop 520) }

/-- Windows, rows and row flags as read. -/
def TCore.load (t : Team) (c : TCore) (bs : List Byte) : TCore :=
  let wins := winOrder.foldl (fun (acc : Nat × TCore) w =>
    (acc.1 + winBytes t w, acc.2.setWin w (memWrite [] 0 ((bs.drop acc.1).take (winBytes t w))))) (0, c)
  let rows := bs.drop wins.1
  let flags := rows.drop (512 * c.acc.length)
  { wins.2 with
    acc := c.acc.zipIdx.map fun x =>
      { x.1 with cols := (chunksOf 4 (rows.drop (512 * x.2)) 128).map wordOf
                 flags := ((nth 0 flags x.2).setWidth 4), pois := (nth 0 flags x.2).getLsbD 4 } }

/-- The poison of a lane's registers as it stood. -/
def Lane.repoison (l : Lane) (ps : List Nat) : Lane := { l with pois := ps }

/-- Group registers, join stack and resident registers as read; a register that was saved poisoned is poisoned (R397,
R405). -/
def Group.load (g : Group) (gs js res : List Byte) : Group :=
  { g with
    g := (chunksOf 4 gs 24).map wordOf
    js := ((chunksOf 32 js g.js.length).map jentOf).reverse
    lanes := g.lanes.zipIdx.map fun x =>
      (List.range x.1.rz).foldl (fun l j => l.setStk (l.rb + j) (wordOf (res.drop (4 * (x.1.rz * x.2 + j)) |>.take 4))) x.1 |>.repoison x.1.pois }

/-- Read back what the record's fixed layout gives (R396, R397); what cannot be read keeps its saved value. -/
def loadRecord (s : State) (x : Slice) (t : Team) : State :=
  let a := t.record.toNat
  let s1 := match readPart s x (a + 1280) 528 with
    | (s1, some bs) => modTeam s1 t.id fun t => t.loadSkip bs
    | (s1, none) => s1
  let s2 := (List.range t.cores.length).foldl (fun s c =>
    match readPart s x (a + coreOff t c) (coreSection t - 512) with
    | (s1, some bs) => modTCore s1 t.id c fun tc => tc.load t bs
    | (s1, none) => s1) s1
  (groupOffs t (groupsOf s2 t.id)).foldl (fun s y =>
    let g := y.2
    let b := a + y.1
    match readPart s x b 96, readPart s x (b + 0x100) 1024, readPart s x (b + 0xA000) (256 * g.rz) with
    | (s1, some gb), (_, some jb), (_, some rb) => modGroup s1 g.id fun g => g.load gb jb rb
    | (s1, _), _, _ => s1) s2

/-- A group stands on its core again: ages are zero, and the fibres saved unissued go first (R287, R397). -/
def restoreGroup (s : State) (cores : List Nat) (g : Group) : State :=
  let core := nth 0 cores g.coreNo
  let (slot, place) := freePlace s core
  let cyc := (getCore s core).cyc
  modGroup s g.id fun g =>
    { g with
      core := core, slot := slot, place := place, resident := true, early := [], pass := 0, urgent := none, yieldFor := []
      chosen := none, unissued := 0, rdy := BitVec.allOnes 64
      lanes := g.lanes.mapIdx fun i l => { l with readyAt := cyc, since := if g.unissued.has i then cyc else cyc + 1 } }

/-- Pending engine operations resume in their order, behind what stands in the queues of their cores (R150, R171, log 61). -/
def resumePending (s : State) (t : Team) (cores : List Nat) : State :=
  let s1 := t.mxPend.foldl (fun s x => modCore s (nth 0 cores x.1) fun c =>
    { c with mxq := c.mxq ++ [{ x.2 with cyc := c.cyc }] }) s
  t.ergPend.foldl (fun s x => modCore s (nth 0 cores x.1) fun c =>
    { c with ergq := c.ergq ++ [{ x.2 with cyc := c.cyc }] }) s1

/-- The engines of a restored team's cores reload its latch (R150). -/
def reloadTeam (s : State) (t : Team) (cores : List Nat) : State :=
  cores.zipIdx.foldl (fun s x =>
    if loadsNow (getCore s x.1) then s else reloadLatch s x.1 t.id x.2) s

/-- Place a saved team on one of the ways it fits; which is free (log 3). -/
def restoreOn (s : State) (x : Slice) (t : Team) (cl : Nat) (ways : List (List Nat × List (List Nat))) : State :=
  let w := nth ([], []) ways (Config.choice s.fresh % ways.length)
  let s := meetCtx s x.ctx
  let s0 := takeCores (loadRecord (bump s) x t) x w.1
  let put (t : Team) : Team :=
    { t with
      st := .running, cluster := cl, desc := ctxDesc s x.ctx, mxPend := [], ergPend := []
      cores := (t.cores.zip (w.1.zip w.2)).map fun y => { y.1 with phys := y.2.1, pos := y.2.2 } }
  let s1 := ageGang (modTeam s0 t.id put) cl (x.id, t.no)
  let s2 := (groupsOf s1 t.id).foldl (fun s g => restoreGroup s w.1 g) s1
  let s3 := dropFetch (resumePending (reloadTeam s2 t w.1) t w.1) (ctxDesc s x.ctx).asid w.1
  let s4 := modSlice (pushRecord s3 x t.record.toNat) x.id fun x =>
    { x with st := .running, quantCount := 0, desc := some (ctxDesc s x.ctx) }
  performHeld s4 t.id

/-- A ballast team is restored only while a surplus remains and no ordinary team that fits is unplaced (R355, R451). -/
def ballastMay (s : State) (x : Slice) : Bool :=
  x.ballast.isNone || (s.pw.surplus && s.slices.all fun y => !(hasUnplaced y && y.ballast.isNone) || match y.k with
    | some k => !fitsAnywhere s (y.id, y.nextTeam) k
    | none => true)

/-- CONTEXT_RESTORE (R397): a saved team is placed whole in a cluster, or waits there as a gang when it fits nowhere
(R325). -/
def execContextRestore (team cluster : Nat) (s : State) : Host.Outcome State Fault Refusal :=
  .next (match getTeam s team with
    | none => s
    | some t => match getSlice s t.slice with
      | none => s
      | some x =>
        if !live s || t.st != .saved || x.ending.isSome || x.preempting || cluster ≥ 96 || !ballastMay s x then s
        else match fitsIn s (x.id, t.no) t.k cluster with
          | [] => if fitsAnywhere s (x.id, t.no) t.k then s else makeGang s (x.id, t.no) t.k cluster
          | ways =>
            if stackHeld s x 0 || stackHeld s x ((stackCount s x).2 + 1) || recordHeld s x t t.record.toNat then s
            else restoreOn s x t cluster ways)

end Sys2Proof.Machine
end

