-- ==== Sys2Proof/Machine/Host.lean ====
section
/-! DEFINITION. The host, the board and bring-up (spec/16; spec/22 R451; spec/15 R427; spec/01 R22). -/

namespace Sys2Proof.Machine

/-- Change the host registers. -/
def modHost (s : State) (f : HostIf → HostIf) : State := { s with host := f s.host }

/-! ## BAR0 (R428, R429) -/

/-- Bits [51:lo] of a written value, and its low `n` bits. -/
def baseBits (v : Dword) (lo n : Nat) : Dword :=
  BitVec.ofNat 64 (v.toNat % 2 ^ 52 / 2 ^ lo * 2 ^ lo + v.toNat % 2 ^ n)

/-- An index register. -/
def idxWord (head tail : Word) : Dword := Dword.mk tail head

/-- HSTAT. -/
def hstat (h : HostIf) : Dword := BitVec.ofNat 64 (bitNat h.frozen 2 + bitNat h.ready 1 + bitNat h.mcup 0)

/-- A whole-word host read of a register in 0x000-0xFFF (R429); before MCUP it gives the register's reset value (R435). -/
def bar0Read (s : State) (off : Nat) : Dword :=
  let h := if s.host.mcup then s.host else HostIf.reset
  match off with
  | 0x000 => devid
  | 0x008 => hstat h
  | 0x010 => h.ctxtab
  | 0x018 => h.qdtab
  | 0x020 => h.sfqbase
  | 0x028 => idxWord h.sfqHead h.sfqTail
  | 0x030 => h.mcrbase
  | 0x038 => idxWord h.mcrHead h.mcrTail
  | 0x050 => h.ballst
  | _ => 0

/-- A host read of BAR0, as the number that its bytes hold (R428, R429): of another size than 8 or not aligned, all ones;
registers; debug registers, which read as they were written (log 73); the rest reads 0. -/
def bar0Access (s : State) (off size : Nat) : Nat :=
  if size ≠ 8 ∨ off % 8 ≠ 0 then 2 ^ (8 * size) - 1
  else if off < 0x1000 then (bar0Read s off).toNat
  else if off < 0x1800 ∧ s.host.mcup then (((s.host.debugRegs.find? fun x => x.1 == off).map Prod.snd).getD 0).toNat
  else 0

/-- A host read of a notify register (R313). -/
def notifyRead (s : State) (q : Nat) : Dword := idxWord (getQueue s q).ridx (getQueue s q).widx

/-- BASE and LOG of a ring are within their ranges. -/
def ringOk (w : Dword) : Bool := decide (w.toNat / 4096 ≠ 0 ∧ 6 ≤ w.toNat % 32 ∧ w.toNat % 32 ≤ 16)

/-- GO takes effect: with a LOG outside its range or a base of 0 it is ignored; else READY and vector 3 (R429, R431, R435). -/
def takeGo (s : State) : State :=
  let h := s.host
  let s1 := modHost s fun h => { h with goPending := false }
  if h.go ∨ h.ctxtab = 0 ∨ h.qdtab = 0 ∨ !ringOk h.sfqbase ∨ !ringOk h.mcrbase then s1
  else raiseVector (modHost s1 fun h => { h with go := true, ready := true, step := 9 }) 3

/-- HCTL.GO: before MCUP it waits for the end of step 6 (R435). -/
def execHctlGo (s : State) : Host.Outcome State Fault Refusal :=
  .next (if !live s then s
    else if s.host.mcup then takeGo s else modHost s fun h => { h with goPending := true })

/-- Deliver a verdict to what waits under a token (R430). -/
def giveVerdict (s : State) (token : Nat) (fatal : Bool) : State :=
  let req (q : Req) : Req := if q.st = .waiting token then { q with st := .verdict fatal } else q
  let hit (t : Option Nat) (v : Option Bool) : Option Bool := if t = some token ∧ v.isNone then some fatal else v
  let group (g : Group) : Group :=
    { g with fetchVerdict := hit g.fetchTok g.fetchVerdict
             gs := g.gs.map fun x => { x with verdict := hit x.token x.verdict } }
  { s with
    ops := s.ops.map fun o => { o with reqs := o.reqs.map req }
    lines := s.lines.map fun l => { l with verdict := hit l.token l.verdict }
    groups := s.groups.map group
    cores := s.cores.map fun c => { c with hist := c.hist.map fun h => { h with grp := group h.grp } }
    slices := s.slices.map fun x => { x with verdict := hit x.token x.verdict }
    queues := s.queues.map fun x => { x with verdict := hit x.token x.verdict } }

/-- SFQVERD (R429, R430): bit 63 fatal, the rest the token; tokens start at 1. -/
def execSfqverdWrite (v : BitVec 64) (s : State) : Host.Outcome State Fault Refusal :=
  .next (if !live s then s else giveVerdict s (v.toNat % 2 ^ 63) (v.getLsbD 63))

/-- SFQIDX.TAIL: room in the ring lets held entries out (R430). -/
def execSfqidxTailWrite (v : BitVec 64) (s : State) : Host.Outcome State Fault Refusal :=
  .next (
    if !live s then s
    else
      let s1 := modHost s fun h => { h with sfqTail := v.setWidth 32 }
      sfqRelease s1 s1.host.heldEntries.length)

/-- MCRIDX.TAIL. -/
def execMcridxTailWrite (v : BitVec 64) (s : State) : Host.Outcome State Fault Refusal :=
  .next (if !live s then s else modHost s fun h => { h with mcrTail := v.setWidth 32 })

/-- BALLST, which takes effect at the next governor step (R451). -/
def execBallstWrite (v : BitVec 64) (s : State) : Host.Outcome State Fault Refusal :=
  .next (if !live s then s else modHost s fun h => { h with ballst := baseBits v 12 6 })

/-- A write of a register that is writable until GO (R429). -/
def writeUntilGo (s : State) (f : HostIf → HostIf) : State := if s.host.go then s else modHost s f

/-- A write to a debug register: it holds what was written (log 73); the attach bits of the contexts are in these (R30,
R398), at places that the manual does not give, so each is free (log 3). -/
def debugWrite (s : State) (off : Nat) (v : Dword) : State :=
  { s with
    host := { s.host with debugRegs := (if v = 0 then [] else [(off, v)]) ++ s.host.debugRegs.filter fun x => x.1 != off }
    ctxs := s.ctxs.zipIdx.map fun x => { x.1 with debug := Config.freeBool (s.fresh + x.2) }, fresh := s.fresh + 65 }

/-- HOST_REGISTER_WRITE: a whole word to a register without a row of its own (R428, R429); elsewhere it is ignored. -/
def execHostRegisterWrite (off : Nat) (v : BitVec 64) (s : State) : Host.Outcome State Fault Refusal :=
  .next (
    if !live s then s
    else if off = 0x010 then writeUntilGo s fun h => { h with ctxtab := baseBits v 6 0 }
    else if off = 0x018 then writeUntilGo s fun h => { h with qdtab := baseBits v 12 0 }
    else if off = 0x020 then writeUntilGo s fun h => { h with sfqbase := baseBits v 12 5 }
    else if off = 0x030 then writeUntilGo s fun h => { h with mcrbase := baseBits v 12 5 }
    else if 0x1000 ≤ off ∧ off < 0x1800 ∧ off % 8 = 0 then debugWrite s off v
    else s)

/-! ## BAR4 (R428) -/

/-- The bytes that a host read of local memory gives; those that are poisoned or lie in no stack are free (log 3). -/
def barBytes (s : State) (keys : List Nat) : List Byte :=
  keys.zipIdx.map fun x =>
    if !paOk x.1 || poisonedKey s x.1 then BitVec.ofNat 8 (Config.freeNat (s.fresh + x.2)) else memGet s.mem x.1

/-- The keys of the bytes that an access reaches. -/
def barKeys (acc : BarAccess) : List Nat := (List.range acc.size).map (acc.addr + ·)

/-- Operation code of an AtomicOp (R224). -/
def barOp : BarAtomic → Nat
  | .fetchAdd => 0x0
  | .swap => 0x8
  | .cas => 0x9

/-- Does the device complete an AtomicOp: of 32 or 64 bits, at its natural alignment, on memory that exists and is not
poisoned (R226, R227; log 71)? -/
def barAtomicOk (s : State) (acc : BarAccess) : Bool :=
  (acc.size == 4 || acc.size == 8) && acc.addr % acc.size == 0 &&
    (barKeys acc).all fun k => paOk k && !poisonedKey s k

/-- Perform an AtomicOp of the host, in one step: it answers the old bytes (R225, R226, R428). -/
def performBarAtomic (s : State) (acc : BarAccess) (a : BarAtomic) : State :=
  let keys := barKeys acc
  let s1 := meetKeys s (keys.filter paOk)
  let s2 := { s1 with host := { s1.host with readData := barBytes s1 keys }, fresh := s1.fresh + acc.size }
  if barAtomicOk s1 acc then
    writeSector s2 none none acc.addr acc.addr (keys.zip (atomBytes (barOp a) (memGets s1.mem keys) acc.data acc.cmp))
  else s2

/-- Perform an access of the host: a coherent read or write of local physical memory from address 0; what lies in no stack is
not written. -/
def performBar (s : State) (acc : BarAccess) : State :=
  let keys := barKeys acc
  if acc.write then
    ((List.range acc.size).filter fun i => i == 0 || (acc.addr + i) % 48 == 0).foldl (fun s i =>
      let n := 48 - (acc.addr + i) % 48
      let kbs := (keys.zip acc.data).drop i |>.take n
      writeSector s none none (acc.addr + i) (acc.addr + i) (kbs.filter fun x => paOk x.1)) s
  else
    let s1 := meetKeys s (keys.filter paOk)
    { s1 with host := { s1.host with readData := barBytes s1 keys }, fresh := s1.fresh + acc.size }

/-- Must an access wait: a copy engine owns a line that it reaches (R244), or an earlier one to the same bytes waits? -/
def barHeld (s : State) (acc : BarAccess) : Bool :=
  linesHold s (barKeys acc) ||
    (s.host.bars.takeWhile (· != acc)).any fun x => (barKeys x).any (barKeys acc).contains

/-- HOST_BAR4_ACCESS: it performs, or waits for the line that it recalls (R189, R244, R428). -/
def execHostBar4Access (acc : BarAccess) (s : State) : Host.Outcome State Fault Refusal :=
  .next (
    if !live s then s
    else if barHeld s acc then
      if s.host.bars.contains acc then s else modHost s fun h => { h with bars := h.bars ++ [acc] }
    else
      let s1 := modHost s fun h => { h with bars := h.bars.filter (· != acc) }
      match acc.atomic with
      | some a => performBarAtomic s1 acc a
      | none => performBar s1 acc)

/-! ## Management (R433) -/

/-- MGMT_ALERT_READ: a record is read; ALERT_N stays asserted for a record that is not. -/
def execMgmtAlertRead (s : State) : Host.Outcome State Fault Refusal :=
  .next (modHost s fun h => { h with alerts := h.alerts - 1, alertN := decide (h.alerts ≥ 2) })

/-- THERMTRIP: core power is removed, and an alert raised. -/
def execThermtrip (s : State) : Host.Outcome State Fault Refusal :=
  .next (raiseAlert (modHost s fun h => { h with powerOff := true }))

/-! ## FREEZE and resets (R427, R434) -/

/-- A remap entry as the management controller keeps it (R410); a copy in progress is lost. -/
def Remap.kept (r : Remap) : Remap := { r with busy := false, copied := 0, fixed := 0, bad := false, old := none, op := none }

/-- A cold reset (R434): every register returns to its reset value, and bring-up starts. HBM contents stay, and so does what
the controller keeps: remap tables, group membership, alerts, its list of retired islands (R435). -/
def coldReset (s : State) : State :=
  { State.reset with
    mem := s.mem, agenda := s.agenda, fresh := s.fresh, nextId := s.nextId
    hbm := { Hbm.reset with ce := s.hbm.ce, ue := s.hbm.ue, stuck := s.hbm.stuck, rewritten := s.hbm.rewritten, pois := s.hbm.pois
                            oldStuck := s.hbm.oldStuck
                            remaps := s.hbm.remaps.map Remap.kept }
    pw := { Power.reset with members := s.pw.members, newMembers := s.pw.newMembers }
    host := { HostIf.reset with
      alertN := s.host.alertN, alerts := s.host.alerts, vectors := s.host.vectors, retiredList := s.host.retiredList } }

/-- A reset while FREEZE is asserted waits for its release (R434). -/
def requestReset (s : State) : State :=
  if s.host.freezePin then modHost s fun h => { h with resetPending := true } else coldReset s

/-- COLD_RESET: RST_N or PERST_N. -/
def execColdReset (s : State) : Host.Outcome State Fault Refusal := .next (requestReset s)

/-- HCTL.CRST. -/
def execHctlCrst (s : State) : Host.Outcome State Fault Refusal := .next (if s.host.powerOff then s else requestReset s)

/-- FREEZE_ASSERT: the device stops until a reset; FROZEN and vector 3; an alert (R427, R431, R433). The management
controller works on after a THERMTRIP, so the pin counts then too. -/
def execFreezeAssert (s : State) : Host.Outcome State Fault Refusal :=
  .next (
    if s.host.freezePin then s
    else
      let s1 := raiseAlert (modHost s fun h => { h with freezePin := true, frozen := true })
      if s.host.frozen then s1 else raiseVector s1 3)

/-- FREEZE_RELEASE: it restarts nothing; a reset that waited goes on. -/
def execFreezeRelease (s : State) : Host.Outcome State Fault Refusal :=
  .next (
    let s1 := modHost s fun h => { h with freezePin := false }
    if s.host.resetPending then coldReset s1 else s1)

/-! ## Bring-up (R435) -/

/-- Islands that the controller retires: those of its list, and those whose self-test fails, which is free (log 3); it
lists them. -/
def bringIslands (s : State) : State :=
  let retired (i : Nat) : Bool := s.host.retiredList.contains i || Config.freeBool (s.fresh + i)
  let out := (List.range Config.cores).filter retired
  { s with
    cores := s.cores.zipIdx.map fun x => { x.1 with retired := retired x.2 }
    health := { s.health with retired := out.length }
    host := { s.host with retiredList := out }
    fresh := s.fresh + Config.cores }

/-- Training of the HBM interfaces: which pseudo-channels fail is free (log 3). -/
def bringStacks (s : State) : State :=
  (List.range 512).foldl (fun s i =>
    if Config.freeBool (s.fresh + i) then degrade s (i / 64) (i % 64) else s) s |> fun s => { s with fresh := s.fresh + 512 }

/-- SPR75 from the restored remap tables (R410). -/
def bringRemaps (s : State) : State :=
  let full (stack : Nat) : Bool := s.hbm.remaps.any fun r =>
    r.bank / 2 ^ 10 % 8 == stack && decide ((s.hbm.remaps.filter fun q => q.bank == r.bank).length > 48)
  checkReplace { s with health := { s.health with
    spr75 := BitVec.ofNat 8 (((List.range 8).map fun i => bitNat (full i) i).sum) } }

/-- A training outcome, which is free (log 3). -/
def freeBeat (k : Nat) : TrainResult :=
  { att := Config.freeNat k % 2, map := BitVec.ofNat 4 (Config.freeNat (k + 1)), speed := Config.freeNat (k + 2) % 3
    width := nth 1 [1, 2, 4] (Config.freeNat (k + 3) % 3) }

/-- Training of the fabric links (R423). -/
def bringLinks (s : State) : State :=
  (List.range 32).foldl (fun s p =>
    let k := s.fresh
    let s1 := { s with fresh := k + 9 }
    if Config.freeBool k then portDown s1 p (freeBeat (k + 1)) (freeBeat (k + 5)) else linkUp s1 p (freeBeat (k + 1))) s

/-- BRING_UP_COMPLETE: steps 1 to 6 end; the timebase is aligned, MCUP is set, and a GO that waited takes effect. -/
def execBringUpComplete (s : State) : Host.Outcome State Fault Refusal :=
  .next (
    if !live s || s.host.mcup then s
    else
      let s1 := { s with tb := s.tb + Config.freeNat s.fresh, fresh := s.fresh + 1 }
      let s2 := checkReplace (bringLinks (bringRemaps (bringStacks (bringIslands s1))))
      let s3 := modHost s2 fun h => { h with mcup := true, step := 7 }
      if s3.host.goPending then takeGo s3 else s3)

/-- One nanosecond of a timebase that is `n + 1` behind its reference: what falls due comes first, then the rest of the
adjustment (R22, R352, R358). -/
def catchUp (s : State) : Nat → State
  | 0 => s
  | n + 1 =>
    let s1 := tick { s with agenda := [] }
    { s1 with agenda := s1.agenda ++ (if n = 0 then [] else [.tbsyncPulse n]) ++ s.agenda }

/-- TBSYNC_PULSE (R22): a timebase that is behind the reference is brought up to it, a nanosecond at a time; one that is ahead
does not go back. -/
def execTbsyncPulse (adjust : Int) (s : State) : Host.Outcome State Fault Refusal := .next (catchUp s adjust.toNat)

end Sys2Proof.Machine
end

