-- ==== Sys2Proof/Machine/Special.lean ====
section
/-! DEFINITION. Special functions, class 0x4 (spec/04 R127, R128). The fixed inputs have the results of R128; for every
other input the returned bits are a free value kept within the bound of R127 (log 5). -/

namespace Sys2Proof.Machine

/-- Latency of class 0x4 (R60). -/
def latSfu : Nat := 16

/-- Fraction bits of the fixed-point values below. -/
def fxBits : Nat := 256

/-- One in fixed point. -/
def fxOne : Int := (2 ^ 256 : Nat)

/-- π in fixed point. -/
def fxPi : Int := 363771576891766324280234942777729862653393377328392429958772151117938894466185

/-- The natural logarithm of 2 in fixed point. -/
def fxLn2 : Int := 80260960185991308862233904206310070533990667611589946606122867505419956976171

/-- A finite F32 value in fixed point; exact, since every F32 is a multiple of 2^−149. -/
def fxOf (neg : Bool) (n : Nat) (q : Int) : Int :=
  let m : Int := (n * 2 ^ (q + 256).toNat : Nat)
  if neg then -m else m

/-- Product in fixed point. -/
def fxMul (a b : Int) : Int := a * b / fxOne

/-- The rest of the exponential series from term `k` on. -/
def fxExpFrom (x : Int) (term : Int) (k : Nat) : Nat → Int
  | 0 => 0
  | fuel + 1 => term + fxExpFrom x (fxMul term x / (k + 1 : Nat)) (k + 1) fuel

/-- 2^y of a fixed-point y, as fraction 2^f and integer part. -/
def fxExp2 (y : Int) : Int × Int := (fxExpFrom (fxMul (y % fxOne) fxLn2) fxOne 0 70, y / fxOne)

/-- The rest of the sine series: `term` is x^(2k+1)/(2k+1)! with its sign. -/
def fxSinFrom (xx : Int) (term : Int) (k : Nat) : Nat → Int
  | 0 => 0
  | fuel + 1 => term + fxSinFrom xx (-(fxMul term xx / ((2 * k + 2) * (2 * k + 3) : Nat))) (k + 1) fuel

/-- sin(2πf) of a fixed-point f. -/
def fxSinTurn (f : Int) : Int :=
  let x := fxMul (2 * fxPi) f
  fxSinFrom (fxMul x x) x 0 60

/-- The rest of the series of artanh: `pw` is z^(2k+1). -/
def fxAtanhFrom (zz : Int) (pw : Int) (k : Nat) : Nat → Int
  | 0 => 0
  | fuel + 1 => pw / (2 * k + 1 : Nat) + fxAtanhFrom zz (fxMul pw zz) (k + 1) fuel

/-- log₂ of n × 2^q, n > 0. -/
def fxLog2 (n : Nat) (q : Int) : Int :=
  let e := n.log2
  let m : Int := (n * 2 ^ (256 - e) : Nat)
  let z := (m - fxOne) * fxOne / (m + fxOne)
  ((e : Int) + q) * fxOne + 2 * fxAtanhFrom (fxMul z z) z 0 90 * fxOne / fxLn2

/-- tanh of a fixed-point value that is not negative; it stays below 1, so that its ulp is one of numbers below 1 (R127). -/
def fxTanh (a : Int) : Int :=
  if a ≥ 100 * fxOne then fxOne - 1
  else
    let (m, i) := fxExp2 (2 * a * fxOne / fxLn2)
    let e := m * (2 ^ i.toNat : Nat)
    (e - fxOne) * fxOne / (e + fxOne)

/-- An ulp at a fixed-point value, in fixed point (R127). -/
def fxUlp (x : Int) : Int := (2 ^ max (x.natAbs.log2 - 23) (256 - 149) : Nat)

/-- The special functions (R127). -/
inductive Sfu where
  | rcp | rsq | sqrt | exp2 | log2 | sint | cost | tanh
  deriving DecidableEq, Repr

/-- Function number of R127. -/
def Sfu.code : Sfu → Nat
  | .rcp => 0
  | .rsq => 1
  | .sqrt => 2
  | .exp2 => 3
  | .log2 => 4
  | .sint => 5
  | .cost => 6
  | .tanh => 7

/-- The fraction of a finite value, a − trunc(a), in fixed point. -/
def fxFrac (neg : Bool) (n : Nat) (q : Int) : Int :=
  let x := fxOf false n q % fxOne
  if neg then -x else x

/-- A fixed-point approximation of the exact result for a finite nonzero argument, far finer than an ulp. -/
def Sfu.approx (f : Sfu) (neg : Bool) (n : Nat) (q : Int) : Int :=
  match f with
  | .rcp => fxOne * fxOne / fxOf neg n q
  | .rsq => Nat.sqrt (fxOne * fxOne * fxOne / fxOf false n q).toNat
  | .sqrt => Nat.sqrt (fxOf false n q * fxOne).toNat
  | .exp2 =>
      let (m, i) := fxExp2 (fxOf neg n q)
      if i ≥ 0 then m * (2 ^ i.toNat : Nat) else m / (2 ^ (-i).toNat : Nat)
  | .log2 => fxLog2 n q
  | .sint => fxSinTurn (fxFrac neg n q)
  | .cost => fxSinTurn (fxFrac neg n q + fxOne / 4)
  | .tanh => let x := fxTanh (fxOf false n q); if neg then -x else x

/-- The greatest error that R127 allows, in fixed point. -/
def Sfu.bound (f : Sfu) (neg : Bool) (n : Nat) (q : Int) (x : Int) : Int :=
  let a := fxOf neg n q
  match f with
  | .rcp | .sqrt => fxUlp x
  | .rsq | .exp2 | .tanh => 2 * fxUlp x
  | .log2 => if fxOne / 2 ≤ a ∧ a ≤ 2 * fxOne then (2 ^ (256 - 22) : Nat) else 2 * fxUlp x
  | .sint | .cost => (2 ^ (256 - 23) : Nat)

/-- Is a candidate within the bound, up to the error of the approximation? -/
def Sfu.within (f : Sfu) (neg : Bool) (n : Nat) (q : Int) (r : FVal) : Bool :=
  match r with
  | .fin s m p =>
      let x := f.approx neg n q
      decide (((fxOf s m p - x).natAbs : Int) ≤ f.bound neg n q x + (2 ^ 64 : Nat))
  | _ => false

/-- The returned code for an input that R128 does not list: the part's own bits within the bound, else the nearest. -/
def Sfu.value (f : Sfu) (a : Word) (neg : Bool) (n : Nat) (q : Int) : Nat :=
  let r := (Config.sfuBits f.code a).toNat
  if f.within neg n q (fmtF32.decode r) then r
  else
    let x := f.approx neg n q
    (roundF32 (.fin (decide (x < 0)) x.natAbs (-256)) .rne).code

/-- Does the returned value equal the exact one? Only RSQ and SQRT can be exact outside R128. -/
def Sfu.exact (f : Sfu) (n : Nat) (q : Int) (r : FVal) : Bool :=
  match f, r with
  | .rsq, .fin false m p => cmpVal (.fin false (m * m * n) (2 * p + q)) (.fin false 1 0) == .eq
  | .sqrt, .fin false m p => cmpVal (.fin false (m * m) (2 * p)) (.fin false n q) == .eq
  | _, _ => false

/-- Is the exact result tiny (R86)? -/
def Sfu.tiny (f : Sfu) (neg : Bool) (n : Nat) (q : Int) : Bool :=
  match f with
  | .rcp => cmpVal (.fin false n q) (.fin false 1 126) == .gt
  | .exp2 => cmpVal (.fin neg n q) (.fin true 126 0) == .lt
  | .sint => decide ((fxFrac neg n q).natAbs ≤ 1335088 * 2 ^ (256 - 149))
  | .tanh => cmpVal (.fin false n q) (.fin false 1 (-126)) != .gt
  | _ => false

/-- The result for an input that R128 does not list. -/
def Sfu.other (f : Sfu) (a : Word) (neg : Bool) (n : Nat) (q : Int) : FRes :=
  let r := f.value a neg n q
  let nx := !f.exact n q (fmtF32.decode r)
  ⟨r, flIf nx flNX ||| flIf (nx && f.tiny neg n q) flUF⟩

/-- Is n a power of two? -/
def isPow2 (n : Nat) : Bool := n == 2 ^ n.log2

/-- ±0 in F32. -/
def zeroF (neg : Bool) : Nat := if neg then 0x80000000 else 0

/-- ±infinity in F32. -/
def infF (neg : Bool) : Nat := if neg then 0xFF800000 else 0x7F800000

/-- ±1 in F32. -/
def oneF (neg : Bool) : Nat := if neg then 0xBF800000 else 0x3F800000

/-- Invalid argument: the canonical NaN with IV. -/
def badArg : FRes := ⟨fmtF32.nan, flIV⟩

/-- A special function of an F32 code (R127, R128). -/
def Sfu.eval (f : Sfu) (a : Word) : FRes :=
  match fmtF32.decode a.toNat with
  | .nan sig => ⟨fmtF32.nan, flIf sig flIV⟩
  | .inf neg =>
      match f with
      | .rcp => ⟨zeroF neg, 0⟩
      | .rsq => if neg then badArg else ⟨zeroF false, 0⟩
      | .sqrt | .log2 => if neg then badArg else ⟨infF false, 0⟩
      | .exp2 => ⟨if neg then zeroF false else infF false, 0⟩
      | .sint | .cost => badArg
      | .tanh => ⟨oneF neg, 0⟩
  | .fin neg n q =>
      if n = 0 then
        match f with
        | .rcp | .rsq => ⟨infF neg, flDZ⟩
        | .sqrt | .sint | .tanh => ⟨zeroF neg, 0⟩
        | .exp2 | .cost => ⟨oneF false, 0⟩
        | .log2 => ⟨infF true, flDZ⟩
      else
        let e : Int := (n.log2 : Int) + q
        match f with
        | .rcp =>
            if cmpVal (.fin false n q) (.fin false 1 (-128)) != .gt then ⟨infF neg, flOF ||| flNX⟩
            else if isPow2 n then ⟨(roundF32 (.fin neg 1 (-e)) .rne).code, 0⟩
            else f.other a neg n q
        | .rsq => if neg then badArg else f.other a neg n q
        | .sqrt =>
            if neg then badArg
            else
              let x := f.approx neg n q
              let r := roundF32 (.fin false x.toNat (-256)) .rne
              if f.exact n q (fmtF32.decode r.code) then ⟨r.code, 0⟩ else f.other a neg n q
        | .exp2 =>
            if cmpVal (.fin neg n q) (.fin false 128 0) != .lt then ⟨infF false, flOF ||| flNX⟩
            else if cmpVal (.fin neg n q) (.fin true 150 0) == .lt then ⟨zeroF false, flUF ||| flNX⟩
            else
              let x := fxOf neg n q
              if x % fxOne = 0 ∧ x / fxOne ≥ -149 then ⟨(roundF32 (.fin false 1 (x / fxOne)) .rne).code, 0⟩
              else f.other a neg n q
        | .log2 =>
            if neg then badArg
            else if isPow2 n then ⟨(roundF32 (ofInt e) .rne).code, 0⟩
            else f.other a neg n q
        | .sint =>
            let x := fxFrac neg n q
            if x % (fxOne / 2) = 0 then ⟨zeroF neg, 0⟩
            else if x % (fxOne / 4) = 0 then ⟨oneF (decide (x = -(fxOne / 4) ∨ x = 3 * (fxOne / 4))), 0⟩
            else f.other a neg n q
        | .cost =>
            let x := fxFrac neg n q
            if x = 0 then ⟨oneF false, 0⟩
            else if x % (fxOne / 2) = 0 then ⟨oneF true, 0⟩
            else if x % (fxOne / 4) = 0 then ⟨zeroF false, 0⟩
            else f.other a neg n q
        | .tanh => f.other a neg n q

/-- A special function in each participant. -/
def sfuOp (s : State) (t : TI) (f : Sfu) : State :=
  laneOp s t.h latSfu fun v l =>
    let r := f.eval (v.src32 t.h l t.a)
    { ws := v.g.put32 l t.d (BitVec.ofNat 32 r.code), flags := r.flags }

/-- RCP (R127). -/
def execRcp (t : TI) (s : State) : Host.Outcome State Fault Refusal := .next (sfuOp s t .rcp)

/-- RSQ (R127). -/
def execRsq (t : TI) (s : State) : Host.Outcome State Fault Refusal := .next (sfuOp s t .rsq)

/-- SQRT (R127). -/
def execSqrt (t : TI) (s : State) : Host.Outcome State Fault Refusal := .next (sfuOp s t .sqrt)

/-- EXP2 (R127). -/
def execExp2 (t : TI) (s : State) : Host.Outcome State Fault Refusal := .next (sfuOp s t .exp2)

/-- LOG2 (R127). -/
def execLog2 (t : TI) (s : State) : Host.Outcome State Fault Refusal := .next (sfuOp s t .log2)

/-- SINT (R127). -/
def execSint (t : TI) (s : State) : Host.Outcome State Fault Refusal := .next (sfuOp s t .sint)

/-- COST (R127). -/
def execCost (t : TI) (s : State) : Host.Outcome State Fault Refusal := .next (sfuOp s t .cost)

/-- TANH (R127). -/
def execTanh (t : TI) (s : State) : Host.Outcome State Fault Refusal := .next (sfuOp s t .tanh)

end Sys2Proof.Machine
end

