-- ==== Sys2Proof/Machine/Dispatch.lean ====
section
/-! DEFINITION. The dispatch from each constructor of `Instr` to its meaning. -/

namespace Sys2Proof.Machine

/-- One step of the part: the meaning of instruction or event `i` at state `s`. -/
def exec (i : Instr) (s : State) : Host.Outcome State Fault Refusal :=
  match i with
  | .iadd t => Sys2Proof.Machine.execIadd t s
  | .isub t => Sys2Proof.Machine.execIsub t s
  | .imul t => Sys2Proof.Machine.execImul t s
  | .imulh t => Sys2Proof.Machine.execImulh t s
  | .imad t => Sys2Proof.Machine.execImad t s
  | .imin t => Sys2Proof.Machine.execImin t s
  | .imax t => Sys2Proof.Machine.execImax t s
  | .iabs t => Sys2Proof.Machine.execIabs t s
  | .ineg t => Sys2Proof.Machine.execIneg t s
  | .and t => Sys2Proof.Machine.execAnd t s
  | .or t => Sys2Proof.Machine.execOr t s
  | .xor t => Sys2Proof.Machine.execXor t s
  | .andn t => Sys2Proof.Machine.execAndn t s
  | .shl t => Sys2Proof.Machine.execShl t s
  | .shr t => Sys2Proof.Machine.execShr t s
  | .sar t => Sys2Proof.Machine.execSar t s
  | .rot t => Sys2Proof.Machine.execRot t s
  | .bfx t => Sys2Proof.Machine.execBfx t s
  | .bfi t => Sys2Proof.Machine.execBfi t s
  | .popc t => Sys2Proof.Machine.execPopc t s
  | .clz t => Sys2Proof.Machine.execClz t s
  | .ctz t => Sys2Proof.Machine.execCtz t s
  | .brev t => Sys2Proof.Machine.execBrev t s
  | .icmp t => Sys2Proof.Machine.execIcmp t s
  | .sel t => Sys2Proof.Machine.execSel t s
  | .mov t => Sys2Proof.Machine.execMov t s
  | .sad t => Sys2Proof.Machine.execSad t s
  | .dp4 t => Sys2Proof.Machine.execDp4 t s
  | .iadd64 t => Sys2Proof.Machine.execIadd64 t s
  | .isub64 t => Sys2Proof.Machine.execIsub64 t s
  | .imad64 t => Sys2Proof.Machine.execImad64 t s
  | .shl64 t => Sys2Proof.Machine.execShl64 t s
  | .shr64 t => Sys2Proof.Machine.execShr64 t s
  | .lea t => Sys2Proof.Machine.execLea t s
  | .mov64 t => Sys2Proof.Machine.execMov64 t s
  | .icmp64 t => Sys2Proof.Machine.execIcmp64 t s
  | .spmap t => Sys2Proof.Machine.execSpmap t s
  | .fadd t => Sys2Proof.Machine.execFadd t s
  | .fsub t => Sys2Proof.Machine.execFsub t s
  | .fmul t => Sys2Proof.Machine.execFmul t s
  | .ffma t => Sys2Proof.Machine.execFfma t s
  | .fmin t => Sys2Proof.Machine.execFmin t s
  | .fmax t => Sys2Proof.Machine.execFmax t s
  | .fcmp t => Sys2Proof.Machine.execFcmp t s
  | .frnd t => Sys2Proof.Machine.execFrnd t s
  | .hadd2 t => Sys2Proof.Machine.execHadd2 t s
  | .hmul2 t => Sys2Proof.Machine.execHmul2 t s
  | .hfma2 t => Sys2Proof.Machine.execHfma2 t s
  | .fscale t => Sys2Proof.Machine.execFscale t s
  | .fclass t => Sys2Proof.Machine.execFclass t s
  | .cvt t src => Sys2Proof.Machine.execCvt t src s
  | .pkb8 t => Sys2Proof.Machine.execPkb8 t s
  | .upkb8 t => Sys2Proof.Machine.execUpkb8 t s
  | .bscale t => Sys2Proof.Machine.execBscale t s
  | .rcp t => Sys2Proof.Machine.execRcp t s
  | .rsq t => Sys2Proof.Machine.execRsq t s
  | .sqrt t => Sys2Proof.Machine.execSqrt t s
  | .exp2 t => Sys2Proof.Machine.execExp2 t s
  | .log2 t => Sys2Proof.Machine.execLog2 t s
  | .sint t => Sys2Proof.Machine.execSint t s
  | .cost t => Sys2Proof.Machine.execCost t s
  | .tanh t => Sys2Proof.Machine.execTanh t s
  | .shflIdx t => Sys2Proof.Machine.execShflIdx t s
  | .shflUp t => Sys2Proof.Machine.execShflUp t s
  | .shflDn t => Sys2Proof.Machine.execShflDn t s
  | .shflXor t => Sys2Proof.Machine.execShflXor t s
  | .ballot t => Sys2Proof.Machine.execBallot t s
  | .vote t => Sys2Proof.Machine.execVote t s
  | .mpopc t => Sys2Proof.Machine.execMpopc t s
  | .redux t => Sys2Proof.Machine.execRedux t s
  | .matchOp t => Sys2Proof.Machine.execMatch t s
  | .gadd t => Sys2Proof.Machine.execGadd t s
  | .gsub t => Sys2Proof.Machine.execGsub t s
  | .gmul t => Sys2Proof.Machine.execGmul t s
  | .glog t => Sys2Proof.Machine.execGlog t s
  | .gshf t => Sys2Proof.Machine.execGshf t s
  | .gmov t => Sys2Proof.Machine.execGmov t s
  | .gcmp t => Sys2Proof.Machine.execGcmp t s
  | .gld t => Sys2Proof.Machine.execGld t s
  | .rdln t => Sys2Proof.Machine.execRdln t s
  | .bra t => Sys2Proof.Machine.execBra t s
  | .brc t => Sys2Proof.Machine.execBrc t s
  | .brp t => Sys2Proof.Machine.execBrp t s
  | .mark t => Sys2Proof.Machine.execMark t s
  | .join t => Sys2Proof.Machine.execJoin t s
  | .call t => Sys2Proof.Machine.execCall t s
  | .callr t => Sys2Proof.Machine.execCallr t s
  | .ret t => Sys2Proof.Machine.execRet t s
  | .exit t => Sys2Proof.Machine.execExit t s
  | .fork t => Sys2Proof.Machine.execFork t s
  | .yield t => Sys2Proof.Machine.execYield t s
  | .nop t => Sys2Proof.Machine.execNop t s
  | .trap t => Sys2Proof.Machine.execTrap t s
  | .brk t => Sys2Proof.Machine.execBrk t s
  | .tret t => Sys2Proof.Machine.execTret t s
  | .braAlw t => Sys2Proof.Machine.execBraAlw t s
  | .ld t => Sys2Proof.Machine.execLd t s
  | .st t => Sys2Proof.Machine.execSt t s
  | .lds t => Sys2Proof.Machine.execLds t s
  | .sts t => Sys2Proof.Machine.execSts t s
  | .ldsr t => Sys2Proof.Machine.execLdsr t s
  | .stsr t => Sys2Proof.Machine.execStsr t s
  | .pref t => Sys2Proof.Machine.execPref t s
  | .gath t => Sys2Proof.Machine.execGath t s
  | .qpop t => Sys2Proof.Machine.execQpop t s
  | .atom t => Sys2Proof.Machine.execAtom t s
  | .red t => Sys2Proof.Machine.execRed t s
  | .atoms t => Sys2Proof.Machine.execAtoms t s
  | .binit t => Sys2Proof.Machine.execBinit t s
  | .barvOne t => Sys2Proof.Machine.execBarvOne t s
  | .barvEach t => Sys2Proof.Machine.execBarvEach t s
  | .bexp t => Sys2Proof.Machine.execBexp t s
  | .bwait t => Sys2Proof.Machine.execBwait t s
  | .btest t => Sys2Proof.Machine.execBtest t s
  | .brd t => Sys2Proof.Machine.execBrd t s
  | .rbind t => Sys2Proof.Machine.execRbind t s
  | .rfree t => Sys2Proof.Machine.execRfree t s
  | .fence t => Sys2Proof.Machine.execFence t s
  | .drain t => Sys2Proof.Machine.execDrain t s
  | .cpy t => Sys2Proof.Machine.execCpy t s
  | .cpyr t => Sys2Proof.Machine.execCpyr t s
  | .cpyred t => Sys2Proof.Machine.execCpyred t s
  | .cpysig t => Sys2Proof.Machine.execCpysig t s
  | .alwb t => Sys2Proof.Machine.execAlwb t s
  | .alwr t => Sys2Proof.Machine.execAlwr t s
  | .mxlw t => Sys2Proof.Machine.execMxlw t s
  | .mxrow t => Sys2Proof.Machine.execMxrow t s
  | .mxzero t => Sys2Proof.Machine.execMxzero t s
  | .mxrd t => Sys2Proof.Machine.execMxrd t s
  | .mxwr t => Sys2Proof.Machine.execMxwr t s
  | .mxst t => Sys2Proof.Machine.execMxst t s
  | .mxflgRd t => Sys2Proof.Machine.execMxflgRd t s
  | .mxflgClr t => Sys2Proof.Machine.execMxflgClr t s
  | .mxflgOrr t => Sys2Proof.Machine.execMxflgOrr t s
  | .ergc t => Sys2Proof.Machine.execErgc t s
  | .ergkIn t => Sys2Proof.Machine.execErgkIn t s
  | .ergkOut t => Sys2Proof.Machine.execErgkOut t s
  | .ergkRst t => Sys2Proof.Machine.execErgkRst t s
  | .ergkInv t => Sys2Proof.Machine.execErgkInv t s
  | .ergt t => Sys2Proof.Machine.execErgt t s
  | .ergmRd t => Sys2Proof.Machine.execErgmRd t s
  | .ergmWr t => Sys2Proof.Machine.execErgmWr t s
  | .ergmClr t => Sys2Proof.Machine.execErgmClr t s
  | .ergmDesc t => Sys2Proof.Machine.execErgmDesc t s
  | .enq t => Sys2Proof.Machine.execEnq t s
  | .budr t => Sys2Proof.Machine.execBudr t s
  | .crd t => Sys2Proof.Machine.execCrd t s
  | .cwr t => Sys2Proof.Machine.execCwr t s
  | .crdStk t => Sys2Proof.Machine.execCrdStk t s
  | .cwrStk t => Sys2Proof.Machine.execCwrStk t s
  | .crdJs t => Sys2Proof.Machine.execCrdJs t s
  | .cwrJs t => Sys2Proof.Machine.execCwrJs t s
  | .crdTs t => Sys2Proof.Machine.execCrdTs t s
  | .cwrTs t => Sys2Proof.Machine.execCwrTs t s
  | .scrbRow t => Sys2Proof.Machine.execScrbRow t s
  | .scrbQry t => Sys2Proof.Machine.execScrbQry t s
  | .rspr t => Sys2Proof.Machine.execRspr t s
  | .tlbi t => Sys2Proof.Machine.execTlbi t s
  | .haltcHalt t => Sys2Proof.Machine.execHaltcHalt t s
  | .haltcResume t => Sys2Proof.Machine.execHaltcResume t s
  | .haltcStep t => Sys2Proof.Machine.execHaltcStep t s
  | .cwrSrseed t => Sys2Proof.Machine.execCwrSrseed t s
  | .cwrFstat t => Sys2Proof.Machine.execCwrFstat t s
  | .cwrSkipw t => Sys2Proof.Machine.execCwrSkipw t s
  | .cwrMxcad t => Sys2Proof.Machine.execCwrMxcad t s
  | .cwrPlane t => Sys2Proof.Machine.execCwrPlane t s
  | .cwrChecksb t => Sys2Proof.Machine.execCwrChecksb t s
  | .cwrUven t => Sys2Proof.Machine.execCwrUven t s
  | .cwrSiteal t => Sys2Proof.Machine.execCwrSiteal t s
  | .cwrSlew t => Sys2Proof.Machine.execCwrSlew t s
  | .cwrPriced t => Sys2Proof.Machine.execCwrPriced t s
  | .cwrCrwrej t => Sys2Proof.Machine.execCwrCrwrej t s
  | .cwrFabstat t => Sys2Proof.Machine.execCwrFabstat t s
  | .cwrHealth t => Sys2Proof.Machine.execCwrHealth t s
  | .cwrSpconf t => Sys2Proof.Machine.execCwrSpconf t s
  | .issueCycle core slot => Sys2Proof.Machine.execIssueCycle core slot s
  | .tokenRefill => Sys2Proof.Machine.execTokenRefill s
  | .memoryGrant op => Sys2Proof.Machine.execMemoryGrant op s
  | .loadDataReturn op => Sys2Proof.Machine.execLoadDataReturn op s
  | .globalWritePerform op sector => Sys2Proof.Machine.execGlobalWritePerform op sector s
  | .atomicPerform op => Sys2Proof.Machine.execAtomicPerform op s
  | .scratchServiceCycle op => Sys2Proof.Machine.execScratchServiceCycle op s
  | .gatherElementRead grp => Sys2Proof.Machine.execGatherElementRead grp s
  | .barrierApply op => Sys2Proof.Machine.execBarrierApply op s
  | .bwaitComplete op => Sys2Proof.Machine.execBwaitComplete op s
  | .bwaitBarfault op => Sys2Proof.Machine.execBwaitBarfault op s
  | .bwaitLimitExpire op => Sys2Proof.Machine.execBwaitLimitExpire op s
  | .drainEnd op => Sys2Proof.Machine.execDrainEnd op s
  | .fenceEnd op => Sys2Proof.Machine.execFenceEnd op s
  | .commitGateRelease core => Sys2Proof.Machine.execCommitGateRelease core s
  | .copySectorLand line sector => Sys2Proof.Machine.execCopySectorLand line sector s
  | .copyLineFault line => Sys2Proof.Machine.execCopyLineFault line s
  | .parkedIssueProceed grp => Sys2Proof.Machine.execParkedIssueProceed grp s
  | .peerRequestReceive r => Sys2Proof.Machine.execPeerRequestReceive r s
  | .portRequestDiscard r => Sys2Proof.Machine.execPortRequestDiscard r s
  | .fabricReplyReceive r => Sys2Proof.Machine.execFabricReplyReceive r s
  | .requestTimeout tag => Sys2Proof.Machine.execRequestTimeout tag s
  | .unsentTimeout req => Sys2Proof.Machine.execUnsentTimeout req s
  | .timeoutNoticeReceive fkey handle off => Sys2Proof.Machine.execTimeoutNoticeReceive fkey handle off s
  | .tagQuarantineExpire tag => Sys2Proof.Machine.execTagQuarantineExpire tag s
  | .flushMarkerReceive m => Sys2Proof.Machine.execFlushMarkerReceive m s
  | .planeEntrySwitch entry => Sys2Proof.Machine.execPlaneEntrySwitch entry s
  | .linkFlitResend port => Sys2Proof.Machine.execLinkFlitResend port s
  | .linkRetrain port => Sys2Proof.Machine.execLinkRetrain port s
  | .linkTrainingBeat port mine theirs => Sys2Proof.Machine.execLinkTrainingBeat port mine theirs s
  | .laneShed port => Sys2Proof.Machine.execLaneShed port s
  | .laneRegain port => Sys2Proof.Machine.execLaneRegain port s
  | .matrixOpStart core => Sys2Proof.Machine.execMatrixOpStart core s
  | .matrixRowComplete core => Sys2Proof.Machine.execMatrixRowComplete core s
  | .ergOpComplete core => Sys2Proof.Machine.execErgOpComplete core s
  | .governorStep => Sys2Proof.Machine.execGovernorStep s
  | .powerIntentSend => Sys2Proof.Machine.execPowerIntentSend s
  | .powerIntentReceive m => Sys2Proof.Machine.execPowerIntentReceive m s
  | .leaseReceive alloc expires => Sys2Proof.Machine.execLeaseReceive alloc expires s
  | .leaseExpire => Sys2Proof.Machine.execLeaseExpire s
  | .pacingHintReceive slice h => Sys2Proof.Machine.execPacingHintReceive slice h s
  | .pacingExpire core => Sys2Proof.Machine.execPacingExpire core s
  | .droopAlarmRaise core => Sys2Proof.Machine.execDroopAlarmRaise core s
  | .droopAlarmClear core => Sys2Proof.Machine.execDroopAlarmClear core s
  | .storageAlarmRaise => Sys2Proof.Machine.execStorageAlarmRaise s
  | .storageAlarmClear => Sys2Proof.Machine.execStorageAlarmClear s
  | .undervoltWindowEnd core => Sys2Proof.Machine.execUndervoltWindowEnd core s
  | .spareRowCopyStep bank => Sys2Proof.Machine.execSpareRowCopyStep bank s
  | .timingErrorReplay core => Sys2Proof.Machine.execTimingErrorReplay core s
  | .lateTimingError core => Sys2Proof.Machine.execLateTimingError core s
  | .stackDegraded stack => Sys2Proof.Machine.execStackDegraded stack s
  | .packetTakeIn ctx queue => Sys2Proof.Machine.execPacketTakeIn ctx queue s
  | .teamPlace slice cluster => Sys2Proof.Machine.execTeamPlace slice cluster s
  | .groupRetire grp => Sys2Proof.Machine.execGroupRetire grp s
  | .preempt slice => Sys2Proof.Machine.execPreempt slice s
  | .contextRestore team cluster => Sys2Proof.Machine.execContextRestore team cluster s
  | .enqRetry op => Sys2Proof.Machine.execEnqRetry op s
  | .ringPageRetry ctx => Sys2Proof.Machine.execRingPageRetry ctx s
  | .hostNotifyWrite ctx queue widx => Sys2Proof.Machine.execHostNotifyWrite ctx queue widx s
  | .hctlGo => Sys2Proof.Machine.execHctlGo s
  | .hctlCrst => Sys2Proof.Machine.execHctlCrst s
  | .sfqverdWrite v => Sys2Proof.Machine.execSfqverdWrite v s
  | .sfqidxTailWrite v => Sys2Proof.Machine.execSfqidxTailWrite v s
  | .mcridxTailWrite v => Sys2Proof.Machine.execMcridxTailWrite v s
  | .ballstWrite v => Sys2Proof.Machine.execBallstWrite v s
  | .hostRegisterWrite off v => Sys2Proof.Machine.execHostRegisterWrite off v s
  | .hostBar4Access acc => Sys2Proof.Machine.execHostBar4Access acc s
  | .mgmtAlertRead => Sys2Proof.Machine.execMgmtAlertRead s
  | .coldReset => Sys2Proof.Machine.execColdReset s
  | .bringUpComplete => Sys2Proof.Machine.execBringUpComplete s
  | .freezeAssert => Sys2Proof.Machine.execFreezeAssert s
  | .freezeRelease => Sys2Proof.Machine.execFreezeRelease s
  | .tbsyncPulse adjust => Sys2Proof.Machine.execTbsyncPulse adjust s
  | .thermtrip => Sys2Proof.Machine.execThermtrip s
  | .powerGroupMemberListWrite members => Sys2Proof.Machine.execPowerGroupMemberListWrite members s

end Sys2Proof.Machine
end

