-- ==== Sys2Proof/Machine/Enabled.lean ====
section
/-! DEFINITION. Which events may come next of themselves, and the choice among them. What happens from outside (the host, the
board, peers, physical faults) stands in the state's agenda as an input. -/

namespace Sys2Proof.Machine

/-- Does an event act on a device that FREEZE has stopped or that has no core power (R427, R433, R434)? -/
def actsStopped : Instr → Bool
  | .tokenRefill | .tbsyncPulse _ | .freezeAssert | .freezeRelease | .coldReset | .hctlCrst | .mgmtAlertRead | .thermtrip => true
  | _ => false

/-- May an event act now? -/
def acts (s : State) (i : Instr) : Bool := live s || actsStopped i

/-- Steps of one operation in flight: its sectors are those of its requests. -/
def opEvents (o : Op) : List Instr :=
  [.memoryGrant o.id, .loadDataReturn o.id, .atomicPerform o.id, .scratchServiceCycle o.id, .barrierApply o.id,
   .bwaitComplete o.id, .bwaitBarfault o.id, .drainEnd o.id, .fenceEnd o.id, .enqRetry o.id] ++
    ((o.reqs.flatMap fun q => [q.va.toNat / 48, (q.va.toNat + q.data.length) / 48]).eraseDups).map (.globalWritePerform o.id)

/-- Steps of a copy line. -/
def lineEvents (l : Line) : List Instr := (l.left.map (.copySectorLand l.id)) ++ [.copyLineFault l.id]

/-- Has a core something at its commit gate: issues that a replay may discard, operations that go on by the gate, or a bank that
is kept (R389, R417, R418)? -/
def gateDue (s : State) (c : Core) (n : Nat) : Bool :=
  !c.hist.isEmpty || (s.ops.any fun o => o.core == n && gated o.i) || c.slots.any fun sl => sl.bank.isSome

/-- Steps of one core. -/
def coreEvents (s : State) (c : Core) (n : Nat) : List Instr :=
  (if c.stopped || c.retired then [] else [.issueCycle n c.nextSlot]) ++
    (if gateDue s c n then [.commitGateRelease n] else []) ++
    (if c.mxq.isEmpty then [] else [.matrixOpStart n, .matrixRowComplete n]) ++
    (if c.ergq.isEmpty then [] else [.ergOpComplete n])

/-- Has a slice with an earlier deadline a team that fits nowhere (R328)? A ballast slice goes for any ordinary one (R355). -/
def outranked (s : State) (x : Slice) : Bool :=
  s.slices.any fun y => y.id != x.id && y.ballast.isNone && hasUnplaced y &&
    (x.ballast.isSome || decide (y.deadl.toNat < x.deadl.toNat)) && match y.k with
      | some k => !fitsAnywhere s (y.id, y.nextTeam) k
      | none => false

/-- May the command processor or the governor pre-empt a slice (R328, R355, R388)? A YIELD is a point at which it need not
wait for QUANT (R332). -/
def mayPreempt (s : State) (x : Slice) : Bool :=
  x.st == .running && (x.preempting || (outranked s x && (x.ballast.isSome || (x.quant != 0 && (x.yielded || decide (x.quantCount ≥ x.quant))))))

/-- Steps of one slice: its placement in each cluster, its pre-emption. -/
def sliceEvents (s : State) (x : Slice) : List Instr :=
  (if x.st == .ready || x.st == .running || x.fin.isSome then (List.range 96).map (.teamPlace x.id) else []) ++
    (if mayPreempt s x then [.preempt x.id] else [])

/-- Restores of a saved team. -/
def teamEvents (t : Team) : List Instr :=
  if t.st == .saved then (List.range 96).map (.contextRestore t.id) else []

/-- Steps of a group. -/
def groupEvents (g : Group) : List Instr :=
  (if g.gs.isEmpty then [] else [.gatherElementRead g.id]) ++ [.parkedIssueProceed g.id, .groupRetire g.id]

/-- Steps of the fabric's ports and planes, and accesses from outside that wait for a line. -/
def fabricEvents (s : State) : List Instr :=
  (s.fab.held.map .peerRequestReceive) ++ (s.host.bars.map .hostBar4Access) ++
  (s.fab.pending.map fun x => .planeEntrySwitch x.1) ++
    (List.range 32).flatMap fun p => [.laneShed p, .laneRegain p]

/-- The events that the running device may take. -/
def enabled (s : State) : List Instr :=
  (if s.host.mcup then [] else [.bringUpComplete]) ++
    (s.cores.zipIdx.flatMap fun x => coreEvents s x.1 x.2) ++ (s.ops.flatMap opEvents) ++ (s.lines.flatMap lineEvents) ++
    (s.sigs.map fun x => .copySectorLand x.id 0) ++ (s.groups.flatMap groupEvents) ++
    (s.slices.flatMap (sliceEvents s)) ++ (s.teams.flatMap teamEvents) ++
    (s.queues.map fun q => .packetTakeIn (getQueue s q.q).desc.ctx q.q) ++
    ((s.hbm.remaps.filter Remap.busy).map fun r => .spareRowCopyStep r.bank) ++ fabricEvents s

/-- The event that comes next when nothing is in hand and nothing is due; which is free (log 3). A stopped device only
counts time. -/
def autonomous (s : State) : Instr :=
  let es := Instr.tokenRefill :: enabled s
  if live s then nth .tokenRefill es (Config.choice s.fresh % es.length) else .tokenRefill

end Sys2Proof.Machine
end

