-- ==== Sys2Proof/Machine/Step.lean ====
section
/-! DEFINITION. One step of the machine: the issue in hand runs the instruction that stands at its address; else the event
that is due; else an event of the machine's own choice. -/

namespace Sys2Proof.Machine

/-- One step. -/
def step (s : State) : Host.Outcome State Fault Refusal :=
  if s.busy then
    match curGroup s with
    | none => .fault .noGroup
    | some g =>
      match fetchInstr s g s.cur.pc with
      | some i => exec i s
      | none => .next (takeTrap s 0x01 (fetchTval s g s.cur.pc))
  else
    match s.agenda with
    | i :: is => if acts s i then exec i { s with agenda := is } else .next { s with agenda := is }
    | [] => exec (autonomous s) (bump s)

/-- The kernel of the group that `withFetchWord` places: one core, one role of one group with all lanes running. -/
def probeKernel : Kernel :=
  { mask := false, cores := 1, acc := 16, nregion := 1, gen := 16, wgt := 16, act := 16, erg := 16, images := []
    ergta := 0, ergtr := 0, roles := [{ entry := 0x1000, groups := 1, fibres := 64, regs := 64 }] }

/-- The packet of that slice. -/
def probePacket : Packet :=
  { hdr := 0x00011001, nteam := 1, kdesc := 0, args := 0, signal := 0, crec := 0, deadline := 0, budget := 0xFFFF
    seed := 1, oplist := 0 }

/-- The slice that `withFetchWord` places: privileged, so that every instruction has its effect. -/
def probeSlice : Slice :=
  { id := 1, die := 0, entry := 0, reserved := false, ctx := 0, priv := true, depth := 0, st := .running
    pred := none, pkt := probePacket, k := some probeKernel, nextTeam := 1, left := 0xFFFF, budget := 0xFFFF
    deadl := 0, quant := 0, quantCount := 0, used := 0, engy := 0, thand := 0, tstart := some 0, tend := 0
    ending := none, ballast := none, readyAt := 0, started := true, preempting := false, queue := none, token := none, verdict := none }

/-- The context descriptor of that slice. -/
def probeDesc : CtxDesc :=
  { root := 0, asid := 1, live := true, expert := true, fkey := 0, shand := 0x2000, saves := 0, floor := 0, ceil := 0
    ring := 0 }

/-- The share of core 0 that it holds. -/
def probeTCore : TCore :=
  { phys := 0, pos := [0, 16, 32, 48], gen := [], wgt := [], act := [], erg := [], pois := []
    acc := List.replicate 16 { cols := List.replicate 128 0, flags := 0, pois := false }
    latch := none, baton := none, held := false, holder := 0 }

/-- Its team. -/
def probeTeam : Team :=
  { id := 2, no := 0, slice := 1, cluster := 0, st := .running, cores := [probeTCore], k := probeKernel
    desc := probeDesc, regions := [none], skip := List.replicate 64 0, ergta := 0, ergtr := 0, record := 0
    heldReqs := [], signals := [], ffo := [], mxPend := [], ergPend := [] }

/-- Its group. -/
def probeGroup : Group :=
  Group.create { id := 3, grp := 0, role := 0, idx := 0, team := 2, teamNo := 0, coreNo := 0, core := 0, slot := 0
                 place := 0, fibres := 64, regs := 64, entry := 0x1000, checksb := false, seed := 1 }

/-- The instruction `w` of `nbits` bits stands where `step` fetches next (log 6): a core holds its bytes, and a group of
a privileged slice has formed an issue at their address. -/
def State.withFetchWord (s : State) (nbits w : Nat) : State :=
  { s with
    slices := probeSlice :: s.slices
    teams := probeTeam :: s.teams
    groups := probeGroup :: s.groups
    cores := modNth s.cores 0 fun c =>
      { c with fetch := { asid := 1, va := 0x1000, bytes := toBytes (w % 2 ^ nbits) 32 } :: c.fetch }
    cur := { grp := 3, mask := BitVec.allOnes 64, pc := 0x1000 }
    busy := true
    nextId := max s.nextId 4 }

end Sys2Proof.Machine
end

