-- ==== Sys2Proof/Safety.lean ====
section
/-! DEFINITION. What counts as a safe run, and the words in which statements speak of a step: what a place holds and reads,
which places are one cell, what a step of one group may touch. -/

namespace Sys2Proof.Safety

open Sys2Proof.Machine

/-- The answer is a next state with a property. -/
def CompletesWith (o : Host.Outcome State Fault Refusal) (p : State → Prop) : Prop := ∃ t, o = .next t ∧ p t

/-- Device memory is in canonical form (log 2). -/
def MemOk (s : State) : Prop := memWf s.mem = true

/-- Every window of every team is in canonical form (log 2). -/
def ScratchOk (s : State) : Prop :=
  ∀ t ∈ s.teams, ∀ c ∈ t.cores, memWf c.gen = true ∧ memWf c.wgt = true ∧ memWf c.act = true ∧ memWf c.erg = true

/-- A lane holds at least 64 registers and 64 of the system bank (R17, R389). -/
def laneShaped (l : Lane) : Bool := decide (64 ≤ l.rf.length) && l.bv.length == 64

/-- A group has 64 lanes, 24 group registers and 24 of the system bank (R13, R389). -/
def groupShaped (g : Group) : Bool :=
  g.lanes.length == 64 && g.g.length == 24 && g.bg.length == 24 && g.lanes.all laneShaped

/-- Every window lies inside the fibre's stack of 65,536 registers (R23, R292); the system bank has no windows. -/
def windowsInside (g : Group) : Bool := g.onBank || g.lanes.all fun l => decide (l.base + 64 ≤ 65536)

/-- Every group, and every group that a replay could bring back, has the shape of R13. -/
def ShapesOk (s : State) : Prop :=
  (∀ g ∈ s.groups, groupShaped g = true) ∧ (∀ c ∈ s.cores, ∀ h ∈ c.hist, groupShaped h.grp = true)

/-- Every kernel, of a slice in the pool or of a record in an overflow ring, declares at least 64 resident registers for
each role (R17). -/
def KernelsOk (s : State) : Prop :=
  (∀ x ∈ s.slices, ∀ k, x.k = some k → ∀ r ∈ k.roles, 64 ≤ r.regs) ∧
    ∀ y ∈ s.rings, ∀ k, y.slice.k = some k → ∀ r ∈ k.roles, 64 ≤ r.regs

/-- Does a place exist in a group? -/
def placeExists (g : Group) : Dst → Bool
  | .v l x => decide (l < g.lanes.length) && (if x < 65536 then decide (0 < (g.lane l).rz) else decide (x - 65536 < (g.lane l).bv.length))
  | .p l n => decide (l < g.lanes.length) && decide (n < 15)
  | .g n => if n < 24 then decide (n < g.g.length) else decide (n - 24 < g.bg.length)
  | .gf _ => true

/-- Are two places one cell? Stack registers of a lane that are equal mod Rz share one (R292). -/
def sameCell (g : Group) : Dst → Dst → Bool
  | .v l x, .v m y => l == m && if x < 65536 ∧ y < 65536 then x % (g.lane l).rz == y % (g.lane l).rz else x == y
  | d, e => d == e

/-- What a place keeps of a value: a predicate its bit 0, GF five bits (R53, R133). -/
def keeps : Dst → Word → Word
  | .p _ _, w => if w.getLsbD 0 then 1 else 0
  | .gf _, w => (w.setWidth 5).setWidth 32
  | _, w => w

/-- What an instruction of a group that issues in cycle `c` reads at a place. -/
def readAt (s : State) (id c : Nat) (d : Dst) : Word :=
  match getGroup s id with
  | some g => g.read c d
  | none => 0

/-- Fixed-latency results of an issue in cycle `cyc` (R60, R62): a place reads its value from `lat` cycles on, and before
that what it held; every other place reads as before. -/
structure LandsFixed (g g' : Group) (cyc lat : Nat) (ws : List (Dst × Word)) : Prop where
  lands : ∀ x ∈ ws, x.1.real = true → ∀ c, cyc ≤ c → g'.read c x.1 = if c < cyc + lat then g.get x.1 else keeps x.1 x.2
  others : ∀ d, (∀ x ∈ ws, x.1.real = true → sameCell g x.1 d = false) → ∀ c, cyc ≤ c → g'.read c d = g.read c d

/-- Results written at once (R61): a place holds its value; every other place holds what it held. -/
structure Lands (g g' : Group) (ws : List (Dst × Word)) : Prop where
  lands : ∀ x ∈ ws, x.1.real = true → g'.get x.1 = keeps x.1 x.2
  others : ∀ d, (∀ x ∈ ws, x.1.real = true → sameCell g x.1 d = false) → g'.get d = g.get d

/-- A lane without its registers and predicates. -/
def bareLane (l : Lane) : Lane := { l with preds := 0, rf := List.replicate l.rf.length 0, bv := [], bp := 0, pois := [] }

/-- A group without its registers, predicates, GF and what is not readable yet. -/
def bareGroup (g : Group) : Group :=
  { g with lanes := g.lanes.map bareLane, g := [], bg := [], gf := 0, bgf := 0, early := [], gpois := [], errs := [] }

/-- The carried fibres of a group stand `len` bytes further on. -/
def stepOn (g : Group) (m : Mask) (len : Nat) : Group :=
  { g with lanes := g.lanes.mapIdx fun i l => if m.has i then { l with pc := l.pc + BitVec.ofNat 64 len } else l }

/-- The issue in hand is over, and no part of the state beside its group has changed: no byte of memory, no other group,
no special register. -/
structure OnlyGroup (s u : State) (id : Nat) : Prop where
  rest : { u with groups := s.groups, busy := s.busy } = s
  others : ∀ k, k ≠ id → getGroup u k = getGroup s k
  ended : u.busy = false
  memory : ∀ a, memGet u.mem a = memGet s.mem a

/-- What an instruction needs of the state and its operands alone: an issue of a group of the machine's shape is in hand,
and the instruction is one that R45 to R57 and its entry admit. -/
structure Ready (i : Instr) (s : State) (v : View) : Prop where
  view : viewOf s = some v
  shaped : groupShaped v.g = true
  windows : windowsInside v.g = true
  legal : i.wf = true

/-- The flags that lanes raise, joined. -/
def joined (ls : List Nat) (f : Nat → BitVec 5) : BitVec 5 := ls.foldl (fun a l => a ||| f l) 0

/-- The instruction completes in every state that is ready for it (R107): in every participant its results land, `lat`
cycles from readable, the flags raised join FSTAT, the carried fibres go on, and nothing else changes. -/
def LaneLands (i : Instr) (h : Hdr) (lat : Nat) (ws : View → Nat → List (Dst × Word)) (fl : View → Nat → BitVec 5) : Prop :=
  ∀ s v, Ready i s v → ∃ u g', exec i s = .next u ∧ OnlyGroup s u v.g.id ∧ getGroup u v.g.id = some g' ∧
    LandsFixed v.g g' v.cyc lat ((lanesOf (v.parts h)).flatMap (ws v)) ∧
    bareGroup g' = bareGroup (stepOn (v.g.orFstat (joined (lanesOf (v.parts h)) (fl v))) v.carried h.len.bytes)

/-- The same of an instruction that raises no flag: FSTAT is unchanged too. -/
def LaneWrites (i : Instr) (h : Hdr) (lat : Nat) (ws : View → Nat → List (Dst × Word)) : Prop :=
  ∀ s v, Ready i s v → ∃ u g', exec i s = .next u ∧ OnlyGroup s u v.g.id ∧ getGroup u v.g.id = some g' ∧
    LandsFixed v.g g' v.cyc lat ((lanesOf (v.parts h)).flatMap (ws v)) ∧
    bareGroup g' = bareGroup (stepOn v.g v.carried h.len.bytes)

/-- A 32-bit result of class 0x0: in D of every participant, from the values of A, B and C there. -/
def IntResult (i : Instr) (t : TI) (f : Word → Word → Word → Word) : Prop :=
  LaneWrites i t.h 4 fun v l =>
    v.g.put32 l t.d (f (v.src32 t.h l t.a) (v.src32 t.h l t.b) (v.src32 t.h l t.c))

/-- An exact integer stored under R83 in `n` bits: wrapped, or clamped to the range of the type with .SAT. -/
def stored (n : Nat) (signed sat : Bool) (x : Int) : BitVec n :=
  if !sat then BitVec.ofInt n x
  else if signed then BitVec.ofInt n (max (-(2 ^ (n - 1) : Int)) (min (2 ^ (n - 1) - 1 : Int) x))
  else BitVec.ofInt n (max 0 (min (2 ^ n - 1 : Int) x))

/-- A register or pair as an integer, signed or not (R82). -/
def asInt {n : Nat} (signed : Bool) (w : BitVec n) : Int := if signed then w.toInt else w.toNat

/-- A destination that belongs to one lane: a register of its window or a predicate. -/
def laneWise : Opd → Bool
  | .v _ | .p _ => true
  | _ => false

end Sys2Proof.Safety
end

