-- ==== Sys2Proof/Certificates/Slice0/Obligations.lean ====
section
/-! DEFINITION. The statements of this row about the machine, each a formalisation of rules of spec/, for the provers. -/

section Statements

open Sys2Proof Sys2Proof.Machine Sys2Proof.Safety

namespace Sys2Proof.Safety

/-- The instruction answers a next state that differs from `s` in the group of the issue alone, which is then `g'`: no byte
of memory, no special register and no other group has changed. -/
def OwnGroup (i : Instr) (s : State) (v : View) (g' : Group) : Prop :=
  ∃ u, exec i s = .next u ∧ OnlyGroup s u v.g.id ∧ getGroup u v.g.id = some g'

/-- Fibres of a mask stand at an address of each lane's own; nothing else of the group differs. -/
def movedTo (g : Group) (m : Mask) (f : Nat → Dword) : Group :=
  { g with lanes := g.lanes.mapIdx fun i l => if m.has i then { l with pc := f i } else l }

/-- The first cycle in which the issue in hand lets its fibres issue again (R59). -/
def holdEnd (v : View) : Nat := (lanesOf v.carried).foldl (fun n l => max n (v.g.lane l).readyAt) 0

/-- The checks of the join stack's top entry (R290), while no spilled entry has to come back: a complete entry is popped and
its parked fibres run from cycle `t` + 2, from the end `hold` of the completing issue's stall (log 74), or from the end of their
own, whichever is latest, again and again. -/
inductive Checked (t hold : Nat) : Group → Group → Prop where
  | empty (g : Group) (h : g.js = []) : Checked t hold g g
  | waits (g : Group) (e : JEnt) (es : List JEnt) (h : g.js = e :: es) (hw : e.memb &&& ~~~e.park ≠ 0) : Checked t hold g g
  | pops (g g' : Group) (e : JEnt) (es : List JEnt) (h : g.js = e :: es) (hc : e.memb &&& ~~~e.park = 0)
      (hs : es ≠ [] ∨ g.jsd = 0)
      (next : Checked t hold { g with
        js := es
        lanes := g.lanes.mapIdx fun i (l : Lane) =>
          if e.park.has i ∧ l.st = .parked then
            { l with st := .live, readyAt := max (max l.readyAt hold) (t + 2), since := t + 2 } else l } g') :
      Checked t hold g g'

/-- The first participant, in ascending lane order, that fails a check: none below it does. -/
def firstOf (m : Mask) (fails : Nat → Prop) (l : Nat) : Prop :=
  l ∈ lanesOf m ∧ fails l ∧ ∀ k ∈ lanesOf m, k < l → ¬ fails k

/-- No participant fails a check. -/
def passes (m : Mask) (fails : Nat → Prop) : Prop := ∀ l ∈ lanesOf m, ¬ fails l

/-- A group whose fibres of a mask have taken a trap or returned from one: what they access from here on follows what the
group has still in flight (R249, R308). -/
def fenced (s : State) (g : Group) (m : Mask) : Group :=
  { g with lanes := g.lanes.mapIdx fun i (l : Lane) =>
      if m.has i then
        { l with fences := (s.nextId :: l.fences).filter fun f => s.ops.any fun o => o.grp == g.id && decide (o.id < f) }
      else l }

/-- A group whose lanes of a mask have exited, its other carried fibres gone on by `len` (R304). -/
def exited (v : View) (m : Mask) (len : Nat) : Group :=
  { stepOn v.g v.carried len with
    lanes := (stepOn v.g v.carried len).lanes.mapIdx fun i l => if m.has i then { l with st := .free } else l
    gq := if v.g.active &&& ~~~m = 0 then [] else v.g.gq
    js := v.g.js.map fun e => { e with memb := e.memb &&& ~~~m, park := e.park &&& ~~~m }
    exits := if 0 < v.g.jsd then (v.g.jsd, m) :: v.g.exits else v.g.exits
    ut := { v.g.ut with set := v.g.ut.set &&& ~~~m, active := v.g.ut.active && v.g.ut.set &&& ~~~m != 0 } }

/-- A group whose fibres of a set have entered the system handler, the slot's bank being new (R389, R393). -/
def onBank (g : Group) (set : Mask) (tcause tepc tval : Dword) (paid : Bool) (shand : Dword) : Group :=
  { g with
    sysPend := none
    early := g.early.filter fun e => !e.dst.inBank
    errs := g.errs.filter fun e => !e.1.inBank
    gpois := g.gpois.filter (· < 24)
    skipMask := g.skipMask &&& ~~~set
    sjsd := none
    sjspa := none
    st := { active := true, set := set, tcause := tcause, tepc := tepc, tval := tval, paid := if paid then some tepc else none }
    bg := List.replicate 24 0, bgf := 0, bfstat := 0
    lanes := g.lanes.mapIdx fun i (l : Lane) =>
      if set.has i then
        { l with
          sb := l.base, sp := l.preds, srb := none, bv := List.replicate 64 0, bp := 0, pc := shand
          pois := l.pois.filter (· < 65536) }
      else l }

/-- A handler's results that are still to come are lost with its bank (R389). -/
def bankDropped (s : State) (id : Nat) : List Op :=
  s.ops.map fun o => if o.grp = id ∧ o.sys = true then { o with dsts := [] } else o

/-- The operation in flight that an issue makes (R195). -/
def opMade (s : State) (v : View) (i : Instr) (mask : Mask) (stage : Stage) (reqs : List Req) (args : List Dword)
    (dsts : List Dst) (gran : List (List Nat)) : Op :=
  { id := s.nextId, grp := v.g.id, core := v.g.core, team := v.g.team, i := i, pc := v.pc, mask := mask
    carried := v.carried, stage := stage, parkSeq := 0, reqs := reqs, args := args, dsts := dsts
    at_ := s.tb, cyc := v.cyc, gran := gran, sys := v.g.onBank, price := s.cur.price, counted := s.cur.counted }

/-- The instruction answers a next state in which one operation more is in flight and the group of the issue is `g'`; no
register, no byte of memory and no other part of the state has changed. -/
def PutsInFlight (i : Instr) (s : State) (v : View) (o : Op) (g' : Group) : Prop :=
  ∃ u, exec i s = .next u ∧
    { u with ops := s.ops, nextId := s.nextId, groups := s.groups, busy := s.busy } = s ∧ u.busy = false ∧
    u.ops = s.ops ++ [o] ∧ u.nextId = s.nextId + 1 ∧ (∀ k, k ≠ v.g.id → getGroup u k = getGroup s k) ∧
    getGroup u v.g.id = some g'

/-- A request of one lane for memory that has not been translated. -/
def freshReq (lane : Nat) (va : Dword) (data cmp : List Byte) : Req :=
  { lane := lane, va := va, scr := none, keys := [], peer := none, data := data, cmp := cmp, got := [], pois := false
    bad := none, st := .fresh }

/-- Memory reads without error or poison: no codeword and no pseudo-channel of HBM is in error, and no unit of an array. -/
def cleanMemory (s : State) : Prop := hbmClean s = true ∧ s.hbm.failed = [] ∧ sramClean s = true

/-- No core has changed but in the records of what a replay would bring back (R417). -/
def coresKept (s u : State) : Prop :=
  u.cores.map (fun c => { c with hist := [] }) = s.cores.map fun c => { c with hist := [] }

/-- Nothing has changed beside the operations, the group `id`, and the cores' records for a replay. -/
def onlyOpAndGroup (s u : State) (id : Nat) : Prop :=
  { u with ops := s.ops, groups := s.groups, cores := s.cores } = s ∧ coresKept s u ∧
    ∀ k, k ≠ id → getGroup u k = getGroup s k

/-- A request for local memory that has its grant. -/
def localReq (q : Req) : Prop := q.st = .granted ∧ q.peer = none ∧ q.scr = none ∧ q.pois = false ∧ q.bad = none

/-- Operation `id` has left: every other operation stands as it stood. -/
def opGone (s u : State) (id : Nat) : Prop := getOp u id = none ∧ ∀ k, k ≠ id → getOp u k = getOp s k

/-- Of the shares of teams only that of one core of one team may have changed; that team's other fields stand, its account of
signals apart. -/
def onlyShare (s u : State) (team core : Nat) : Prop :=
  (∀ k, k ≠ team → getTeam u k = getTeam s k) ∧ (∀ k, k ≠ core → getTCore u team k = getTCore s team k) ∧
    ∀ y, getTeam s team = some y → ∃ z, getTeam u team = some z ∧
      { z with cores := y.cores, signals := y.signals } = y ∧ z.cores.length = y.cores.length

/-- The first check of a list, in its order, that any participant fails: its cause, and the value that it reports for the
lowest such participant. -/
def FirstFailure (m : Mask) : List ((Nat → Bool) × Nat × (Nat → Dword)) → Option (Nat × Dword) → Prop
  | [], r => r = none
  | (f, c, tv) :: cs, r =>
      (∃ l, firstOf m (fun k => f k = true) l ∧ r = some (c, tv l)) ∨
        (passes m (fun k => f k = true) ∧ FirstFailure m cs r)

/-- The group of the issue with no issue parked. -/
def unparked (s : State) (v : View) : State := modGroup s v.g.id fun g => { g with parked := none }

/-- The issue parks: its group waits for allowance with its fibres, its address and the lines that it wants (R265). -/
def Parks (i : Instr) (s : State) (v : View) (ps : List (Nat × Nat)) : Prop :=
  ∃ u, exec i s = .next u ∧ { u with groups := s.groups, nextId := s.nextId, busy := s.busy } = s ∧ u.busy = false ∧
    u.nextId = s.nextId + 1 ∧ (∀ k, k ≠ v.g.id → getGroup u k = getGroup s k) ∧
    getGroup u v.g.id = some { v.g with
      parked := some { mask := v.carried, pc := v.pc, seq := parkSeqOf s v.g, peers := ps } }

/-- An engine instruction at issue (R151, R152, R169, R173): it needs a converged group, acts for no participant not at all,
traps on its first failed check, one of its TYPE coming first, does not issue now while its queue is full, and else enters the
queue, its carried fibres going on. No register, no byte of memory and no scratch changes. -/
def EngineIssue (i : Instr) (s : State) (v : View) (h : Hdr) (typeOk : Bool)
    (checks : List ((Nat → Bool) × Nat × (Nat → Dword))) (full : Bool) (put : Core → Core) : Prop :=
  let next := stepOn v.g v.carried h.len.bytes
  (v.g.converged v.pc = false → exec i s = .next (takeTrap s 0x04 0)) ∧
  (v.g.converged v.pc = true →
    (v.parts h = 0 → OwnGroup i s v next) ∧
    (v.parts h ≠ 0 → typeOk = false → ∃ n tv, exec i s = .next (takeTrap { s with fresh := n } 0x01 tv)) ∧
    (v.parts h ≠ 0 → typeOk = true →
      (∀ cause tv, FirstFailure (v.parts h) checks (some (cause, tv)) → exec i s = .next (takeTrap s cause tv)) ∧
      (FirstFailure (v.parts h) checks none →
        (full = true → exec i s = .next { s with busy := false }) ∧
        (full = false → ∃ u, exec i s = .next u ∧
          { u with cores := s.cores, groups := s.groups, nextId := s.nextId, busy := s.busy } = s ∧ u.busy = false ∧
          u.cores = modNth s.cores v.g.core put ∧ u.nextId = s.nextId + 1 ∧
          (∀ k, k ≠ v.g.id → getGroup u k = getGroup s k) ∧ getGroup u v.g.id = some next))))

/-- Code `k` of packed elements of a TYPE. -/
def packedCode (ty : Ty) (bs : List Byte) (k : Nat) : Nat :=
  if ty.isHalf then (bs.getD (2 * k) 0).toNat + 256 * (bs.getD (2 * k + 1) 0).toNat else (bs.getD k 0).toNat

/-- One 32-bit integer step of R106: the accumulator, and the flags OF and SAT. -/
def intStep (sat : Bool) (acc : Word) (terms : List (Int × Int)) : Word × Bool × Bool :=
  let x := acc.toInt + (terms.map fun y => y.1 * y.2).sum
  let out : Bool := decide (x < -(2 ^ 31)) || decide (2 ^ 31 ≤ x)
  (if sat then BitVec.ofInt 32 (max (-(2 ^ 31)) (min (2 ^ 31 - 1) x)) else BitVec.ofInt 32 x, out && !sat, out && sat)

/-- Beside the queues, buffers and cadence of core `c`, of the cores only the records for a replay may have changed. -/
def otherCoresKept (s u : State) (c : Nat) : Prop :=
  ∀ k, k ≠ c → { getCore u k with hist := [] } = { getCore s k with hist := [] }

/-- A form that only a system handler may run (R400): PERM at level U, ILLOP at level S outside a system handler; in one,
the group alone changes. -/
def HandlerForm (i : Instr) (s : State) (v : View) (g' : Group) : Prop :=
  (levelS s v.g = false → exec i s = .next (takeTrap s 0x09 (fetchTval s v.g v.pc))) ∧
  (levelS s v.g = true → v.g.st.active = false → exec i s = .next (takeTrap s 0x01 (fetchTval s v.g v.pc))) ∧
  (v.g.st.active = true → OwnGroup i s v g')

/-- A control register of the group has been written and the issue is over: the carried fibres go on, `g'` being the group before
that. -/
def afterWrite (s : State) (v : View) (len : Nat) (g' : Group → Group) : State :=
  { s with
    groups := s.groups.map fun g => if g.id = v.g.id then stepOn (g' g) v.carried len else g
    busy := false }

/-- One operation waits at the commit gate of core `c`, past it, and no slot of the core holds a system bank. -/
def AtGate (s : State) (c : Nat) (o : Op) : Prop :=
  getOp s o.id = some o ∧ (s.ops.filter fun p => p.core == c && gated p.i) = [o] ∧ gateHolds s c o.cyc = false ∧
    ∀ slot < 4, (getSlot s c slot).bank = none

/-- COMMIT_GATE_RELEASE lets an operation act and end: the state is `u1`, in which it has acted, but that it is gone, its group
holds `ws` in its destinations, and its fibres go on. -/
def EndsAtGate (s : State) (c : Nat) (o : Op) (ws : List Word) (u1 : State) : Prop :=
  ∃ u, exec (.commitGateRelease c) s = .next u ∧ { u with ops := u1.ops, groups := u1.groups, cores := u1.cores } = u1 ∧
    coresKept u1 u ∧ opGone s u o.id ∧ (∀ k, k ≠ o.grp → getGroup u k = getGroup u1 k) ∧
    ∀ g, getGroup u1 o.grp = some g → getGroup u o.grp = some (stepOn (g.writes (o.dsts.zip ws)) o.carried o.i.len)

/-- Every operation in flight has a handle that was drawn before now. -/
def HandlesOk (s : State) : Prop := ∀ o ∈ s.ops, o.id < s.nextId

/-- The next machine-check record does not go where codeword `cw` lies. -/
def offRing (s : State) (cw : Nat) : Prop :=
  s.host.mcrbase.toNat % 2 ^ 52 / 4096 * 4096 + 64 * (s.host.mcrHead.toNat % 2 ^ (s.host.mcrbase.toNat % 32)) ≠ 64 * cw

/-- An instruction of level S that acts for a converged group (R27, R111): its traps, in their order. -/
def PrivilegedOnce (i : Instr) (s : State) (v : View) (checks : List ((Nat → Bool) × Nat × (Nat → Dword))) : Prop :=
  (levelS s v.g = false → exec i s = .next (takeTrap s 0x09 (fetchTval s v.g v.pc))) ∧
  (levelS s v.g = true → v.g.converged v.pc = false → exec i s = .next (takeTrap s 0x04 0)) ∧
  (levelS s v.g = true → v.g.converged v.pc = true → ∀ cause tv, FirstFailure 1 checks (some (cause, tv)) →
    exec i s = .next (takeTrap s cause tv))

/-- A header with GUARD 0b0111 and STALL 0. -/
def fetchHdr (l : Len) (ext : BitVec 64) : Hdr := { len := l, stall := 0, neg := false, pred := 7, ext := ext }

/-- The functions that R64 assigns in each class. -/
def assigned (cls fn : Nat) : Prop :=
  fn < [0x1C, 0x09, 0x0D, 0x04, 0x08, 0x09, 0x09, 0x10, 0x09, 0x03, 0x0A, 0x06, 0x07, 0x04, 0x06, 0x00].getD cls 0 ∨
    (cls = 0xD ∧ (fn = 0x10 ∨ fn = 0x11))

end Sys2Proof.Safety

/-- Class 0x0 arithmetic (R113, R83): exact, then wrapped, or clamped with .SAT. IMULH takes bits [63:32] of the exact
product; IABS and INEG are those of I32. -/
def Obligations.LaneIntegerArithmeticIsExactThenWrapsOrClamps : Prop :=
  ∀ t : TI,
    IntResult (.iadd t) t (fun a b _ => stored 32 t.ty.signed t.sat (asInt t.ty.signed a + asInt t.ty.signed b)) ∧
    IntResult (.isub t) t (fun a b _ => stored 32 t.ty.signed t.sat (asInt t.ty.signed a - asInt t.ty.signed b)) ∧
    IntResult (.imul t) t (fun a b _ => stored 32 t.ty.signed t.sat (asInt t.ty.signed a * asInt t.ty.signed b)) ∧
    IntResult (.imulh t) t (fun a b _ =>
      (BitVec.ofInt 64 (asInt t.ty.signed a * asInt t.ty.signed b)).extractLsb' 32 32) ∧
    IntResult (.imad t) t (fun a b c =>
      stored 32 t.ty.signed t.sat (asInt t.ty.signed a * asInt t.ty.signed b + asInt t.ty.signed c)) ∧
    IntResult (.imin t) t (fun a b _ => if asInt t.ty.signed a ≤ asInt t.ty.signed b then a else b) ∧
    IntResult (.imax t) t (fun a b _ => if asInt t.ty.signed a ≤ asInt t.ty.signed b then b else a) ∧
    IntResult (.iabs t) t (fun a _ _ => stored 32 true t.sat |a.toInt|) ∧
    IntResult (.ineg t) t (fun a _ _ => stored 32 true t.sat (-a.toInt))

/-- Class 0x0, bit by bit (R113). -/
def Obligations.LaneBitwiseShiftsAndCountsLand : Prop :=
  (∀ t : TI,
    IntResult (.and t) t (fun a b _ => a &&& b) ∧
    IntResult (.or t) t (fun a b _ => a ||| b) ∧
    IntResult (.xor t) t (fun a b _ => a ^^^ b) ∧
    IntResult (.andn t) t (fun a b _ => a &&& ~~~b) ∧
    IntResult (.shl t) t (fun a b _ => if 32 ≤ b.toNat then 0 else a <<< b.toNat) ∧
    IntResult (.shr t) t (fun a b _ => if 32 ≤ b.toNat then 0 else a >>> b.toNat) ∧
    IntResult (.sar t) t (fun a b _ =>
      if 32 ≤ b.toNat then (if a.getLsbD 31 then 0xFFFFFFFF else 0) else a.sshiftRight b.toNat) ∧
    IntResult (.rot t) t (fun a b _ => a.rotateLeft (b.toNat % 32)) ∧
    IntResult (.popc t) t (fun a _ _ => BitVec.ofNat 32 ((List.range 32).countP fun i => a.getLsbD i)) ∧
    IntResult (.clz t) t (fun a _ _ => BitVec.ofNat 32 (countLeading a)) ∧
    IntResult (.ctz t) t (fun a _ _ => BitVec.ofNat 32 (countTrailing a)) ∧
    IntResult (.brev t) t (fun a _ _ => bitReverse a) ∧
    IntResult (.mov t) t (fun a _ _ => a)) ∧
  (∀ a : Word, countLeading a ≤ 32 ∧ (∀ k < countLeading a, a.getLsbD (31 - k) = false) ∧
    (countLeading a < 32 → a.getLsbD (31 - countLeading a) = true)) ∧
  (∀ a : Word, countTrailing a ≤ 32 ∧ (∀ k < countTrailing a, a.getLsbD k = false) ∧
    (countTrailing a < 32 → a.getLsbD (countTrailing a) = true)) ∧
  (∀ (a : Word) (n : Nat), n < 32 → (bitReverse a).getLsbD n = a.getLsbD (31 - n))

/-- R114, bit by bit. -/
def Obligations.FieldExtractAndInsertFollowTheirLowBytes : Prop :=
  (∀ t : TI, IntResult (.bfx t) t (bfxVal t.ty) ∧ IntResult (.bfi t) t bfiVal) ∧
  (∀ (ty : Ty) (a b c : Word) (i : Nat), ty.isInt32 = true → i < 32 →
    (bfxVal ty a b c).getLsbD i =
      if 32 ≤ b.toNat % 256 ∨ c.toNat % 256 = 0 then false
      else if i < min (c.toNat % 256) (32 - b.toNat % 256) then a.getLsbD (b.toNat % 256 + i)
      else decide (ty = .i32) && a.getLsbD (b.toNat % 256 + min (c.toNat % 256) (32 - b.toNat % 256) - 1)) ∧
  (∀ (a b c : Word) (i : Nat), i < 32 →
    (bfiVal a b c).getLsbD i =
      if c.toNat % 256 ≤ i ∧ i < c.toNat % 256 + c.toNat / 256 % 256 then b.getLsbD (i - c.toNat % 256)
      else a.getLsbD i)

/-- R116. VAR[1] is MOD bit 63 (.UA), VAR[0] bit 62 (.UB). -/
def Obligations.ByteSumsAddFourBytesAndTheAccumulator : Prop :=
  ∀ t : TI,
    IntResult (.sad t) t (fun a b c =>
      let x (i : Nat) : Int := asInt (!t.var.getLsbD 1) (a.extractLsb' (8 * i) 8)
      let y (i : Nat) : Int := asInt (!t.var.getLsbD 0) (b.extractLsb' (8 * i) 8)
      let sum : Int := c.toNat + |x 0 - y 0| + |x 1 - y 1| + |x 2 - y 2| + |x 3 - y 3|
      BitVec.ofInt 32 (if t.sat then min sum (2 ^ 32 - 1) else sum)) ∧
    IntResult (.dp4 t) t (fun a b c =>
      let x (i : Nat) : Int := asInt (!t.var.getLsbD 1) (a.extractLsb' (8 * i) 8)
      let y (i : Nat) : Int := asInt (!t.var.getLsbD 0) (b.extractLsb' (8 * i) 8)
      stored 32 true t.sat (c.toInt + x 0 * y 0 + x 1 * y 1 + x 2 * y 2 + x 3 * y 3))

/-- R115, R117: the compares of integers, and SEL. -/
def Obligations.IntegerComparesAndSelectWriteTheirChoice : Prop :=
  ∀ t : TI,
    IntResult (.icmp t) t (fun a b _ =>
      let x := asInt t.ty.signed a
      let y := asInt t.ty.signed b
      let holds : Bool := match t.cmp with
        | .eq => x == y
        | .ne => x != y
        | .lt => decide (x < y)
        | .le => decide (x ≤ y)
        | .gt => decide (y < x)
        | .ge => decide (y ≤ x)
        | .ord | .uno => false
      if holds then 1 else 0) ∧
    LaneWrites (.icmp64 t) t.h 6 (fun v l =>
      let x := asInt t.ty.signed (v.src64 t.h l (t.ty == .i64) t.a)
      let y := asInt t.ty.signed (v.src64 t.h l (t.ty == .i64) t.b)
      let holds : Bool := match t.cmp with
        | .eq => x == y
        | .ne => x != y
        | .lt => decide (x < y)
        | .le => decide (x ≤ y)
        | .gt => decide (y < x)
        | .ge => decide (y ≤ x)
        | .ord | .uno => false
      v.g.put32 l t.d (if holds then 1 else 0)) ∧
    LaneWrites (.sel t) t.h 4 (fun v l =>
      v.g.put32 l t.d (if v.pred l t.c then v.src32 t.h l t.a else v.src32 t.h l t.b)) ∧
    ((Instr.icmp t).wf = true ∨ (Instr.icmp64 t).wf = true → t.cmp ≠ .ord ∧ t.cmp ≠ .uno) ∧
    ((Instr.sel t).wf = true → ∃ n, t.c = .p n)

/-- R117, the forms whose result is a pair. A 32-bit immediate extends with its sign for I64 and with zeros for Z64. -/
def Obligations.LongArithmeticActsOnPairs : Prop :=
  ∀ t : TI,
    let pair (v : View) (l : Nat) (o : Opd) : Dword := v.src64 t.h l (t.ty == .i64) o
    LaneWrites (.iadd64 t) t.h 6 (fun v l => v.g.put64 l t.d
      (stored 64 t.ty.signed t.sat (asInt t.ty.signed (pair v l t.a) + asInt t.ty.signed (pair v l t.b)))) ∧
    LaneWrites (.isub64 t) t.h 6 (fun v l => v.g.put64 l t.d
      (stored 64 t.ty.signed t.sat (asInt t.ty.signed (pair v l t.a) - asInt t.ty.signed (pair v l t.b)))) ∧
    LaneWrites (.imad64 t) t.h 6 (fun v l => v.g.put64 l t.d
      (stored 64 t.ty.signed t.sat (asInt t.ty.signed (v.src32 t.h l t.a) * asInt t.ty.signed (v.src32 t.h l t.b) +
        asInt t.ty.signed (pair v l t.c)))) ∧
    LaneWrites (.shl64 t) t.h 6 (fun v l => v.g.put64 l t.d
      (if 64 ≤ (v.src32 t.h l t.b).toNat then 0 else pair v l t.a <<< (v.src32 t.h l t.b).toNat)) ∧
    LaneWrites (.shr64 t) t.h 6 (fun v l => v.g.put64 l t.d
      (if t.ty.signed then (pair v l t.a).sshiftRight (min 63 (v.src32 t.h l t.b).toNat)
       else if 64 ≤ (v.src32 t.h l t.b).toNat then 0 else pair v l t.a >>> (v.src32 t.h l t.b).toNat)) ∧
    LaneWrites (.lea t) t.h 6 (fun v l => v.g.put64 l t.d
      (pair v l t.a + (if t.ty.signed then (v.src32 t.h l t.b).signExtend 64 else (v.src32 t.h l t.b).setWidth 64) <<<
        t.var.toNat)) ∧
    LaneWrites (.mov64 t) t.h 6 (fun v l => v.g.put64 l t.d (pair v l t.a))

/-- R118. -/
def Obligations.SpmapWritesRowByteAndBank : Prop :=
  (∀ t : TI, LaneWrites (.spmap t) t.h 6 fun v l => v.g.put32 l t.d (spmapVal (v.src32 t.h l t.a))) ∧
  (∀ x : Word, x.toNat ≤ 0x85FFFF →
    (spmapVal x).extractLsb' 30 2 = 0 ∧
    ((spmapVal x).extractLsb' 16 14).toNat = x.toNat / 8 / 67 ∧
    (spmapVal x).extractLsb' 11 5 = 0 ∧
    ((spmapVal x).extractLsb' 8 3).toNat = x.toNat % 8 ∧
    (spmapVal x).getLsbD 7 = false ∧
    ((spmapVal x).extractLsb' 0 7).toNat = x.toNat / 8 % 67) ∧
  (∀ x : Word, 0x85FFFF < x.toNat → spmapVal x = 0xFFFFFFFF)

/-- R119: the exact result, then RoundNarrow, with one rounding for FFMA and HFMA2. -/
def Obligations.FloatArithmeticRoundsTheExactResultOnce : Prop :=
  ∀ t : TI,
    let f32 (v : View) (l : Nat) (o : Opd) : FVal := fmtF32.decode (v.src32 t.h l o).toNat
    let half (v : View) (l : Nat) (o : Opd) (i : Nat) : FVal :=
      (tyFmt t.ty).decode ((v.src32 t.h l o).extractLsb' (16 * i) 16).toNat
    let one (i : Instr) (x : View → Nat → FExact) : Prop :=
      LaneLands i t.h 5
        (fun v l => v.g.put32 l t.d (BitVec.ofNat 32 ((x v l).round fmtF32 t.rnd t.sat 0).code))
        (fun v l => ((x v l).round fmtF32 t.rnd t.sat 0).flags)
    let two (i : Instr) (x : View → Nat → Nat → FExact) : Prop :=
      LaneLands i t.h 5
        (fun v l => v.g.put32 l t.d (BitVec.ofNat 32
          (((x v l 1).round (tyFmt t.ty) t.rnd t.sat 0).code * 2 ^ 16 + ((x v l 0).round (tyFmt t.ty) t.rnd t.sat 0).code)))
        (fun v l => ((x v l 0).round (tyFmt t.ty) t.rnd t.sat 0).flags ||| ((x v l 1).round (tyFmt t.ty) t.rnd t.sat 0).flags)
    one (.fadd t) (fun v l => addExact t.rnd (f32 v l t.a) (f32 v l t.b)) ∧
    one (.fsub t) (fun v l => addExact t.rnd (f32 v l t.a) (f32 v l t.b).negate) ∧
    one (.fmul t) (fun v l => mulExact (f32 v l t.a) (f32 v l t.b)) ∧
    one (.ffma t) (fun v l => fmaExact t.rnd (f32 v l t.a) (f32 v l t.b) (f32 v l t.c)) ∧
    one (.fscale t) (fun v l => fscaleVal (f32 v l t.a) (v.src32 t.h l t.b).toInt) ∧
    LaneLands (.frnd t) t.h 5
      (fun v l => v.g.put32 l t.d (BitVec.ofNat 32 (frndVal t.rnd (v.src32 t.h l t.a)).code))
      (fun v l => (frndVal t.rnd (v.src32 t.h l t.a)).flags) ∧
    two (.hadd2 t) (fun v l i => addExact t.rnd (half v l t.a i) (half v l t.b i)) ∧
    two (.hmul2 t) (fun v l i => mulExact (half v l t.a i) (half v l t.b i)) ∧
    two (.hfma2 t) (fun v l i => fmaExact t.rnd (half v l t.a i) (half v l t.b i) (half v l t.c i))

/-- R94, R98 order 7: a value that the format holds is rounded exactly. `r` is the 16-bit draw of SR. R87 and R98 order 1 for sums, products, fused products and scalings of any format. -/
def Obligations.RoundingKeepsCodesAndNansAreCanonical : Prop :=
  (∀ (t : Ty) (c : Nat) (mode : Rnd) (sat : Bool) (r : Nat), tyIsFloat t = true → t.legal = true →
      c < 2 ^ (tyFmt t).w → r < 2 ^ 16 → ((tyFmt t).decode c).isNan = false → ((tyFmt t).decode c).isInf = false →
      roundNarrow ((tyFmt t).decode c) (tyFmt t) mode sat r = ⟨c, 0⟩) ∧
  (∀ (f : Fmt) (mode : Rnd) (sat : Bool) (r : Nat) (a b c : FVal),
      (a.isNan || b.isNan = true →
        ((addExact mode a b).round f mode sat r).code = f.nan ∧ ((mulExact a b).round f mode sat r).code = f.nan ∧
        ((addExact mode a b).round f mode sat r).flags = flIf (a.isSig || b.isSig) flIV ∧
        ((mulExact a b).round f mode sat r).flags = flIf (a.isSig || b.isSig) flIV) ∧
      (a.isNan || b.isNan || c.isNan = true → ((fmaExact mode a b c).round f mode sat r).code = f.nan) ∧
      (let invalid : Prop := a.isInf = true ∧ b.isZero = true ∨ a.isZero = true ∧ b.isInf = true
       ((a.isSig || b.isSig || c.isSig) = true ∨ invalid → ((fmaExact mode a b c).round f mode sat r).flags &&& flIV = flIV) ∧
       ((a.isNan || b.isNan || c.isNan) = true → (a.isSig || b.isSig || c.isSig) = false → ¬ invalid →
         ((fmaExact mode a b c).round f mode sat r).flags = 0)) ∧
      (∀ n : Int, a.isNan = true → ((fscaleVal a n).round f mode sat r).code = f.nan ∧
        ((fscaleVal a n).round f mode sat r).flags = flIf a.isSig flIV))

/-- R120, R121, R122. `less a b` counts -0 below +0. -/
def Obligations.FloatMinMaxCompareAndClassFollowTheirTables : Prop :=
  (∀ t : TI,
    let f32 (v : View) (l : Nat) (o : Opd) : FVal := fmtF32.decode (v.src32 t.h l o).toNat
    let less (a b : FVal) : Bool := cmpVal a b == .lt || (cmpVal a b == .eq && a.neg && !b.neg)
    let pick (isMax : Bool) (v : View) (l : Nat) : Word :=
      let x := f32 v l t.a
      let y := f32 v l t.b
      if x.isNan && y.isNan then 0x7FC00000
      else if x.isNan then v.src32 t.h l t.b
      else if y.isNan then v.src32 t.h l t.a
      else if less x y != isMax then v.src32 t.h l t.a else v.src32 t.h l t.b
    let sig (v : View) (l : Nat) : BitVec 5 := if (f32 v l t.a).isSig || (f32 v l t.b).isSig then 16 else 0
    let elem (v : View) (l : Nat) (o : Opd) : FVal :=
      let w := v.src32 t.h l o
      match t.ty with
      | .f16 => fmtF16.decode (w.extractLsb' (16 * t.var.toNat) 16).toNat
      | .bf16 => fmtBF16.decode (w.extractLsb' (16 * t.var.toNat) 16).toNat
      | _ => fmtF32.decode w.toNat
    ((Instr.fcmp t).wf = true ∨ (Instr.fclass t).wf = true → t.var.getLsbD 1 = false) ∧
    LaneLands (.fmin t) t.h 5 (fun v l => v.g.put32 l t.d (pick false v l)) sig ∧
    LaneLands (.fmax t) t.h 5 (fun v l => v.g.put32 l t.d (pick true v l)) sig ∧
    LaneLands (.fcmp t) t.h 5
      (fun v l =>
        let x := elem v l t.a
        let y := elem v l t.b
        let nan := x.isNan || y.isNan
        let holds : Bool := match t.cmp with
          | .eq => !nan && cmpVal x y == .eq
          | .ne => nan || cmpVal x y != .eq
          | .lt => !nan && cmpVal x y == .lt
          | .le => !nan && cmpVal x y != .gt
          | .gt => !nan && cmpVal x y == .gt
          | .ge => !nan && cmpVal x y != .lt
          | .ord => !nan
          | .uno => nan
        v.g.put32 l t.d (if holds then 1 else 0))
      (fun v l =>
        let x := elem v l t.a
        let y := elem v l t.b
        match t.cmp with
        | .lt | .le | .gt | .ge => if x.isNan || y.isNan then 16 else 0
        | _ => if x.isSig || y.isSig then 16 else 0) ∧
    LaneWrites (.fclass t) t.h 5 (fun v l =>
      let F := tyFmt t.ty
      v.g.put32 l t.d (match elem v l t.a with
        | .nan true => 0x100
        | .nan false => 0x200
        | .inf true => 0x001
        | .inf false => 0x080
        | .fin s 0 _ => if s then 0x008 else 0x010
        | .fin s n q =>
            if (n.log2 : Int) + q < F.emin then (if s then 0x004 else 0x020) else if s then 0x002 else 0x040)))

/-- R123 to R126: the results of class 0x3, and the generators of the participants (R96); R99 for a float into an integer. R125's pseudocode on the values `vs` of a block, for any format. -/
def Obligations.ConversionsLandAndBlockScalesAreTheLeastThatFit : Prop :=
  ((∀ t : TI,
      let stepped (k : Nat) (i : Instr) (f : View → Nat → LaneRes) : Prop :=
        ∀ s v, Ready i s v → ∃ u g', exec i s = .next u ∧ OnlyGroup s u v.g.id ∧ getGroup u v.g.id = some g' ∧
          LandsFixed v.g g' v.cyc 6 ((lanesOf (v.parts t.h)).flatMap fun l => (f v l).ws) ∧
          bareGroup g' = bareGroup (((stepOn v.g v.carried t.h.len.bytes).modLanes (v.parts t.h)
            fun x => { x with gen := genSteps x.gen (if t.rnd = .sr then k else 0) }).orFstat
              (joined (lanesOf (v.parts t.h)) fun l => (f v l).flags))
      (∀ src, stepped 1 (.cvt t src) (cvtLane t src)) ∧
      stepped 4 (.pkb8 t) (pkb8Lane t) ∧
      LaneLands (.upkb8 t) t.h 6 (fun v l => (upkb8Lane t v l).ws) (fun v l => (upkb8Lane t v l).flags) ∧
      LaneLands (.bscale t) t.h 6
        (fun v l => v.g.put32 l t.d (BitVec.ofNat 32 (blockScale (tyFmt t.ty) (bscaleBlock t v l)).1))
        (fun v l => (blockScale (tyFmt t.ty) (bscaleBlock t v l)).2)) ∧
    (∀ (t : TI) (src : Ty) (v : View) (l : Nat), (Instr.cvt t src).wf = true →
      let a : Word := v.src32 t.h l t.a
      let r := cvtLane t src v l
      let k := t.var.toNat
      let fits (x : FRes) : Prop :=
        r.flags = x.flags ∧ ∃ w : Word, r.ws = v.g.put32 l t.d w ∧ ∀ i < 32, w.getLsbD i =
          (let n := (tyFmt t.ty).w
           if t.ty = .f32 then x.code.testBit i
           else if n * k ≤ i ∧ i < n * k + n then x.code.testBit (i - n * k) else (v.src32 t.h l t.d).getLsbD i)
      let gives (x : Int) (fl : BitVec 5) : Prop :=
        r.flags = fl ∧
          ((t.ty = .i32 ∨ t.ty = .z32) → r.ws = v.g.put32 l t.d (BitVec.ofInt 32 x)) ∧
          ((t.ty = .i64 ∨ t.ty = .z64) → r.ws = v.g.put64 l t.d (BitVec.ofInt 64 x)) ∧
          (t.ty = .i8 → ∃ w : Word, r.ws = v.g.put32 l t.d w ∧ ∀ i < 32, w.getLsbD i =
            if 8 * k ≤ i ∧ i < 8 * k + 8 then (BitVec.ofInt 8 x).getLsbD (i - 8 * k) else (v.src32 t.h l t.d).getLsbD i)
      let draw := (genStep (v.g.lane l).gen).toNat / 2 ^ 16
      let whole (x : Int) : Prop :=
        (tyIsFloat t.ty = false → gives (if t.sat then max (tyMin t.ty) (min (tyMax t.ty) x) else x) 0) ∧
        (tyIsFloat t.ty = true → fits (roundNarrow (.fin (decide (x < 0)) x.natAbs 0) (tyFmt t.ty) t.rnd t.sat draw))
      let real (x : FVal) : Prop :=
        (tyIsFloat t.ty = true → fits (roundNarrow x (tyFmt t.ty) t.rnd t.sat draw)) ∧
        (tyIsFloat t.ty = false → gives (toInt t.ty t.rnd x).1 (toInt t.ty t.rnd x).2)
      match src with
        | .i32 => whole a.toInt
        | .z32 => whole a.toNat
        | .i64 => whole (v.src64 t.h l true t.a).toInt
        | .z64 => whole (v.src64 t.h l false t.a).toNat
        | .i8 => whole (a.extractLsb' (8 * k) 8).toInt
        | .f32 => real (fmtF32.decode a.toNat)
        | .f16 => real (fmtF16.decode (a.extractLsb' (16 * k) 16).toNat)
        | .bf16 => real (fmtBF16.decode (a.extractLsb' (16 * k) 16).toNat)
        | .b8 p uns ext => real ((tyFmt (.b8 p uns ext)).decode (a.extractLsb' (8 * k) 8).toNat)) ∧
    (∀ (ty : Ty) (mode : Rnd),
      (∀ b, toInt ty mode (.nan b) = (0, flIV)) ∧
      (∀ b, toInt ty mode (.inf b) = (if b then tyMin ty else tyMax ty, flIV)) ∧
      (∀ (neg : Bool) (n e : Nat),
        let x : Int := if neg then -(n * 2 ^ e : Nat) else (n * 2 ^ e : Nat)
        toInt ty mode (.fin neg n e) =
          if x < tyMin ty then (tyMin ty, flIV) else if tyMax ty < x then (tyMax ty, flIV) else (x, 0)) ∧
      (∀ (neg : Bool) (n e : Nat), 0 < e → mode ≠ .sr → ∃ m : Nat, n / 2 ^ e ≤ m ∧ m ≤ (n + 2 ^ e - 1) / 2 ^ e ∧
        (mode = .rtz → m = n / 2 ^ e) ∧
        toInt ty mode (.fin neg n (-e)) =
          (let x : Int := if neg then -(m : Int) else m
           if x < tyMin ty then (tyMin ty, flIV) else if tyMax ty < x then (tyMax ty, flIV)
           else (x, if n % 2 ^ e = 0 then 0 else flNX)))) ∧
    (∀ (t : TI) (v : View) (l : Nat),
      let e : Nat := (v.src32 t.h l t.b).toNat % 256
      let scaled (x : FVal) (by_ : Int) : FVal := match x with
        | .fin s n q => .fin s n (q + by_)
        | y => y
      let packs (r : LaneRes) (c : Nat → FRes) : Prop :=
        r.flags = (c 0).flags ||| (c 1).flags ||| (c 2).flags ||| (c 3).flags ∧
          ∃ w : Word, r.ws = v.g.put32 l t.d w ∧ ∀ i < 4, w.extractLsb' (8 * i) 8 = BitVec.ofNat 8 (c i).code
      packs (pkb8Lane t v l) (fun i =>
        if e = 255 then ⟨(tyFmt t.ty).nan, flIV⟩
        else roundNarrow (scaled (fmtF32.decode ((v.quad l t.a).getD i 0).toNat) (127 - e)) (tyFmt t.ty) t.rnd t.sat
          ((genSteps (v.g.lane l).gen (i + 1)).toNat / 2 ^ 16)) ∧
      (let c (i : Nat) : FRes :=
        if e = 255 then ⟨fmtF32.nan, flIV⟩
        else roundNarrow (scaled ((tyFmt t.ty).decode ((v.src32 t.h l t.a).extractLsb' (8 * i) 8).toNat) (e - 127)) fmtF32
          t.rnd t.sat 0
       (upkb8Lane t v l).ws = v.g.putN l t.d ((List.range 4).map fun i => BitVec.ofNat 32 (c i).code) ∧
       (upkb8Lane t v l).flags = (c 0).flags ||| (c 1).flags ||| (c 2).flags ||| (c 3).flags))) ∧
  (∀ (f : Fmt) (vs : List FVal),
      let fits (e : Nat) : Prop := ∀ s n q, FVal.fin s n q ∈ vs →
        cmpVal (.fin false n q) (scaleBy (f.mag false f.maxCode) e false) ≠ .gt
      ((∃ x ∈ vs, x.isNan = true) → blockScale f vs = (0xFF, flIV)) ∧
      ((∀ x ∈ vs, x.isNan = false) → (∀ s n q, FVal.fin s n q ∈ vs → n = 0) → blockScale f vs = (127, 0)) ∧
      ((∀ x ∈ vs, x.isNan = false) → (∃ s n q, FVal.fin s n q ∈ vs ∧ n ≠ 0) →
        (blockScale f vs).2 = 0 ∧ (blockScale f vs).1 ≤ 254 ∧ (∀ e < (blockScale f vs).1, ¬ fits e) ∧
        ((∃ e ≤ 254, fits e) → fits (blockScale f vs).1)))

/-- R127: class 0x4. Outside R128's table the value is the free value of log 5, a DESIGN CHOICE, where it lies within R127's
bound (`Sfu.within`). R128's rows, but for the squares of SQRT. -/
def Obligations.SpecialFunctionsLandTheirResults : Prop :=
  ((∀ (f : Sfu) (a : Word) (neg : Bool) (n : Nat) (q : Int),
      (f.within neg n q (fmtF32.decode (Config.sfuBits f.code a).toNat) = true →
        (f.other a neg n q).code = (Config.sfuBits f.code a).toNat) ∧
      (f.within neg n q (fmtF32.decode (Config.sfuBits f.code a).toNat) = false →
        (f.other a neg n q).code =
          (roundF32 (.fin (decide (f.approx neg n q < 0)) (f.approx neg n q).natAbs (-256)) .rne).code)) ∧
    ∀ t : TI,
      let one (i : Instr) (f : Sfu) : Prop :=
        LaneLands i t.h 16 (fun v l => v.g.put32 l t.d (BitVec.ofNat 32 (f.eval (v.src32 t.h l t.a)).code))
          (fun v l => (f.eval (v.src32 t.h l t.a)).flags)
      one (.rcp t) .rcp ∧ one (.rsq t) .rsq ∧ one (.sqrt t) .sqrt ∧ one (.exp2 t) .exp2 ∧ one (.log2 t) .log2 ∧
        one (.sint t) .sint ∧ one (.cost t) .cost ∧ one (.tanh t) .tanh) ∧
  (∀ (a : Word) (neg : Bool),
      (∀ (f : Sfu) (sig : Bool), fmtF32.decode a.toNat = .nan sig → f.eval a = ⟨0x7FC00000, if sig then flIV else 0⟩) ∧
      (fmtF32.decode a.toNat = .inf neg →
        Sfu.rcp.eval a = ⟨if neg then 0x80000000 else 0, 0⟩ ∧
        Sfu.rsq.eval a = (if neg then ⟨0x7FC00000, flIV⟩ else ⟨0, 0⟩) ∧
        Sfu.sqrt.eval a = (if neg then ⟨0x7FC00000, flIV⟩ else ⟨0x7F800000, 0⟩) ∧
        Sfu.exp2.eval a = ⟨if neg then 0 else 0x7F800000, 0⟩ ∧
        Sfu.log2.eval a = (if neg then ⟨0x7FC00000, flIV⟩ else ⟨0x7F800000, 0⟩) ∧
        Sfu.sint.eval a = ⟨0x7FC00000, flIV⟩ ∧ Sfu.cost.eval a = ⟨0x7FC00000, flIV⟩ ∧
        Sfu.tanh.eval a = ⟨if neg then 0xBF800000 else 0x3F800000, 0⟩) ∧
      (∀ q, fmtF32.decode a.toNat = .fin neg 0 q →
        Sfu.rcp.eval a = ⟨if neg then 0xFF800000 else 0x7F800000, flDZ⟩ ∧
        Sfu.rsq.eval a = ⟨if neg then 0xFF800000 else 0x7F800000, flDZ⟩ ∧
        Sfu.sqrt.eval a = ⟨if neg then 0x80000000 else 0, 0⟩ ∧
        Sfu.exp2.eval a = ⟨0x3F800000, 0⟩ ∧
        Sfu.log2.eval a = ⟨0xFF800000, flDZ⟩ ∧
        Sfu.sint.eval a = ⟨if neg then 0x80000000 else 0, 0⟩ ∧
        Sfu.cost.eval a = ⟨0x3F800000, 0⟩ ∧
        Sfu.tanh.eval a = ⟨if neg then 0x80000000 else 0, 0⟩) ∧
      (∀ n q, fmtF32.decode a.toNat = .fin neg n q → n ≠ 0 →
        (neg = true → Sfu.rsq.eval a = ⟨0x7FC00000, flIV⟩ ∧ Sfu.sqrt.eval a = ⟨0x7FC00000, flIV⟩ ∧
          Sfu.log2.eval a = ⟨0x7FC00000, flIV⟩) ∧
        (cmpVal (.fin neg n q) (.fin false 128 0) ≠ .lt → Sfu.exp2.eval a = ⟨0x7F800000, flOF ||| flNX⟩) ∧
        (cmpVal (.fin neg n q) (.fin true 150 0) = .lt → Sfu.exp2.eval a = ⟨0, flUF ||| flNX⟩) ∧
        (cmpVal (.fin false n q) (.fin false 1 (-128)) ≠ .gt →
          Sfu.rcp.eval a = ⟨if neg then 0xFF800000 else 0x7F800000, flOF ||| flNX⟩) ∧
        (∀ k : Nat, n = 2 ^ k →
          (cmpVal (.fin false n q) (.fin false 1 (-128)) = .gt →
            Sfu.rcp.eval a = ⟨(roundF32 (.fin neg 1 (-(k + q))) .rne).code, 0⟩) ∧
          (neg = false → Sfu.log2.eval a = ⟨(roundF32 (.fin (decide (k + q < 0)) (k + q).natAbs 0) .rne).code, 0⟩)) ∧
        (∀ k : Int, -149 ≤ k → k ≤ 127 → fxOf neg n q = k * fxOne →
          Sfu.exp2.eval a = ⟨(roundF32 (.fin false 1 k) .rne).code, 0⟩) ∧
        (∀ k : Int, fxFrac neg n q = k * (fxOne / 4) →
          ((k = 0 ∨ k = 2 ∨ k = -2) → Sfu.sint.eval a = ⟨if neg then 0x80000000 else 0, 0⟩) ∧
          ((k = 1 ∨ k = -3) → Sfu.sint.eval a = ⟨0x3F800000, 0⟩) ∧
          ((k = -1 ∨ k = 3) → Sfu.sint.eval a = ⟨0xBF800000, 0⟩) ∧
          (k = 0 → Sfu.cost.eval a = ⟨0x3F800000, 0⟩) ∧
          ((k = 2 ∨ k = -2) → Sfu.cost.eval a = ⟨0xBF800000, 0⟩) ∧
          ((k = 1 ∨ k = -1 ∨ k = 3 ∨ k = -3) → Sfu.cost.eval a = ⟨0, 0⟩))))

/-- R129, R130, R132. -/
def Obligations.ShufflesAndMasksReadTheParticipants : Prop :=
  ∀ t : TI,
    let w := match t.var.toNat with
      | 0 => 64
      | 1 => 32
      | 2 => 16
      | _ => 8
    let from_ (v : View) (k : Nat) : Bool := (v.sharers t.h).has k
    let moves (i : Instr) (src : Nat → Nat → Nat) : Prop :=
      LaneWrites i t.h 6 fun v l =>
        let k := src l (v.src32 t.h l t.b).toNat
        let m := if from_ v k then k else l
        if t.ty.is64 then v.g.put64 l t.d (v.src64 t.h m (t.ty == .i64) t.a) else v.g.put32 l t.d (v.src32 t.h m t.a)
    moves (.shflIdx t) (fun l b => l - l % w + b % w) ∧
    moves (.shflUp t) (fun l b => if w ≤ b ∨ l < l - l % w + b then l else l - b) ∧
    moves (.shflDn t) (fun l b => if w ≤ b ∨ l - l % w + w ≤ l + b then l else l + b) ∧
    moves (.shflXor t) (fun l b => l ^^^ (b % w)) ∧
    (∃ m : View → Mask, (∀ v l, (m v).has l = (decide (l < 64) && from_ v l && v.pred l t.a)) ∧
      LaneWrites (.ballot t) t.h 6 fun v l => v.g.put64 l t.d (m v)) ∧
    LaneWrites (.mpopc t) t.h 6 (fun v l => v.g.put32 l t.d
      (BitVec.ofNat 32 ((List.range l).countP fun i => (v.src64 t.h l false t.a).getLsbD i))) ∧
    (∃ m : View → Nat → Mask, (∀ v l k, (m v l).has k = (decide (k < 64) && from_ v k &&
        if t.ty.is64 then v.src64 t.h k false t.a == v.src64 t.h l false t.a else v.src32 t.h k t.a == v.src32 t.h l t.a)) ∧
      LaneWrites (.matchOp t) t.h 6 fun v l => v.g.put64 l t.d (m v l)) ∧
    LaneLands (.redux t) t.h 6
      (fun v l => v.g.put32 l t.d (BitVec.ofNat 32
        (reduxVal t ((lanesOf (v.sharers t.h)).map fun k => v.src32 t.h k t.a)).code))
      (fun v _ => (reduxVal t ((lanesOf (v.sharers t.h)).map fun k => v.src32 t.h k t.a)).flags) ∧
    (∀ v l, from_ v l = (decide (l < 64) && if v.g.converged v.pc then
      v.g.active.has l && v.g.scope.has l && v.guard t.h l else v.carried.has l && v.guard t.h l)) ∧
    (t.ty = .i32 ∨ t.ty = .z32 → ∀ (x : Word) (xs : List Word),
      let r := reduxVal t (x :: xs)
      let w : Word := BitVec.ofNat 32 r.code
      r.flags = 0 ∧ r.code < 2 ^ 32 ∧
      (t.rndBits = 0 → w = stored 32 t.ty.signed t.sat (((x :: xs).map (asInt t.ty.signed)).sum)) ∧
      (t.rndBits = 1 → w ∈ x :: xs ∧ ∀ y ∈ x :: xs, asInt t.ty.signed w ≤ asInt t.ty.signed y) ∧
      (t.rndBits = 2 → w ∈ x :: xs ∧ ∀ y ∈ x :: xs, asInt t.ty.signed y ≤ asInt t.ty.signed w) ∧
      (∀ i < 32,
        (t.rndBits = 3 → (w.getLsbD i = true ↔ ∀ y ∈ x :: xs, y.getLsbD i = true)) ∧
        (t.rndBits = 4 → (w.getLsbD i = true ↔ ∃ y ∈ x :: xs, y.getLsbD i = true)) ∧
        (t.rndBits = 5 → (w.getLsbD i = true ↔ ((x :: xs).countP fun y => y.getLsbD i) % 2 = 1)))) ∧
    (t.ty = .f32 → ∀ x : Word,
      reduxVal t [x] = (match fmtF32.decode x.toNat with
        | .nan sig => ⟨0x7FC00000, if sig then flIV else 0⟩
        | _ => ⟨x.toNat, 0⟩) ∧
      ∀ (xs : List Word) (y : Word), xs ≠ [] →
        let r := reduxVal t xs
        reduxVal t (xs ++ [y]) =
          (let n := if t.rndBits = 0 then
              (addExact .rne (fmtF32.decode r.code) (fmtF32.decode y.toNat)).round fmtF32 .rne false 0
            else minMax fmtF32 (decide (t.rndBits ≠ 1)) r.code y.toNat
           ⟨n.code, r.flags ||| n.flags⟩))

/-- R131. -/
def Obligations.VoteWritesItsResultAndGF : Prop :=
  (∀ t : TI, (Instr.vote t).wf = true → t.var ≠ 3 ∧ t.ty = .z32 ∧ (∃ n, t.a = .p n) ∧ ∃ n, t.d = .p n) ∧
  (∀ (t : TI) s v, Ready (.vote t) s v → ∃ u g', exec (.vote t) s = .next u ∧ OnlyGroup s u v.g.id ∧
    getGroup u v.g.id = some g' ∧ bareGroup g' = bareGroup (stepOn v.g v.carried t.h.len.bytes) ∧
    (v.parts t.h = 0 → ∀ d c, v.cyc ≤ c → g'.read c d = v.g.read c d) ∧
    (v.parts t.h ≠ 0 →
      ∃ r : Bool,
        (t.var = 0 → (r = true ↔ ∀ l ∈ lanesOf (v.sharers t.h), v.pred l t.a = true)) ∧
        (t.var = 1 → (r = true ↔ ∃ l ∈ lanesOf (v.sharers t.h), v.pred l t.a = true)) ∧
        (t.var = 2 → (r = true ↔ ∀ l ∈ lanesOf (v.sharers t.h), ∀ k ∈ lanesOf (v.sharers t.h), v.pred l t.a = v.pred k t.a)) ∧
        LandsFixed v.g g' v.cyc 6
          ((lanesOf (v.parts t.h)).flatMap (fun l => v.g.put32 l t.d (if r then 1 else 0)) ++
            [(.gf v.g.onBank, (if r then 0 else 1) +
              (if (lanesOf (v.sharers t.h)).any fun l => v.pred l t.a then 0 else 16))])))

/-- R134, R135, R137, for a converged group. R135 at any width. -/
def Obligations.TheGroupPipeWritesOnceForTheGroup : Prop :=
  (∀ t : TI,
      let once (i : Instr) (ws : View → List (Dst × Word)) : Prop :=
        ∀ s v, Ready i s v → v.g.converged v.pc = true → ∃ u g', exec i s = .next u ∧ OnlyGroup s u v.g.id ∧
          getGroup u v.g.id = some g' ∧ LandsFixed v.g g' v.cyc 2 (ws v) ∧
          bareGroup g' = bareGroup (stepOn v.g v.carried t.h.len.bytes)
      let a32 (v : View) : Word := v.src32 t.h 0 t.a
      let b32 (v : View) : Word := v.src32 t.h 0 t.b
      let a64 (v : View) : Dword := v.src64 t.h 0 (t.ty == .i64) t.a
      let b64 (v : View) : Dword := v.src64 t.h 0 (t.ty == .i64) t.b
      let two (i : Instr) (f32 : Word → Word → Word) (f64 : Dword → Dword → Dword) : Prop :=
        once i fun v => if t.ty.is64 then v.g.put64 0 t.d (f64 (a64 v) (b64 v)) else v.g.put32 0 t.d (f32 (a32 v) (b32 v))
      let exact (i : Instr) (f : Int → Int → Int) : Prop :=
        two i (fun a b => stored 32 t.ty.signed t.sat (f (asInt t.ty.signed a) (asInt t.ty.signed b)))
          (fun a b => stored 64 t.ty.signed t.sat (f (asInt t.ty.signed a) (asInt t.ty.signed b)))
      exact (.gadd t) (· + ·) ∧ exact (.gsub t) (· - ·) ∧ exact (.gmul t) (· * ·) ∧
      (match t.var.toNat with
        | 0 => two (.glog t) (fun a b => a &&& b) (fun a b => a &&& b)
        | 1 => two (.glog t) (fun a b => a ||| b) (fun a b => a ||| b)
        | 2 => two (.glog t) (fun a b => a ^^^ b) (fun a b => a ^^^ b)
        | _ => two (.glog t) (fun a b => a &&& ~~~b) (fun a b => a &&& ~~~b)) ∧
      once (.gshf t) (fun v =>
        let n := (b32 v).toNat
        match t.var.toNat with
        | 0 => if t.ty.is64 then v.g.put64 0 t.d (if 64 ≤ n then 0 else a64 v <<< n)
               else v.g.put32 0 t.d (if 32 ≤ n then 0 else a32 v <<< n)
        | 1 => if t.ty.is64 then v.g.put64 0 t.d (if 64 ≤ n then 0 else a64 v >>> n)
               else v.g.put32 0 t.d (if 32 ≤ n then 0 else a32 v >>> n)
        | 2 => if t.ty.is64 then v.g.put64 0 t.d ((a64 v).sshiftRight (min 63 n))
               else v.g.put32 0 t.d ((a32 v).sshiftRight (min 31 n))
        | _ => if t.ty.is64 then v.g.put64 0 t.d ((a64 v).rotateLeft (n % 64))
               else v.g.put32 0 t.d ((a32 v).rotateLeft (n % 32))) ∧
      two (.gmov t) (fun a _ => a) (fun a _ => a) ∧
      ((Instr.rdln t).wf = true → ∃ k, t.a = .v k) ∧
      (∀ k, t.a = .v k → once (.rdln t) (fun v =>
        let l := (b32 v).toNat % 64
        let at_ (j : Nat) : Dst :=
          if v.g.st.active && v.g.st.set.has l && (v.g.lane l).st != .free then .v l (65536 + (k.toNat + j))
          else .v l ((v.g.lane l).base + (k.toNat + j))
        let reg (j : Nat) : Word := v.g.read v.cyc (at_ j)
        if t.ty.is64 then v.g.put64 0 t.d (Dword.mk (reg 0) (reg 1)) else v.g.put32 0 t.d (reg 0))) ∧
      once (.gcmp t) (fun v => [(.gf v.g.onBank,
        (if t.ty.is64 then gfCompare (a64 v) (b64 v) v.g.flags else gfCompare (a32 v) (b32 v) v.g.flags).setWidth 32)])) ∧
  (∀ (n : Nat) (a b : BitVec n) (old : BitVec 5), 0 < n →
      (gfCompare a b old).getLsbD 0 = decide (a = b) ∧
      (gfCompare a b old).getLsbD 1 = (a - b).getLsbD (n - 1) ∧
      (gfCompare a b old).getLsbD 2 = decide (b.toNat ≤ a.toNat) ∧
      (gfCompare a b old).getLsbD 3 = decide (a.toInt - b.toInt < -(2 ^ (n - 1)) ∨ 2 ^ (n - 1) ≤ a.toInt - b.toInt) ∧
      (gfCompare a b old).getLsbD 4 = old.getLsbD 4)

/-- R296, R297, R298, and NOP of R306. -/
def Obligations.BranchesMoveTheCarriedFibres : Prop :=
  ∀ (t : EI) (s : State) (v : View), viewOf s = some v →
    let on : Dword := v.pc + BitVec.ofNat 64 t.h.len.bytes
    let target : Dword := v.pc + t.h.disp
    let gf : BitVec 5 := (v.g.read v.cyc (.gf v.g.onBank)).setWidth 5
    let z := gf.getLsbD 0
    let n := gf.getLsbD 1
    let c := gf.getLsbD 2
    let ov := gf.getLsbD 3
    let mz := gf.getLsbD 4
    OwnGroup (.bra t) s v (movedTo v.g v.carried fun _ => target) ∧
    ((Instr.brc t).wf = true → t.mod.toNat < 12 ∧
      OwnGroup (.brc t) s v (movedTo v.g v.carried fun _ =>
        if (match t.mod.toNat with
          | 0 => z
          | 1 => !z
          | 2 => n != ov
          | 3 => n == ov
          | 4 => !z && n == ov
          | 5 => z || n != ov
          | 6 => !c
          | 7 => c
          | 8 => c && !z
          | 9 => !c || z
          | 10 => mz
          | _ => !mz) then target else on)) ∧
    OwnGroup (.brp t) s v (movedTo v.g v.carried fun l => if v.guard t.h l then target else on) ∧
    OwnGroup (.nop t) s v (movedTo v.g v.carried fun _ => on)

/-- R300 with the traps of R291. -/
def Obligations.MarkPushesOrMergesOneEntry : Prop :=
  ∀ (t : EI) (s : State) (v : View), viewOf s = some v →
    let r : Dword := (v.pc + t.h.disp) &&& 0x1FFFFFFFFFFFFFF
    let mine (e : JEnt) : Prop := e.markpc = v.pc ∧ e.rejoin = r ∧ e.park = 0 ∧ e.memb &&& v.carried = 0
    (∀ e es, v.g.js = e :: es → mine e →
      OwnGroup (.mark t) s v (stepOn { v.g with js := { e with memb := e.memb ||| v.carried } :: es } v.carried
        t.h.len.bytes)) ∧
    ((∀ e es, v.g.js = e :: es → ¬ mine e) →
      (1024 ≤ v.g.js.length + v.g.jsd → exec (.mark t) s = .next (takeTrap s 0x12 0x8000000000000400)) ∧
      (v.g.js.length + v.g.jsd < 1024 → 32 ≤ v.g.js.length →
        exec (.mark t) s =
          .next (takeTrap s 0x05 (0x8000000000000000 + BitVec.ofNat 64 (v.g.js.length + v.g.jsd)))) ∧
      (v.g.js.length + v.g.jsd < 1024 → v.g.js.length < 32 →
        OwnGroup (.mark t) s v (stepOn { v.g with js :=
          { markpc := v.pc, rejoin := r, park := 0, memb := v.carried } :: v.g.js } v.carried t.h.len.bytes)))

/-- R301, with the completion of R290 (when the released fibres may issue: log 74, DEDUCED) and the refill of R291. -/
def Obligations.JoinParksAndCompletedEntriesRelease : Prop :=
  ∀ (t : EI) (s : State) (v : View), viewOf s = some v →
    (v.g.js = [] → exec (.join t) s = .next (takeTrap s 0x01 1)) ∧
    (∀ e es, v.g.js = e :: es → v.carried &&& ~~~e.memb ≠ 0 → exec (.join t) s = .next (takeTrap s 0x01 2)) ∧
    (∀ e es g', v.g.js = e :: es → v.carried &&& ~~~e.memb = 0 → v.g.js.length ≤ 1024 →
      Checked v.cyc (holdEnd v) { v.g with
        js := { e with park := e.park ||| v.carried } :: es
        lanes := v.g.lanes.mapIdx fun i l =>
          if v.carried.has i then { l with st := .parked, pc := e.rejoin } else l } g' →
      OwnGroup (.join t) s v g') ∧
    (∀ (gid : Nat) (g : Group), getGroup s gid = some g →
      (g.jsd < 16 → joinRefill s gid = s) ∧
      (16 ≤ g.jsd → ∀ (st : Nat → State) (e : Nat → JEnt), st 0 = s →
        (∀ i < 16, readVa (st i) (teamSpace s g.team).1 (teamSpace s g.team).2 true (g.jspa.toNat + 32 * (g.jsd - 16 + i)) 32 =
          (st (i + 1), some (jentBytes (e i)))) → (∀ i < 16, (e i).rejoin.toNat < 2 ^ 57 ∧ (e i).markpc.toNat < 2 ^ 57) →
        let gone (i : Nat) : Mask := g.exits.foldl (fun m x => if g.jsd - 16 + i < x.1 then m ||| x.2 else m) 0
        joinRefill s gid = modGroup (st 16) gid fun h => { h with
          js := (List.range 16).reverse.map fun i =>
            { e i with memb := (e i).memb &&& ~~~gone i, park := (e i).park &&& ~~~gone i }
          jsd := g.jsd - 16
          exits := if g.jsd = 16 then [] else h.exits.map fun x => (min x.1 (g.jsd - 16), x.2) }))

/-- R302 and R293. Check 1 is CALLR's own. -/
def Obligations.CallsCheckThenLinkAndMoveTheWindow : Prop :=
  ∀ (t : EI) (s : State) (v : View),
    let m := v.parts t.h
    let k := t.mod.toNat
    let nb (l : Nat) : Nat := (v.g.lane l).base + k
    let ret : Dword := v.pc + BitVec.ofNat 64 t.h.len.bytes
    let far (l : Nat) : Prop := 2 ^ 57 ≤ (v.src64 t.h l false t.a).toNat
    let high (l : Nat) : Prop := 65536 < nb l + 64
    let above (l : Nat) : Prop := (v.g.lane l).rb + (v.g.lane l).rz < nb l + 64
    let enters (i : Instr) (target : Nat → Dword) : Prop :=
      ∃ u g', exec i s = .next u ∧ OnlyGroup s u v.g.id ∧ getGroup u v.g.id = some g' ∧
        Lands v.g g' ((lanesOf m).flatMap fun l =>
          [(.v l (nb l - 2), ret.setWidth 32),
           (.v l (nb l - 1), BitVec.ofNat 32 (k * 2 ^ 25) ||| (BitVec.setWidth 25 (ret >>> 32)).setWidth 32)]) ∧
        bareGroup g' = bareGroup { v.g with
          lanes := v.g.lanes.mapIdx fun i l =>
            if m.has i then { l with base := l.base + k, pc := target i }
            else if v.carried.has i then { l with pc := ret } else l }
    (Ready (.call t) s v →
      (∀ l, firstOf m high l → exec (.call t) s = .next (takeTrap s 0x12 (BitVec.ofNat 64 (nb l)))) ∧
      (∀ l, passes m high → firstOf m above l → exec (.call t) s = .next (takeTrap s 0x05 (BitVec.ofNat 64 (nb l)))) ∧
      (passes m high → passes m above → enters (.call t) fun _ => v.pc + t.h.disp)) ∧
    (Ready (.callr t) s v →
      (∀ l, firstOf m far l → exec (.callr t) s = .next (takeTrap s 0x08 (v.src64 t.h l false t.a))) ∧
      (∀ l, passes m far → firstOf m high l → exec (.callr t) s = .next (takeTrap s 0x12 (BitVec.ofNat 64 (nb l)))) ∧
      (∀ l, passes m far → passes m high → firstOf m above l →
        exec (.callr t) s = .next (takeTrap s 0x05 (BitVec.ofNat 64 (nb l)))) ∧
      (passes m far → passes m high → passes m above → enters (.callr t) fun l => v.src64 t.h l false t.a))

/-- R303, with the link of R293. In mask mode the participants' return addresses must agree. -/
def Obligations.ReturnsCheckThenUndoTheCall : Prop :=
  ∀ (t : EI) (s : State) (v : View), viewOf s = some v →
    let m := v.parts t.h
    let b (l : Nat) : Nat := (v.g.lane l).base
    let rb (l : Nat) : Nat := (v.g.lane l).rb
    let lo (l : Nat) : Word := v.g.read v.cyc (.v l (b l - 2))
    let hi (l : Nat) : Word := v.g.read v.cyc (.v l (b l - 1))
    let k (l : Nat) : Nat := (hi l).toNat / 2 ^ 25
    let ret (l : Nat) : Dword := (((hi l).setWidth 25).setWidth 64 <<< 32) ||| (lo l).setWidth 64
    let c1 (l : Nat) : Prop := b l < 2
    let c2 (l : Nat) : Prop := b l - 2 < rb l
    let c3 (l : Nat) : Prop := k l < 2 ∨ 64 < k l ∨ b l < k l ∨ (ret l).toNat % 4 ≠ 0
    let c4 (l : Nat) : Prop := b l - k l < rb l
    let differ : Prop := maskMode s v.g = true ∧ ∃ l ∈ lanesOf m, ∃ l' ∈ lanesOf m, ret l ≠ ret l'
    (∀ l, firstOf m c1 l → exec (.ret t) s = .next (takeTrap s 0x12 (BitVec.ofNat 64 (b l)))) ∧
    (∀ l, passes m c1 → firstOf m c2 l → exec (.ret t) s = .next (takeTrap s 0x06 (BitVec.ofNat 64 (b l - 2)))) ∧
    (∀ l, passes m c1 → passes m c2 → firstOf m c3 l →
      exec (.ret t) s = .next (takeTrap s 0x12 (BitVec.ofNat 64 (b l)))) ∧
    (∀ l, passes m c1 → passes m c2 → passes m c3 → firstOf m c4 l →
      exec (.ret t) s = .next (takeTrap s 0x06 (BitVec.ofNat 64 (b l - k l)))) ∧
    (passes m c1 → passes m c2 → passes m c3 → passes m c4 → differ → exec (.ret t) s = .next (takeTrap s 0x01 3)) ∧
    (passes m c1 → passes m c2 → passes m c3 → passes m c4 → ¬ differ →
      OwnGroup (.ret t) s v { v.g with
        lanes := v.g.lanes.mapIdx fun i l =>
          if m.has i then { l with base := l.base - k i, pc := ret i }
          else if v.carried.has i then { l with pc := v.pc + BitVec.ofNat 64 t.h.len.bytes } else l })

/-- R304, outside a system handler and in one; and R305. That lanes which exit in a system handler leave its trapped set, and
that the bank of R389 goes back with the last of them, is log 22 (DEDUCED); that it is kept while an issue of the group may be
replayed is log 39 (DEDUCED); when released fibres may issue is log 74. -/
def Obligations.ExitFreesLanesAndForkClaimsThem : Prop :=
  (∀ (t : EI) (s : State) (v : View) (g' : Group), viewOf s = some v → v.g.st.active = false → v.g.js.length ≤ 1024 →
    Checked v.cyc (holdEnd v) (exited v (v.parts t.h) t.h.len.bytes) g' → OwnGroup (.exit t) s v g') ∧
  (∀ (t : EI) (s : State) (v : View) (g' : Group), viewOf s = some v → v.g.st.active = true → v.g.js.length ≤ 1024 →
    let m := v.parts t.h
    let left := v.g.st.set &&& ~~~m
    Checked v.cyc (holdEnd v) { exited v m t.h.len.bytes with st := { v.g.st with set := left, active := left != 0 } } g' →
    (left ≠ 0 ∨ replayable s v.g.core v.g.id = true → OwnGroup (.exit t) s v g') ∧
    (left = 0 → replayable s v.g.core v.g.id = false → v.g.core < s.cores.length → v.g.slot < (getCore s v.g.core).slots.length →
      (getSlot s v.g.core v.g.slot).bankQ = [] →
      ∃ u, exec (.exit t) s = .next u ∧
        { u with groups := s.groups, cores := s.cores, ops := s.ops, busy := s.busy } = s ∧ u.busy = false ∧
        u.ops = bankDropped s v.g.id ∧ (∀ k, k ≠ v.g.id → getGroup u k = getGroup s k) ∧
        getGroup u v.g.id = some g' ∧
        getSlot u v.g.core v.g.slot = { getSlot s v.g.core v.g.slot with bank := none })) ∧
  (∀ (t : EI) (s : State) (v : View), viewOf s = some v →
    OwnGroup (.fork t) s v (stepOn ((lanesOf (v.parts t.h)).foldl (forkOne v t) v.g) v.carried t.h.len.bytes)) ∧
  (∀ (t : EI) (v : View) (g : Group) (p : Nat), groupShaped v.g = true → groupShaped g = true →
    ((∀ l < 64, (g.lane l).st ≠ .free) → forkOne v t g p = g.writes (v.g.put32 p t.d 0xFFFFFFFF)) ∧
    (∀ c < 64, (g.lane c).st = .free → (∀ l < c, (g.lane l).st ≠ .free) → c ≠ p → p < 64 →
      laneWise t.d = true →
      let g' := forkOne v t g p
      (g'.lane c).st = .live ∧ (g'.lane c).pc = v.pc + t.h.disp ∧ (g'.lane c).base = 0 ∧ (g'.lane c).rb = 0 ∧
      (g'.lane c).preds = 0 ∧ (g'.lane c).gen = (g.lane c).gen ∧ (g'.lane c).readyAt = v.cyc + 2 ∧
      g'.get (.v c 0) = v.src32 t.h p t.a ∧
      (∀ x ∈ v.g.put32 p t.d (BitVec.ofNat 32 c), x.1.real = true → placeExists g x.1 = true → g'.get x.1 = keeps x.1 x.2) ∧
      (∀ l, l ≠ c → l ≠ p → g'.lane l = g.lane l)))

/-- R306, R332. R307, and the attached debugger of R398. That the record of a BRK in a user handler takes the place of the handler's own is
log 75 (DESIGN CHOICE). -/
def Obligations.YieldStandsBackAndSoftwareTrapsCarryTheirNumber : Prop :=
  (∀ (t : EI) (s : State) (v : View) (x : Slice), viewOf s = some v → sliceOf s v.g = some x →
      ∃ u, exec (.yield t) s = .next u ∧ { u with groups := s.groups, slices := s.slices, busy := s.busy } = s ∧
        u.busy = false ∧ (∀ k, k ≠ v.g.id → getGroup u k = getGroup s k) ∧
        getGroup u v.g.id = some { stepOn v.g v.carried t.h.len.bytes with
          yieldFor := (s.groups.filter fun g => g.core == v.g.core && g.slot == v.g.slot && g.resident && g.id != v.g.id).map
            Group.id } ∧
        (∀ k, k ≠ x.id → getSlice u k = getSlice s k) ∧
        (∃ y, getSlice u x.id = some y ∧ y.left = x.budget ∧ y.yielded = true ∧
          { y with left := x.left, yielded := x.yielded } = x) ∧
        ∀ a, memGet u.mem a = memGet s.mem a) ∧
  (∀ (t : EI) (s : State) (v : View), viewOf s = some v →
      let next := stepOn v.g v.carried t.h.len.bytes
      (v.parts t.h = 0 → OwnGroup (.trap t) s v next ∧ OwnGroup (.brk t) s v next) ∧
      (v.parts t.h ≠ 0 → exec (.trap t) s = .next (takeTrap s 0x10 (t.mod.setWidth 64))) ∧
      (∀ x, v.parts t.h ≠ 0 → sliceOf s v.g = some x → debugOn s v.g = true → v.g.st.active = false →
        let cause : Dword := BitVec.ofNat 64 ((if x.priv then 256 else 0) + 0x11)
        let n : Dword := t.mod.setWidth 64
        OwnGroup (.brk t) s v { next with
          halted := true, stepping := false
          ut := { v.g.ut with tcause := cause, tepc := v.pc, tval := n }
          st := if x.priv then { v.g.st with tcause := cause, tepc := v.pc, tval := n } else v.g.st }) ∧
      (v.parts t.h ≠ 0 → debugOn s v.g = false ∨ v.g.st.active = true →
        exec (.brk t) s = .next (takeTrap s 0x11 (t.mod.setWidth 64))))

/-- R387, R388, R389 (user handler), for the trap of the issue in hand. That the record of a user cause in a privileged slice
stands in the system instance is log 10 (DEDUCED). -/
def Obligations.UserTrapsEnterTheUserHandler : Prop :=
  ∀ (s : State) (v : View) (x : Slice) (cause : Nat) (tval : Dword), viewOf s = some v → sliceOf s v.g = some x →
    x.ending = none → x.thand ≠ 0 → v.g.st.active = false → v.g.ut.active = false → cause < 256 →
    cause ≠ 0x05 → cause ≠ 0x06 → cause ≠ 0x0A →
    let full (l : Nat) : Prop := (v.g.lane l).rb + (v.g.lane l).rz < (v.g.lane l).base + 128
    let u := takeTrap s cause tval
    let level := if x.priv then 256 else 0
    let tcause : Dword := BitVec.ofNat 64 (level + cause)
    let f := fenced s v.g v.carried
    let g := { f with
      ut := { active := true, set := v.carried, tcause := tcause, tepc := v.pc, tval := tval, paid := some v.pc }
      st := if x.priv then { v.g.st with tcause := tcause, tepc := v.pc, tval := tval } else v.g.st
      lanes := f.lanes.mapIdx fun i (l : Lane) => if v.carried.has i then { l with ub := l.base, up := l.preds } else l }
    (passes v.carried full →
      { u with groups := s.groups, busy := s.busy } = s ∧ u.busy = false ∧
      (∀ k, k ≠ v.g.id → getGroup u k = getGroup s k) ∧
      getGroup u v.g.id = some { g with
        userPend := false
        skipMask := v.g.skipMask &&& ~~~v.carried
        lanes := g.lanes.mapIdx fun i (l : Lane) =>
          if v.carried.has i then { l with base := l.base + 64, pc := x.thand } else l }) ∧
    (∀ n tm, firstOf v.carried full n → getTeam s v.g.team = some tm → v.g.core < s.cores.length →
      v.g.slot < (getCore s v.g.core).slots.length →
      let spill : Dword := BitVec.ofNat 64 ((v.g.lane n).base + 64)
      let slot := getSlot s v.g.core v.g.slot
      { u with groups := s.groups, cores := s.cores, busy := s.busy } = s ∧ u.busy = false ∧
      (∀ k, k ≠ v.g.id → getGroup u k = getGroup s k) ∧
      (slot.bank = none →
        getSlot u v.g.core v.g.slot = { slot with bank := some v.g.id } ∧
        getGroup u v.g.id = some (onBank { g with userPend := true } v.carried
          (BitVec.ofNat 64 (cause * 65536 + level + 0x05)) v.pc spill false tm.desc.shand)) ∧
      (slot.bank ≠ none →
        getSlot u v.g.core v.g.slot = { slot with bankQ := slot.bankQ ++ [v.g.id] } ∧
        getGroup u v.g.id = some { g with
          userPend := true
          sysPend := some { cause := 0x05, outer := cause, lvl := x.priv, tepc := v.pc, tval := spill, set := v.carried
                            paid := false } }))

/-- R388, R389 (system handler), R390, for the trap of the issue in hand. -/
def Obligations.SystemTrapsEnterTheSystemHandler : Prop :=
  ∀ (s : State) (v : View) (x : Slice) (tm : Team) (cause : Nat) (tval : Dword), viewOf s = some v →
    sliceOf s v.g = some x → getTeam s v.g.team = some tm → x.ending = none → v.g.st.active = false →
    (cause = 0x05 ∨ cause = 0x06 ∨ cause = 0x0A) → v.g.core < s.cores.length →
    v.g.slot < (getCore s v.g.core).slots.length →
    let u := takeTrap s cause tval
    let outer := if v.g.ut.active then v.g.ut.tcause.toNat % 256 else 0
    let g := fenced s v.g v.carried
    { u with groups := s.groups, cores := s.cores, busy := s.busy } = s ∧ u.busy = false ∧
    (∀ k, k ≠ v.g.id → getGroup u k = getGroup s k) ∧
    ((getSlot s v.g.core v.g.slot).bank = none →
      getSlot u v.g.core v.g.slot = { getSlot s v.g.core v.g.slot with bank := some v.g.id } ∧
      getGroup u v.g.id = some (onBank g v.carried
        (BitVec.ofNat 64 (outer * 65536 + (if x.priv then 256 else 0) + cause)) v.pc tval true tm.desc.shand)) ∧
    (∀ b, (getSlot s v.g.core v.g.slot).bank = some b → b ≠ v.g.id →
      getSlot u v.g.core v.g.slot = { getSlot s v.g.core v.g.slot with
        bankQ := (getSlot s v.g.core v.g.slot).bankQ ++ [v.g.id] } ∧
      getGroup u v.g.id = some { g with
        sysPend := some { cause := cause, outer := outer, lvl := x.priv, tepc := v.pc, tval := tval, set := v.carried
                          paid := true } })

/-- R388 (no user handler), R390, R392, and R387's last point. The slice notes the group and the issue that ended it, so that a
replay of the issue takes the end back; a trap in a system handler leaves the core at once, with a record (log 39, DEDUCED). -/
def Obligations.NestedAndUnhandledTrapsEndTheSlice : Prop :=
  ∀ (s : State) (v : View) (x : Slice) (cause : Nat) (tval : Dword), viewOf s = some v → sliceOf s v.g = some x →
    let u := takeTrap s cause tval
    let user : Prop := cause ≠ 0x05 ∧ cause ≠ 0x06 ∧ cause ≠ 0x0A
    let only (u' : State) : Prop := { u' with groups := s.groups, busy := s.busy } = s
    let ends (code c : Nat) : Prop := getSlice u x.id = some { x with
      ending := some { code := code, cause := c, tepc := v.pc, tval := tval }
      endedBy := some (v.g.id, s.nextId) }
    u.busy = false ∧
    (x.ending.isSome = true ∨ v.g.st.active = true ∨ user ∧ (v.g.ut.active = true ∨ x.thand = 0) →
      (∀ k, k ≠ v.g.id → getGroup u k = getGroup s k) ∧ getGroup u v.g.id = some (fenced s v.g v.carried)) ∧
    (x.ending.isSome = true → only u) ∧
    (x.ending = none → v.g.st.active = false → user → v.g.ut.active = true → ends 2 cause ∧
      only { u with slices := s.slices }) ∧
    (x.ending = none → v.g.st.active = false → user → v.g.ut.active = false → x.thand = 0 → cause ≠ 0x0E →
      ends 2 cause ∧
      only { u with slices := s.slices }) ∧
    (x.ending = none → v.g.st.active = false → v.g.ut.active = false → x.thand = 0 → cause = 0x0E →
      getSlice u x.id = some { x with preempting := true, left := x.budget } ∧ only { u with slices := s.slices }) ∧
    (x.ending = none → v.g.st.active = true → ends 3 0 ∧
      u.cores = modNth s.cores v.g.core (fun c => { c with hist := c.hist.filter fun h => h.grp.id != v.g.id }) ∧
      only { u with
        slices := s.slices, mem := s.mem, hbm := s.hbm, host := s.host, health := s.health, cores := s.cores })

/-- R391, R308. The bank has no group waiting in the clause for a system handler; that it is kept while an issue of the group
may be replayed is log 39 (DEDUCED). -/
def Obligations.TrapReturnRestoresWhatTheEntrySaved : Prop :=
  ∀ (t : EI) (s : State) (v : View), viewOf s = some v →
    let skip := t.mod.getLsbD 0
    let g := fenced s v.g v.carried
    let left (u : State) : Prop :=
      { u with groups := s.groups, cores := s.cores, ops := s.ops, busy := s.busy } = s ∧ u.busy = false ∧
        u.ops = bankDropped s v.g.id ∧ (∀ k, k ≠ v.g.id → getGroup u k = getGroup s k) ∧
        getSlot u v.g.core v.g.slot = { getSlot s v.g.core v.g.slot with bank := none }
    let leaves (g' : Group) : Prop :=
      (replayable s v.g.core v.g.id = true → OwnGroup (.tret t) s v g') ∧
      (replayable s v.g.core v.g.id = false → ∃ u, exec (.tret t) s = .next u ∧ left u ∧ getGroup u v.g.id = some g')
    (v.g.st.active = false → v.g.ut.active = false → exec (.tret t) s = .next (takeTrap s 0x01 4)) ∧
    (v.g.st.active = false → v.g.ut.active = true → v.carried ≠ v.g.ut.set &&& v.g.active →
      exec (.tret t) s = .next (takeTrap s 0x04 0)) ∧
    (v.g.st.active = true → v.carried ≠ v.g.st.set → exec (.tret t) s = .next (takeTrap s 0x04 0)) ∧
    (v.g.st.active = false → v.g.ut.active = true → v.carried = v.g.ut.set &&& v.g.active →
      OwnGroup (.tret t) s v { g with
        ut := { v.g.ut with active := false }
        skipMask := if skip then v.carried else 0
        free := if !skip && v.g.ut.paid == some v.g.ut.tepc then (v.g.ut.set, v.g.ut.tepc) :: v.g.free else v.g.free
        lanes := g.lanes.mapIdx fun i (l : Lane) =>
          if v.g.ut.set.has i ∧ l.st ≠ .free then { l with base := l.ub, preds := l.up, pc := v.g.ut.tepc } else l }) ∧
    (v.g.st.active = true → v.carried = v.g.st.set → v.g.userPend = false → v.g.core < s.cores.length →
      v.g.slot < (getCore s v.g.core).slots.length → (getSlot s v.g.core v.g.slot).bankQ = [] →
      leaves { g with
          jsd := v.g.sjsd.getD v.g.jsd
          jspa := v.g.sjspa.getD v.g.jspa
          sjsd := none
          sjspa := none
          st := { v.g.st with active := false }
          skipMask := if skip then v.g.st.set else 0
          free := if !skip && v.g.st.paid == some v.g.st.tepc then (v.g.st.set, v.g.st.tepc) :: v.g.free else v.g.free
          lanes := g.lanes.mapIdx fun i (l : Lane) =>
            if v.g.st.set.has i then
              { l with base := l.sb, preds := l.sp, rb := l.srb.getD l.rb, srb := none, pc := v.g.st.tepc }
            else l }) ∧
    (v.g.st.active = true → v.carried = v.g.st.set → v.g.userPend = true → v.g.core < s.cores.length →
      v.g.slot < (getCore s v.g.core).slots.length → (getSlot s v.g.core v.g.slot).bankQ = [] →
      ∀ x, sliceOf s v.g = some x →
      leaves { g with
          userPend := false
          jsd := v.g.sjsd.getD v.g.jsd
          jspa := v.g.sjspa.getD v.g.jspa
          sjsd := none
          sjspa := none
          st := { v.g.st with active := false }
          skipMask := 0
          lanes := g.lanes.mapIdx fun i (l : Lane) =>
            if v.g.st.set.has i then
              { l with base := l.sb + 64, preds := l.sp, rb := l.srb.getD l.rb, srb := none, pc := x.thand }
            else l })

/-- R194 (checks 1 and 3), R195, R136. -/
def Obligations.GlobalAccessesCheckThenWaitForTheirGrant : Prop :=
  (∀ (t : MI) (s : State) (v : View), viewOf s = some v →
    let m := v.parts t.h
    let ea (l : Nat) : Dword := v.src64 t.h l false t.a + t.h.disp
    let odd (l : Nat) : Prop := (ea l).toNat % t.size.bytes ≠ 0
    let far (l : Nat) : Prop := 2 ^ 57 ≤ (ea l).toNat
    let does (i : Instr) (dsts : Nat → List Dst) (data cmp : Nat → List Byte) : Prop :=
      (∀ l, firstOf m odd l → exec i s = .next (takeTrap s 0x07 (ea l))) ∧
      (∀ l, passes m odd → firstOf m far l → exec i s = .next (takeTrap s 0x08 (ea l))) ∧
      (m = 0 → OwnGroup i s v (stepOn v.g v.carried t.h.len.bytes)) ∧
      (m ≠ 0 → passes m odd → passes m far →
        PutsInFlight i s v (opMade s v i m .grant ((lanesOf m).map fun l => freshReq l (ea l) (data l) (cmp l)) []
          ((lanesOf m).flatMap dsts) []) v.g)
    let dst (l : Nat) : List Dst := v.g.dsts l (Size.words t.size) t.d
    let val (l : Nat) : List Byte := v.data t.h l t.size t.b
    does (.ld t) dst (fun _ => []) (fun _ => []) ∧
    does (.st t) (fun _ => []) val (fun _ => []) ∧
    does (.atom t) dst val (fun l => if t.opx = 9 then v.data t.h l t.size t.c else []) ∧
    does (.red t) (fun _ => []) val (fun _ => [])) ∧
  (∀ (t : TI) (s : State) (v : View), viewOf s = some v →
    let n := if t.ty.is64 then 8 else 4
    let a : Dword := v.src64 t.h 0 false t.a
    let ea : Dword := a + t.h.disp
    let l := (lanesOf (v.g.active &&& v.g.scope)).headD 0
    (v.g.converged v.pc = false → exec (.gld t) s = .next (takeTrap s 0x04 0)) ∧
    (v.g.converged v.pc = true → ea.toNat % n ≠ 0 → exec (.gld t) s = .next (takeTrap s 0x07 ea)) ∧
    (v.g.converged v.pc = true → ea.toNat % n = 0 → 2 ^ 57 ≤ a.toNat ∨ 2 ^ 57 ≤ ea.toNat →
      exec (.gld t) s = .next (takeTrap s 0x08 ea)) ∧
    (v.g.converged v.pc = true → ea.toNat % n = 0 → a.toNat < 2 ^ 57 → ea.toNat < 2 ^ 57 →
      PutsInFlight (.gld t) s v (opMade s v (.gld t) (Mask.bit l) .grant [freshReq l ea [] []] []
        (v.g.dsts l (n / 4) t.d) []) v.g))

/-- R194 and R198; the offset is an exact integer. Where one participant's offset and core are both out of range TVAL is the
offset, which is the model's choice (log 78). -/
def Obligations.ScratchAccessesCheckThenEnterService : Prop :=
  ∀ (t : MI) (s : State) (v : View) (tm : Team), viewOf s = some v → getTeam s v.g.team = some tm →
    let m := v.parts t.h
    let n := t.size.bytes
    let off (l : Nat) : Int := (v.src32 t.h l t.a).toNat + t.h.imm32.toInt
    let win : Win := match t.opx.toNat % 4 with
      | 0 => .gen
      | 1 => .wgt
      | _ => .act
    let odd (l : Nat) : Prop := off l % (n : Int) ≠ 0
    let does (i : Instr) (w : Win) (core : Nat → Nat) (dsts : Nat → List Dst) (data cmp : Nat → List Byte)
        (gran : List (List Nat)) : Prop :=
      let out (l : Nat) : Prop := off l < 0 ∨ (winBytes tm w : Int) < off l + n
      let gone (l : Nat) : Prop := tm.cores.length ≤ core l
      (∀ l, firstOf m odd l → exec i s = .next (takeTrap s 0x07 (BitVec.ofInt 64 (off l)))) ∧
      (∀ l, passes m odd → firstOf m (fun k => out k ∨ gone k) l →
        exec i s = .next (takeTrap s 0x12 (if off l < 0 ∨ (winBytes tm w : Int) < off l + n then BitVec.ofInt 64 (off l)
          else BitVec.ofNat 64 (core l)))) ∧
      (m = 0 → OwnGroup i s v (stepOn v.g v.carried t.h.len.bytes)) ∧
      (m ≠ 0 → passes m odd → passes m out → passes m gone →
        PutsInFlight i s v (opMade s v i m .active
          ((lanesOf m).map fun l => Req.scratch l (core l) w (off l).toNat n (data l) (cmp l)) []
          ((lanesOf m).flatMap dsts) gran) (stepOn v.g v.carried t.h.len.bytes))
    let dst (l : Nat) : List Dst := v.g.dsts l (Size.words t.size) t.d
    let val (l : Nat) : List Byte := v.data t.h l t.size t.b
    let own (_ : Nat) : Nat := v.g.coreNo
    let named (l : Nat) : Nat := (v.src32 t.h l t.c).toNat
    let lists (core : Nat → Nat) : List (List Nat) :=
      requestLists t.size ((lanesOf m).map fun l => (core l, (off l).toNat))
    does (.lds t) win own dst (fun _ => []) (fun _ => []) (lists own) ∧
    does (.sts t) win own (fun _ => []) val (fun _ => []) (lists own) ∧
    does (.ldsr t) win named dst (fun _ => []) (fun _ => []) (lists named) ∧
    does (.stsr t) win named (fun _ => []) val (fun _ => []) (lists named) ∧
    does (.atoms t) .gen own dst val (fun l => if t.opx = 9 then v.data t.h l t.size t.c else []) []

/-- R199, R200, R201. PREF is stated where no codeword of HBM is in error: a read of one that is counts as any read's. That
GATH makes its checks for N = 0 too is the model's choice (log 79). -/
def Obligations.GatherStreamsAndPopsFollowTheirQueue : Prop :=
  (∀ (t : MI) (s : State) (v : View), viewOf s = some v → cleanMemory s →
    OwnGroup (.pref t) s v (stepOn v.g v.carried t.h.len.bytes)) ∧
  (∀ (t : MI) (s : State) (v : View) (tm : Team), viewOf s = some v → getTeam s v.g.team = some tm →
    let a : Dword := v.src64 t.h 0 false t.a
    let b : Nat := (v.src32 t.h 0 t.b).toNat
    let n : Nat := (v.src32 t.h 0 t.c).toNat
    let next := stepOn v.g v.carried t.h.len.bytes
    (v.g.converged v.pc = false → exec (.gath t) s = .next (takeTrap s 0x04 0)) ∧
    (v.g.converged v.pc = true →
      (b % 4 ≠ 0 → exec (.gath t) s = .next (takeTrap s 0x07 (BitVec.ofNat 64 b))) ∧
      (b % 4 = 0 → a.toNat % t.size.bytes ≠ 0 → exec (.gath t) s = .next (takeTrap s 0x07 a)) ∧
      (b % 4 = 0 → a.toNat % t.size.bytes = 0 → 65536 < n →
        exec (.gath t) s = .next (takeTrap s 0x12 (BitVec.ofNat 64 n))) ∧
      (b % 4 = 0 → a.toNat % t.size.bytes = 0 → n ≤ 65536 → winBytes tm .gen < b + 4 * n →
        exec (.gath t) s = .next (takeTrap s 0x12 (BitVec.ofNat 64 b))) ∧
      (b % 4 = 0 → a.toNat % t.size.bytes = 0 → n ≤ 65536 → b + 4 * n ≤ winBytes tm .gen →
        (n = 0 → OwnGroup (.gath t) s v next) ∧
        (n ≠ 0 → ∃ u, exec (.gath t) s = .next u ∧
          { u with groups := s.groups, nextId := s.nextId, busy := s.busy } = s ∧ u.busy = false ∧
          u.nextId = s.nextId + 1 ∧ (∀ k, k ≠ v.g.id → getGroup u k = getGroup s k) ∧
          getGroup u v.g.id = some { next with
            gs := v.g.gs ++ [{ id := s.nextId, a := a, b := b, n := n, size := t.size.bytes, sx := t.opx.getLsbD 0
                               next := 0, part := [], token := none, verdict := none }] })))) ∧
  (∀ (t : MI) (s : State) (v : View), viewOf s = some v →
    let lanes := lanesOf (v.parts t.h)
    let el (e : GEnt) (l : Nat) : GElem := nth { val := 0, mark := none } e.elems l
    let next := stepOn v.g v.carried t.h.len.bytes
    (v.g.converged v.pc = false → exec (.qpop t) s = .next (takeTrap s 0x04 0)) ∧
    (v.g.converged v.pc = true →
      (lanes = [] → OwnGroup (.qpop t) s v next) ∧
      (lanes ≠ [] → v.g.gq = [] → v.g.gs = [] → exec (.qpop t) s = .next (takeTrap s 0x12 0)) ∧
      (lanes ≠ [] → v.g.gq = [] → v.g.gs ≠ [] → exec (.qpop t) s = .next { s with busy := false }) ∧
      (∀ e es l c a, lanes ≠ [] → v.g.gq = e :: es →
        firstOf (v.parts t.h) (fun k => (el e k).mark ≠ none) l → (el e l).mark = some (c, a) →
        exec (.qpop t) s = .next (takeTrap s c a)) ∧
      (∀ e es, lanes ≠ [] → v.g.gq = e :: es → (∀ l ∈ lanes, (el e l).mark = none) →
        OwnGroup (.qpop t) s v (stepOn { v.g.writes (lanes.flatMap fun l =>
            v.g.putN l t.d (if t.size = .sz8 then [(el e l).val.lo, (el e l).val.hi] else [(el e l).val.lo])) with
          gq := es } v.carried t.h.len.bytes))))

/-- R375 to R379 on one address; R194, R195, R226 on the answers that the grants of the lanes give; R449; and R200 on an element
whose page is local and readable. That a trap waits for a handler of other fibres is log 23 (DEDUCED); that an issue which
parks has not been charged is log 39 (DEDUCED), with what a replay finds done. -/
def Obligations.GrantsReleaseOrTrapTheHeldFibres : Prop :=
  (∀ (s : State) (root va : Nat) (asid : BitVec 16) (lvl : Bool) (k : Want),
    (2 ^ 57 ≤ va → translate s root asid lvl va k = (s, .fail 0x08)) ∧
    (2 ^ 56 ≤ va → va < 2 ^ 57 → lvl = false → translate s root asid lvl va k = (s, .fail 0x09)) ∧
    (va < 2 ^ 57 → va < 2 ^ 56 ∨ lvl = true → cachedFor s asid va = [] → cleanMemory s → MemOk s →
      ∃ s1 r, translate s root asid lvl va k = (s1, r) ∧ { s1 with mem := s.mem, tlb := s.tlb, ptrs := s.ptrs } = s ∧
        (match walk s.mem root va with
          | .notPresent => r = .wait false ∧ s1.mem = s.mem
          | .malformed => r = .wait true ∧ s1.mem = s.mem
          | .leaf a e L =>
              r = leafGrant e L va k ∧
              ((∃ c, r = .fail c) → s1.mem = s.mem) ∧
              ((∀ c, r ≠ .fail c) → ∀ n, memGet s1.mem n =
                if a ≤ n ∧ n < a + 8 then (toBytes ((e ||| 16) ||| (if k.writes then 32 else 0)) 8).getD (n - a) 0
                else memGet s.mem n)))) ∧
  (∀ (e L va : Nat) (k : Want),
    let apt := e / 2 ^ 8 % 4
    let pa := e / 2 ^ 21 % 2 ^ 36 * 65536 + va % pageSize L
    let may : Bool := match k with
      | .fetch => e.testBit 3
      | .read => e.testBit 1
      | .write => e.testBit 2
      | .atomic => e.testBit 1 && e.testBit 2
    let absent : Prop := apt = 3 ∨ (apt = 0 ∧ ¬ (pa < 2 ^ 39 ∧ pa % 2 ^ 36 < 0xC00000000)) ∨ (k = .fetch ∧ apt ≠ 0)
    (absent → leafGrant e L va k = .fail 0x08) ∧
    (¬ absent → may = false → leafGrant e L va k = .fail 0x09) ∧
    (¬ absent → may = true → leafGrant e L va k =
      .ok (if apt = 0 then pa else if apt = 2 then hostKey pa else peerKey (e / 2 ^ 10 % 1024) pa)
        (if apt = 1 then some (e / 2 ^ 10 % 1024) else none) (e.testBit 20))) ∧
  (∀ (s s1 : State) (o : Op) (q : Req) (r : TransRes), (q.st = .fresh ∨ q.st = .verdict false) →
    translate s (teamSpace s o.team).1 (teamSpace s o.team).2 (opLevelS s o) q.va.toNat (wantOf o.i) = (s1, r) →
    let failed (k c : Nat) : Req := { q with st := .failed k c }
    let leaf := leafAt s1 (teamSpace s o.team).2 q.va.toNat
    (∀ m, r = .wait m → ∃ s2 tok, grantReq s o q = (s2, { q with st := .waiting tok }) ∧ tok = s1.host.token ∧
      { s2 with host := s1.host, mem := s1.mem, hbm := s1.hbm } = s1 ∧ s2.host.token = tok + 1) ∧
    (r = .fail 0x08 → grantReq s o q = (s1, failed 4 0x08)) ∧
    (r = .fail 0x09 → leafApt (leafNow s1 (teamSpace s o.team).1 (teamSpace s o.team).2 q.va.toNat (wantOf o.i)) ≠ 1 →
      grantReq s o q = (s1, failed 5 0x09)) ∧
    (∀ key pois, r = .ok key none pois → (∀ t, o.i ≠ .atom t ∧ o.i ≠ .red t) →
      grantReq s o q = (s1, { q with
        st := .granted, keys := (List.range (bytesOf o.i)).map (key + ·), peer := none, pois := pois })) ∧
    (∀ key pois t, r = .ok key none pois → o.i = .atom t ∨ o.i = .red t → leafApt leaf ≠ 1 →
      grantReq s o q = if leafApt leaf = 2 ∧ t.opx ≠ 0 ∧ t.opx ≠ 8 ∧ t.opx ≠ 9 then (s1, failed 7 0x13)
        else (s1, { q with
          st := .granted, keys := (List.range (bytesOf o.i)).map (key + ·), peer := none, pois := pois })) ∧
    (∀ key d pois t s2, r = .ok key (some d) pois → o.i = .atom t ∨ o.i = .red t → leafApt leaf = 1 → leafRap leaf = false →
      admitPeer s1 o.team = (s2, true) → grantReq s o q = (s2, failed 6 0x0A))) ∧
  (∀ (s : State) (o : Op) (q : Req), q.st = .verdict true → grantReq s o q = (s, { q with st := .failed 4 0x08 })) ∧
  (∀ qs : List Req,
    (∀ c tv, firstGrantFail qs = some (c, tv) → ∃ k l q l', qs = l ++ q :: l' ∧ q.st = .failed k c ∧ q.va = tv ∧
      (∀ r ∈ l, ∀ d, r.st ≠ .failed k d) ∧ ∀ r ∈ qs, ∀ j d, r.st = .failed j d → k ≤ j) ∧
    (firstGrantFail qs = none → ∀ r ∈ qs, ∀ j d, r.st = .failed j d → 8 ≤ j)) ∧
  (∀ (s s1 : State) (o : Op) (qs : List Req), getOp s o.id = some o → o.stage = .grant →
    grantReqs s o o.reqs = (s1, qs) →
    let held := modOp s1 o.id fun _ => { o with reqs := qs }
    (qs.any Req.waits = true → exec (.memoryGrant o.id) s =
      .next (modOp s1 o.id fun _ => { o with reqs := qs, price := 0, counted := false })) ∧
    (∀ c tv, qs.any Req.waits = false → firstGrantFail qs = some (c, tv) →
      let tval := if isEnq o.i then (qs.head?.map Req.va).getD tv else tv
      (trapFree held { o with reqs := qs } = true → exec (.memoryGrant o.id) s =
        .next (takeTrapSince (dropOp held o.id) o.id o.grp o.carried c o.pc tval true)) ∧
      (trapFree held { o with reqs := qs } = false → exec (.memoryGrant o.id) s = .next held)) ∧
    (qs.any Req.waits = false → firstGrantFail qs = none → getOp s1 o.id ≠ none →
      (peersFree held s1.nextId (peersOfReqs qs) = true → isEnq o.i = false → ∀ g, getGroup s1 o.grp = some g →
        ∃ u, exec (.memoryGrant o.id) s = .next u ∧ onlyOpAndGroup s1 u o.grp ∧
          getOp u o.id = some { o with reqs := qs, stage := .active, at_ := s.tb } ∧
          (∀ k, k ≠ o.id → getOp u k = getOp s1 k) ∧ getGroup u o.grp = some (stepOn g o.carried o.i.len)) ∧
      (peersFree held s1.nextId (peersOfReqs qs) = false → ∀ x, sliceOfTeam s1 o.team = some x → getSlice s1 x.id = some x →
        ∃ u y, exec (.memoryGrant o.id) s = .next u ∧
          { u with ops := s1.ops, cores := s1.cores, slices := s1.slices, nextId := s1.nextId } = s1 ∧
          u.nextId = s1.nextId + 1 ∧
          getOp u o.id = some { o with reqs := qs, stage := .parked, parkSeq := s1.nextId } ∧
          getSlice u x.id = some y ∧ y.engy = x.engy - BitVec.ofNat 64 o.price ∧
          y.used = (if o.counted then x.used - 1 else x.used) ∧ (o.counted = false → y.left = x.left) ∧
          (o.core < s1.cores.length →
            (getCore u o.core).level = min 1048576 ((getCore s1 o.core).level + o.price))))) ∧
  (∀ (s s1 : State) (g : Group) (x : GStream) (xs : List GStream) (c : TCore) (key : Nat),
    getGroup s g.id = some g → g.gs = x :: xs → g.gq.length < 32 → x.token = none → x.verdict = none →
    x.sent = false → sramClean s = true →
    (∀ o ∈ s.ops, o.grp = g.id → x.id ≤ o.id) → getTCore s g.team g.coreNo = some c →
    let w : Word := BitVec.ofNat 32 (ofBytes (c.bytes .gen (x.b + 4 * x.next) 4))
    let a : Dword := x.a + (if x.sx then w.signExtend 64 else w.setWidth 64) * BitVec.ofNat 64 x.size
    a.toNat < 2 ^ 57 →
    translate s (teamSpace s g.team).1 (teamSpace s g.team).2 (levelS s g) a.toNat .read =
      (s1, .ok key none false) →
    cleanMemory s1 → linesHold s1 ((List.range x.size).map (key + ·)) = false → getGroup s1 g.id = some g →
    (x.size = 4 ∨ x.size = 8) →
    ∃ u, exec (.gatherElementRead g.id) s = .next u ∧ { u with groups := s1.groups, cores := s1.cores } = s1 ∧
      coresKept s1 u ∧ (∀ k, k ≠ g.id → getGroup u k = getGroup s1 k) ∧
      getGroup u g.id = some (gatherPut g x
        { val := BitVec.ofNat 64 (ofBytes ((List.range x.size).map fun i => memGet s1.mem (key + i))), mark := none }))

/-- R196, R197, R235, R7, for local memory without errors. That a load reads all its lanes at one instant is log 33
(DEDUCED). -/
def Obligations.LoadsReturnAndStoresPerformTheirBytes : Prop :=
  (∀ (s : State) (o : Op) (g : Group), getOp s o.id = some o → getGroup s o.grp = some g → o.stage = .active →
    cleanMemory s → o.reqs ≠ [] →
    (∀ q ∈ o.reqs, q.st = .granted ∧ q.peer = none ∧ q.scr = none ∧ q.bad = none ∧ reqReady s o q = true) →
    (∃ t, o.i = .ld t) ∨ (∃ t, o.i = .gld t) →
    ((∀ q ∈ o.reqs, q.pois = false) →
      ∃ u, exec (.loadDataReturn o.id) s = .next u ∧ onlyOpAndGroup s u o.grp ∧ opGone s u o.id ∧
        getGroup u o.grp = some (g.writes (o.reqs.zipIdx.flatMap fun x =>
          ((o.dsts.drop (o.dsts.length / o.reqs.length * x.2)).take (o.dsts.length / o.reqs.length)).zip
            (wordsOf o.i (x.1.keys.map (memGet s.mem)))))) ∧
    (∀ q ∈ o.reqs, q.pois = true → (∀ r ∈ o.reqs, r.pois = true → q.va.toNat ≤ r.va.toNat) →
      o.carried &&& g.active ≠ 0 → (o.sys && g.st.active) = false →
      ∃ u, exec (.loadDataReturn o.id) s = .next u ∧ onlyOpAndGroup s u o.grp ∧ opGone s u o.id ∧
        getGroup u o.grp = some { g with
          deferred := g.deferred ++ [{ cause := 0x0B, tepc := o.pc, tval := q.va, set := o.carried &&& g.active }] })) ∧
  (∀ (s : State) (o : Op) (t : MI) (sector : Nat), getOp s o.id = some o → o.i = .st t → o.stage = .active → o.dsts = [] →
    MemOk s → cleanMemory s → (o.reqs.map Req.lane).Pairwise (· < ·) →
    (∀ q ∈ o.reqs, q.peer = none ∧ q.pois = false ∧ q.bad = none ∧ q.scr = none ∧ q.st ≠ .timedOut) →
    let due := o.reqs.filter fun q => q.st == .granted && q.va.toNat / 48 == sector
    (∀ q ∈ due, reqReady s o q = true) →
    ∃ u, exec (.globalWritePerform o.id sector) s = .next u ∧
      { u with mem := s.mem, ops := s.ops, groups := s.groups, cores := s.cores } = s ∧ coresKept s u ∧
      (∀ k, getGroup u k = getGroup s k) ∧ (∀ k, k ≠ o.id → getOp u k = getOp s k) ∧
      (∀ a, (∀ q ∈ due, a ∈ q.keys → ∃ r ∈ o.reqs, r.st = .done ∧ q.lane < r.lane ∧ a ∈ r.keys) →
        memGet u.mem a = memGet s.mem a) ∧
      (∀ q ∈ due, ∀ n < q.keys.length, q.keys.length = q.data.length → q.keys.Nodup →
        (∀ r ∈ o.reqs, r.st = .done ∨ r ∈ due → q.lane < r.lane → q.keys.getD n 0 ∉ r.keys) →
        memGet u.mem (q.keys.getD n 0) = q.data.getD n 0))

/-- R224, R225, R227, R228 for one lane; R181 and R184 for one lane's granule. How often a service cycle may still be pushed back
is log 80. -/
def Obligations.AtomicsAndScratchServiceActOnTheirBytes : Prop :=
  (∀ (n old b c : Nat), n = 32 ∨ n = 64 → old < 2 ^ n → b < 2 ^ n →
    let int (x : Nat) : Int := (BitVec.ofNat n x).toInt
    let f (x : Nat) : FVal := fmtF32.decode x
    let half (x y : Nat) : Nat :=
      ((addExact .rne (fmtBF16.decode (x % 2 ^ 16)) (fmtBF16.decode (y % 2 ^ 16))).round fmtBF16 .rne false 0).code
    let does (op : Nat) (x : Nat) : Prop := atomVal op n old b c = some x
    does 0 ((old + b) % 2 ^ n) ∧ does 1 (if int old ≤ int b then old else b) ∧ does 2 (if int old ≤ int b then b else old) ∧
    does 3 (if old ≤ b then old else b) ∧ does 4 (if old ≤ b then b else old) ∧
    does 5 (old &&& b) ∧ does 6 (old ||| b) ∧ does 7 (old ^^^ b) ∧ does 8 b ∧
    (old = c → does 9 b) ∧ (old ≠ c → atomVal 9 n old b c = none) ∧
    does 10 (if b ≤ old then 0 else old + 1) ∧ does 11 (if old = 0 ∨ b < old then b else old - 1) ∧
    does 12 ((addExact .rne (f old) (f b)).round fmtF32 .rne false 0).code ∧
    does 13 (half old b + 2 ^ 16 * half (old / 2 ^ 16) (b / 2 ^ 16)) ∧
    does 14 (minMax fmtF32 false old b).code ∧ does 15 (minMax fmtF32 true old b).code) ∧
  (∀ (s : State) (o : Op) (t : MI) (q : Req) (g : Group), getOp s o.id = some o → getGroup s o.grp = some g →
    o.i = .atom t ∨ o.i = .red t ∧ o.dsts = [] → o.stage = .active → o.reqs = [q] → localReq q → MemOk s → cleanMemory s →
    reqReady s o q = true → q.keys ≠ [] → q.keys.Nodup →
    let old := q.keys.map (memGet s.mem)
    ∃ u, exec (.atomicPerform o.id) s = .next u ∧
      { u with mem := s.mem, ops := s.ops, groups := s.groups, cores := s.cores, fresh := s.fresh } = s ∧ coresKept s u ∧
      opGone s u o.id ∧
      (∀ a, a ∉ q.keys → memGet u.mem a = memGet s.mem a) ∧
      q.keys.map (memGet u.mem) = (match atomVal t.opx.toNat (8 * old.length) (ofBytes old) (ofBytes q.data) (ofBytes q.cmp) with
        | some x => toBytes x old.length
        | none => old) ∧
      (∀ k, k ≠ o.grp → getGroup u k = getGroup s k) ∧
      getGroup u o.grp = some (g.writes (o.dsts.zip (loadWords t.size false old)))) ∧
  (∀ (s : State) (o : Op) (t : MI) (q : Req) (g : Group) (c : Nat) (w : Win) (x : TCore),
    getOp s o.id = some o → getGroup s o.grp = some g → o.i = .atoms t → o.stage = .active → o.reqs = [q] →
    q.st = .granted → q.scr = some (c, w) → q.peer = none → q.bad = none → reqReady s o q = true → sramClean s = true →
    getTCore s o.team c = some x → x.poisoned w q.va.toNat q.keys.length = false →
    (∀ p ∈ s.ops, isBwait p.i = false) →
    let old := x.bytes w q.va.toNat q.keys.length
    ∃ u, exec (.atomicPerform o.id) s = .next u ∧
      { u with teams := s.teams, ops := s.ops, groups := s.groups, cores := s.cores, fresh := s.fresh } = s ∧ coresKept s u ∧
      opGone s u o.id ∧ (∀ k, k ≠ o.team → getTeam u k = getTeam s k) ∧
      (∀ k, k ≠ c → getTCore u o.team k = getTCore s o.team k) ∧
      getTCore u o.team c = some (x.write w q.va.toNat
        (match atomVal t.opx.toNat (8 * old.length) (ofBytes old) (ofBytes q.data) (ofBytes q.cmp) with
          | some y => toBytes y old.length
          | none => old)) ∧
      (∀ k, k ≠ o.grp → getGroup u k = getGroup s k) ∧
      getGroup u o.grp = some (g.writes (o.dsts.zip (loadWords t.size false old)))) ∧
  (∀ (s : State) (o : Op) (t : MI) (q : Req) (g : Group) (c : Nat) (w : Win) (x : TCore) (n : Nat),
    getOp s o.id = some o → getGroup s o.grp = some g → o.reqs = [q] → q.st = .granted → q.scr = some (c, w) →
    q.bad = none → q.got = [] → q.keys.length = n → 0 < n → q.va.toNat % 8 + n ≤ 8 → q.va.toNat / 8 < 2 ^ 32 →
    o.gran = [[c * 2 ^ 32 + q.va.toNat / 8]] → getTCore s o.team c = some x → sramClean s = true →
    scratchRivals s o x.phys ≤ o.moved → reqReady s o q = true → x.poisoned w q.va.toNat n = false →
    (o.i = .lds t ∨ o.i = .ldsr t →
      ∃ u, exec (.scratchServiceCycle o.id) s = .next u ∧ onlyOpAndGroup s u o.grp ∧ opGone s u o.id ∧
        getGroup u o.grp = some (g.writes (o.dsts.zip
          (loadWords t.size (t.opx.getLsbD 3) (x.bytes w q.va.toNat n))))) ∧
    (o.i = .sts t ∨ o.i = .stsr t → o.dsts = [] → q.data.length = n → (∀ p ∈ s.ops, isBwait p.i = false) →
      ∃ u, exec (.scratchServiceCycle o.id) s = .next u ∧
        { u with ops := s.ops, groups := s.groups, cores := s.cores, teams := s.teams } = s ∧ coresKept s u ∧
        opGone s u o.id ∧ (∀ k, getGroup u k = getGroup s k) ∧ (∀ k, k ≠ o.team → getTeam u k = getTeam s k) ∧
        (∀ k, k ≠ c → getTCore u o.team k = getTCore s o.team k) ∧
        getTCore u o.team c = some (x.write w q.va.toNat q.data)))

/-- R217 to R222. The arguments are core, offset, then the entry's operands. That BINIT's baton conditions look at the baton as
the BINITs on their way leave it is log 53 (DEDUCED); which of two values of one row RBIND reports is log 81 (DESIGN CHOICE). -/
def Obligations.BarrierInstructionsCheckThenReachTheUnit : Prop :=
  ∀ (s : State) (v : View) (tm : Team), viewOf s = some v → getTeam s v.g.team = some tm →
    (∀ t : EI,
      let m := v.parts t.h
      let next := stepOn v.g v.carried t.h.len.bytes
      let core := if t.mod.getLsbD 9 then (t.mod.extractLsb' 7 2).toNat else v.g.coreNo
      let a := (v.src32 t.h 0 t.a).toNat
      let b := (v.src32 t.h 0 t.b).toNat
      let c := (v.src32 t.h 0 t.c).toNat
      let n64 (x : Nat) : Dword := BitVec.ofNat 64 x
      let gen := winBytes tm .gen
      let inside (off : Nat) : Prop := off % 16 = 0 ∧ off + 16 ≤ gen ∧ core < tm.cores.length
      let arrivals (x : Nat) : Prop := 1 ≤ x ∧ x ≤ 65535
      let traps (i : Instr) (cause : Nat) (tv : Dword) : Prop := exec i s = .next (takeTrap s cause tv)
      let sends (i : Instr) (args : List Dword) (dsts : List Dst) : Prop :=
        PutsInFlight i s v (opMade s v i m .active [] args dsts []) next
      let uniform (i : Instr) (off : Nat) (once : Bool) : Prop :=
        (once = true → v.g.converged v.pc = false → traps i 0x04 0) ∧
        (once = false ∨ v.g.converged v.pc = true →
          (m = 0 → OwnGroup i s v next) ∧ (m ≠ 0 → off % 16 ≠ 0 → traps i 0x07 (n64 off)))
      let ready (once : Bool) : Prop := m ≠ 0 ∧ (once = false ∨ v.g.converged v.pc = true)
      let windows (i : Instr) (once : Bool) : Prop :=
        ready once → a % 16 = 0 →
          (gen < a + 16 → traps i 0x12 (n64 a)) ∧ (a + 16 ≤ gen → tm.cores.length ≤ core → traps i 0x12 (n64 core))
      (uniform (.binit t) a true ∧ uniform (.barvOne t) a true ∧ uniform (.bexp t) a true ∧ uniform (.bwait t) a false ∧
        uniform (.btest t) a false ∧ uniform (.brd t) a false ∧ uniform (.rbind t) c true) ∧
      (windows (.binit t) true ∧ windows (.barvOne t) true ∧ windows (.bexp t) true ∧ windows (.bwait t) false ∧
        windows (.btest t) false ∧ windows (.brd t) false) ∧
      (ready true → inside a →
        (¬ arrivals b → traps (.binit t) 0x12 (n64 b) ∧ traps (.barvOne t) 0x12 (n64 b)) ∧
        (arrivals b → sends (.barvOne t) [n64 core, n64 a, n64 b, n64 c] []) ∧
        sends (.bexp t) [n64 core, n64 a, n64 b] [] ∧
        (arrivals b → t.var = 1 → b ≠ 1 → traps (.binit t) 0x12 (n64 b)) ∧
        (arrivals b → (t.var = 1 → b = 1) → ∀ tc, tm.cores[core]? = some tc →
          let x := batonAhead s v.g.team core tc
          ((∀ o ∈ s.ops, ∀ t', o.i = .binit t' → o.team = v.g.team → o.arg 0 ≠ core) → x = tc) ∧
          (x.baton = some a → x.held = true → traps (.binit t) 0x12 (n64 a)) ∧
          (∀ y, x.baton = some y → t.var = 1 → y ≠ a → traps (.binit t) 0x12 (n64 y)) ∧
          ((x.baton = some a → x.held = false) → (∀ y, x.baton = some y → t.var = 1 → y = a) →
            sends (.binit t) [n64 core, n64 a, n64 b] []))) ∧
      (ready false → inside a →
        sends (.btest t) [n64 core, n64 a, n64 (b % 16)] ((lanesOf m).flatMap fun l => v.g.dsts l 1 t.d) ∧
        sends (.brd t) [n64 core, n64 a] ((lanesOf m).flatMap fun l => v.g.dsts l 4 t.d) ∧
        PutsInFlight (.bwait t) s v (opMade s v (.bwait t) m .active []
          [n64 core, n64 a, n64 (b % 16), n64 c, 0] ((lanesOf m).flatMap fun l => v.g.dsts l 1 t.d) []) v.g) ∧
      (let off (l : Nat) : Nat := (v.src32 t.h l t.a).toNat
       let n (l : Nat) : Nat := (v.src32 t.h l t.b).toNat
       let odd (l : Nat) : Prop := off l % 16 ≠ 0
       let out (l : Nat) : Prop := gen < off l + 16 ∨ tm.cores.length ≤ core
       let bad (l : Nat) : Prop := ¬ arrivals (n l)
       (m = 0 → OwnGroup (.barvEach t) s v next) ∧
       (∀ l, firstOf m odd l → traps (.barvEach t) 0x07 (n64 (off l))) ∧
       (∀ l, passes m odd → firstOf m out l →
         traps (.barvEach t) 0x12 (if gen < off l + 16 then n64 (off l) else n64 core)) ∧
       (∀ l, passes m odd → passes m out → firstOf m bad l → traps (.barvEach t) 0x12 (n64 (n l))) ∧
       (m ≠ 0 → passes m odd → passes m out → passes m bad →
         sends (.barvEach t) (n64 core :: (lanesOf m).flatMap fun l =>
           [(v.src32 t.h l t.a).setWidth 64, (v.src32 t.h l t.b).setWidth 64, (v.src32 t.h l t.c).setWidth 64]) [])) ∧
      (ready true → c % 16 = 0 →
        let base := (v.src64 t.h 0 false t.b).toNat
        let lines := t.h.imm32.toNat
        let rb := Instr.rbind t
        (base % 192 ≠ 0 → traps rb 0x07 (n64 base)) ∧
        (base % 192 = 0 →
          (gen < c + 16 → traps rb 0x12 (n64 c)) ∧
          (c + 16 ≤ gen → tm.cores.length ≤ core → traps rb 0x12 (n64 core)) ∧
          (inside c →
            (tm.k.nregion ≤ a → traps rb 0x12 (n64 a)) ∧
            (a < tm.k.nregion → lines = 0 → traps rb 0x12 0) ∧
            (a < tm.k.nregion → lines ≠ 0 → 2 ^ 57 < base + 192 * lines → traps rb 0x12 (n64 base)) ∧
            (a < tm.k.nregion → lines ≠ 0 → base + 192 * lines ≤ 2 ^ 57 →
              sends rb [n64 core, n64 c, n64 a, v.src64 t.h 0 false t.b, t.h.imm32.setWidth 64] [])))) ∧
      (v.g.converged v.pc = false → traps (.rfree t) 0x04 0) ∧
      (v.g.converged v.pc = true → m = 0 → OwnGroup (.rfree t) s v next) ∧
      (ready true →
        (tm.k.nregion ≤ a → traps (.rfree t) 0x12 (n64 a)) ∧ (a < tm.k.nregion → sends (.rfree t) [0, 0, n64 a] [])) ∧
      (m = 0 → OwnGroup (.drain t) s v next) ∧
      (m ≠ 0 → PutsInFlight (.drain t) s v (opMade s v (.drain t) m .active [] [] [] []) v.g)) ∧
    (∀ t : MI,
      (v.parts t.h = 0 → OwnGroup (.fence t) s v (stepOn v.g v.carried t.h.len.bytes)) ∧
      (v.parts t.h ≠ 0 → PutsInFlight (.fence t) s v (opMade s v (.fence t) (v.parts t.h) .active [] [] [] []) v.g))

/-- R205, on any barrier; and the event for each operation of R219, on a core without a baton, nobody waiting. -/
def Obligations.BarrierApplyCountsAndCompletesPhases : Prop :=
  (∀ (b : Bar) (n add landed : Nat),
    let nb : Int := b.pbytes + add - landed
    let refused : Prop := nb < -(2 ^ 35) ∨ 2 ^ 35 - 1 < nb ∨ b.pend < n
    let done : Prop := b.pend - n = 0 ∧ nb = 0 ∧ b.fault = false ∧ b.ovf = false ∧ b.timeout = false ∧ b.gone = false
    (refused → b.apply n add landed = { b with ovf := true }) ∧
    (¬ refused → ¬ done → b.apply n add landed = { b with pbytes := nb, pend := b.pend - n }) ∧
    (¬ refused → done → b.apply n add landed =
      { b with pbytes := 0, pend := b.init, phase := (b.phase + 1) % 16 })) ∧
  (∀ (regs : List (Option Region)) (core off : Nat),
    let bound (n : Nat) : Prop := ∃ r, regs[n]? = some (some r) ∧ r.core = core ∧ r.bar = off
    let tag := regionTag regs core off
    (tag.1 = 0 ↔ ∀ n, ¬ bound n) ∧ ((∀ n, ¬ bound n) → tag.2 = 255) ∧
    (∀ n, bound n → (∀ k < n, ¬ bound k) → tag.2 = n) ∧
    tag.1 = regs.countP fun r => (r.map fun x => x.core == core && x.bar == off).getD false) ∧
  (∀ (s : State) (o : Op) (x : TCore), getOp s o.id = some o → getTCore s o.team (o.arg 0) = some x →
    barTurn s o (o.arg 0, o.arg 1) = true → x.baton = none → (∀ p ∈ s.ops, isBwait p.i = false) → sramClean s = true →
    let off := o.arg 1
    let changes (y : TCore) : Prop :=
      ∃ u, exec (.barrierApply o.id) s = .next u ∧ { u with ops := s.ops, teams := s.teams, fab := s.fab } = s ∧
        { u.fab with hints := s.fab.hints } = s.fab ∧ opGone s u o.id ∧ onlyShare s u o.team (o.arg 0) ∧
        getTCore u o.team (o.arg 0) = some y
    (∀ t, o.i = .barvOne t → opReady s o o.mask = true →
      changes (x.setBar off ((x.bar off).apply (o.arg 2) (o.arg 3) 0))) ∧
    (∀ t, o.i = .bexp t → opReady s o 0 = true → changes (x.setBar off ((x.bar off).apply 0 (o.arg 2) 0))) ∧
    (∀ t tm, o.i = .binit t → opReady s o 0 = true → getTeam s o.team = some tm →
      let tag := regionTag tm.regions (o.arg 0) off
      changes ({ x with baton := if t.var = 1 then some off else none }.setBar off
        { ffo := 0, baton := decide (t.var = 1), gone := false, timeout := false, ovf := false, fault := false
          nreg := tag.1, lreg := tag.2, pbytes := 0, init := o.arg 2, pend := o.arg 2, phase := 0 })) ∧
    (∀ t, o.i = .barvEach t →
      let l := (lanesOf o.mask).headD 0
      opReady s o (Mask.bit l) = true →
      ∃ u, exec (.barrierApply o.id) s = .next u ∧ { u with ops := s.ops, teams := s.teams, fab := s.fab } = s ∧
        onlyShare s u o.team (o.arg 0) ∧
        getTCore u o.team (o.arg 0) = some (x.setBar off ((x.bar off).apply (o.arg 2) (o.arg 3) 0)) ∧
        (∀ k, k ≠ o.id → getOp u k = getOp s k) ∧
        getOp u o.id = (if o.args.length ≤ 4 then none
          else some { o with
            mask := o.mask &&& ~~~Mask.bit l
            args := BitVec.ofNat 64 (o.arg 0) :: o.args.drop 4 })) ∧
    (∀ t g, o.i = .brd t → opReady s o 0 = true → getGroup s o.grp = some g →
      ∃ u, exec (.barrierApply o.id) s = .next u ∧ onlyOpAndGroup s u o.grp ∧ opGone s u o.id ∧
        getGroup u o.grp = some (g.writes (o.dsts.zipIdx.map fun y =>
          (y.1, BitVec.ofNat 32 ((x.bar off).word / 2 ^ (32 * (y.2 % 4)))))))) ∧
  (∀ (s : State) (o : Op) (tm : Team), getOp s o.id = some o → getTeam s o.team = some tm →
    barTurn s o (o.arg 0, o.arg 1) = true → opReady s o 0 = true → sramClean s = true →
    let slot := o.arg 2
    let binds (r : Option Region) : State :=
      let regs := setNth tm.regions slot r
      let tagged (u : State) (x : Option Region) : State := match x with
        | none => u
        | some x => modBar u o.team x.core x.bar fun b =>
            { b with nreg := (regionTag regs x.core x.bar).1, lreg := (regionTag regs x.core x.bar).2 }
      tagged (tagged (modTeam (dropOp s o.id) o.team fun t => { t with regions := regs }) (tm.regions[slot]?).join) r
    (∀ t, o.i = .rbind t → exec (.barrierApply o.id) s = .next (binds (some
      { base := nth 0 o.args 3, lines := o.arg 4, core := o.arg 0, bar := o.arg 1 }))) ∧
    (∀ t, o.i = .rfree t → exec (.barrierApply o.id) s = .next (binds none)))

/-- R208 and R156 for a wait whose argument 4 says what it has seen: 0 on its way, 1 registered, 2 its phase, 3 a freeze flag;
BTEST of R219; the ends of R221 and R222. -/
def Obligations.WaitsEndOnPhaseFreezeOrLimit : Prop :=
  ∀ (s : State) (o : Op) (g : Group), getOp s o.id = some o → getGroup s o.grp = some g →
    let passed (e : Instr) (ws : List (Dst × Word)) : Prop :=
      ∃ u, exec e s = .next u ∧ onlyOpAndGroup s u o.grp ∧ opGone s u o.id ∧
        getGroup u o.grp = some (stepOn (g.writes ws) o.carried o.i.len)
    (∀ t : EI, o.i = .bwait t →
      let b := getBar s o.team (o.arg 0) (o.arg 1)
      let seen (n : Dword) : State := modOp s o.id fun x => { x with args := setNth x.args 4 n }
      (o.arg 4 = 0 → o.args.length = 5 → barTurn s o (o.arg 0, o.arg 1) = true → sramClean s = true →
        (∀ p ∈ s.ops, isBwait p.i = true → p = o) → ∀ tc, getTCore s o.team (o.arg 0) = some tc →
        let e := Instr.bwaitComplete o.id
        (b.phase ≠ o.arg 2 → b.frozen = false → exec e s = .next (seen 1)) ∧
        (b.phase ≠ o.arg 2 → b.frozen = true → exec e s = .next (seen 3)) ∧
        (b.phase = o.arg 2 → tc.baton ≠ some (o.arg 1) → passed e (o.dsts.map fun d => (d, 1))) ∧
        (b.phase = o.arg 2 → tc.baton = some (o.arg 1) → tc.held = true → exec e s = .next (seen 1)) ∧
        (b.phase = o.arg 2 → tc.baton = some (o.arg 1) → tc.held = false →
          ∃ u, exec e s = .next u ∧
            { u with ops := s.ops, groups := s.groups, cores := s.cores, teams := s.teams } = s ∧ coresKept s u ∧
            opGone s u o.id ∧ (∀ k, k ≠ o.grp → getGroup u k = getGroup s k) ∧
            getGroup u o.grp = some (stepOn (g.writes (o.dsts.map fun d => (d, 1))) o.carried o.i.len) ∧
            onlyShare s u o.team (o.arg 0) ∧
            getTCore u o.team (o.arg 0) = some { tc with held := true, holder := g.grp })) ∧
      (o.arg 4 = 2 → passed (.bwaitComplete o.id) (o.dsts.map fun d => (d, 1))) ∧
      (o.arg 4 = 3 → trapFree s o = true →
        exec (.bwaitBarfault o.id) s =
          .next (takeTrapSince (dropOp s o.id) o.id o.grp o.carried 0x0C o.pc (BitVec.ofNat 64 (o.arg 1)) true)) ∧
      (o.arg 4 = 1 → o.args.length = 5 →
        b.phase ≠ o.arg 2 → b.frozen = false → (∀ p ∈ s.ops, isBwait p.i = true → p = o) →
        (o.arg 3 ≠ 0 → o.at_ + o.arg 3 ≤ s.tb → passed (.bwaitLimitExpire o.id) (o.dsts.map fun d => (d, 0))) ∧
        exec (.bwaitComplete o.id) s = .next s ∧ exec (.bwaitBarfault o.id) s = .next s ∧
        (o.arg 3 = 0 ∨ s.tb < o.at_ + o.arg 3 → exec (.bwaitLimitExpire o.id) s = .next s))) ∧
    (∀ t : EI, o.i = .btest t → barTurn s o (o.arg 0, o.arg 1) = true → opReady s o 0 = true → sramClean s = true →
      ∃ u, exec (.barrierApply o.id) s = .next u ∧ onlyOpAndGroup s u o.grp ∧
        opGone s u o.id ∧
        getGroup u o.grp = some (g.writes (o.dsts.map fun d =>
          (d, if (getBar s o.team (o.arg 0) (o.arg 1)).phase = o.arg 2 then 1 else 0)))) ∧
    (∀ t : MI, o.i = .fence t → fenceMet s o t = true → passed (.fenceEnd o.id) []) ∧
    (∀ t : EI, o.i = .drain t → drainMet s o t = true → passed (.drainEnd o.id) [])

/-- R250, R251, R255, R265, R277 to R280. Which of several failing values of the lowest lane TVAL holds is log 84 (DESIGN
CHOICE). -/
def Obligations.CopiesCheckThenEnterTheEngine : Prop :=
  ∀ (t : EI) (i : Instr) (s : State) (v : View) (tm : Team), i = .cpy t ∨ i = .cpyr t ∨ i = .cpyred t →
    viewOf s = some v → getTeam s v.g.team = some tm →
    let m := v.parts t.h
    let n : Nat := 2 ^ t.csize.toNat
    let d (l : Nat) : Dword := dstVal v i t l
    let x (l : Nat) : Dword := srcVal v i t l
    let c : Word := v.uni t.h t.c
    let dOdd (l : Nat) : Bool := decide ((dstSide i (d l)).off % n ≠ 0)
    let xOdd (l : Nat) : Bool := decide ((srcSide i (x l)).off % n ≠ 0)
    let dOut (l : Nat) : Bool := sideOut tm n (d l) (dstSide i (d l))
    let xOut (l : Nat) : Bool := sideOut tm n (x l) (srcSide i (x l))
    let dHigh (l : Nat) : Bool := (dstSide i (d l)).high
    let checks : List ((Nat → Bool) × Nat × (Nat → Dword)) :=
      [ (fun l => dOdd l || xOdd l || decide (c.toNat % 16 ≠ 0), 0x07,
          fun l => if dOdd l then d l else if xOdd l then x l else c.setWidth 64),
        (fun l => dOut l || xOut l || barOut tm (toPeer i) c.toNat, 0x12,
          fun l => if dOut l then d l else if xOut l then x l else c.setWidth 64),
        (fun l => dHigh l || (srcSide i (x l)).high, 0x08, fun l => if dHigh l then d l else x l) ]
    let ls := copyLines s v i t m
    let queued := (s.lines.filter fun l => l.core == v.g.core && !l.dead).length
    let seg (l : Nat) : Seg := newSeg s (teamSpace s v.g.team).1 v i t l
    (∀ cause tv, FirstFailure m checks (some (cause, tv)) → exec i s = .next (takeTrap (unparked s v) cause tv)) ∧
    (FirstFailure m checks none →
      (64 < queued + ls.length → exec i s = .next { s with busy := false }) ∧
      (queued + ls.length ≤ 64 → peersFree s (parkSeqOf s v.g) (linePeers ls) = false →
        Parks i s v (linePeers ls)) ∧
      (queued + ls.length ≤ 64 → peersFree s (parkSeqOf s v.g) (linePeers ls) = true →
        ∃ u, exec i s = .next u ∧
          { u with lines := s.lines, groups := s.groups, nextId := s.nextId, busy := s.busy } = s ∧ u.busy = false ∧
          u.lines = s.lines ++ ls ∧ u.nextId = s.nextId + ls.length + 1 ∧
          (∀ k, k ≠ v.g.id → getGroup u k = getGroup s k) ∧
          getGroup u v.g.id = some (stepOn { v.g with parked := none } v.carried t.h.len.bytes))) ∧
    (∀ l ∈ lanesOf m, ∃ y ∈ ls, seg l ∈ y.segs) ∧ (ls.map Line.dline).Nodup ∧
    (∀ y ∈ ls, y.i = i ∧ y.bar = c.setWidth 64 ∧ y.grp = v.g.id ∧ y.core = v.g.core ∧ y.team = v.g.team ∧ y.at_ = s.tb ∧
      ∀ q ∈ y.segs, (∃ l ∈ lanesOf m, q = seg l) ∧ (dstSide i q.dst).line = y.dline ∧ q.sec ∈ y.left)

/-- R281, R282, R283, R299, with R265 and R267. That ALWB reports the slot where slot and device are both out of range is log
85 (DESIGN CHOICE). -/
def Obligations.SignalsAndAllowanceActOncePerGroup : Prop :=
  ∀ (t : EI) (s : State) (v : View), viewOf s = some v →
    let next := stepOn v.g v.carried t.h.len.bytes
    let n64 (x : Nat) : Dword := BitVec.ofNat 64 x
    let a := (v.uni t.h t.a).toNat
    let b := (v.uni t.h t.b).toNat
    (let h := v.uni64 t.h t.a
     let ps := [(h.toNat / 2 ^ 54, 1)]
     let checks : List ((Nat → Bool) × Nat × (Nat → Dword)) :=
      [ (fun _ => decide (h.toNat % 16 ≠ 0), 0x07, fun _ => h),
        (fun _ => decide (h.toNat / 2 ^ 24 % 2 ^ 20 ≠ 0) || decide (h.toNat / 2 ^ 54 = devN), 0x12, fun _ => h),
        (fun _ => decide (b = 0) || decide (65535 < b), 0x12, fun _ => n64 b) ]
     (v.g.converged v.pc = false → exec (.cpysig t) s = .next (takeTrap (unparked s v) 0x04 0)) ∧
     (v.g.converged v.pc = true →
      (∀ cause tv, FirstFailure 1 checks (some (cause, tv)) →
        exec (.cpysig t) s = .next (takeTrap (unparked s v) cause tv)) ∧
      (FirstFailure 1 checks none →
        (peersFree s (parkSeqOf s v.g) ps = false → Parks (.cpysig t) s v ps) ∧
        (peersFree s (parkSeqOf s v.g) ps = true →
          ∃ u, exec (.cpysig t) s = .next u ∧
            { u with sigs := s.sigs, groups := s.groups, nextId := s.nextId, busy := s.busy } = s ∧ u.busy = false ∧
            u.nextId = s.nextId + 1 ∧
            u.sigs = s.sigs ++ [{ id := s.nextId, grp := v.g.id, core := v.g.core, team := v.g.team, handle := h
                                  arrivals := b, bytes := (v.uni t.h t.c).toNat, tag := none, at_ := s.tb
                                  cyc := v.cyc }] ∧
            (∀ k, k ≠ v.g.id → getGroup u k = getGroup s k) ∧
            getGroup u v.g.id = some (stepOn { v.g with parked := none } v.carried t.h.len.bytes))))) ∧
    (∀ tm, getTeam s v.g.team = some tm →
      (v.g.converged v.pc = false → exec (.alwb t) s = .next (takeTrap s 0x04 0) ∧
        exec (.alwr t) s = .next (takeTrap s 0x04 0)) ∧
      (v.g.converged v.pc = true → v.parts t.h = 0 → OwnGroup (.alwb t) s v next ∧ OwnGroup (.alwr t) s v next) ∧
      (v.g.converged v.pc = true → v.parts t.h ≠ 0 →
        (15 < a → exec (.alwb t) s = .next (takeTrap s 0x12 (n64 a)) ∧
          exec (.alwr t) s = .next (takeTrap s 0x12 (n64 a))) ∧
        (a ≤ 15 → 1023 < b ∨ b = devN → exec (.alwb t) s = .next (takeTrap s 0x12 (n64 b))) ∧
        (a ≤ 15 → b ≤ 1023 → b ≠ devN →
          ∃ u, exec (.alwb t) s = .next u ∧ { u with cores := s.cores, groups := s.groups, busy := s.busy } = s ∧
            u.busy = false ∧ (∀ k, k ≠ v.g.id → getGroup u k = getGroup s k) ∧ getGroup u v.g.id = some next ∧
            u.cores = modNth s.cores v.g.core fun k =>
              { k with alw := setNth k.alw a { v := true, ctx := ctxOfTeam s v.g.team, dev := b } }) ∧
        (a ≤ 15 →
          let x := readAlw s v.g.core a (ctxOfTeam s v.g.team)
          let gf : Word := (if x.2.2.2 = 0 then 1 else 0) + (if b ≤ x.2.2.2 then 4 else 0) + (if x.1 then 0 else 16)
          OwnGroup (.alwr t) s v (stepOn (v.g.writes
            (v.g.put64 0 t.d (alwWord x) ++ [(.gf v.g.onBank, gf)])) v.carried t.h.len.bytes)))) ∧
    (let x := readAlw s v.g.core (t.mod.toNat % 16) (ctxOfTeam s v.g.team)
     let ok : Bool := x.1 && decide (max b 1 ≤ x.2.2.2)
     OwnGroup (.braAlw t) s v (movedTo v.g v.carried fun _ =>
       if ok != t.mod.getLsbD 4 then v.pc + t.h.disp else v.pc + BitVec.ofNat 64 t.h.len.bytes))

/-- R252 to R254 for one request without errors, R256 with R203 and R264, R265 with R344 and R449. -/
def Obligations.CopyLinesLandCountAndFault : Prop :=
  (∀ (s : State) (l : Line) (t : EI) (q : Seg) (cs cd os od : Nat) (ws wd : Win) (x : TCore),
    getLine s l.id = some l → (∀ k ∈ s.sigs, k.id ≠ l.id) → (∀ k ∈ s.lines, k.id = l.id → k = l) →
    l.i = .cpy t → l.segs = [q] → l.left = [q.sec] → q.st = .fresh → q.data = [] → q.skip = [] →
    (∀ k ∈ s.lines, k.copy = l.copy → k = l) →
    l.token = none → l.verdict = none → lineFree s l = true → (∀ o ∈ s.ops, o.grp = l.grp → l.copy ≤ o.id) →
    srcSide l.i q.src = .scratch cs ws os → getTCore s l.team cs = some x → x.poisoned ws os q.size = false →
    sramClean s = true →
    let bar (u : State) : State := applyBar u l.team (l.bar.toNat / 2 ^ 24 % 4) (l.bar.toNat % 2 ^ 24) 0 0 q.size
    (dstSide l.i q.dst = .scratch cd wd od →
      exec (.copySectorLand l.id q.sec) s = .next (dropLine
        (bar (notifyBytes (modTCore s l.team cd fun y => y.write wd od (x.bytes ws os q.size)) l.team cd wd od q.size))
        l.id)) ∧
    (∀ va s1 key, dstSide l.i q.dst = .glob va → cleanMemory s1 → MemOk s1 →
      translate s (teamSpace s l.team).1 (teamSpace s l.team).2 l.lvl va .write = (s1, .ok key none false) →
      s1.lines = s.lines → s1.teams = s.teams → s1.ops = s.ops →
      ∃ u, exec (.copySectorLand l.id q.sec) s = .next u ∧
        u = { dropLine (bar s1) l.id with mem := u.mem } ∧
        ∀ a, memGet u.mem a = if key ≤ a ∧ a < key + q.size then (x.bytes ws os q.size).getD (a - key) 0
          else memGet s1.mem a)) ∧
  (∀ (s : State) (l : Line) (c : Nat) (va : Dword) (x : TCore), getLine s l.id = some l → l.cause = some (c, va) →
    (∃ t, l.i = .cpy t) → getTCore s l.team (l.bar.toNat / 2 ^ 24 % 4) = some x →
    let off := l.bar.toNat % 2 ^ 24
    let ends : List Line :=
      if l.segs.any Seg.isSent then s.lines.map fun k =>
        if k.id == l.id then
          { k with
            dead := true
            left := []
            cause := none
            segs := k.segs.map fun q => if q.isSent then q else { q with st := .done } }
        else k
      else s.lines.filter fun k => k.id != l.id
    memWf x.gen = true → sramClean s = true →
    ∃ u y, exec (.copyLineFault l.id) s = .next u ∧ u.lines = ends ∧
      u.groups = s.groups ∧ u.cores = s.cores ∧ (∀ k, k ≠ l.team → getTeam u k = getTeam s k) ∧
      (∀ k, k ≠ l.bar.toNat / 2 ^ 24 % 4 → getTCore u l.team k = getTCore s l.team k) ∧
      getTCore u l.team (l.bar.toNat / 2 ^ 24 % 4) = some y ∧
      y.bar off = (if (x.bar off).fault then
          match ffoCopy s l.team (l.bar.toNat / 2 ^ 24 % 4) off with
          | some p => if p.1 = l.copy then { x.bar off with ffo := min p.2 (lowestLeft l) % 2 ^ 32 } else x.bar off
          | none => x.bar off
        else { x.bar off with fault := true, ffo := lowestLeft l % 2 ^ 32 }) ∧
      (sfqFull s = false → s.host.heldEntries = [] → u.host.sfqHead = s.host.sfqHead + 1 ∧
        u.host.vectors = s.host.vectors ++ [1])) ∧
  (∀ (s : State) (g : Group) (o : Op), getGroup s g.id = some g → g.parked = none → getOp s o.id = some o →
    (s.ops.find? fun p => p.grp == g.id && p.stage == .parked) = some o → isEnq o.i = false → o.grp = g.id →
    g.halted = false → (o.counted && (sliceOf s g).any (outOfBudget s g)) = false → o.core < s.cores.length →
    peersFree s o.parkSeq (peersOfReqs o.reqs) = true → payable s o.core g o.price (getCore s o.core).tokQ = true →
    ∃ u, exec (.parkedIssueProceed g.id) s = .next u ∧
      { u with ops := s.ops, groups := s.groups, slices := s.slices, cores := s.cores } = s ∧
      getOp u o.id = some { o with stage := .active, at_ := s.tb } ∧ (∀ k, k ≠ o.id → getOp u k = getOp s k) ∧
      (∀ k, k ≠ g.id → getGroup u k = getGroup s k) ∧ getGroup u g.id = some (stepOn g o.carried o.i.len) ∧
      (∀ x, sliceOfTeam s o.team = some x → getSlice s x.id = some x → o.price ≠ 0 ∨ o.counted = true →
        ((getCore u o.core).level = (getCore s o.core).level - o.price ∧
          (getCore u o.core).charged = (getCore s o.core).charged + o.price) ∧
        ∃ y, getSlice u x.id = some y ∧ y.engy = x.engy + BitVec.ofNat 64 o.price ∧
          y.used = (if o.counted then x.used + 1 else x.used) ∧
          (o.counted = true → sliceHalted s x.id = false → x.left ≠ 0 → x.left ≠ BitVec.allOnes 64 →
            y.left = x.left - 1))) ∧
  (∀ (s : State) (g : Group) (p : Chosen) (o : Offer), getGroup s g.id = some g → g.parked = some p →
    live s = true → g.halted = false → (getCore s g.core).stopped = false → (getCore s g.core).retired = false →
    (getSlot s g.core g.slot).freeAt ≤ (getCore s g.core).cyc → g.chosen = none →
    mayForm s { g with parked := none } = true → (sliceOf s g).any (outOfBudget s g) = false →
    yieldHolds ((slotGroups s g.core g.slot).filterMap (offer s)) g = false →
    offerAt s g p.mask p.pc = some o → o.late = none → canTake s g.core o (getCore s g.core).tokQ = true → sramClean s = true →
    g.gpois = [] → (∀ k ∈ g.lanes, k.pois = []) →
    ∃ u, exec (.parkedIssueProceed g.id) s = .next u ∧ u.busy = true ∧
      u.cur = { grp := g.id, mask := p.mask, pc := p.pc, cyc := (getCore s g.core).cyc, price := o.price
                counted := !(g.chargedIssue p.mask p.pc) && !inBudget g } ∧ u.mem = s.mem ∧ u.teams = s.teams)

/-- R141, R151 to R159. That MXRD and MXWR check their column before their row is log 65 (DESIGN CHOICE). -/
def Obligations.MatrixInstructionsCheckThenQueue : Prop :=
  ∀ (t : EI) (s : State) (v : View) (tm : Team), viewOf s = some v → getTeam s v.g.team = some tm →
    let m := v.parts t.h
    let a := (v.uni t.h t.a).toNat
    let b := (v.uni t.h t.b).toNat
    let c := (v.uni t.h t.c).toNat
    let n64 (x : Nat) : Dword := BitVec.ofNat 64 x
    let off (l : Nat) : Nat := a + l * b
    let baton := (getTCore s v.g.team v.g.coreNo).bind TCore.baton
    let mine : Bool := match getTCore s v.g.team v.g.coreNo with
      | some tc => tc.held && tc.holder == v.g.grp
      | none => false
    let does (i : Instr) (cs : List ((Nat → Bool) × Nat × (Nat → Dword))) (args : List Dword)
        (data : List (Nat × List Word)) (dsts : List Dst) : Prop :=
      EngineIssue i s v t.h true ((fun _ => baton.isSome && !mine, 0x12, fun _ => n64 (baton.getD 0)) :: cs)
        (decide (16 ≤ ((getCore s v.g.core).mxq.filter fun k => !k.started).length))
        fun k => { k with mxq := k.mxq ++
          [{ id := s.nextId, grp := v.g.id, team := v.g.team, i := i, pc := v.pc, mask := m, carried := v.carried
             args := args, data := data, started := false, doneLanes := 0, dsts := dsts, sys := v.g.onBank, cyc := v.cyc }] }
    let stride : List ((Nat → Bool) × Nat × (Nat → Dword)) :=
      [ (fun _ => decide (b % 8 ≠ 0), 0x07, fun _ => n64 b),
        (fun l => decide (off l % 8 ≠ 0), 0x07, fun l => n64 (off l)) ]
    let inAct (n : Nat) : (Nat → Bool) × Nat × (Nat → Dword) :=
      (fun l => decide (winBytes tm .act < off l + n) || decide (tm.k.acc ≤ c + l), 0x12,
        fun l => if winBytes tm .act < off l + n then n64 (off l) else n64 (c + l))
    let row (r : Nat) : (Nat → Bool) × Nat × (Nat → Dword) :=
      (fun l => decide (tm.k.acc ≤ r + l), 0x12, fun l => n64 (r + l))
    let run : (Nat → Bool) × Nat × (Nat → Dword) :=
      (fun _ => decide (b ≠ 0) && decide (tm.k.acc ≤ a + b - 1), 0x12, fun _ => n64 (a + b - 1))
    let col (x : Nat) : (Nat → Bool) × Nat × (Nat → Dword) :=
      (fun _ => decide (x % t.mxWidth ≠ 0) || decide (128 ≤ x), 0x12, fun _ => n64 x)
    let sb := if t.ty.isB8 then b else 0
    let wn := mxK t * 128 * elemSize t.ty
    let latch := lastLatch s v
    let depth := (latch.map Prod.snd).getD 0
    does (.mxlw t)
      [ (fun _ => decide (a % 8 ≠ 0) || decide (sb % 8 ≠ 0), 0x07, fun _ => if a % 8 ≠ 0 then n64 a else n64 sb),
        (fun _ => decide (winBytes tm .wgt < a + wn) ||
            (t.ty.isB8 && decide (winBytes tm .wgt < sb + 128 * (mxK t / 16))), 0x12,
          fun _ => if winBytes tm .wgt < a + wn then n64 a else n64 sb) ] [n64 a, n64 sb] [] [] ∧
    does (.mxrow t)
      ((fun _ => latch.isNone, 0x01, fun _ => 1) ::
        (fun _ => (latch.map fun x => x.1 == .i8) != some (t.ty == .i8), 0x01, fun _ => 2) ::
        (stride ++ [inAct (rowBytes t.ty depth)])) [n64 a, n64 b, n64 c, n64 depth] [] [] ∧
    does (.mxzero t) [run] [n64 a, n64 b] [] [] ∧
    does (.mxrd t) [col b, row a] [n64 a, n64 b] [] ((lanesOf m).flatMap fun l => v.g.dsts l t.mxWidth t.d) ∧
    does (.mxwr t) [col c, row b] [n64 b, n64 c] ((lanesOf m).map fun l => (l, mxwrData v t l)) [] ∧
    does (.mxst t) (stride ++ [inAct (storeBytes t.ty)]) [n64 a, n64 b, n64 c] [] [] ∧
    does (.mxflgRd t) [row a] [n64 a] [] ((lanesOf m).flatMap fun l => v.g.dsts l 1 t.d) ∧
    does (.mxflgClr t) [run] [n64 a, n64 b] [] [] ∧
    does (.mxflgOrr t) [run] [n64 a, n64 b] [] (v.g.dsts 0 1 t.d)

/-- R161, R162, R169, R173 to R177. That an operation at work still fills its entry is log 77 (DESIGN CHOICE); the TVAL of check
1 is free (log 76); TVAL of a tile outside ACT, and a participant's tile before its slot, are log 67 (DESIGN CHOICE). -/
def Obligations.ErgInstructionsCheckThenQueue : Prop :=
  ∀ (t : EI) (s : State) (v : View) (tm : Team), viewOf s = some v → getTeam s v.g.team = some tm →
    let m := v.parts t.h
    let a := (v.uni t.h t.a).toNat
    let b := (v.uni t.h t.b).toNat
    let c := (v.uni t.h t.c).toNat
    let n64 (x : Nat) : Dword := BitVec.ofNat 64 x
    let off (l : Nat) : Nat := a + l * b
    let tile := 15 * (128 + 8 * t.pitchBits.toNat) + 128
    let slots := min 4096 (tm.k.erg / 4)
    let accepted : Bool := match t.ty? with
      | some (.b8 _ _ _) | some .f16 | some .bf16 => true
      | _ => false
    let typed (i : Instr) (typeOk : Bool) (cs : List ((Nat → Bool) × Nat × (Nat → Dword))) (args : List Dword)
        (dsts : List Dst) : Prop :=
      EngineIssue i s v t.h typeOk cs (decide (8 ≤ (getCore s v.g.core).ergq.length))
        fun k => { k with ergq := k.ergq ++
          [{ id := s.nextId, grp := v.g.id, team := v.g.team, i := i, pc := v.pc, mask := m, carried := v.carried
             args := args, started := false, ta := 0, tr := 0, doneLanes := 0, dsts := dsts, sys := v.g.onBank
             cyc := v.cyc }] }
    let does (i : Instr) := typed i true
    let tiles (i : Instr) (typeOk : Bool) (dsts : List Dst) : Prop :=
      typed i typeOk
        [ (fun _ => decide (b % 8 ≠ 0), 0x07, fun _ => n64 b),
          (fun l => decide (off l % 8 ≠ 0), 0x07, fun l => n64 (off l)),
          (fun l => decide (winBytes tm .act < off l + tile) || decide (slots ≤ c + l), 0x12,
            fun l => if winBytes tm .act < off l + tile then n64 (off l) else n64 (c + l)) ]
        [n64 a, n64 b, n64 c] dsts
    let one := (lanesOf m).flatMap fun l => v.g.dsts l 1 t.d
    let bit (l : Nat) : Nat := a + l / (if t.var = 0 then 1 else if t.var = 1 then 4 else 16)
    tiles (.ergc t) accepted one ∧ tiles (.ergkIn t) accepted [] ∧ tiles (.ergkOut t) accepted [] ∧
    tiles (.ergkRst t) true [] ∧
    does (.ergkInv t) [(fun l => decide (slots ≤ c + l), 0x12, fun l => n64 (c + l))] [0, 0, n64 c] [] ∧
    does (.ergt t) [(fun l => decide (4095 < bit l), 0x12, fun l => n64 (bit l))] [n64 a] one ∧
    does (.ergmRd t) [(fun _ => decide (63 < a), 0x12, fun _ => n64 a)] [n64 a] (v.g.dsts 0 2 t.d) ∧
    does (.ergmWr t) [(fun _ => decide (63 < a), 0x12, fun _ => n64 a)] [n64 a, v.uni64 t.h t.b] [] ∧
    does (.ergmClr t) [(fun _ => decide (b ≠ 0) && decide (4095 < a + b - 1), 0x12, fun _ => n64 (a + b - 1))]
      [n64 a, n64 b] [] ∧
    does (.ergmDesc t) [(fun _ => decide (slots ≤ a), 0x12, fun _ => n64 a)] [n64 a] (v.g.dsts 0 2 t.d)

/-- R142, R144, R148, R150, R153 to R159, for an operation that no other is ready beside and that meets no error or poison; R105,
R106 and R158 on a row. Whether an MXROW whose team's weights are active reloads them for another reason is free (log 3); that a
load or a reload takes all its cells at one instant is log 66 (DESIGN CHOICE); which operations a pre-emption does not hold is log
90, and the wait at the gate log 39. -/
def Obligations.MatrixEngineStartsAndCompletesOperations : Prop :=
  (∀ (t : EI) (l : Latch) (b : WBuf) (row : Row) (bs : List Byte) (J : Nat), l.k = 16 * J → row.cols.length = 128 →
    b.w.length = l.k * 128 * elemSize l.ty → (l.ty.isB8 = true → b.sw.length = 128 * J) → bs.length = rowBytes t.ty l.k →
    t.ty ≠ .i8 ∨ l.ty = .i8 →
    let out := mxRowSum t l b row bs
    let float (n : Nat) : FRes := blockDot (row.cols.getD n 0).toNat ((List.range J).map fun j =>
      (if t.ty.isB8 then (bs.getD (l.k + j) 0).toNat else 127, if l.ty.isB8 then (b.sw.getD (128 * j + n) 0).toNat else 127,
        (List.range 16).map fun k => ((tyFmt t.ty).decode (packedCode t.ty bs (16 * j + k)),
          (tyFmt l.ty).decode (packedCode l.ty b.w ((16 * j + k) * 128 + n)))))
    let int (n : Nat) : Word × Bool × Bool := intDot (t.bit 9) (row.cols.getD n 0) ((List.range J).map fun j =>
      (List.range 16).map fun k => ((bs.getD (16 * j + k) 0).toInt, (b.w.getD ((16 * j + k) * 128 + n) 0).toInt))
    let raised (n k : Nat) : Bool :=
      if t.ty = .i8 then (k == 3 && (int n).2.1) || (k == 2 && (int n).2.2)
      else (k == 3 && (float n).flags.getLsbD 2) || (k == 1 && (float n).flags.getLsbD 4) ||
        (k == 0 && (float n).flags.getLsbD 0)
    out.cols.length = 128 ∧ out.pois = row.pois ∧
    (∀ n < 128, out.cols.getD n 0 = if t.ty = .i8 then (int n).1 else BitVec.ofNat 32 (float n).code) ∧
    (∀ k < 4, out.flags.getLsbD k = (row.flags.getLsbD k || (List.range 128).any fun n => raised n k))) ∧
  (∀ (sat : Bool) (acc : Word) (xs : List (Int × Int)) (rest : List (List (Int × Int))),
    let x := intStep sat acc xs
    let y := intDot sat x.1 rest
    intDot sat acc [] = (acc, false, false) ∧ intDot sat acc (xs :: rest) = (y.1, x.2.1 || y.2.1, x.2.2 || y.2.2)) ∧
  (∀ (acc sa sw : Nat) (xs : List (FVal × FVal)) (rest : List (Nat × Nat × List (FVal × FVal))),
    let block : FExact := if sa = 255 ∨ sw = 255 then ⟨.nan false, flIV⟩
      else ⟨scaleBy (scaleBy (blockSum xs).v sa false) sw false, (blockSum xs).flags⟩
    let r := addExact .rne (fmtF32.decode acc) block.v
    let c := roundF32 r.v .rne
    blockDot acc [] = ⟨acc, 0⟩ ∧
    (block.v.isZero = true → blockDot acc ((sa, sw, xs) :: rest) =
      ⟨(blockDot acc rest).code, block.flags ||| (blockDot acc rest).flags⟩) ∧
    (block.v.isZero = false → blockDot acc ((sa, sw, xs) :: rest) =
      ⟨(blockDot c.code rest).code, block.flags ||| r.flags ||| c.flags ||| (blockDot c.code rest).flags⟩)) ∧
  (∀ (t : EI) (gen : Word) (row : Row), row.cols.length = 128 →
    let out := mxStoreRow t gen row
    let w (n : Nat) : Word := row.cols.getD n 0
    let rnd (n : Nat) : Nat := randOf (genSteps gen (n + 1))
    let narrow (sat : Bool) (n : Nat) (x : FVal) : FRes := roundNarrow x (tyFmt t.ty) t.rnd sat (rnd n)
    let scale (j : Nat) : Nat :=
      (blockScale (tyFmt t.ty) ((List.range 16).map fun k => fmtF32.decode (w (16 * j + k)).toNat)).1
    let scaled (n : Nat) : FVal := scaleBy (fmtF32.decode (w n).toNat) (scale (n / 16)) true
    let raises (x y : FRes) (k : Nat) : Bool := (k == 3 && x.flags.getLsbD 2) || (k == 1 && x.flags.getLsbD 4) ||
      (k == 0 && x.flags.getLsbD 0) || (k == 2 && t.bit 9 && x.code != y.code)
    (t.ty = .f32 ∨ t.ty = .i32 → out = (row.cols.flatMap wordBytes, 0)) ∧
    (t.ty.isHalf = true → out.1.length = 256 ∧
      (∀ n < 128, packedCode t.ty out.1 n = (narrow (t.bit 9) n (fmtF32.decode (w n).toNat)).code) ∧
      (∀ k < 4, out.2.getLsbD k = (List.range 128).any fun n =>
        raises (narrow (t.bit 9) n (fmtF32.decode (w n).toNat)) (narrow false n (fmtF32.decode (w n).toNat)) k)) ∧
    (t.ty.isB8 = true → out.1.length = 136 ∧
      (∀ n < 128, (out.1.getD n 0).toNat = if scale (n / 16) = 255 then (tyFmt t.ty).nan
        else (narrow (t.bit 9) n (scaled n)).code) ∧
      (∀ j < 8, (out.1.getD (128 + j) 0).toNat = scale j) ∧
      (∀ k < 4, out.2.getLsbD k = (List.range 128).any fun n =>
        if scale (n / 16) = 255 then k == 1 else raises (narrow (t.bit 9) n (scaled n)) (narrow false n (scaled n)) k)) ∧
    (t.ty = .i8 → out.1.length = 128 ∧
      let far (n : Nat) : Bool := decide ((w n).toInt < -128) || decide (127 < (w n).toInt)
      (∀ n < 128, out.1.getD n 0 = BitVec.ofInt 8 (if t.bit 9 then max (-128) (min 127 (w n).toInt) else (w n).toInt)) ∧
      (∀ k < 4, out.2.getLsbD k = (k == (if t.bit 9 then 2 else 3) && (List.range 128).any far)))) ∧
  (∀ (s : State) (c : Nat) (m : MxOp) (tc : TCore), c < s.cores.length → sramClean s = true →
    getTCore s m.team (coreNoOf s m.grp) = some tc →
    let k0 := getCore s c
    let begin (k : Core) : Core :=
      { k with mxq := k.mxq.map fun x => if x.id = m.id then { x with started := true } else x }
    let reload (k : Core) : Core := match tc.latch with
      | some l => { k with filling := loadLatch tc l, filled := some m.team }
      | none => k
    let filledNow (k : Core) : Core := if k.mxTeam ≠ some m.team ∧ k.filled = some m.team then k else reload k
    let swapped (k : Core) : Core :=
      { k with active := k.filling, filling := k.active, filled := none, mxTeam := some m.team }
    let settled (k : Core) : Core :=
      if rowMoves s c then k else { k with cade := k.cad, narrow := k.droop || s.pw.storageAlarm }
    let anew := k0.mxTeam ≠ some m.team ∨ Config.freeBool s.fresh = true
    let does (fresh : Nat) (f : Core → Core) : Prop :=
      exec (.matrixOpStart c) s = .next
        { s with
          cores := modNth s.cores c f
          fresh := fresh }
    k0.mxq.find? (fun k => !k.started) = some m →
    (engineHeld s c m.team m.id = true ∨ gateHolds s c m.cyc = true → exec (.matrixOpStart c) s = .next s) ∧
    (engineHeld s c m.team m.id = false → gateHolds s c m.cyc = false →
      (isMxrow m.i = false → ∃ u, exec (.matrixOpStart c) s = .next u ∧
        { u with cores := s.cores, teams := s.teams } = s ∧
        u.cores = (modNth s.cores c fun k => begin
          (if k.mxTeam ≠ some m.team ∧ k.filled ≠ some m.team ∧ loadsNow k = false then reload k else k)) ∧
        (isMxlw m.i = false → u.teams = s.teams) ∧
        (∀ t, m.i = .mxlw t → getTCore u m.team (coreNoOf s m.grp) =
          some { tc with latch := some { ty := t.ty, k := mxK t, wbase := m.arg 0, sbase := m.arg 1 } })) ∧
      (isMxrow m.i = true →
        (loadsNow k0 = true → does s.fresh settled) ∧
        (loadsNow k0 = false →
          (¬ anew → does (s.fresh + 1) fun k => begin (settled k)) ∧
          (anew → (∃ p ∈ k0.mxq, p.started = true ∧ isMxrow p.i = true) → does (s.fresh + 1) settled) ∧
          (anew → (∀ p ∈ k0.mxq, p.started = true → isMxrow p.i = false) →
            does (s.fresh + 1) fun k => begin (swapped (filledNow (settled k)))))))) ∧
  (∀ (s : State) (c : Nat) (m : MxOp) (tc : TCore), c < s.cores.length → mxReady s c = [m] → sramClean s = true →
    getTCore s m.team (coreNoOf s m.grp) = some tc →
    let q := (getCore s c).mxq
    let i := m.due.headD 0
    let gone := q.filter fun k => k.id != m.id
    let rest := if m.due.length ≤ 1 then gone
      else q.map fun k => if k.id = m.id then { k with doneLanes := k.doneLanes ||| Mask.bit i } else k
    let buffers (u : State) : WBuf × WBuf × Option Nat × Option Nat :=
      ((getCore u c).active, (getCore u c).filling, (getCore u c).filled, (getCore u c).mxTeam)
    let finishes (q' : List MxOp) (tc' : TCore) (f : Group → Group) (b : WBuf × WBuf × Option Nat × Option Nat) : Prop :=
      ∃ u, exec (.matrixRowComplete c) s = .next u ∧ buffers u = b ∧
        { u with cores := s.cores, teams := s.teams, groups := s.groups, fresh := s.fresh } = s ∧
        (getCore u c).mxq = q' ∧ (getCore u c).ergq = (getCore s c).ergq ∧
        otherCoresKept s u c ∧ onlyShare s u m.team (coreNoOf s m.grp) ∧
        getTCore u m.team (coreNoOf s m.grp) = some tc' ∧ (∀ k, k ≠ m.grp → getGroup u k = getGroup s k) ∧
        (∀ g, getGroup s m.grp = some g → getGroup u m.grp = some (f g))
    let ends (q' : List MxOp) (tc' : TCore) (f : Group → Group) : Prop := finishes q' tc' f (buffers s)
    let rows (f : Nat → Row → Row) : TCore := { tc with acc := tc.acc.mapIdx f }
    let k0 := getCore s c
    let sound (r : Nat) : Prop := (tc.row r).pois = false
    (∀ t, m.i = .mxzero t → ends gone (rows fun r x => if m.arg 0 ≤ r ∧ r < m.arg 0 + m.arg 1 then
      { cols := List.replicate 128 0, flags := if t.bit 11 then 0 else x.flags, pois := false } else x) id) ∧
    (∀ t, m.i = .mxflgClr t → ends gone (rows fun r x => if m.arg 0 ≤ r ∧ r < m.arg 0 + m.arg 1 then
      { x with flags := 0 } else x) id) ∧
    (∀ t, m.i = .mxwr t → (m.data.map Prod.fst).Nodup →
      ends gone (rows fun r x => match m.data.find? fun y => m.arg 0 + y.1 == r with
        | some y =>
            let put (n : Nat) (w : Word) : Word :=
              if m.arg 1 ≤ n ∧ n < m.arg 1 + y.2.length then y.2.getD (n - m.arg 1) 0 else w
            { x with cols := x.cols.mapIdx put }
        | none => x) id) ∧
    (∀ t, m.i = .mxrd t → (∀ l ∈ m.due, sound (m.arg 0 + l)) →
      ends gone tc fun g => g.writes (m.due.flatMap fun l =>
        (m.laneDsts t.mxWidth l).zip (((tc.row (m.arg 0 + l)).cols.drop (m.arg 1)).take t.mxWidth))) ∧
    (∀ t, m.i = .mxflgRd t → (∀ l ∈ m.due, sound (m.arg 0 + l)) →
      ends gone tc fun g => g.writes (m.due.flatMap fun l =>
        (m.laneDsts 1 l).map fun d => (d, (tc.row (m.arg 0 + l)).flags.setWidth 32))) ∧
    (∀ t, m.i = .mxflgOrr t → ∃ f : BitVec 4,
      (∀ n < 4, f.getLsbD n = true ↔ ∃ r, m.arg 0 ≤ r ∧ r < m.arg 0 + m.arg 1 ∧ (tc.row r).flags.getLsbD n = true) ∧
      ends gone tc fun g => g.writes (m.dsts.map fun d => (d, f.setWidth 32))) ∧
    (∀ t, m.i = .mxlw t → m.due ≠ [] →
      let l : Latch := { ty := t.ty, k := mxK t, wbase := m.arg 0, sbase := m.arg 1 }
      finishes (q.map fun k => if k.id = m.id then { k with doneLanes := m.mask } else k) tc id
        (k0.active, loadLatch tc l, none, k0.mxTeam)) ∧
    (∀ t, m.i = .mxlw t → m.due = [] → finishes gone tc id (k0.filling, k0.active, none, some m.team)) ∧
    (∀ t l, m.i = .mxrow t → m.due ≠ [] → k0.active.desc = some l → k0.active.pois = false →
      let base := m.arg 0 + i * m.arg 1
      tc.poisoned .act base (rowBytes t.ty l.k) = false →
      ends rest (rows fun r x => if r = m.arg 2 + i then mxRowSum t l k0.active x (tc.bytes .act base (rowBytes t.ty l.k)) else x)
        id) ∧
    (∀ t g, m.i = .mxst t → m.due ≠ [] → getGroup s m.grp = some g → sound (m.arg 2 + i) →
      let out := mxStoreRow t (g.lane i).gen (tc.row (m.arg 2 + i))
      ends rest { tc.write .act (m.arg 0 + i * m.arg 1) out.1 with
          acc := tc.acc.mapIdx fun r x => if r = m.arg 2 + i then { x with flags := x.flags ||| out.2 } else x }
        fun g => if t.rnd = .sr then g.modLane i fun l => { l with gen := genSteps l.gen 128 } else g))

/-- R163, R165 to R168, R170 to R172, R174 to R177, for an operation that meets no SRAM error; the thresholds are finite where a
comparison's skip bit is stated. Which operations a pre-emption does not hold is log 90, and the wait at the gate log 39. -/
def Obligations.ErgEngineReadsThresholdsThenDoesItsHead : Prop :=
  (∀ (tm : Team) (j k : Nat) (x : Bool), tm.skip.length = 64 → j < 4096 → k < 4096 →
    skipBit (setSkip tm j x) k = if k = j then x else skipBit tm k) ∧
  (∀ (tm : Team) (a n k : Nat), tm.skip.length = 64 → k < 4096 →
    skipBit (clearSkips tm a n) k = if a ≤ k ∧ k < a + n then false else skipBit tm k) ∧
  (∀ (tc : TCore) (ty : Ty) (ta tr : Word) (base pitch j : Nat), ty.isB8 = true ∨ ty.isHalf = true →
    let f := tyFmt ty
    let count := 2048 / elemSize ty
    let unit (code : Nat) : Option Int := match f.decode code with
      | .fin neg n q => some ((if neg then -1 else 1) * ((n * 2 ^ (q - f.qmin).toNat : Nat) : Int))
      | _ => none
    let tile := (List.range 16).flatMap fun r => tc.bytes .act (base + r * pitch) 128
    let kept := tc.bytes .erg (2144 * j) 2048
    let x (k : Nat) : Option Int := unit (packedCode ty tile k)
    let y (k : Nat) : Option Int := unit (packedCode ty kept k)
    let desc := ofBytes (tc.bytes .erg (2144 * j + 0x820) 8)
    let l1 := ofBytes (tc.bytes .erg (2144 * j + 0x810) 16)
    let tileBad : Bool := (List.range 16).any fun r => tc.poisoned .act (base + r * pitch) 128
    let slotBad : Bool := tc.poisoned .erg (2144 * j) 2048 || tc.poisoned .erg (2144 * j + 0x810) 16
    let descBad := tc.poisoned .erg (2144 * j + 0x820) 8
    let st := ergCompare tc ty ta tr base pitch j
    let dist : Nat := ((List.range count).map fun k => match x k, y k with
      | some a, some b => (a - b).natAbs
      | _, _ => 0).sum
    let other : Bool := !desc.testBit 63 || desc.testBit 62 || desc / 2 ^ 32 % 64 != ty.code.toNat
    let special : Bool := (List.range count).any fun k => (x k).isNone || (y k).isNone
    (other = true → st = 8 + if descBad then 2 else 0) ∧
    (other = false →
      st < 8 ∧ st.testBit 1 = (special || tileBad || slotBad || descBad) ∧ st.testBit 2 = decide (2 ^ 80 ≤ dist) ∧
      (st.testBit 1 = true ∨ st.testBit 2 = true ∨ desc.testBit 58 = true → st.testBit 0 = false) ∧
      (∀ n q m r, st.testBit 1 = false → st.testBit 2 = false → desc.testBit 58 = false →
        fmtF32.decode (ta.toNat % 2 ^ 31) = .fin false n q → fmtF32.decode (tr.toNat % 2 ^ 31) = .fin false m r →
        (st.testBit 0 = true ↔ (tr.toNat % 2 ^ 31 ≠ 0 → l1 ≠ 0 → desc.testBit 57 = false) ∧
          (dist : ℚ) * 2 ^ f.qmin ≤ n * 2 ^ q + m * 2 ^ r * l1 * 2 ^ f.qmin))) ∧
    (∀ kind : Bool,
      let us := (List.range count).filterMap x
      (us.map Int.natAbs).sum < 2 ^ 79 →
      keepTile tc ty kind base pitch j = tc.write .erg (2144 * j) (tile ++ toBytes (BitVec.ofInt 128 us.sum).toNat 16 ++
        toBytes (us.map Int.natAbs).sum 16 ++ toBytes ((if tileBad then 0 else 2 ^ 63) + (if kind then 2 ^ 62 else 0) +
          (if us.length < count then 2 ^ 58 else 0) + ty.code.toNat * 2 ^ 32 + (desc + 1) % 2 ^ 32) 8)) ∧
    (desc.testBit 63 = false → restoreTile tc base pitch j = tc) ∧
    (desc.testBit 63 = true → tc.poisoned .erg (2144 * j) 2048 = false →
      restoreTile tc base pitch j = (List.range 16).foldl (fun z r =>
        z.write .act (base + r * pitch) (tc.bytes .erg (2144 * j + 128 * r) 128)) tc)) ∧
  (∀ (s : State) (c : Nat) (e : ErgOp) (es : List ErgOp) (tm : Team) (tc : TCore), c < s.cores.length →
    (getCore s c).ergq = e :: es → getTeam s e.team = some tm → tm.cores[coreNoOf s e.grp]? = some tc →
    sramClean s = true →
    let i := e.due.headD 0
    let base := e.arg 0 + i * e.arg 1
    let j := e.arg 2 + i
    let rest := if e.due.length ≤ 1 then es else { e with doneLanes := e.doneLanes ||| Mask.bit i } :: es
    let ends (q : List ErgOp) (tc' : TCore) (skip : List Dword) (ws : List (Dst × Word)) : Prop :=
      ∃ u tm', exec (.ergOpComplete c) s = .next u ∧
        { u with cores := s.cores, teams := s.teams, groups := s.groups } = s ∧ (getCore u c).ergq = q ∧
        (getCore u c).mxq = (getCore s c).mxq ∧ otherCoresKept s u c ∧
        (∀ k, k ≠ e.team → getTeam u k = getTeam s k) ∧ getTeam u e.team = some tm' ∧ tm'.skip = skip ∧
        { tm' with cores := tm.cores, skip := tm.skip } = tm ∧ tm'.cores.length = tm.cores.length ∧
        (∀ k, k ≠ coreNoOf s e.grp → tm'.cores[k]? = tm.cores[k]?) ∧
        tm'.cores[coreNoOf s e.grp]? = some tc' ∧ (∀ k, k ≠ e.grp → getGroup u k = getGroup s k) ∧
        (∀ g, getGroup s e.grp = some g → getGroup u e.grp = some (g.writes ws))
    (e.started = false → engineHeld s c e.team e.id = true ∨ gateHolds s c e.cyc = true ∨ ergBytesFree s c e = false →
      exec (.ergOpComplete c) s = .next s) ∧
    (e.started = false → engineHeld s c e.team e.id = false → gateHolds s c e.cyc = false → ergBytesFree s c e = true →
      ends ({ e with started := true, ta := tm.ergta, tr := tm.ergtr } :: es) tc tm.skip []) ∧
    (e.started = true →
      (∀ t, e.i = .ergc t →
        let st := ergCompare tc t.ty e.ta e.tr base (ergPitch t) j
        ends rest tc (setSkip tm j (st.testBit 0)).skip ((e.laneDst i).map fun d => (d, BitVec.ofNat 32 st))) ∧
      (∀ t, e.i = .ergkIn t → ends rest (keepTile tc t.ty false base (ergPitch t) j) tm.skip []) ∧
      (∀ t, e.i = .ergkOut t → ends rest (keepTile tc t.ty true base (ergPitch t) j) tm.skip []) ∧
      (∀ t, e.i = .ergkRst t → ends rest (restoreTile tc base (ergPitch t) j) tm.skip []) ∧
      (∀ t, e.i = .ergkInv t → ends rest (tc.write .erg (2144 * j + 0x820) (List.replicate 8 0)) tm.skip []) ∧
      (∀ t, e.i = .ergt t → ends es tc tm.skip (e.due.flatMap fun l => (e.laneDst l).map fun d =>
        (d, if skipBit tm (e.arg 0 + l / ergtShare t) then 1 else 0))) ∧
      (∀ t, e.i = .ergmRd t →
        let w := tm.skip.getD (e.arg 0) 0
        ends es tc tm.skip (e.dsts.zip [w.lo, w.hi])) ∧
      (∀ t, e.i = .ergmWr t → ends es tc (tm.skip.set (e.arg 0) (e.args.getD 1 0)) []) ∧
      (∀ t, e.i = .ergmClr t → ends es tc (clearSkips tm (e.arg 0) (e.arg 1)).skip []) ∧
      (∀ t, e.i = .ergmDesc t →
        let w : Dword := BitVec.ofNat 64 (slotDesc tc (e.arg 0))
        ends es tc tm.skip (e.dsts.zip [w.lo, w.hi]))))

/-- R335 to R340, R343, with R323. That a NOP record is accepted and writes 1 without a slice is log 16 (DEDUCED). -/
def Obligations.EnqChecksThenReadsItsRecordAndBudrReads : Prop :=
  (∀ (t : EI) (s : State) (v : View), viewOf s = some v →
    let a : Dword := v.uni64 t.h t.a
    (v.g.converged v.pc = false → exec (.enq t) s = .next (takeTrap s 0x04 0) ∧
      exec (.budr t) s = .next (takeTrap s 0x04 0)) ∧
    (v.g.converged v.pc = true →
      (a.toNat % 64 ≠ 0 → exec (.enq t) s = .next (takeTrap s 0x07 a)) ∧
      (a.toNat % 64 = 0 → 2 ^ 57 ≤ a.toNat → exec (.enq t) s = .next (takeTrap s 0x08 a)) ∧
      (a.toNat % 64 = 0 → a.toNat < 2 ^ 57 →
        PutsInFlight (.enq t) s v (opMade s v (.enq t) v.carried .grant
          [freshReq 0 a [] [], freshReq 1 (a + 16) [] [], freshReq 2 (a + 32) [] [], freshReq 3 (a + 48) [] []] []
          ((lanesOf v.carried).flatMap fun l => v.g.dsts l 1 t.d) []) v.g) ∧
      (∀ x, sliceOf s v.g = some x → OwnGroup (.budr t) s v (stepOn (v.g.writes (v.g.put64 0 t.d
        (if t.var = 0 then x.left else if t.var = 1 then BitVec.ofNat 64 x.used else x.engy))) v.carried
          t.h.len.bytes)))) ∧
  (∀ (s : State) (o : Op) (parent : Slice) (t : EI), getOp s o.id = some o → o.stage = .blocked → o.i = .enq t →
    sliceOfOp s o = some parent →
    let p := parsePacket (o.reqs.flatMap Req.got)
    let die := o.core / 96
    let child := { childOf die parent p with pred := some parent.id }
    let before (q : Op) : Prop := q.stage = .blocked ∧ q.core / 96 = die ∧ q.id ≠ o.id ∧ q.parkSeq < o.parkSeq
    (p.kind = 0 → ∀ g, getGroup s o.grp = some g →
      ∃ u, exec (.enqRetry o.id) s = .next u ∧ { u with ops := s.ops, groups := s.groups, cores := s.cores } = s ∧
        coresKept s u ∧ opGone s u o.id ∧ (∀ k, k ≠ o.grp → getGroup u k = getGroup s k) ∧
        getGroup u o.grp = some (stepOn (g.writes (o.dsts.map fun d => (d, 1))) o.carried t.h.len.bytes)) ∧
    (p.kind ≠ 0 → ringDue s die = false → (∀ q ∈ s.ops, ¬ before q) → ∀ e, freeGeneral s die = some e →
      exec (.enqRetry o.id) s = .next (enqEnd (enterChild s parent child e false) o true)) ∧
    (p.kind ≠ 0 → freeGeneral s die = none → ringTailVa s parent.ctx = none →
      freeReserved s die parent.ctx (parent.depth + 1) = false → enqNb (.enq t) = false →
      exec (.enqRetry o.id) s = .next s) ∧
    child.depth = parent.depth + 1 ∧ child.ctx = parent.ctx ∧ child.die = die ∧
    (child.priv = true ↔ parent.priv = true ∧ p.priv = true) ∧
    child.deadl = (if p.deadline = 0 then parent.deadl else p.deadline)) ∧
  (∀ (s s1 : State) (ctx va : Nat) (c : CtxSt), s.ctxs[ctx]? = some c →
    (c.ringpf = false → exec (.ringPageRetry ctx) s = .next s) ∧
    (s.tb < c.ringAt + 10000 → exec (.ringPageRetry ctx) s = .next s) ∧
    (c.ringpf = true → c.ringAt + 10000 ≤ s.tb →
      let s0 := { s with ctxs := s.ctxs.set ctx { c with ringAt := s.tb } }
      (ringTailVa s0 ctx = none → exec (.ringPageRetry ctx) s = .next s0) ∧
      (ringTailVa s0 ctx = some va → ringMapped s0 ctx va = (s1, false) →
        exec (.ringPageRetry ctx) s = .next s1) ∧
      (ringTailVa s0 ctx = some va → ringMapped s0 ctx va = (s1, true) → s1.ctxs = s0.ctxs →
        exec (.ringPageRetry ctx) s = .next (retryBlocked
          { s1 with ctxs := s.ctxs.set ctx { c with ringAt := s.tb, ringpf := false } }))))

/-- R28 to R40, R400 to R402. TVAL of the ILLOP for a number that is not assigned is the model's choice (log 58); that CRD.TS reads
what the handler has written and CWR.JS adds to it is log 11 (DEDUCED), the trap registers of a level are those of log 10, and
that a plane-table entry reads the value last written is log 14 (DEDUCED). -/
def Obligations.ControlRegisterReadsGiveWhatTheyHold : Prop :=
  (∀ (t : EI) (s : State) (v : View), viewOf s = some v →
    let n := t.h.crnum
    let next (ws : List (Dst × Word)) : Group := stepOn (v.g.writes ws) v.carried t.h.len.bytes
    let assigned : Prop := n ≤ 0x010 ∨ (0x100 ≤ n ∧ n ≤ 0x103) ∨ (0x140 ≤ n ∧ n ≤ 0x17F) ∨ (0x200 ≤ n ∧ n ≤ 0x210) ∨
      (0x218 ≤ n ∧ n ≤ 0x221) ∨ (0x300 ≤ n ∧ n ≤ 0x30A) ∨ n = 0x400 ∨ n = 0x401 ∨ (0xF00 ≤ n ∧ n ≤ 0xF02)
    ((∃ k, t.d = .g k) →
      (v.g.converged v.pc = false → exec (.crd t) s = .next (takeTrap s 0x04 0)) ∧
      (v.g.converged v.pc = true → ¬ assigned → exec (.crd t) s = .next (takeTrap s 0x01 (fetchTval s v.g v.pc))) ∧
      (v.g.converged v.pc = true → assigned → OwnGroup (.crd t) s v (next (v.g.put64 0 t.d (crValue s v.g n))))) ∧
    ((∃ k, t.d = .v k) →
      (¬ assigned → exec (.crd t) s = .next (takeTrap s 0x01 (fetchTval s v.g v.pc))) ∧
      (assigned → OwnGroup (.crd t) s v (next ((lanesOf (v.parts t.h)).flatMap fun l =>
        v.g.put64 l t.d (crValue s v.g n))))) ∧
    HandlerForm (.crdStk t) s v (next ((lanesOf (v.parts t.h)).flatMap fun l =>
      let x := (v.src32 t.h l t.a).toNat
      let k := v.g.lane l
      v.g.put32 l t.d (if k.rb ≤ x ∧ x < k.rb + k.rf.length ∧ x < 65536 then k.stk x else 0))) ∧
    HandlerForm (.cwrStk t) s v (next ((lanesOf (v.parts t.h)).filterMap fun l =>
      let x := (v.src32 t.h l t.a).toNat
      let k := v.g.lane l
      if k.rb ≤ x ∧ x < k.rb + k.rf.length ∧ x < 65536 then some (.v l x, v.src32 t.h l t.b) else none)) ∧
    HandlerForm (.crdJs t) s v (next ((lanesOf (v.parts t.h)).flatMap fun l =>
      v.g.put32 l t.d (match v.g.js.reverse[(v.uni t.h t.a).toNat]? with
        | some e => BitVec.ofNat 32 (ofBytes (((jentBytes e).drop (4 * (l % 8))).take 4))
        | none => 0))) ∧
    HandlerForm (.cwrJs t) s v (stepOn (if v.g.js.length < 16 then v.g
      else { v.g with js := v.g.js.take (v.g.js.length - 16), jsd := v.g.jsd + 16, sjsd := v.g.sjsd.map (· + 16) }) v.carried t.h.len.bytes) ∧
    (3 < t.h.imm32.toNat → v.g.st.active = true →
      exec (.crdTs t) s = .next (takeTrap s 0x01 (fetchTval s v.g v.pc)) ∧
      exec (.cwrTs t) s = .next (takeTrap s 0x01 (fetchTval s v.g v.pc))) ∧
    (t.h.imm32.toNat ≤ 3 → HandlerForm (.crdTs t) s v (next ((lanesOf (v.parts t.h)).flatMap fun l =>
      let k := v.g.lane l
      match t.h.imm32.toNat with
      | 0 => v.g.put32 l t.d (BitVec.ofNat 32 (k.sb % 2 ^ 16 + k.sp.toNat * 2 ^ 16))
      | 1 => v.g.put32 l t.d (BitVec.ofNat 32 (k.srb.getD k.rb % 2 ^ 16))
      | 2 => v.g.put32 l t.d (BitVec.ofNat 32 (v.g.sjsd.getD v.g.jsd))
      | _ => v.g.put64 l t.d (v.g.sjspa.getD v.g.jspa)))) ∧
    (t.h.imm32.toNat ≤ 3 → HandlerForm (.cwrTs t) s v (stepOn ((lanesOf (v.parts t.h)).foldl (fun g l =>
      let w : Word := v.src32 t.h l t.b
      match t.h.imm32.toNat with
      | 0 => g.modLane l fun k =>
          let rb := k.srb.getD k.rb
          if rb ≤ w.toNat % 2 ^ 16 ∧ w.toNat % 2 ^ 16 + 64 ≤ rb + k.rf.length then
            { k with sb := w.toNat % 2 ^ 16, sp := w.extractLsb' 16 7 } else k
      | 1 => g.modLane l fun k =>
          if w.toNat % 16 = 0 ∧ w.toNat % 2 ^ 16 ≤ k.sb ∧ k.sb + 64 ≤ w.toNat % 2 ^ 16 + k.rf.length then
            { k with srb := some (w.toNat % 2 ^ 16) } else k
      | 2 => { g with sjsd := some (min 992 w.toNat) }
      | _ => { g with sjspa := some (v.src64 t.h l false t.b &&& 0x1FFFFFFFFFFFFE0) }) v.g) v.carried t.h.len.bytes))) ∧
  (∀ (s : State) (g : Group) (x : Slice) (tm : Team) (tc : TCore) (y : CtxSt), sliceOf s g = some x →
    getTeam s g.team = some tm → getTCore s g.team g.coreNo = some tc → s.ctxs[ctxOfTeam s g.team]? = some y →
    g.core < s.cores.length →
    let c := getCore s g.core
    let r (n : Nat) : Dword := crValue s g n
    let n64 (y : Nat) : Dword := BitVec.ofNat 64 y
    let bit (b : Bool) (k : Nat) : Nat := if b then 2 ^ k else 0
    let count (y n : Nat) : Nat := y % 2 ^ n
    let f := s.fab
    let h := s.health
    let moves := rowMoves s g.core
    let groups : Nat := match x.k with
      | some k => ((k.roles[g.role]?).map Role.groups).getD 0
      | none => 0
    r 0x006 = n64 (tm.desc.asid.toNat * 2 ^ 16 + ctxOfTeam s g.team) ∧
    r 0x00A = n64 (count groups 8 * 2 ^ 16 + count g.idx 8 * 2 ^ 8 + count g.role 2) ∧
    r 0x00F = n64 (bit y.rej 63 + count y.num 12) ∧ r 0x010 = n64 (s.agelim.getD (g.core / 96) 0) ∧
    r 0x101 = n64 ((min c.mxq.length 16) * 2 ^ 32 + bit tc.held 31 + bit tc.baton.isSome 30 +
      (if tc.held then count tc.holder 6 * 2 ^ 24 else 0) + bit tc.latch.isSome 15 +
      (match tc.latch with
        | some l => count (l.k / 16 - 1) 3 * 2 ^ 12 + l.ty.code.toNat * 2 ^ 6
        | none => 0) +
      count (if moves then c.cade else c.cad) 5 * 2 + bit (if moves then c.narrow else c.droop || s.pw.storageAlarm) 0) ∧
    r 0x210 = n64 (count f.stale 16 * 2 ^ 48 + count f.tmo 16 * 2 ^ 32 + count f.sigtmo 8 * 2 ^ 24 + count f.refuse 8 * 2 ^ 16 +
      count f.retr 8 * 2 ^ 8 + f.dead.toNat) ∧
    (∀ k < 8, r (0x218 + k) = n64 (match f.pending.find? fun z => z.1 == k with
      | some z => z.2.1
      | none => f.plane.getD k 0)) ∧
    r 0x301 = n64 (count Config.capm 16 * 2 ^ 32 + count s.pw.chg 32) ∧
    r 0x302 = n64 (bit (!c.tokQ.isEmpty || c.debt != 0) 63 + count c.level 21) ∧
    r 0x303 = n64 (bit (h.stkdeg != 0 || h.spr75 != 0 || h.pldead != 0 || h.retired != 0) 63 + h.stkdeg.toNat * 2 ^ 48 +
      h.spr75.toNat * 2 ^ 40 + h.pldead.toNat * 2 ^ 32 + count h.retired 9 * 2 ^ 23 + bit h.mclost 22 +
      count h.mce 8 * 2 ^ 8 + count h.replay 8) ∧
    r 0x306 = n64 (count s.pw.thcap 22) ∧ r 0x308 = n64 (priceEntry g.core c c.priceix) ∧
    r 0x309 = n64 (c.uvSteps * 2 ^ 8 + bit c.uvTrip 1 + bit c.uvEn 0) ∧ r 0x30A = n64 (bit c.cmpgrp 0) ∧
    r 0x400 = n64 (count c.xarb 32 * 2 ^ 32 + count c.conf 32) ∧
    r 0xF01 = n64 (devN * 2 ^ 32 + count g.slot 2 * 2 ^ 12 + count g.core 2 * 2 ^ 10 + count (g.core / 4 % 24) 5 * 2 ^ 5 +
      count (g.core / 96) 2) ∧
    r 0x000 = (if g.checksb then 1 else 0) ∧
    r 0x001 = (if (x.k.map Kernel.mask).getD false then 1 else 0) ∧
    r 0x002 = (if g.st.active then g.bfstat else g.fstat).setWidth 64 ∧
    r 0x003 = g.seed.setWidth 64 ∧ r 0x004 = x.left ∧ r 0x005 = n64 (x.entry + x.die * 2 ^ 13) ∧
    (r 0x007).getLsbD 0 = levelS s g ∧ (r 0x007).getLsbD 1 = tm.desc.expert ∧ (r 0x007).toNat < 4 ∧
    r 0x008 = x.deadl ∧ r 0x009 = n64 (x.depth % 16) ∧
    r 0x00B = (if levelS s g then g.st.tcause else g.ut.tcause) ∧
    r 0x00C = (if levelS s g then g.st.tepc else g.ut.tepc) ∧
    r 0x00D = (if levelS s g then g.st.tval else g.ut.tval) ∧
    r 0x00E = x.thand ∧ r 0x100 = n64 c.cad ∧ r 0x102 = tm.ergta.setWidth 64 ∧ r 0x103 = tm.ergtr.setWidth 64 ∧
    (∀ k < 64, r (0x140 + k) = tm.skip.getD k 0) ∧
    (∀ k < 16, r (0x200 + k) = alwWord (readAlw s g.core k (ctxOfTeam s g.team))) ∧
    r 0x220 = n64 s.fab.rqtmo ∧ r 0x221 = n64 s.fab.shedt ∧ r 0x300 = x.engy ∧ r 0x304 = n64 s.pw.slew ∧
    r 0x305 = n64 s.pw.siteal ∧ r 0x307 = n64 c.priceix ∧ r 0x401 = n64 s.hbm.errth ∧
    r 0xF00 = 0x1F4A096000000001 ∧ r 0xF02 = n64 s.tb)

/-- R401 and R418 with each register's own rule. TVAL of the ILLOP and of the PERM is the model's choice (log 58); the trap
registers that a write reaches are those of log 10, a plane-table entry's pending change is log 14 and UVEN's steps log 15 (all
DEDUCED); that a write outside the group waits at the commit gate with its fibres is log 39. -/
def Obligations.ControlRegisterWritesTakeEffectOrAreRejected : Prop :=
  (∀ (t : EI) (s : State) (v : View), viewOf s = some v →
    let n := t.h.crnum
    let x : Dword := v.uni64 t.h t.b
    let own (f : Group → Group) : State := afterWrite s v t.h.len.bytes f
    let traps (f : TrapSt → TrapSt) : State :=
      own fun g => { g with st := f g.st, ut := if g.st.active = false ∧ g.ut.active = true then f g.ut else g.ut }
    let does (i : Instr) (p : Prop) : Prop :=
      (v.g.converged v.pc = false → exec i s = .next (takeTrap s 0x04 0)) ∧
      (v.g.converged v.pc = true → crAssigned n = false →
        exec i s = .next (takeTrap s 0x01 (fetchTval s v.g v.pc))) ∧
      (v.g.converged v.pc = true → crAssigned n = true → crMayWrite s v.g n = false →
        exec i s = .next (takeTrap s 0x09 (fetchTval s v.g v.pc))) ∧
      (v.g.converged v.pc = true → crAssigned n = true → crMayWrite s v.g n = true → p)
    let puts (i : Instr) : Prop :=
      does i (PutsInFlight i s v (opMade s v i (v.parts t.h) .active [] [x] [] []) v.g)
    (levelS s v.g = false → expertOf s v.g = false →
      (crMayWrite s v.g n = true ↔ n ∈ [0x000, 0x002, 0x003, 0x00E, 0x00F, 0x102, 0x103] ∨ (0x140 ≤ n ∧ n ≤ 0x17F))) ∧
    (n < 0x00B ∨ 0x00D < n → puts (.cwr t)) ∧
    (n = 0x00B → does (.cwr t) (exec (.cwr t) s = .next (traps fun r => { r with tcause := x &&& 0xFF01FF }))) ∧
    (n = 0x00C → does (.cwr t) (exec (.cwr t) s = .next (traps fun r => { r with tepc := x &&& 0x1FFFFFFFFFFFFFF }))) ∧
    (n = 0x00D → does (.cwr t) (exec (.cwr t) s = .next (traps fun r => { r with tval := x }))) ∧
    (srPending s v.g = true → exec (.cwrSrseed t) s = .next { s with busy := false }) ∧
    (srPending s v.g = false → does (.cwrSrseed t) (exec (.cwrSrseed t) s = .next (own fun g =>
      { g with
        seed := x.lo
        lanes := g.lanes.mapIdx fun i l => { l with gen := seedState x.lo v.teamNo g.grp i } }))) ∧
    does (.cwrFstat t) (exec (.cwrFstat t) s = .next (own fun g =>
      if g.st.active then { g with bfstat := x.setWidth 5 } else { g with fstat := x.setWidth 5 })) ∧
    does (.cwrChecksb t) (exec (.cwrChecksb t) s = .next (own fun g => { g with checksb := x.getLsbD 0 })) ∧
    puts (.cwrSkipw t) ∧ puts (.cwrMxcad t) ∧ puts (.cwrPlane t) ∧ puts (.cwrUven t) ∧ puts (.cwrSiteal t) ∧
    puts (.cwrSlew t) ∧ puts (.cwrPriced t) ∧ puts (.cwrCrwrej t) ∧ puts (.cwrFabstat t) ∧ puts (.cwrHealth t) ∧
    puts (.cwrSpconf t)) ∧
  (∀ (s : State) (c : Nat) (o : Op) (g : Group) (t : EI), AtGate s c o → getGroup s o.grp = some g →
    let n := t.h.crnum
    let x : Dword := o.args.getD 0 0
    let ends (i : Instr) (u : State) : Prop := o.i = i → EndsAtGate s c o [] u
    let ctx (f : CtxSt → CtxSt) : State := { s with ctxs := modNth s.ctxs (ctxOfTeam s g.team) f }
    let rejected : State := ctx fun y => { y with rej := true, num := n }
    let core (f : Core → Core) : State := { s with cores := modNth s.cores g.core f }
    let slice (f : Slice → Slice) : State :=
      { s with slices := s.slices.map fun y => if (sliceOf s g).map Slice.id = some y.id then f y else y }
    let team (f : Team → Team) : State := { s with teams := s.teams.map fun y => if y.id = g.team then f y else y }
    let ranged (y lo hi : Nat) (u : State) : State := if lo ≤ y ∧ y ≤ hi then u else rejected
    (n = 0x004 → ends (.cwr t) (slice fun y => { y with left := x })) ∧
    (n = 0x008 → ends (.cwr t) (slice fun y => { y with deadl := x })) ∧
    (n = 0x00E → ends (.cwr t) (slice fun y => { y with thand := x &&& 0x1FFFFFFFFFFFFFC })) ∧
    (n = 0x010 → ends (.cwr t) (ranged (x.toNat % 128) 1 64
      { s with agelim := s.agelim.set (g.core / 96) (x.toNat % 128) })) ∧
    (n = 0x102 → ends (.cwr t) (team fun y => { y with ergta := BitVec.ofNat 32 (x.toNat % 2 ^ 31) })) ∧
    (n = 0x103 → ends (.cwr t) (team fun y => { y with ergtr := BitVec.ofNat 32 (x.toNat % 2 ^ 31) })) ∧
    (n = 0x220 → ends (.cwr t) (ranged (x.toNat % 2 ^ 20) 1000 1000000
      { s with fab := { s.fab with rqtmo := x.toNat % 2 ^ 20 } })) ∧
    (n = 0x221 → ends (.cwr t) (ranged (x.toNat % 2 ^ 20) 5000 1000000
      { s with fab := { s.fab with shedt := x.toNat % 2 ^ 20 } })) ∧
    (n = 0x307 → ends (.cwr t) (core fun k => { k with priceix := x.toNat % 256 })) ∧
    (n = 0x30A → ends (.cwr t) (core fun k => { k with cmpgrp := x.getLsbD 0 })) ∧
    (n = 0x401 → ends (.cwr t) (ranged (x.toNat % 16) 2 15
      { s with hbm := { s.hbm with errth := x.toNat % 16 } })) ∧
    ends (.cwrSkipw t) (team fun y => { y with skip := y.skip.set (n - 0x140) x }) ∧
    ends (.cwrMxcad t) (if 1 ≤ x.toNat % 32 ∧ x.toNat % 32 ≤ 16 then core fun k =>
      if rowMoves s g.core then { k with cad := x.toNat % 32 }
      else { k with cad := x.toNat % 32, cade := x.toNat % 32, narrow := k.droop || s.pw.storageAlarm } else s) ∧
    ends (.cwrPlane t)
      (if s.fab.dead.getLsbD (x.toNat % 8) then rejected
      else if planeRead s (n - 0x218) = x.toNat % 8 then s
      else
        { s with fab := { s.fab with
            pending := (n - 0x218, x.toNat % 8, s.fab.plane.getD (n - 0x218) 0) ::
              s.fab.pending.filter fun y => y.1 != n - 0x218 } }) ∧
    ends (.cwrUven t) (core fun k => { k with uvEn := x.getLsbD 0, uvTrip := k.uvTrip && !x.getLsbD 0 }) ∧
    (n = 0x305 → ends (.cwrSiteal t) (ranged (x.toNat % 2 ^ 22) 200000 2400000
      { s with pw := { s.pw with siteal := x.toNat % 2 ^ 22 } })) ∧
    (n = 0x304 → ends (.cwrSlew t) (ranged (x.toNat % 2 ^ 9) 1 400
      { s with pw := { s.pw with slew := x.toNat % 2 ^ 9 } })) ∧
    (n = 0x308 → ends (.cwrPriced t) (ranged (x.toNat % 2 ^ 14) 0 8192 (core fun k =>
      { k with prices := (k.priceix, x.toNat % 2 ^ 14) :: k.prices.filter fun y => y.1 != k.priceix }))) ∧
    ends (.cwrCrwrej t) (if x.getLsbD 63 then ctx fun y => { y with rej := false } else s) ∧
    ends (.cwrFabstat t) { s with fab := { s.fab with
      stale := clearOnes x 48 16 s.fab.stale
      tmo := clearOnes x 32 16 s.fab.tmo
      sigtmo := clearOnes x 24 8 s.fab.sigtmo
      refuse := clearOnes x 16 8 s.fab.refuse
      retr := clearOnes x 8 8 s.fab.retr } } ∧
    ends (.cwrHealth t) { s with health := { s.health with
      mclost := s.health.mclost && !x.getLsbD 22
      mce := clearOnes x 8 8 s.health.mce
      replay := clearOnes x 0 8 s.health.replay } } ∧
    ends (.cwrSpconf t) (core fun k =>
      { k with xarb := clearOnes x 32 32 k.xarb, conf := clearOnes x 0 32 k.conf })) ∧
  ∀ (x : Dword) (lo k old j : Nat),
    (clearOnes x lo k old).testBit j = (old.testBit j && !(decide (j < k) && x.getLsbD (lo + j)))

/-- R27, R399, R403, R408 to R416, R418, R453. WINDOW for a HALTC count above 65,535 is log 13 (DEDUCED); that HALT acts on all
targets at once is log 42, and that these instructions wait at the commit gate with their fibres log 39. -/
def Obligations.SystemInstructionsCheckTheirLevelThenAct : Prop :=
  (∀ (t : EI) (s : State) (v : View), viewOf s = some v →
    let a := (v.uni t.h t.a).toNat
    let b := (v.uni t.h t.b).toNat
    let c := (v.uni t.h t.c).toNat
    let vb : Dword := v.uni64 t.h t.b
    let n64 (x : Nat) : Dword := BitVec.ofNat 64 x
    let m := v.parts t.h
    let may : Prop := levelS s v.g = true ∧ v.g.converged v.pc = true
    let tlbiChecks : List ((Nat → Bool) × Nat × (Nat → Dword)) :=
      [ (fun _ => t.var != 0 && decide (2 ^ 16 ≤ a), 0x12, fun _ => n64 a),
        (fun _ => t.var.getLsbD 1 && decide (2 ^ 57 ≤ vb.toNat), 0x12, fun _ => vb),
        (fun _ => t.var == 3 && decide (vb.toNat % 65536 ≠ 0), 0x07, fun _ => vb) ]
    let hraChecks : List ((Nat → Bool) × Nat × (Nat → Dword)) :=
      [(fun _ => decide (11 < a / 2 ^ 19 % 16) || decide (a / 2 ^ 16 % 8 ≠ 0), 0x12, fun _ => n64 a)]
    let named := s.slices.find? fun x => x.sliceId == a
    let haltChecks : List ((Nat → Bool) × Nat × (Nat → Dword)) :=
      if t.mod.getLsbD 9 then [(fun _ => decide (512 ≤ a) || decide (23 < a / 4 % 32), 0x12, fun _ => n64 a)]
      else
        [ (fun _ => decide (2 ^ 15 ≤ a), 0x12, fun _ => n64 a), (fun _ => decide (16 ≤ b), 0x12, fun _ => n64 b),
          (fun _ => decide (65536 ≤ c) && c != 0xFFFFFFFF, 0x12, fun _ => n64 c),
          (fun _ => !named.any fun x => x.st == .running || x.st == .saved, 0x12, fun _ => n64 a) ]
    let target (g : Group) : Prop := g.id ≠ v.g.id ∧
      if t.mod.getLsbD 9 then g.resident = true ∧ g.core = a % 4 * 96 + a / 4 % 32 * 4 + a / 128 % 4
      else ∃ x tm, named = some x ∧ getTeam s g.team = some tm ∧ tm.slice = x.id ∧ b.testBit g.role = true ∧
        (c = 0xFFFFFFFF ∨ tm.no = c)
    let ids := haltcTargets s t v
    let puts (i : Instr) (checks : List ((Nat → Bool) × Nat × (Nat → Dword))) (args : List Dword) (dsts : List Dst) : Prop :=
      PrivilegedOnce i s v checks ∧
      (may → FirstFailure 1 checks none → PutsInFlight i s v (opMade s v i m .active [] args dsts []) v.g)
    puts (.tlbi t) tlbiChecks [n64 a, vb, n64 c, 0] [] ∧
    (∀ k, k ∈ ids ↔ ∃ g ∈ s.groups, g.id = k ∧ target g) ∧
    puts (.haltcHalt t) haltChecks (0 :: ids.map n64) [] ∧ puts (.haltcResume t) haltChecks (0 :: ids.map n64) [] ∧
    puts (.haltcStep t) haltChecks (0 :: ids.map n64) [] ∧
    puts (.scrbQry t) hraChecks [n64 a, 0, 0, 0] (v.g.dsts 0 2 t.d) ∧
    puts (.scrbRow t) hraChecks [n64 a, 0, 0, 0] (v.g.dsts 0 2 t.d) ∧
    puts (.rspr t) hraChecks [n64 a] (v.g.dsts 0 2 t.d)) ∧
  (∀ (s : State) (n : Nat) (o : Op) (t : EI), AtGate s n o →
    let x (k : Nat) : Dword := o.args.getD k 0
    let a := (x 0).toNat
    let vb := (x 1).toNat
    let c := (x 2).toNat
    let ids := (o.args.drop 1).map BitVec.toNat
    let bank := a / 2 ^ 19
    let groups (f : Group → Group) : State :=
      { s with groups := s.groups.map fun g => if g.id ∈ ids then f g else g }
    let hit (asid : BitVec 16) (base size : Nat) : Bool := match t.var.toNat with
      | 0 => true
      | 1 => asid.toNat == a
      | 2 => asid.toNat == a && decide (base ≤ vb ∧ vb < base + size)
      | _ => asid.toNat == a && c != 0 && decide (base < vb + 65536 * c ∧ vb < base + size)
    let stays (u : State) (o' : Op) : Prop := exec (.commitGateRelease n) s = .next u ∧ coresKept s u ∧
      getOp u o.id = some o' ∧ (∀ k, k ≠ o.id → getOp u k = getOp s k)
    (o.i = .tlbi t → s.ops = [o] → o.reqs = [] → s.lines = [] → (∀ g ∈ s.groups, ∀ z ∈ g.gs, z.sent = false) →
      o.args.length = 4 → x 3 = 0 → 0 < s.nextId → s.nextId < 2 ^ 64 →
      EndsAtGate s n o [] { s with
        tlb := s.tlb.filter fun z => !hit z.1 z.2.1 z.2.2.1
        ptrs := s.ptrs.filter fun z => !hit z.1 z.2.1 (entrySpan (z.2.2.1 - 1))
        cores := s.cores.map fun k =>
          { k with fetch := k.fetch.filter fun w => !tlbiCovers t.var.toNat a vb c w.asid w.va.toNat } }) ∧
    (o.i = .haltcHalt t → EndsAtGate s n o [] (groups fun g => { g with halted := true, stepping := false })) ∧
    (o.i = .haltcResume t → EndsAtGate s n o [] (groups fun g => { g with halted := false, stepping := false })) ∧
    (o.i = .haltcStep t → o.args = [0] → EndsAtGate s n o [] s) ∧
    (∀ g, o.i = .haltcStep t → o.args = [0, BitVec.ofNat 64 g.id] → g.id < 2 ^ 64 → getGroup s g.id = some g →
      g.halted = true → g.resident = true → groupHeld s g = false →
      ∃ u, stays u { o with args := [1, BitVec.ofNat 64 g.id] } ∧
        { u with ops := s.ops, groups := s.groups, cores := s.cores } = s ∧ (∀ k, k ≠ g.id → getGroup u k = getGroup s k) ∧
        getGroup u g.id = some { g with stepping := true }) ∧
    (∀ g, o.i = .haltcStep t → o.args = [1, BitVec.ofNat 64 g.id] → g.id < 2 ^ 64 → getGroup s g.id = some g →
      settleStep s o.id = if !g.stepping || groupHeld s g || !g.resident then endHold s o [] else s) ∧
    (o.i = .scrbQry t → EndsAtGate s n o [rowStatus s a false 0, lowestReq s bank] s) ∧
    (o.i = .scrbRow t → vb < 16 → a < 2 ^ 64 →
      let cw := cwAddr a vb / 64
      let next (ce ue : Nat) : Op := { o with args := [x 0, BitVec.ofNat 64 (vb + 1), BitVec.ofNat 64 ce, BitVec.ofNat 64 ue] }
      let ue := (x 3).toNat
      (failedKey s (cwAddr a vb) = true ∨ (cw ∉ s.hbm.ue ∧ correctable s cw = false) →
        ∃ u, stays u (next c ue) ∧ { u with ops := s.ops, cores := s.cores } = s) ∧
      (failedKey s (cwAddr a vb) = false → cw ∉ s.hbm.ue → correctable s cw = true →
        ∃ u, stays u (next (c + 1) ue) ∧
          { u with ops := s.ops, cores := s.cores } =
            { s with hbm := { s.hbm with ce := s.hbm.ce.filter fun k => k != cw } }) ∧
      (failedKey s (cwAddr a vb) = false → cw ∈ s.hbm.ue → offRing s cw →
        ∃ u, stays u (next c 1) ∧ u.groups = s.groups ∧ cw ∉ u.hbm.ue ∧ ∀ k < 64, 64 * cw + k ∈ u.hbm.pois)) ∧
    (o.i = .scrbRow t → 16 ≤ vb →
      let s1 := countRow s a (if rowCopies s a then 0 else c)
      let u1 := stepCursor (if x 3 = 1 then requestRow s1 a else s1) a
      EndsAtGate s n o [rowStatus u1 a (x 3 == 1) c, lowestReq u1 bank] u1) ∧
    (o.i = .rspr t →
      let quiet (u : State) : Prop := u.host = s.host ∧ u.health = s.health ∧ u.mem = s.mem
      let same (u : State) : Prop :=
        { u with hbm := s.hbm, cores := s.cores, host := s.host, health := s.health, mem := s.mem } = s
      ((∃ r ∈ s.hbm.remaps, r.bank = bank ∧ r.busy = true) → ∃ u, stays u o ∧ same u ∧ quiet u ∧ u.hbm = s.hbm) ∧
      ((∀ r ∈ s.hbm.remaps, r.bank = bank → r.busy = false) →
        (∀ k, freeSpare s bank = some k →
          ∃ u, stays u o ∧ same u ∧ ((bankRemaps s bank).length ≠ 48 → quiet u) ∧
          ((bankRemaps s bank).length = 48 →
            u.health.spr75 = s.health.spr75 ||| BitVec.ofNat 8 (2 ^ (bank / 2 ^ 10 % 8)) ∧ u.health.replace = true) ∧
          u.hbm.remaps = s.hbm.remaps ++ [{ bank := bank, spare := k, row := a % 65536, v := false, busy := true, copied := 0
                                            fixed := 0, bad := false
                                            old := ((bankRemaps s bank).find? fun r => r.v && r.row == a % 65536).map
                                              Remap.spare
                                            op := some o.id }] ∧
          ((bankRemaps s bank).length ≠ 48 → u.hbm = { s.hbm with remaps := u.hbm.remaps })) ∧
        (freeSpare s bank = none → EndsAtGate s n o [rowStatus s a false 0, 0xFFFFFFFF] s)))) ∧
  (∀ (s : State) (hra n : Nat),
    (s.hbm.errs.filter fun e => e.hra != hra && e.hra / 2 ^ 29 == hra / 2 ^ 29).length < 4096 →
    let old := rowErr s hra
    let counted (u : State) (e : RowErr) : Prop := { u with hbm := { u.hbm with errs := s.hbm.errs } } = s ∧
      rowErr u hra = e ∧ ∀ k, k ≠ hra → rowErr u k = rowErr s k
    countRow s hra 0 = s ∧
    (0 < n → counted (countRow s hra n)
      { hra := hra, cnt := min 15 (old.cnt + n), req := old.req || decide (s.hbm.errth ≤ min 15 (old.cnt + n)) }) ∧
    counted (requestRow s hra) { old with req := true }) ∧
  (∀ (s : State) (bank : Nat), (∀ r ∈ s.hbm.remaps, r.bank = bank → r.busy = false) →
    exec (.spareRowCopyStep bank) s = .next s) ∧
  (∀ (s : State) (r : Remap), r ∈ s.hbm.remaps → r.busy = true →
    (∀ q ∈ s.hbm.remaps, q.bank = r.bank → q.busy = true → q = r) →
    (∀ q ∈ s.hbm.remaps, q.bank = r.bank → q.spare = r.spare → q = r) →
    let hra := r.bank * 2 ^ 19 + r.row
    let cws := (List.range 16).map fun k => cwAddr hra k / 64
    let cw := cwAddr hra r.copied / 64
    let fixed := r.fixed + (if correctable s cw then 1 else 0)
    let served (op : Option Nat) : Remap :=
      { r with copied := 16, v := true, busy := false, fixed := 0, bad := false, op := op, old := none }
    let remapped := s.hbm.remaps.map fun q =>
      if q = r then served none
      else if q.bank = r.bank ∧ some q.spare = r.old then { q with v := false, row := 0 } else q
    let repaired : Hbm := { s.hbm with
      remaps := remapped
      oldStuck := s.hbm.oldStuck ++ ((List.range 16).filter fun k => s.hbm.stuck.contains (cwAddr hra k / 64)).map
        fun k => (hra, r.old, k)
      errs := s.hbm.errs.filter fun e => e.hra != hra
      ce := s.hbm.ce.filter fun k => !cws.contains k
      stuck := s.hbm.stuck.filter fun k => !cws.contains k }
    (cw ∈ s.hbm.ue → offRing s cw → r.copied < 15 → ∃ u, exec (.spareRowCopyStep r.bank) s = .next u ∧ u.groups = s.groups ∧
      cw ∉ u.hbm.ue ∧ (∀ n < 64, 64 * cw + n ∈ u.hbm.pois) ∧
      u.hbm.remaps = s.hbm.remaps.map fun q => if q = r then { r with copied := r.copied + 1, bad := true } else q) ∧
    (cw ∉ s.hbm.ue → r.copied < 15 →
      exec (.spareRowCopyStep r.bank) s = .next { s with hbm := { s.hbm with
        remaps := s.hbm.remaps.map fun q => if q = r then { r with copied := r.copied + 1, fixed := fixed } else q } }) ∧
    (cw ∉ s.hbm.ue → r.copied = 15 → r.op = none → (∀ o ∈ s.ops, ∀ t, o.i ≠ .rspr t) →
      exec (.spareRowCopyStep r.bank) s = .next { s with hbm := repaired }) ∧
    (∀ o t, cw ∉ s.hbm.ue → r.copied = 15 → r.op = some o.id → getOp s o.id = some o → o.i = .rspr t →
      (∀ p ∈ s.ops, p.id ≠ o.id → ∀ t', p.i ≠ .rspr t') →
      ∃ u, exec (.spareRowCopyStep r.bank) s = .next u ∧
        { u with hbm := s.hbm, ops := s.ops, groups := s.groups, cores := s.cores } = s ∧ coresKept s u ∧ u.hbm = repaired ∧
        opGone s u o.id ∧ (∀ k, k ≠ o.grp → getGroup u k = getGroup s k) ∧
        ∀ g, getGroup s o.grp = some g → getGroup u o.grp = some (stepOn (g.writes (o.dsts.zip
          [rowStatus u hra r.bad fixed, remapWord (served none)])) o.carried t.h.len.bytes)) ∧
    (∀ o t, cw ∈ s.hbm.ue → offRing s cw → r.copied = 15 → r.op = some o.id → getOp s o.id = some o → o.i = .rspr t →
      (∀ p ∈ s.ops, p.id ≠ o.id → ∀ t', p.i ≠ .rspr t') →
      ∃ u, exec (.spareRowCopyStep r.bank) s = .next u ∧ coresKept s u ∧ opGone s u o.id ∧ cw ∉ u.hbm.ue ∧
        (∀ n < 64, 64 * cw + n ∈ u.hbm.pois) ∧ u.hbm.remaps = remapped ∧
        (∀ k, k ≠ o.grp → getGroup u k = getGroup s k) ∧
        ∀ g, getGroup s o.grp = some g → getGroup u o.grp = some (stepOn (g.writes (o.dsts.zip
          [rowStatus u hra true r.fixed, remapWord (served none)])) o.carried t.h.len.bytes)))

/-- R22, R59, R286, R329, R331, R344, R348 to R350, R418; of R58 that checks 6 and 7 come with the choice. What a replay finds is
log 39 (DEDUCED). -/
def Obligations.ReadyIssuesAreMadeAndTimePasses : Prop :=
  (∀ (s : State) (core slot : Nat),
    live s = false ∨ Config.cores ≤ core ∨ slot ≠ (getCore s core).nextSlot ∨ (getCore s core).stopped = true ∨
      (getCore s core).retired = true → exec (.issueCycle core slot) s = .next s) ∧
  (∀ (s : State) (core slot : Nat) (g : Group) (x : Slice) (mask : Mask) (pc : Dword) (i : Instr) (v : View),
    let c := getCore s core
    let price := issuePrice s v i
    live s = true → core < Config.cores → core < s.cores.length → c.nextSlot = slot → slot < c.slots.length →
    c.stopped = false → c.retired = false → s.ops = [] → sramClean s = true → s.busy = false →
    slotGroups s core slot = [g] → getGroup s g.id = some g → g.core = core → g.slot = slot →
    sliceOf s g = some x → x.ballast = none → x.ending = none → g.halted = false → g.deferred = [] → g.skipMask = 0 →
    (∀ h ∈ s.groups, h.core = core → h.chosen = none) → g.id ∉ g.yieldFor → g.gpois = [] → (∀ k ∈ g.lanes, k.pois = []) → g.free = [] →
    readyMask s g = g.rdy → g.fetchVerdict ≠ some true → mayForm s g = true → formed s g = some (mask, pc) → mask ≠ 0 → outOfBudget s g x = false → sliceHalted s x.id = false → fetchRes s g pc = .ok i →
    viewAt s g mask pc = some v → (getSlot s core slot).freeAt ≤ c.cyc → c.tokQ = [] →
    (∀ cause, lateCheck v i = some cause → exec (.issueCycle core slot) s = .next
      (let w := takeTrapAt (modSlot s core slot fun sl => { sl with last := g.place }) g.id mask cause pc 0 false
       { w with cores := modNth w.cores core fun k =>
          if 3 ≤ slot then { k with debt := k.debt - k.credit, level := min 1048576 (k.level + (k.credit - k.debt))
                                    nextSlot := 0, cyc := k.cyc + 1, credit := 0 }
          else { k with nextSlot := slot + 1 } })) ∧
    (lateCheck v i = none → waitsForRoom s v i = false → lacksAllowance s v i = false → c.debt = 0 → price ≤ c.level →
    c.level ≤ 1048576 →
    ∃ u y g', exec (.issueCycle core slot) s = .next u ∧
      { u with groups := s.groups, cores := s.cores, slices := s.slices, cur := s.cur, busy := s.busy } = s ∧
      u.busy = true ∧ u.cur = { grp := g.id, mask := mask, pc := pc, cyc := c.cyc, price := price, counted := !inBudget g } ∧
      (getCore u core).hist = c.hist ++ [{ cyc := c.cyc, grp := g, mask := mask, pc := pc, nextId := s.nextId }] ∧
      (getCore u core).level = (if 3 ≤ slot then min 1048576 (c.level - price + c.credit) else c.level - price) ∧ (getCore u core).debt = 0 ∧
      (getCore u core).charged = c.charged + price ∧
      (getCore u core).nextSlot = (if 3 ≤ slot then 0 else slot + 1) ∧
      (getCore u core).cyc = (if 3 ≤ slot then c.cyc + 1 else c.cyc) ∧
      (getSlot u core slot).freeAt = c.cyc + (if gangWidth mask = 64 then 2 else 1) ∧
      getGroup u g.id = some g' ∧ g'.g = g.g ∧ g'.gf = g.gf ∧ g'.fstat = g.fstat ∧ g'.js = g.js ∧
      g'.lanes = (g.lanes.mapIdx fun l k => if mask.has l then
        { k with since := c.cyc, readyAt := c.cyc + max (((hdrOf i).map fun h => h.stall.toNat).getD 0)
                   (if gangWidth mask = 64 then 2 else 1) } else k) ∧
      getSlice u x.id = some y ∧ y.engy = x.engy + BitVec.ofNat 64 price ∧
      (inBudget g = false → y.used = x.used + 1 ∧
        y.left = if x.left = 0 ∨ x.left = BitVec.allOnes 64 then x.left else x.left - 1) ∧
      (inBudget g = true → y.used = x.used ∧ y.left = x.left))) ∧
  (∀ s : State,
    (live s = false → exec .tokenRefill s = .next { s with tb := s.tb + 1 }) ∧
    (∀ i, (getCore s i).tokQ ≠ [] ∨ (getCore s i).debt ≠ 0 → 16 ≤ leastRate s i) ∧
    (live s = true → ∃ u es, exec .tokenRefill s = .next u ∧ u = { s with
        tb := s.tb + 1
        cores := s.cores.mapIdx fun i c =>
          let r := max c.rate (leastRate s i)
          if c.nextSlot = 0 then { c with debt := c.debt - r, level := min 1048576 (c.level + (r - c.debt)) }
          else { c with credit := c.credit + r }
        agenda := es ++ s.agenda } ∧
      ((s.tb + 1) % 100 = 0 → .governorStep ∈ es) ∧
      (∀ r ∈ s.fab.out, r.deadline ≤ s.tb + 1 → .requestTimeout (r.port * 4096 + r.tag) ∈ es))) ∧
  (∀ (s : State) (c k : Nat) (gid : Nat),
    let past : State := { s with
      cores := modNth s.cores c fun k => { k with hist := k.hist.filter fun h => decide (k.cyc < h.cyc + 4) } }
    (∀ o ∈ s.ops, o.core = c → gated o.i = true → gateHolds s c o.cyc = true) →
    ((∀ n < 4, (getSlot s c n).bank = none) → exec (.commitGateRelease c) s = .next past) ∧
    (k < 4 → (∀ n < 4, n ≠ k → (getSlot s c n).bank = none) → (getSlot s c k).bank = some gid →
      (getSlot s c k).bankQ = [] → (∀ h ∈ (getCore s c).hist, (getCore s c).cyc < h.cyc + 4 → h.grp.id ≠ gid) →
      (∀ g, getGroup s gid = some g → g.st.active = false) → (∀ o ∈ s.ops, o.grp ≠ gid) →
      (∀ x ∈ s.cores, (∀ m ∈ x.mxq, m.grp ≠ gid) ∧ ∀ e ∈ x.ergq, e.grp ≠ gid) →
      exec (.commitGateRelease c) s = .next (modSlot past c k fun sl => { sl with bank := none }))) ∧
  (∀ (s u : State) (d : Int),
    (d ≤ 0 → exec (.tbsyncPulse d) s = .next s) ∧
    (0 < d → exec .tokenRefill { s with agenda := [] } = .next u →
      exec (.tbsyncPulse d) s = .next { u with
        agenda := u.agenda ++ (if d = 1 then [] else [.tbsyncPulse (d - 1)]) ++ s.agenda }))

/-- R417 to R419, R424 to R426, R367, R369, R407, R430. Which of the last four cycles a detection names is free (log 3): stated
for a history of the cycle in hand, which every choice takes in. That the 96 islands of R369 have a record of their own under the
numbers 384 to 479 is log 51 (DEDUCED), and what an earlier operation has done to a replayed group log 39 (DEDUCED). -/
def Obligations.TimingErrorsReplayOrRetireAndStacksDegrade : Prop :=
  (∀ (s : State) (core : Nat), live s = true → core < Config.cores → (getCore s core).stopped = false →
    (getCore s core).retired = false → (∀ n < 4, (getSlot s core n).bank = none) →
    ((getCore s core).hist = [] → exec (.timingErrorReplay core) s = .next { s with
      fresh := s.fresh + 1
      health := { s.health with replay := min 255 (s.health.replay + 1) } }) ∧
    (∀ (h : Hist) (g : Group), core < s.cores.length → (getCore s core).hist = [h] → h.cyc = (getCore s core).cyc →
      getGroup s g.id = some g → h.grp.id = g.id →
      ∃ u, exec (.timingErrorReplay core) s = .next u ∧
        { u with groups := s.groups, ops := s.ops, lines := s.lines, sigs := s.sigs, cores := s.cores, busy := s.busy
                 slices := s.slices, fresh := s.fresh, health := s.health } = s ∧
        (u.slices = s.slices.map fun x => match x.endedBy with
          | some (k, n) => if k = g.id ∧ h.nextId ≤ n then { x with ending := none, endedBy := none } else x
          | none => x) ∧
        u.health = { s.health with replay := min 255 (s.health.replay + 1) } ∧ (getCore u core).hist = [] ∧
        u.ops = s.ops.filter (fun o => o.grp != g.id || decide (o.id < h.nextId)) ∧
        u.lines = s.lines.filter (fun l => l.grp != g.id || decide (l.id < h.nextId)) ∧
        (getCore u core).mxq = (getCore s core).mxq.filter (fun m => m.grp != g.id || decide (m.id < h.nextId)) ∧
        (getCore u core).ergq = (getCore s core).ergq.filter (fun m => m.grp != g.id || decide (m.id < h.nextId)) ∧
        (∀ k, k ≠ g.id → getGroup u k = getGroup s k) ∧
        getGroup u g.id = some { h.grp with
          chosen := none
          fetchTok := g.fetchTok, fetchVerdict := g.fetchVerdict, fetchFor := g.fetchFor
          free := (h.mask, h.pc) :: h.grp.free } ∧
        (s.cur.grp = g.id → u.busy = false))) ∧
  (∀ (s : State) (cls ctx island addr info : Nat), MemOk s →
    let h := s.host
    let size := 2 ^ (h.mcrbase.toNat % 32)
    let base := h.mcrbase.toNat % 2 ^ 52 / 4096 * 4096
    let a := base + 64 * (h.mcrHead.toNat % size)
    let full : Prop := (h.mcrHead - h.mcrTail).toNat = size ∨ base = 0
    let bytes := toBytes cls 1 ++ toBytes ctx 1 ++ toBytes island 2 ++ toBytes 0 4 ++ toBytes s.tb 8 ++ toBytes addr 8 ++
      toBytes info 8 ++ toBytes 0 32
    let u := machineCheck s cls ctx island addr info
    (full → u = { s with health := { s.health with mclost := true } }) ∧
    (¬ full → { u with mem := s.mem, hbm := s.hbm, host := s.host, health := s.health } = s ∧
      u.host = { h with mcrHead := h.mcrHead + 1, vectors := h.vectors ++ [0], alertN := true, alerts := h.alerts + 1 } ∧
      u.health = { s.health with mce := min 255 (s.health.mce + 1) } ∧
      ∀ k, memGet u.mem k = if a ≤ k ∧ k < a + 64 ∧ failedKey s k = false then bytes.getD (k - a) 0 else memGet s.mem k)) ∧
  (∀ (s : State) (core : Nat), live s = true → core < Config.cores → core < s.cores.length →
    ((getCore s core).retired = true → exec (.lateTimingError core) s = .next s) ∧
    ((getCore s core).retired = false →
      ∃ u, exec (.lateTimingError core) s = .next u ∧ u.groups = s.groups ∧ u.teams = s.teams ∧
        (getCore u core).stopped = true ∧ (getCore u core).retired = true ∧ (getCore u core).hist = [] ∧
        (∀ k, k ≠ core → getCore u k = getCore s k) ∧ u.host.retiredList = core :: s.host.retiredList ∧
        u.ops = s.ops.filter (fun o => !(o.core == core && gateHolds s core o.cyc &&
          (isWrite o.i || isBarrierOp o.i || isEnq o.i || gated o.i))) ∧
        u.lines = s.lines.filter (fun l => !(l.core == core && gateHolds s core l.cyc)) ∧
        u.sigs = s.sigs.filter (fun z => !(z.core == core && gateHolds s core z.cyc)) ∧
        u.health.retired = min 384 (s.health.retired + 1) ∧ u.health.replace = true ∧
        (∀ g ∈ s.groups, g.resident = true → g.core = core → ∀ x, sliceOf s g = some x →
          getSlice u x.id = some { x with ending := some (x.ending.getD { code := 3, cause := 0, tepc := 0, tval := 0 }) }))) ∧
  (∀ (s : State) (k : Nat),
    (live s = false ∨ 8 ≤ k → exec (.stackDegraded k) s = .next s) ∧
    (live s = true → k < 8 → ∃ u p, exec (.stackDegraded k) s = .next u ∧ p < 64 ∧
      (∀ n, n ∈ u.hbm.failed ↔ n = 64 * k + p ∨ n ∈ s.hbm.failed) ∧ u.groups = s.groups ∧ u.cores = s.cores ∧
      u.health.stkdeg = s.health.stkdeg ||| BitVec.ofNat 8 (2 ^ k) ∧ u.health.replace = true)) ∧
  (∀ (s : State) (n : Nat),
    let moved (en : Bool) (steps errs : Nat) : Nat :=
      if !en then steps else if errs = 0 then min 16 (steps + 1) else if errs = 1 then steps
      else if errs ≤ 7 then steps - 1 else 0
    (live s = false → exec (.undervoltWindowEnd n) s = .next s) ∧
    (n < 384 → s.tb < (getCore s n).uvAt + 1000000 → exec (.undervoltWindowEnd n) s = .next s) ∧
    (live s = true → n < 384 → (getCore s n).uvAt + 1000000 ≤ s.tb →
      exec (.undervoltWindowEnd n) s = .next { s with cores := modNth s.cores n fun c =>
        { c with uvAt := s.tb, uvErrs := 0, uvSteps := moved c.uvEn c.uvSteps c.uvErrs } }) ∧
    (∀ y, 384 ≤ n → s.isles[n - 384]? = some y →
      (s.tb < y.at_ + 1000000 → exec (.undervoltWindowEnd n) s = .next s) ∧
      (live s = true → y.at_ + 1000000 ≤ s.tb →
        exec (.undervoltWindowEnd n) s = .next { s with
          isles := s.isles.set (n - 384) { y with at_ := s.tb, errs := 0, steps := moved y.en y.steps y.errs } })))

/-- R244, R246, R252, R256 to R258, R260, R269, R270, R281, R373, R385. -/
def Obligations.PeerRequestsAreAdmittedOnceOrRefused : Prop :=
  (∀ (s : State) (r : PeerReq),
    let refused : State := { s with fab := { s.fab with refuse := min 255 (s.fab.refuse + 1) } }
    let bytes := (List.range r.size).map fun i => r.data.getD i 0
    let onTime : Prop := live s = true ∧ s.tb < r.deadline ∧ (0 < r.size ∨ ∃ bar, r.kind = .scratchFault bar)
    (¬ onTime → exec (.peerRequestReceive r) s = .next s) ∧
    (onTime → r.kind = .memWrite → 0 < r.size →
      (apertureAdmits s r.fkey r.addr r.size r.kind = false → exec (.peerRequestReceive r) s = .next refused) ∧
      (apertureAdmits s r.fkey r.addr r.size r.kind = true → MemOk s → cleanMemory s → r.pois = false → s.fab.held = [] →
        (linesHold s ((List.range r.size).map (r.addr + ·)) = true → exec (.peerRequestReceive r) s =
          .next { s with fab := { s.fab with held := [r] } }) ∧
        (linesHold s ((List.range r.size).map (r.addr + ·)) = false → ∃ u, exec (.peerRequestReceive r) s = .next u ∧ { u with mem := s.mem } = s ∧
          ∀ a, memGet u.mem a = if r.addr ≤ a ∧ a < r.addr + r.size then bytes.getD (a - r.addr) 0 else memGet s.mem a))) ∧
    (onTime → onScratch r.kind = true → (∀ e ∈ s.fab.exports, e.live = true → e.slot = r.exp → e.core = r.core →
        r.fkey ≠ 0 → fkeyOf s e.team = r.fkey → ctxLive s e.team = false) →
      exec (.peerRequestReceive r) s = .next refused) ∧
    (∀ w bar, onTime → r.kind = .scratchWrite w bar →
      (∀ e tm, findExport s r.fkey r.exp r.core = some e → getTeam s e.team = some tm →
        (tm.st = .saved → exec (.peerRequestReceive r) s =
          .next (modTeam s tm.id fun t => { t with heldReqs := t.heldReqs ++ [r] })) ∧
        (tm.st ≠ .saved → (s.fab.parts.filter fun x => sameSector r x && x != r).length + 1 < r.parts →
          exec (.peerRequestReceive r) s = .next { s with fab := { s.fab with
            parts := s.fab.parts.filter (fun x => x != r) ++ [r] } }) ∧
        (∀ x, tm.st ≠ .saved → s.fab.parts = [x] → sameSector r x = true → x ≠ r → r.parts = 2 → x.lane < r.lane →
          x.kind = r.kind → r.pois = false → x.pois = false → bar % 16 = 0 → bar + 16 ≤ winBytes tm .gen →
          r.addr + r.size ≤ winBytes tm w → x.addr + x.size ≤ winBytes tm w →
          let lands (u : State) (q : PeerReq) : State :=
            notifyBytes (modTCore u tm.id e.core fun c =>
              c.write w q.addr ((List.range q.size).map fun i => q.data.getD i 0)) tm.id e.core w q.addr q.size
          exec (.peerRequestReceive r) s = .next (applyBar (lands (lands
            { s with fab := { s.fab with parts := [] } } x) r) tm.id e.core bar 0 0 (x.size + r.size))) ∧
        (tm.st ≠ .saved → r.parts ≤ 1 → (∀ x ∈ s.fab.parts, sameSector r x = false) → bar % 16 = 0 →
          bar + 16 ≤ winBytes tm .gen →
          (winBytes tm w < r.addr + r.size →
            exec (.peerRequestReceive r) s = .next (setFault s tm.id e.core bar (peerCopy r.src r.copy) r.addr)) ∧
          (r.addr + r.size ≤ winBytes tm w → r.pois = false →
            exec (.peerRequestReceive r) s = .next (applyBar
              (notifyBytes (modTCore s tm.id e.core fun c => c.write w r.addr bytes) tm.id e.core w r.addr r.size)
              tm.id e.core bar 0 0 r.size))))) ∧
    (∀ bar e tm, onTime → r.kind = .scratchFault bar → findExport s r.fkey r.exp r.core = some e →
      getTeam s e.team = some tm → tm.st ≠ .saved → bar % 16 = 0 → bar + 16 ≤ winBytes tm .gen →
      exec (.peerRequestReceive r) s = .next (setFault s tm.id e.core bar (peerCopy r.src r.copy) r.addr)) ∧
    (live s = true → r.deadline ≤ s.tb → exec (.portRequestDiscard r) s = .next { s with
      teams := s.teams.map fun t =>
        let k := t.heldReqs.idxOf r
        { t with
          heldReqs := t.heldReqs.filter fun q => q != r
          heldSigs := t.heldSigs.map fun x => (if k < t.heldReqs.length ∧ k < x.1 then x.1 - 1 else x.1, x.2) }
      fab := { s.fab with
        held := s.fab.held.filter fun q => q != r
        parts := s.fab.parts.filter fun q => q != r } }) ∧
    (live s = false ∨ s.tb < r.deadline → exec (.portRequestDiscard r) s = .next s)) ∧
  (∀ (s : State) (m : Marker),
    let markers := s.fab.markers.filter (fun x => x != m) ++ [m]
    let mine (x : Marker) : Bool := x.src == m.src && x.sig == m.sig && x.fkey == m.fkey
    let all : Prop := ∀ p ∈ m.planes, ∃ x ∈ markers, mine x = true ∧ x.plane = p
    let rest : State := { s with fab := { s.fab with markers := markers.filter fun x => !mine x } }
    (live s = false → exec (.flushMarkerReceive m) s = .next s) ∧
    (live s = true → ¬ all → exec (.flushMarkerReceive m) s = .next { s with fab := { s.fab with markers := markers } }) ∧
    (live s = true → all → m.deadline ≤ s.tb → exec (.flushMarkerReceive m) s = .next rest) ∧
    (live s = true → all → s.tb < m.deadline → (∃ r ∈ s.fab.held, r.src = m.src) →
      exec (.flushMarkerReceive m) s = .next { s with fab := { s.fab with markers := markers } }) ∧
    (live s = true → all → s.tb < m.deadline → (∀ r ∈ s.fab.held, r.src ≠ m.src) →
      findExport s m.fkey m.exp m.core = none →
      exec (.flushMarkerReceive m) s =
        .next { rest with fab := { rest.fab with refuse := min 255 (s.fab.refuse + 1) } }) ∧
    (∀ e tm, live s = true → all → findExport s m.fkey m.exp m.core = some e → getTeam s e.team = some tm →
      (∀ r ∈ s.fab.held, r.src ≠ m.src) → s.tb < m.deadline →
      (tm.st = .saved → exec (.flushMarkerReceive m) s = .next (modTeam rest tm.id fun t =>
        { t with heldSigs := t.heldSigs ++ [(t.heldReqs.length, m)] })) ∧
      (tm.st ≠ .saved → m.off % 16 = 0 → m.off + 16 ≤ winBytes tm .gen →
        exec (.flushMarkerReceive m) s = .next (applyBar
          (modTeam rest tm.id fun t => { t with signals := noteSignal t.signals e.core m.off m.src m.stamp })
          tm.id e.core m.off m.arrivals m.bytes 0)))) ∧
  (∀ (s : State) (fkey : BitVec 16) (h off : Nat),
    (live s = false ∨ findExport s fkey (h / 4) (h % 4) = none → exec (.timeoutNoticeReceive fkey h off) s = .next s) ∧
    (∀ e tm c, live s = true → findExport s fkey (h / 4) (h % 4) = some e → getTeam s e.team = some tm →
      tm.cores[e.core]? = some c → memWf c.gen = true →
      (off % 16 ≠ 0 ∨ winBytes tm .gen < off + 16 → exec (.timeoutNoticeReceive fkey h off) s = .next s) ∧
      (off % 16 = 0 → off + 16 ≤ winBytes tm .gen →
        ∃ u y, exec (.timeoutNoticeReceive fkey h off) s = .next u ∧ { u with ops := s.ops, teams := s.teams } = s ∧
          getTCore u tm.id e.core = some y ∧ y.bar off = { c.bar off with timeout := true })))

/-- R263, R264, R268, R270, R272. -/
def Obligations.RepliesFreeTagsAndTimeoutsQuarantineThem : Prop :=
  (∀ (s : State) (r : Reply),
    let found := s.fab.out.find? fun x => x.port == r.port && x.tag == r.tag && x.gen == r.gen
    (live s = false → exec (.fabricReplyReceive r) s = .next s) ∧
    (live s = true → found = none → exec (.fabricReplyReceive r) s =
      .next { s with fab := { s.fab with stale := min 65535 (s.fab.stale + 1) } }) ∧
    (∀ x id, live s = true → found = some x → x.ref = .sig id → r.refused = false → x.fkey ≠ 0 →
      ∃ u, exec (.fabricReplyReceive r) s = .next u ∧ { u with fab := s.fab, sigs := s.sigs } = s ∧
        u.sigs = s.sigs.filter (fun y => y.id != id) ∧
        u.fab.out = s.fab.out.filter (fun y => !(y.port == r.port && y.tag == r.tag)) ∧
        u.fab.quar = s.fab.quar ∧ genOf u r.port r.tag = (genOf s r.port r.tag + 1) % 16 ∧
        (∃ p, getPeer u x.dev = p ∧ p.cap = ((getPeer s x.dev).reply s.tb (s.tb - x.sentAt)).cap) ∧
        (∀ d, d ≠ x.dev → getPeer u d = getPeer s d))) ∧
  (∀ (s : State) (n : Nat) (x : OutReq),
    s.fab.out.find? (fun y => y.port * 4096 + y.tag == n && decide (y.deadline ≤ s.tb)) = some x → live s = true →
    let counted (sig : Bool) (f : Fabric) : Fabric :=
      { f with tmo := min 65535 (f.tmo + 1), sigtmo := if sig then min 255 (f.sigtmo + 1) else f.sigtmo }
    let freed (f : Fabric) : Prop :=
      f.out = s.fab.out.filter (fun y => !(y.port == x.port && y.tag == x.tag)) ∧
        f.quar = (x.port, x.tag, s.tb + 2 * s.fab.rqtmo) :: s.fab.quar
    (∀ id y, x.ref = .sig id → (s.sigs.find? fun z => z.id == id) = some y →
      ∃ u f, exec (.requestTimeout n) s = .next u ∧ freed f ∧ u.fab = counted true f ∧ f.tmo = s.fab.tmo ∧
        f.sigtmo = s.fab.sigtmo ∧ { u with fab := s.fab, sigs := s.sigs } = s ∧
        ((∃ p < 8, s.fab.dead.getLsbD p = false) →
          f.notices = { dev := y.handle.toNat / 2 ^ 54, handle := y.handle.toNat / 2 ^ 44 % 2 ^ 10
                        off := y.handle.toNat % 2 ^ 24, fault := none } ::
            s.fab.notices.filter fun z => z.dev != y.handle.toNat / 2 ^ 54) ∧
        ((∀ p < 8, s.fab.dead.getLsbD p = true) → f.notices = s.fab.notices) ∧
        u.sigs = s.sigs.filter (fun y => y.id != id) ∧ genOf u x.port x.tag = (genOf s x.port x.tag + 1) % 16) ∧
    (∀ l q t c, x.ref = .line l.id 0 → getLine s l.id = some l → l.i = .cpy t → l.segs = [q] → l.left = [q.sec] →
      l.dead = false → l.cause = none → sramClean s = true →
      getTCore s l.team (l.bar.toNat / 2 ^ 24 % 4) = some c → memWf c.gen = true →
      ∃ u y f, exec (.requestTimeout n) s = .next u ∧ freed f ∧ u.fab = counted false f ∧ f.tmo = s.fab.tmo ∧
        u.lines = s.lines.filter (fun k => k.id != l.id) ∧ u.mem = s.mem ∧ u.groups = s.groups ∧
        getTCore u l.team (l.bar.toNat / 2 ^ 24 % 4) = some y ∧
        y.bar (l.bar.toNat % 2 ^ 24) = { c.bar (l.bar.toNat % 2 ^ 24) with timeout := true })) ∧
  (∀ (s : State) (n : Nat), live s = false ∨ (∀ x ∈ s.fab.out, x.port * 4096 + x.tag = n → s.tb < x.deadline) →
    exec (.requestTimeout n) s = .next s) ∧
  (∀ (s : State) (n : Nat),
    ((∃ p < 8, s.fab.dead.getLsbD p = false) → exec (.unsentTimeout n) s = .next s) ∧
    (∀ x, live s = true → (∀ p < 8, s.fab.dead.getLsbD p = true) → getLine s n = none →
      (s.sigs.find? fun y => y.id == n) = some x → x.tag = none →
      (x.at_ + s.fab.rqtmo ≤ s.tb → exec (.unsentTimeout n) s = .next { s with
        sigs := s.sigs.filter fun y => y.id != n
        fab := { s.fab with tmo := min 65535 (s.fab.tmo + 1), sigtmo := min 255 (s.fab.sigtmo + 1) } }) ∧
      (s.tb < x.at_ + s.fab.rqtmo → (∀ y ∈ s.sigs, y.id = n → y = x) → getOp s n = none →
        exec (.unsentTimeout n) s = .next s)) ∧
    (∀ l t c, live s = true → (∀ p < 8, s.fab.dead.getLsbD p = true) → getLine s n = some l → l.dead = false →
      l.i = .cpy t → (∃ q ∈ l.segs, unsentSeg s l q = true) →
      getTCore s l.team (l.bar.toNat / 2 ^ 24 % 4) = some c → memWf c.gen = true → sramClean s = true →
      (l.at_ + s.fab.rqtmo ≤ s.tb → ∃ u y, exec (.unsentTimeout n) s = .next u ∧
        { u with fab := s.fab, lines := s.lines, ops := s.ops, teams := s.teams } = s ∧
        u.fab = { s.fab with tmo := min 65535 (s.fab.tmo + 1) } ∧
        getTCore u l.team (l.bar.toNat / 2 ^ 24 % 4) = some y ∧
        y.bar (l.bar.toNat % 2 ^ 24) = { c.bar (l.bar.toNat % 2 ^ 24) with timeout := true } ∧
        ((∀ q ∈ l.segs, unsentSeg s l q = true ∨ q.st = .timedOut) → u.lines = s.lines.filter fun k => k.id != n) ∧
        ((∃ q ∈ l.segs, unsentSeg s l q = false ∧ q.st ≠ .timedOut) →
          getLine u n = some { l with
            segs := l.segs.map fun q => if unsentSeg s l q then { q with st := .timedOut } else q } ∧
          ∀ k, k ≠ n → getLine u k = getLine s k)) ∧
      (s.tb < l.at_ + s.fab.rqtmo → (∀ k ∈ s.lines, k.id = n → k = l) → (∀ y ∈ s.sigs, y.id ≠ n) → getOp s n = none →
        exec (.unsentTimeout n) s = .next s))) ∧
  (∀ (s : State) (n : Nat), live s = true → exec (.tagQuarantineExpire n) s = .next { s with
    fab := { s.fab with quar := s.fab.quar.filter fun q => !(q.1 * 4096 + q.2.1 == n && decide (q.2.2 ≤ s.tb)) } }) ∧
  (∀ (s : State) (e new old : Nat), live s = true → (s.fab.pending.find? fun x => x.1 == e) = some (e, new, old) →
    ((∃ r ∈ s.fab.out, r.plane = old) → exec (.planeEntrySwitch e) s = .next s) ∧
    ((∀ r ∈ s.fab.out, r.plane ≠ old) → exec (.planeEntrySwitch e) s = .next { s with fab := { s.fab with
      plane := s.fab.plane.set e new
      pending := s.fab.pending.filter fun x => x.1 != e } })) ∧
  (∀ (s : State) (e : Nat), live s = false ∨ (∀ x ∈ s.fab.pending, x.1 ≠ e) → exec (.planeEntrySwitch e) s = .next s)

/-- R273, R274, R421 to R423, R425. Whether a resend is of the flit of the resend before is free (log 3). -/
def Obligations.LinksRetrainNarrowAndGoDown : Prop :=
  ∀ (s : State) (n : Nat) (p : Port), n < 32 → s.fab.ports.length = 32 → s.fab.ports[n]? = some p → live s = true →
    let port (f : Port) : State := { s with fab := { s.fab with ports := s.fab.ports.set n f } }
    let train (k : Nat) (lanes : BitVec 4) : State := { s with fab := { s.fab with
      ports := s.fab.ports.set n { p with
        training := true, attempt := k, fall := lanes, resends := 0 }
      retr := min 255 (s.fab.retr + 1) } }
    let idle : Prop := p.down = false ∧ p.training = false
    (¬ idle → exec (.linkFlitResend n) s = .next s ∧ exec (.laneShed n) s = .next s ∧ exec (.laneRegain n) s = .next s) ∧
    (idle → ∃ k, (k = 1 ∨ k = p.resends + 1) ∧
      (k < 32 → exec (.linkFlitResend n) s = .next { port { p with resends := k } with fresh := s.fresh + 1 }) ∧
      (32 ≤ k → exec (.linkFlitResend n) s = .next { train 0 0 with fresh := s.fresh + 1 })) ∧
    (p.training = false → exec (.linkRetrain n) s = .next (train 0 0)) ∧
    (p.training = true → exec (.linkRetrain n) s = .next s) ∧
    (idle → p.width ≤ 1 ∨ s.tb < p.lightSince + s.fab.shedt → exec (.laneShed n) s = .next s) ∧
    (idle → 1 < p.width → p.lightSince + s.fab.shedt ≤ s.tb →
      exec (.laneShed n) s = .next (port { p with width := p.width / 2, lightSince := s.tb })) ∧
    (idle → exec (.laneRegain n) s = .next (port { p with width := p.trained, lightSince := s.tb })) ∧
    (∀ mine theirs : TrainResult,
      let agree : Prop := mine.width = theirs.width ∧ mine.speed = theirs.speed ∧ mine.map = theirs.map ∧
        (p.attempt = 0 ∨ (mine.width = 1 ∧ mine.speed = 2 ∧ mine.map = p.fall))
      let word (a : Nat) (x : TrainResult) : Nat := a % 16 * 4096 + x.map.toNat * 256 + x.speed % 16 * 16 + x.width % 16
      let record := word p.attempt mine + 65536 * word theirs.att theirs
      let common : Prop := mine.map &&& theirs.map ≠ 0
      let e := Instr.linkTrainingBeat n mine theirs
      (p.training = false → exec e s = .next s) ∧
      (p.training = true → common → ¬ agree → p.attempt = 0 → exec e s = .next (train 1 (mine.map &&& theirs.map))) ∧
      (p.training = true → common → agree →
        ∃ u, exec e s = .next u ∧ { u with fab := { u.fab with dead := s.fab.dead } } =
            port { p with
              down := false, training := false, width := mine.width, trained := mine.width, speed := mine.speed
              map := mine.map, lightSince := s.tb } ∧
          (∀ q < 8, u.fab.dead.getLsbD q = true ↔ s.fab.dead.getLsbD q = true ∧
            ¬ (q = n / 4 ∧ ∀ k, k / 4 = n / 4 → k ≠ n → (getPort s k).down = false))) ∧
      (p.training = true → ¬ common ∨ (¬ agree ∧ p.attempt ≠ 0) →
        (s.fab.dead.getLsbD (n / 4) = true → exec e s =
          .next (machineCheck (port { p with down := true, training := false }) 0x06 0x80 (islandOfPort n) n record)) ∧
        ∃ u y, exec e s = .next u ∧
          { u with mem := s.mem, host := s.host, health := s.health, fab := s.fab, hbm := s.hbm } = s ∧
          u.fab.ports[n]? = some y ∧ y = { p with down := true, training := false } ∧
          (∀ k, k ≠ n → u.fab.ports[k]? = s.fab.ports[k]?) ∧
          u.fab.dead = s.fab.dead ||| BitVec.ofNat 8 (2 ^ (n / 4)) ∧
          (s.fab.dead.getLsbD (n / 4) = false → u.health.pldead = s.health.pldead ||| BitVec.ofNat 8 (2 ^ (n / 4)) ∧
            u.health.replace = true ∧
            ∀ k < 8, (entryPlane s k = n / 4 → ∀ q, nextPlane u (n / 4) = some q → entryPlane u k = q) ∧
              (entryPlane s k ≠ n / 4 → entryPlane u k = entryPlane s k))))

/-- R352 to R364, R433, R451. What the governor measures, and the die of a ballast slice, are free (log 3); that each step puts the
look at the storage alarm on the agenda is the model's choice (log 32), and so are the ceilings that bound a microsecond (log 88). -/
def Obligations.GovernorBoundsTheRateAndPowerEventsAct : Prop :=
  (∀ s : State,
    let narrowed (u : State) : State := { u with
      cores := u.cores.mapIdx fun i (c : Core) =>
        if rowMoves u i then c
        else { c with
          cade := c.cad
          narrow := c.droop || u.pw.storageAlarm } }
    let due : Prop := live s = true ∧ s.tb % 100 = 0 ∧ s.pw.govAt ≠ s.tb
    let cells : Prop := hbmClean s = true ∧ s.sram = []
    let list : State := { s with host := { s.host with ballstEff := s.host.ballst } }
    let w := s.pw
    let on : Prop := live s = true
    (¬ due → exec .governorStep s = .next s) ∧
    (due → ∃ u, exec .governorStep s = .next u ∧ u.pw.govAt = s.tb ∧ u.pw.pr ≤ u.pw.thcap ∧
      u.pw.pr ≤ s.pw.pr + 100 * s.pw.slew ∧ (s.pw.members = [] → u.pw.pr ≤ s.pw.siteal) ∧
      (∀ c, w.ceil = some c →
        let cap := min (w.inCap + c) (min (10 * min c (w.inCeil.getD c)) (w.inLast + 10000 * w.slew))
        w.inSum ≤ cap →
        (s.tb % 1000 ≠ 0 → u.pw.inSum ≤ cap ∧ u.pw.inCap = w.inCap + c ∧ u.pw.inLast = w.inLast) ∧
        (s.tb % 1000 = 0 → u.pw.inLast ≤ cap ∧ min cap (w.inLast - 10000 * w.slew) ≤ u.pw.inLast ∧ u.pw.inSum = 0 ∧
          u.pw.inCap = 0)) ∧
      (cells → u.pw.surplus = false → u.slices = s.slices.map fun x =>
        if x.ballast.isSome = true ∧ x.st = .running then { x with preempting := true } else x) ∧
      (∀ n, cells → (∀ x ∈ s.slices, x.ballast.isSome = true → x.st ≠ .saved) → nextBallast list = some n →
        (ballastRecord list n).kind ≠ 0 → (ballastRecord list n).exp = false →
        takeInCause (ballastRecord list n) true true = none → u.pw.surplus = true →
        u.slices = s.slices ∨ ∃ die e d, die < 4 ∧ freeGeneral s die = some e ∧
          u.slices = s.slices ++ [{ newSlice die 64 (ballastRecord list n) with
            id := s.nextId
            entry := e
            priv := true
            deadl := BitVec.allOnes 64
            ballast := some n
            onDie := d
            st := .ready
            readyAt := s.nextId + 1
            expLive := liveSlots s 64 }])) ∧
    (∀ n, nextBallast s = some n →
      let count := s.host.ballstEff.toNat % 64
      let first := if w.launched = true ∧ w.ballast + 1 < count then w.ballast + 1 else 0
      ∃ j < count, n = (first + j) % count ∧ ballastFits s n = true ∧ ∀ i < j, ballastFits s ((first + i) % count) = false) ∧
    (on → s.tb % 100 = 0 → s.pw.govAt ≠ s.tb → s.host.ballst = 0 → cells →
      ∃ u, exec .governorStep s = .next u ∧
        { u with pw := s.pw, cores := s.cores, slices := s.slices, host := s.host, fresh := s.fresh, agenda := s.agenda } = s ∧
        u.agenda = s.agenda ++ [if s.pw.storageAlarm then .storageAlarmClear else .storageAlarmRaise] ∧
        u.pw.govAt = s.tb ∧ u.pw.pr ≤ u.pw.thcap ∧ u.pw.thcap < 2 ^ 22 ∧
        (s.pw.members = [] → u.pw.pr ≤ s.pw.siteal) ∧
        u.pw.pr ≤ s.pw.siteal + ((s.pw.leasesIn.filter fun l => decide (s.tb + 20 < l.2)).map Prod.fst).sum -
          (if s.pw.members = [] then 0
           else ((s.pw.leasesOut.filter fun l => decide (s.tb < l.2 + 20)).map Prod.fst).sum) ∧
        u.pw.pr ≤ s.pw.pr + 100 * s.pw.slew ∧ u.cores.length = s.cores.length ∧ (∀ c ∈ u.cores, c.charged = 0)) ∧
    (¬ (on ∧ s.tb % 10000 = 0 ∧ s.pw.intentAt ≠ s.tb) → exec .powerIntentSend s = .next s) ∧
    (on → s.tb % 10000 = 0 → s.pw.intentAt ≠ s.tb →
      ∃ u, exec .powerIntentSend s = .next u ∧ { u with pw := s.pw, fresh := s.fresh } = s ∧
        u.pw = { s.pw with
          members := s.pw.newMembers.getD s.pw.members
          newMembers := none
          intentAt := s.tb
          plan := u.pw.plan } ∧ u.pw.plan.length = 10 ∧ ∀ x ∈ u.pw.plan, 1000 * x ≤ ceiling s) ∧
    (∀ m, on → m.dev ∈ s.pw.members → exec (.powerIntentReceive m) s = .next { s with pw := { s.pw with
      intents := (m.dev, m.plan) :: s.pw.intents.filter fun x => x.1 != m.dev } }) ∧
    (∀ m, m.dev ∉ s.pw.members → exec (.powerIntentReceive m) s = .next s) ∧
    (∀ a e : BitVec 64,
      (s.pw.members = [] → exec (.leaseReceive a e) s = .next s) ∧
      (on → s.pw.members ≠ [] → s.tb + 20 ≤ e.toNat → exec (.leaseReceive a e) s =
        .next { s with pw := { s.pw with leasesIn := (a.toNat, e.toNat) :: s.pw.leasesIn } }) ∧
      (e.toNat < s.tb + 20 → exec (.leaseReceive a e) s = .next s)) ∧
    (on → exec .leaseExpire s = .next { s with pw := { s.pw with
      leasesIn := s.pw.leasesIn.filter fun l => decide (s.tb + 20 < l.2)
      leasesOut := s.pw.leasesOut.filter fun l => decide (s.tb < l.2 + 20) } }) ∧
    (∀ (x : Nat) (h : BitVec 64), on → exec (.pacingHintReceive x h) s = .next { s with
      slices := s.slices.map fun y => if y.id = x then { y with pacing := some (s.tb + 100000, h.toNat) } else y
      cores := s.cores.mapIdx fun i k =>
        if ∃ t ∈ s.teams, t.slice = x ∧ t.st = .running ∧ ∃ c ∈ t.cores, c.phys = i then
          { k with pacing := some (s.tb + 100000, h.toNat) } else k }) ∧
    (∀ c, on → exec (.pacingExpire c) s = .next { s with
      cores := modNth s.cores c fun k => { k with pacing := k.pacing.filter fun p => decide (s.tb < p.1) } }) ∧
    (∀ ms, exec (.powerGroupMemberListWrite ms) s =
      .next { s with pw := { s.pw with newMembers := some (ms.take 1024) } }) ∧
    (∀ c, on → exec (.droopAlarmRaise c) s =
        .next (narrowed { s with cores := modNth s.cores c fun k => { k with droop := true, droopAt := s.tb } }) ∧
      ((getCore s c).droopAt + 2000 ≤ s.tb → exec (.droopAlarmClear c) s =
        .next (narrowed { s with cores := modNth s.cores c fun k => { k with droop := false } })) ∧
      (s.tb < (getCore s c).droopAt + 2000 → exec (.droopAlarmClear c) s = .next s)) ∧
    (on →
      exec .storageAlarmRaise s = .next (if 4 * s.pw.chg < Config.capm * 1000000 then
        narrowed { s with pw := { s.pw with storageAlarm := true } } else s) ∧
      exec .storageAlarmClear s = .next (if Config.capm * 1000000 ≤ 2 * s.pw.chg then
        narrowed { s with pw := { s.pw with storageAlarm := false } } else s)))

/-- R312, R248, R317, R320, R324, R325, R315, R13, R14, R25, R394 to R397. That a pre-emption wants an address for each team is
the model's choice (log 49), and so is when the export slots of a slice are judged (log 62); that a group waits for what a replay
may bring back is log 39. -/
def Obligations.SlicesAreTakenInPlacedAndRetired : Prop :=
  (∀ (s : State) (ctx q : Nat),
    let x := getQueue s q
    let d := x.desc
    let e := Instr.packetTakeIn ctx q
    let va := slotVa d x
    let turn : State := { s with served := setNth s.served (queueDie q) q }
    let s0 := setQueue turn { x with
      token := none, verdict := none, malf := false }
    (d.ctx ≠ ctx ∨ packetDue s q = false → exec e s = .next s) ∧
    (d.ctx = ctx → packetDue s q = true → x.verdict = some true →
      ∃ u, exec e s = .next u ∧ (getQueue u q).stopped = true ∧ u.slices = s.slices ∧ u.groups = s.groups) ∧
    (d.ctx = ctx → packetDue s q = true → x.verdict ≠ some true → cpHeld turn ctx true va 4 = true → exec e s = .next turn) ∧
    (d.ctx = ctx → packetDue s q = true → x.verdict ≠ some true → cpHeld turn ctx true va 4 = false →
      (∀ s1 hdr, cpRead s0 ctx true va 4 = (s1, .ok hdr) → (parsePacket hdr).valid = false → exec e s = .next s1) ∧
      (∀ s1 c a, cpRead s0 ctx true va 4 = (s1, .fatal c a) →
        ∃ u, exec e s = .next u ∧ (getQueue u q).stopped = true ∧ u.slices = s1.slices ∧ u.groups = s1.groups) ∧
      (∀ s1 s2 hdr rest, cpRead s0 ctx true va 4 = (s1, .ok hdr) → (parsePacket hdr).valid = true →
        cpRead s1 ctx true (va + 4) 60 = (s2, .ok rest) →
        let p := parsePacket (hdr ++ rest)
        let x2 := getQueue s2 q
        let d2 := x2.desc
        let cleared := toBytes (p.hdr.toNat - p.hdr.toNat % 2) 4
        (p.kind = 0 → exec e s = .next (cpWrite (setQueue s2 { x2 with ridx := x2.ridx + 1 }) (queueDie q) d2.ctx true
          (slotVa d2 x2) cleared)) ∧
        (∀ n pred, p.kind ≠ 0 → freeGeneral s2 (queueDie q) = some n →
          (pred = none ↔ p.after = false ∨ ∀ k, x2.lastSlice = some k → ∀ y ∈ s2.slices, y.id ≠ k) →
          (∀ k, pred = some k → x2.lastSlice = some k) →
          let y : Slice := { newSlice (queueDie q) d2.ctx p with
            id := s2.nextId
            entry := n
            quant := d2.quant
            queue := some q
            pred := pred
            st := if pred.isSome then .waiting else .ready
            readyAt := s2.nextId + 1
            expLive := liveSlots s2 d2.ctx }
          (p.exp = false ∨ p.kind = 2 → takeInCause p d2.priv true = none →
            ∃ u, exec e s = .next u ∧ u.groups = s2.groups ∧ u.teams = s2.teams ∧
              (getQueue u q).ridx = x2.ridx + 1 ∧ (getQueue u q).lastSlice = some s2.nextId ∧
              u.slices = s2.slices ++ [y] ∧ u.fab.exports = s2.fab.exports) ∧
          (∀ c, p.exp = true → p.kind ≠ 2 → coresAtTakeIn s2 y = some c → p.expb + p.nteam * c ≤ 256 →
            (∀ i < p.nteam * c, p.expb + i ∉ liveSlots s2 d2.ctx) → takeInCause p d2.priv true = none →
            (∀ z ∈ s2.fab.exports, z.slice ≠ s2.nextId) →
            ∃ u, exec e s = .next u ∧ u.slices = s2.slices ++ [y] ∧
              u.fab.exports = s2.fab.exports ++ (List.range (p.nteam * c)).map fun i =>
                { ctx := d2.ctx, slot := p.expb + i, team := 0, core := i % c, live := false, slice := s2.nextId }))))) ∧
  (∀ (s : State) (x : Slice) (cl : Nat), getSlice s x.id = some x → s.sram = [] →
    let e := Instr.teamPlace x.id cl
    (∀ f, x.fin = some f → exec e s = .next (entryFreed (closeSlice s x f))) ∧
    (x.fin = none → x.st = .ready → x.pkt.marker = true → exec e s = .next (endOfSlice s x 0 0 0 0)) ∧
    (x.fin = none → ¬ (x.st = .ready ∧ x.pkt.marker = true) →
      (x.k = none → x.st ≠ .ready → exec e s = .next s) ∧
      (x.k = none → x.st = .ready → exec e s = .next (prepareSlice s x)) ∧
      (∀ k, x.k = some k → hasUnplaced x = false ∨ 96 ≤ cl ∨ dispatchTurn s x = false → exec e s = .next s) ∧
      (∀ k, x.k = some k → hasUnplaced x = true → cl < 96 → dispatchTurn s x = true → fitsIn s (x.id, x.nextTeam) k cl = [] →
        exec e s = .next (if fitsAnywhere s (x.id, x.nextTeam) k then s else makeGang s (x.id, x.nextTeam) k cl)) ∧
      (∀ k way ways bytes s1, x.k = some k → hasUnplaced x = true → cl < 96 → dispatchTurn s x = true →
        fitsIn s (x.id, x.nextTeam) k cl = way :: ways → x.token = none → x.verdict = none → x.tiles = [] →
        x.waitFor = none → (∀ y ∈ s.slices, y.id = x.id → y = x) → hbmClean s1 = true → s1.sram = [] →
        readPrologue { s with fresh := s.fresh + 1 } x k = (s1, .ok bytes) →
        ∃ u tm, exec e s = .next u ∧ u.mem = s1.mem ∧ u.teams = s1.teams ++ [tm] ∧ tm.desc = ctxDesc s1 x.ctx ∧
          (∀ z ∈ u.fab.exports, z.slice = x.id → x.pkt.expb + x.nextTeam * k.cores ≤ z.slot →
            z.slot < x.pkt.expb + x.nextTeam * k.cores + k.cores → z.live = true ∧ z.team = tm.id) ∧
          tm.no = x.nextTeam ∧ tm.slice = x.id ∧ tm.st = .running ∧ tm.cluster = cl ∧
          tm.regions = List.replicate k.nregion none ∧
          tm.skip = List.replicate 64 0 ∧ tm.ergta = k.ergta ∧ tm.ergtr = k.ergtr ∧
          (∃ w ∈ way :: ways, tm.cores = (w.1.zip w.2).map fun y => TCore.start k y.1 y.2 bytes (x.pkt.arglen != 0)) ∧
          u.groups.length = s1.groups.length + (groupRoles k).length ∧
          (∀ n < (groupRoles k).length, ∃ g r, u.groups[s1.groups.length + n]? = some g ∧ (groupRoles k)[n]? = some r ∧
            g.grp = n ∧ g.role = r.1 ∧ g.idx = r.2.1 ∧ g.team = tm.id ∧ g.resident = true ∧ g.lanes.length = 64 ∧
            ∀ l < 64, (g.lane l).pc = r.2.2.entry ∧ (g.lane l).base = 0 ∧
              (g.lane l).st = if l < r.2.2.fibres then .live else .free)))) ∧
  (∀ (s : State) (g : Group) (x : Slice), getGroup s g.id = some g → sliceOf s g = some x →
    let e := Instr.groupRetire g.id
    (mayReplay s g = true → exec e s = .next s) ∧
    (mayReplay s g = false → x.ending.isSome = true → groupBusy (dropPending s g.id) g.id = true →
      exec e s = .next (dropPending s g.id)) ∧
    (mayReplay s g = false → x.ending = none → g.active ≠ 0 ∨ groupBusy s g.id = true ∨ g.gs ≠ [] → exec e s = .next s) ∧
    (mayReplay s g = false → x.ending = none → g.active = 0 → groupBusy s g.id = false → g.gs = [] →
      (∀ tm, getTeam s g.team = some tm → ∀ c ∈ tm.cores, c.held = false) →
      (getSlot s g.core g.slot).bank ≠ some g.id →
      ((∃ h ∈ s.groups, h.id ≠ g.id ∧ h.team = g.team) →
        ∃ u, exec e s = .next u ∧ { u with groups := s.groups, cores := s.cores } = s ∧
          u.groups = s.groups.filter fun h => h.id != g.id) ∧
      (∀ tm, (∀ h ∈ s.groups, h.id ≠ g.id → h.team ≠ g.team) → getTeam s g.team = some tm →
        ∃ u, exec e s = .next u ∧ u.groups = s.groups.filter (fun h => h.id != g.id) ∧
          u.teams = s.teams.filter (fun t => t.id != tm.id) ∧
          ((∃ t ∈ s.teams, t.id ≠ tm.id ∧ t.slice = x.id) → u.slices = s.slices) ∧
          ((∀ t ∈ s.teams, t.id ≠ tm.id → t.slice ≠ x.id) → x.pkt.nteam ≤ x.nextTeam → s.rings = [] →
            s.lines = [] → x.st ≠ .completing → getSlice u x.id = none)))) ∧
  (∀ (s s1 : State) (x : Slice) (n : Nat), getSlice s x.id = some x →
    let e := Instr.preempt x.id
    (live s = false ∨ x.st ≠ .running ∨ x.ending.isSome = true → exec e s = .next s) ∧
    (live s = true → x.st = .running → x.ending = none → stackCount s x = (s1, n) →
      (residentTeams s x.id = [] ∨ n < (residentTeams s x.id).length →
        exec e s = .next { s1 with slices := s1.slices.map fun y =>
          if y.id = x.id then { y with preempting := false } else y }) ∧
      (residentTeams s x.id ≠ [] → (residentTeams s x.id).length ≤ n →
        let s2 : State := { s1 with
          slices := s1.slices.map fun y => if y.id = x.id then { y with preempting := true } else y }
        let s3 := (residentGroups s2 x.id).foldl saveWaits s2
        ((∃ g ∈ residentGroups s3 x.id, groupQuiet s3 g = false) → exec e s = .next s3) ∧
        ((∀ g ∈ residentGroups s3 x.id, groupQuiet s3 g = true) → sramClean s3 = true →
          exec e s = .next (settleSaved ((residentTeams s x.id).foldl (fun s t => saveTeam s x t) s3) x.id) ∧
          (∀ t s4 k a, residentTeams s x.id = [t] → topRecord s3 x = (s4, some (k, a)) →
            stackHeld s4 x 0 = true ∨ recordHeld s4 x t a = true → exec e s = .next (settleSaved s4 x.id)) ∧
          (∀ t s4 k a, residentTeams s x.id = [t] → topRecord s3 x = (s4, some (k, a)) →
            stackHeld s4 x 0 = false → recordHeld s4 x t a = false → sramClean s4 = true → getTeam s4 t.id = some t →
            ∃ u, exec e s = .next u ∧ u.mem = (writeRecord (stackWrite s4 x 0 k) x t a).mem ∧
              (∀ z ∈ u.teams, z.id = t.id → z.st = .saved ∧ z.record = BitVec.ofNat 64 a) ∧
              (∀ h ∈ u.groups, h.team = t.id → h.resident = false) ∧
              (∀ y ∈ u.slices, y.id = x.id → y.st = .saved ∧ y.preempting = false)))))) ∧
  (∀ (s : State) (t : Team) (x : Slice) (cl : Nat), getTeam s t.id = some t → getSlice s t.slice = some x →
    let e := Instr.contextRestore t.id cl
    (live s = false ∨ t.st ≠ .saved ∨ x.ending.isSome = true ∨ x.preempting = true ∨ 96 ≤ cl ∨ ballastMay s x = false →
      exec e s = .next s) ∧
    (live s = true → t.st = .saved → x.ending = none → x.preempting = false → cl < 96 → ballastMay s x = true →
      (fitsIn s (x.id, t.no) t.k cl = [] → exec e s =
        .next (if fitsAnywhere s (x.id, t.no) t.k then s else makeGang s (x.id, t.no) t.k cl)) ∧
      let waits : Prop := stackHeld s x 0 = true ∨ stackHeld s x ((stackCount s x).2 + 1) = true ∨
        recordHeld s x t t.record.toNat = true
      (fitsIn s (x.id, t.no) t.k cl ≠ [] → waits → exec e s = .next s) ∧
      (∀ way ways, fitsIn s (x.id, t.no) t.k cl = way :: ways → ¬ waits → (∀ h ∈ s.groups, h.team = t.id → h.grp < 64) →
        hbmClean s = true → s.sram = [] →
        ∃ u, exec e s = .next u ∧
          (∀ z ∈ u.teams, z.id = t.id → z.st = .running ∧ z.cluster = cl ∧ z.desc = ctxDesc s x.ctx) ∧
          (∀ h ∈ u.groups, h.team = t.id → h.resident = true ∧ h.pass = 0 ∧ h.chosen = none) ∧
          (∀ y ∈ u.slices, y.id = x.id → y.st = .running ∧ y.quantCount = 0)))) ∧
  (∀ (t : Team) (gs : List Group) (k : Nat),
    let up (n : Nat) : Nat := (n + 4095) / 4096 * 4096
    let size := winBytes t .gen + winBytes t .wgt + winBytes t .act + winBytes t .erg + 513 * t.k.acc + 512
    let groupAt (n : Nat) : Nat := 4096 + t.cores.length * up size + ((gs.take n).map fun g => up (40960 + 256 * g.rz)).sum
    (∃ bs, (1280, bs) ∈ recordParts t gs k ∧
      bs = t.skip.flatMap dwordBytes ++ toBytes t.ergta.toNat 8 ++ toBytes t.ergtr.toNat 8) ∧
    (∀ c tc, t.cores[c]? = some tc → ∃ bs, (4096 + c * up size, bs) ∈ recordParts t gs k ∧
      (∀ i < winBytes t .gen, bs[i]? = some (memGet tc.gen i)) ∧
      (∀ i < winBytes t .wgt, bs[winBytes t .gen + i]? = some (memGet tc.wgt i)) ∧
      (∀ i < winBytes t .act, bs[winBytes t .gen + winBytes t .wgt + i]? = some (memGet tc.act i)) ∧
      (∀ i < winBytes t .erg, bs[winBytes t .gen + winBytes t .wgt + winBytes t .act + i]? = some (memGet tc.erg i))) ∧
    (∀ (n : Nat) (g : Group), gs[n]? = some g → g.g.length = 24 → g.js.length ≤ 32 → (∀ l ∈ g.lanes, l.rz = g.rz) →
      ∃ bs, (groupAt n, bs) ∈ recordParts t gs k ∧ bs.length = 40960 + 4 * g.rz * g.lanes.length ∧
        (∀ r < 24, (bs.drop (4 * r)).take 4 = wordBytes (nth 0 g.g r)) ∧
        (∀ (i j : Nat) (l : Lane), g.lanes[i]? = some l → j < g.rz →
          (bs.drop (40960 + 4 * (g.rz * i + j))).take 4 = wordBytes (l.stk (l.rb + j)))))

/-- R313, R427 to R435. The model's choices: the sizes and alignment of the host's AtomicOps (log 71), what a stopped device does
with inputs (log 45), bring-up in one step (log 48), and what a debug register reads (log 73). -/
def Obligations.HostAndBoardActOnTheirRegisters : Prop :=
  ∀ s : State,
    let on : Prop := live s = true
    let host (f : HostIf) : State := { s with host := f }
    let ring (w : Dword) : Prop := 4096 ≤ w.toNat ∧ 6 ≤ w.toNat % 32 ∧ w.toNat % 32 ≤ 16
    let h := s.host
    let fields (v : BitVec 64) (lo n : Nat) : Dword := BitVec.ofNat 64 (v.toNat % 2 ^ 52 / 2 ^ lo * 2 ^ lo + v.toNat % 2 ^ n)
    (on → h.mcup = false → exec .hctlGo s = .next (host { h with goPending := true })) ∧
    (on → h.mcup = true → h.go = false → h.ctxtab ≠ 0 → h.qdtab ≠ 0 → ring h.sfqbase → ring h.mcrbase →
      exec .hctlGo s = .next (host { h with
        go := true, ready := true, goPending := false, step := 9, vectors := h.vectors ++ [3] })) ∧
    (on → h.mcup = true → h.go = true ∨ h.ctxtab = 0 ∨ h.qdtab = 0 ∨ ¬ ring h.sfqbase ∨ ¬ ring h.mcrbase →
      exec .hctlGo s = .next (host { h with goPending := false })) ∧
    (∀ v : BitVec 64, on →
      exec (.mcridxTailWrite v) s = .next (host { h with mcrTail := v.setWidth 32 }) ∧
      exec (.ballstWrite v) s = .next (host { h with ballst := fields v 12 6 }) ∧
      (h.heldEntries = [] → exec (.sfqidxTailWrite v) s = .next (host { h with sfqTail := v.setWidth 32 })) ∧
      (h.go = false → exec (.hostRegisterWrite 0x010 v) s = .next (host { h with ctxtab := fields v 6 0 }) ∧
        exec (.hostRegisterWrite 0x018 v) s = .next (host { h with qdtab := fields v 12 0 }) ∧
        exec (.hostRegisterWrite 0x020 v) s = .next (host { h with sfqbase := fields v 12 5 }) ∧
        exec (.hostRegisterWrite 0x030 v) s = .next (host { h with mcrbase := fields v 12 5 })) ∧
      (h.go = true → ∀ o ∈ [0x010, 0x018, 0x020, 0x030], exec (.hostRegisterWrite o v) s = .next s) ∧
      (∃ u, exec (.sfqverdWrite v) s = .next u ∧ u.mem = s.mem ∧ u.ops.length = s.ops.length ∧
        ∀ (n k : Nat) (o : Op) (q : Req), s.ops[n]? = some o → o.reqs[k]? = some q →
          ∃ o' q', u.ops[n]? = some o' ∧ o'.reqs[k]? = some q' ∧
            q' = if q.st = .waiting (v.toNat % 2 ^ 63) then { q with st := .verdict (v.getLsbD 63) } else q)) ∧
    (∀ off size : Nat, size ≠ 8 ∨ off % 8 ≠ 0 → bar0Access s off size = 2 ^ (8 * size) - 1) ∧
    (∀ (off : Nat) (v : BitVec 64), on → h.mcup = true → 0x1000 ≤ off → off < 0x1800 → off % 8 = 0 →
      ∃ u, exec (.hostRegisterWrite off v) s = .next u ∧ bar0Access u off 8 = v.toNat) ∧
    (∀ (ctx q : Nat) (w : Word), hbmClean s = true → s.sram = [] →
      let d := queueDesc s q
      let x := getQueue s q
      (h.ready = false ∨ 65536 ≤ q ∨ d.ctx ≠ ctx → exec (.hostNotifyWrite ctx q w) s = .next s) ∧
      (h.ready = true → q < 65536 → d.ctx = ctx → d.en = false →
        exec (.hostNotifyWrite ctx q w) s = .next (setQueue s { x with
          en := false, stopped := false, desc := d })) ∧
      (h.ready = true → q < 65536 → d.ctx = ctx → d.en = true →
        let y : Queue := if x.en then x else
          { q := q, en := true, stopped := false, ridx := 0, widx := 0, lastSlice := x.lastSlice
            token := none, verdict := none }
        exec (.hostNotifyWrite ctx q w) s = .next (setQueue s { y with
          desc := d
          widx := if (w - y.ridx).toNat ≤ 2 ^ d.log then w else y.ridx + BitVec.ofNat 32 (2 ^ d.log) }))) ∧
    (∀ a : BarAccess, on → linesHold s ((List.range a.size).map (a.addr + ·)) = true → a ∉ h.bars →
      exec (.hostBar4Access a) s = .next (host { h with bars := h.bars ++ [a] })) ∧
    (∀ a : BarAccess, on → MemOk s → cleanMemory s → (∀ i < a.size, paOk (a.addr + i) = true) →
      linesHold s ((List.range a.size).map (a.addr + ·)) = false → h.bars = [] →
      (a.atomic = none → a.write = true → a.data.length = a.size →
        ∃ u, exec (.hostBar4Access a) s = .next u ∧ { u with mem := s.mem } = s ∧
          ∀ k, memGet u.mem k = if a.addr ≤ k ∧ k < a.addr + a.size then a.data.getD (k - a.addr) 0 else memGet s.mem k) ∧
      (a.atomic = none → a.write = false → exec (.hostBar4Access a) s = .next { s with
        host := { h with readData := (List.range a.size).map fun i => memGet s.mem (a.addr + i) }
        fresh := s.fresh + a.size }) ∧
      (∀ op, a.atomic = some op → a.size = 4 ∨ a.size = 8 → a.addr % a.size = 0 →
        let old := (List.range a.size).map fun i => memGet s.mem (a.addr + i)
        let x := match op with
          | .fetchAdd => (ofBytes old + ofBytes a.data) % 2 ^ (8 * a.size)
          | .swap => ofBytes a.data
          | .cas => if ofBytes old = ofBytes a.cmp then ofBytes a.data else ofBytes old
        ∃ u, exec (.hostBar4Access a) s = .next u ∧ { u with mem := s.mem } = { s with
            host := { h with readData := old }
            fresh := s.fresh + a.size } ∧
          ∀ k, memGet u.mem k =
            if a.addr ≤ k ∧ k < a.addr + a.size then (toBytes x a.size).getD (k - a.addr) 0 else memGet s.mem k)) ∧
    exec .mgmtAlertRead s = .next (host { h with alerts := h.alerts - 1, alertN := decide (2 ≤ h.alerts) }) ∧
    exec .thermtrip s = .next (host { h with powerOff := true, alertN := true, alerts := h.alerts + 1 }) ∧
    (h.freezePin = true → exec .freezeAssert s = .next s) ∧
    (h.freezePin = false → exec .freezeAssert s = .next (host { h with
      freezePin := true, frozen := true, alertN := true, alerts := h.alerts + 1
      vectors := if h.frozen then h.vectors else h.vectors ++ [3] })) ∧
    (h.resetPending = false → exec .freezeRelease s = .next (host { h with freezePin := false })) ∧
    (h.resetPending = true → exec .freezeRelease s = exec .coldReset (host { h with freezePin := false })) ∧
    (h.freezePin = true → exec .coldReset s = .next (host { h with resetPending := true })) ∧
    (∀ e, e = .coldReset ∨ (e = .hctlCrst ∧ h.powerOff = false) → h.freezePin = false →
      ∃ u, exec e s = .next u ∧ u.mem = s.mem ∧ u.tb = 0 ∧ u.slices = [] ∧ u.teams = [] ∧ u.groups = [] ∧ u.ops = [] ∧
        u.lines = [] ∧ u.queues = [] ∧ u.tlb = [] ∧ u.cores = State.reset.cores ∧ u.ctxs = State.reset.ctxs ∧
        u.fab = State.reset.fab ∧ u.health = State.reset.health ∧ u.agelim = State.reset.agelim ∧
        u.pw.members = s.pw.members ∧ u.host.mcup = false ∧ u.host.ready = false ∧ u.host.go = false ∧
        u.host.frozen = false ∧ u.hbm.pois = s.hbm.pois ∧ u.hbm.oldStuck = s.hbm.oldStuck ∧
        u.host.retiredList = h.retiredList ∧ u.hbm.errth = 8 ∧ live u = true) ∧
    (on → h.mcup = true → exec .bringUpComplete s = .next s) ∧
    (on → h.mcup = false → h.goPending = false →
      ∃ u, exec .bringUpComplete s = .next u ∧ u.host.mcup = true ∧ u.host.step = 7 ∧ u.host.ready = h.ready ∧
        u.groups = s.groups ∧ u.teams = s.teams ∧ u.slices = s.slices ∧ s.tb ≤ u.tb ∧
        ∀ i ∈ h.retiredList, i < Config.cores → i < s.cores.length → (getCore u i).retired = true)

/-- IMUL.I32 v1, LANE, 3 :4 (the worked example); NOP :3 (the worked example); EXIT :3 (the worked example); IADD64.I64 v4, v2, g6; ?!p2 FFMA.F32.SAT.RTZ v3, v4, v5, v63; CVT.B8P4U.SR v1 from F32 v2; TANH.F32 v9, 1.0; VOTE.ANY p3, p1; GCMP.Z64 g2, IMM64; LD.SZ4.ACQ.DEV v7, [v10 + 16]; RED.ADD.SZ8.FIB [g4], v6; BTEST p2, g1, ZERO; ALWB g3, g5; MXZERO g0, g1; ENQ.NB p1, g8; CWR of SLEW (0x304) from ZERO. -/
def Obligations.WordsOfTheSpecDecodeToTheirInstructions : Prop :=
  decodeTableWord 96 0x00000003000007F600174009 =
    some (.imul { h := { fetchHdr .three 3 with stall := 4 }, var := 0, mode := 0, ty := .i32, d := .v 1, a := .sp .lane, b := .imm, c := .v 0 }) ∧
  decodeTableWord 64 0x000000000007372C =
    some (.nop { h := { fetchHdr .two 0 with stall := 3 }, mod := 0, d := .v 0, a := .v 0, b := .v 0, c := .v 0 }) ∧
  decodeTableWord 64 0x0000000000073720 =
    some (.exit { h := { fetchHdr .two 0 with stall := 3 }, mod := 0, d := .v 0, a := .v 0, b := .v 0, c := .v 0 }) ∧
  decodeTableWord 64 0x0020046020470100 =
    some (.iadd64 { h := fetchHdr .two 0, var := 0, mode := 0, ty := .i64, d := .v 4, a := .v 2, b := .g 6, c := .v 0 }) ∧
  decodeTableWord 64 0x2483F050403A020C =
    some (.ffma { h := { fetchHdr .two 0 with neg := true, pred := 2 }, var := 0, mode := 9, ty := .f32, d := .v 3, a := .v 4, b := .v 5, c := .v 63 }) ∧
  decodeTableWord 64 0x1340800020170300 =
    some (.cvt { h := fetchHdr .two 0, var := 0, mode := 4, ty := .b8 4 true false, d := .v 1, a := .v 2, b := .v 0, c := .v 0 } .f32) ∧
  decodeTableWord 96 0x3F80000000800007F097041D =
    some (.tanh { h := fetchHdr .three 0x3F800000, var := 0, mode := 0, ty := .f32, d := .v 9, a := .imm, b := .v 0, c := .v 0 }) ∧
  decodeTableWord 64 0x4010000595B70514 =
    some (.vote { h := fetchHdr .two 0, var := 1, mode := 0, ty := .z32, d := .p 3, a := .p 1, b := .v 0, c := .v 0 }) ∧
  decodeTableWord 128 0x123456789ABCDEF0003007F42007061A =
    some (.gcmp { h := fetchHdr .four 0x123456789ABCDEF0, var := 0, mode := 0, ty := .z64, d := .v 0, a := .g 2, b := .imm, c := .v 0 }) ∧
  decodeTableWord 96 0x0000001006200000A0770801 =
    some (.ld { h := fetchHdr .three 16, opx := 0, ord := .acq, scope := .dev, size := .sz4, d := .v 7, a := .v 10, b := .v 0, c := .v 0 }) ∧
  decodeTableWord 64 0x0030006440070904 =
    some (.red { h := fetchHdr .two 0, opx := 0, ord := .none, scope := .fib, size := .sz8, d := .v 0, a := .g 4, b := .v 6, c := .v 0 }) ∧
  decodeTableWord 64 0x0000064415A70A10 =
    some (.btest { h := fetchHdr .two 0, mod := 0, d := .p 2, a := .g 1, b := .sp .zero, c := .v 0 }) ∧
  decodeTableWord 64 0x0000045430070B10 =
    some (.alwb { h := fetchHdr .two 0, mod := 0, d := .v 0, a := .g 3, b := .g 5, c := .v 0 }) ∧
  decodeTableWord 64 0x0000041400070C08 =
    some (.mxzero { h := fetchHdr .two 0, mod := 0, d := .v 0, a := .g 0, b := .g 1, c := .v 0 }) ∧
  decodeTableWord 64 0x8000000485970D40 =
    some (.enq { h := fetchHdr .two 0, mod := 0x800, d := .p 1, a := .g 8, b := .v 0, c := .v 0 }) ∧
  decodeTableWord 96 0x000003040000064000070E05 =
    some (.cwrSlew { h := fetchHdr .three 0x304, mod := 0, d := .v 0, a := .v 0, b := .sp .zero, c := .v 0 })

/-- R42 to R44, R64, R65: no bit of a word is dropped, and none but an assigned code decodes. -/
def Obligations.DecodingAndEncodingAgree : Prop :=
  (∀ i : Instr, i.wf = true → ∃ w, encode i = some w ∧ w.toNat < 2 ^ (8 * i.len) ∧
    ∀ above : BitVec 128, decode (w ||| above <<< (8 * i.len)) = .ok i) ∧
  (∀ (w : BitVec 128) (i : Instr), decode w = .ok i →
    i.wf = true ∧ encode i = some (BitVec.ofNat 128 (w.toNat % 2 ^ (8 * i.len))) ∧
    (w.extractLsb' 0 2).toNat < 3 ∧ assigned (w.extractLsb' 8 4).toNat (w.extractLsb' 2 6).toNat) ∧
  (∀ w : BitVec 128, w.extractLsb' 0 2 = 3 → decode w = .error .badLength)

/-- R48, R58 and R381 for a fetch, R54, R62 and R58 for checks 6 and 7; that a word's level comes before its mode is the model's
choice (log 68); the agenda, and what comes next of itself, are its own (log 3, log 6). -/
def Obligations.AStepRunsTheInstructionThatStandsAtItsAddress : Prop :=
  (∀ (s : State) (g : Group) (tm : Team) (w : FetchWin), s.busy = true → curGroup s = some g →
    getTeam s g.team = some tm →
    (getCore s g.core).fetch.find?
      (fun w => w.asid == tm.desc.asid && w.va.toNat / 32 == s.cur.pc.toNat / 32) = some w →
    let bytes := w.bytes.drop (s.cur.pc.toNat % 32)
    (∀ i, decodeBytes bytes = .ok i → step s = exec i s ∧ i.wf = true) ∧
    (∀ i, fetchRes s g s.cur.pc = .ok i → step s = exec i s ∧ i.wf = true)) ∧
  (∀ (s : State) (g : Group) (pc : Dword),
    (pc.toNat % 4 ≠ 0 → fetchRes s g pc = .trap 0x02 pc) ∧
    (pc.toNat % 4 = 0 → 2 ^ 57 ≤ pc.toNat → fetchRes s g pc = .trap 0x08 pc) ∧
    (pc.toNat % 4 = 0 → 2 ^ 56 ≤ pc.toNat → pc.toNat < 2 ^ 57 → levelS s g = false → fetchRes s g pc = .trap 0x09 pc) ∧
    (pc.toNat % 4 = 0 → pc.toNat < 2 ^ 57 → pc.toNat < 2 ^ 56 ∨ levelS s g = true →
      (fetchWin s g.core (asidOf s g) pc = none → fetchRes s g pc = .need) ∧
      (∀ w, fetchWin s g.core (asidOf s g) pc = some w →
        let bytes := w.bytes.drop (pc.toNat % 32)
        let len := (bytes.headD 0).toNat % 4
        let n := if len = 3 then 4 else 8 + 4 * len
        let word : Dword := BitVec.ofNat 64 (bitsOfBytes (bytes.take 8))
        let bad : Prop := ∃ k ∈ w.pois, pc.toNat % 32 ≤ k ∧ k < pc.toNat % 32 + n
        (bad → fetchRes s g pc = .trap 0x0B pc) ∧
        (¬ bad → len = 3 → fetchRes s g pc = .trap 0x01 (BitVec.ofNat 64 (bitsOfBytes (bytes.take 4)))) ∧
        (¬ bad → len ≠ 3 → bytes.length < n →
          fetchRes s g pc = .trap 0x02 (BitVec.ofNat 64 ((pc.toNat / 32 + 1) * 32))) ∧
        (¬ bad → len ≠ 3 → n ≤ bytes.length →
          (∀ e, decodeBytes bytes = .error e → fetchRes s g pc = .trap 0x01 word) ∧
          (∀ i, decodeBytes bytes = .ok i →
            let mode : Prop := (i.sysForm = true → g.st.active = true) ∧ i.modeOk (maskMode s g) = true
            (i.levelS = true → levelS s g = false → fetchRes s g pc = .trap 0x09 word) ∧
            (i.levelS = false ∨ levelS s g = true → ¬ mode → fetchRes s g pc = .trap 0x01 word) ∧
            (i.levelS = false ∨ levelS s g = true → mode → fetchRes s g pc = .ok i)))))) ∧
  (∀ (v : View) (i : Instr),
    let conv : Prop := (∃ t, sig i = some t ∧ t.conv = true) ∧ classOf i ≠ some 12 ∧ classOf i ≠ some 13
    let reads : Prop := (∃ h, hdrOf i = some h ∧ v.parts h ≠ 0) ∧ readsG v i = true
    let diverged : Prop := (conv ∨ reads) ∧ v.g.converged v.pc = false
    let early : Prop := v.g.checksb = true ∧ ∃ d ∈ readPlaces v i, ∃ e ∈ v.g.early, e.dst = d ∧ v.cyc < e.untl
    (diverged → lateCheck v i = some 0x04) ∧
    (¬ diverged → early → lateCheck v i = some 0x03) ∧
    (¬ diverged → ¬ early → lateCheck v i = none)) ∧
  (∀ (s : State) (i : Instr) (rest : List Instr), s.busy = false → s.agenda = i :: rest →
    (acts s i = true → step s = exec i { s with agenda := rest }) ∧
    (acts s i = false → step s = .next { s with agenda := rest })) ∧
  (∀ s : State, s.busy = false → s.agenda = [] →
    ∃ i, (i = .tokenRefill ∨ live s = true ∧ i ∈ enabled s) ∧ step s = exec i { s with fresh := s.fresh + 1 }) ∧
  (∀ (s : State) (nbits w : Nat) (i : Instr), nbits ≤ 128 → s.cores ≠ [] → decodeTableWord nbits w = some i →
    step (s.withFetchWord nbits w) = exec i (s.withFetchWord nbits w))

/-- R31's reset values, R22, R429, R434; what memory that nothing has written reads as is the model's choice (log 2). -/
def Obligations.ResetLeavesTheSpecsValues : Prop :=
  let s := State.reset
  (s.tb = 0 ∧ s.slices = [] ∧ s.teams = [] ∧ s.groups = [] ∧ s.queues = [] ∧ s.ops = [] ∧ s.lines = [] ∧ s.sigs = [] ∧
    s.agelim = [8, 8, 8, 8]) ∧
  (s.host.ctxtab = 0 ∧ s.host.qdtab = 0 ∧ s.host.sfqbase = 0 ∧ s.host.sfqHead = 0 ∧ s.host.sfqTail = 0 ∧
    s.host.mcrbase = 0 ∧ s.host.mcrHead = 0 ∧ s.host.mcrTail = 0 ∧ s.host.ballst = 0 ∧ s.host.go = false ∧
    s.host.ready = false ∧ s.host.frozen = false ∧ s.host.mcup = false) ∧
  (s.fab.rqtmo = 20000 ∧ s.fab.shedt = 50000 ∧ s.fab.plane = [0, 1, 2, 3, 4, 5, 6, 7] ∧ s.fab.dead = 0 ∧
    s.fab.stale = 0 ∧ s.fab.tmo = 0 ∧ s.fab.refuse = 0 ∧ s.fab.retr = 0 ∧ s.fab.apertures.length = 256) ∧
  (s.pw.slew = 25 ∧ s.pw.siteal = 2400000 ∧ s.hbm.errth = 8 ∧ s.hbm.errs = [] ∧ s.hbm.cursors = []) ∧
  (s.health.stkdeg = 0 ∧ s.health.spr75 = 0 ∧ s.health.pldead = 0 ∧ s.health.retired = 0 ∧ s.health.mclost = false ∧
    s.health.mce = 0 ∧ s.health.replay = 0 ∧ s.health.replace = false) ∧
  (s.cores.length = 384 ∧ s.ctxs.length = 65 ∧ s.isles.length = 96 ∧
    (∀ y ∈ s.isles, y.en = true ∧ y.trip = false ∧ y.steps = 0) ∧
    (∀ c ∈ s.cores, c.level = 0 ∧ c.cad = 1 ∧ c.cade = 1 ∧ c.narrow = false ∧ c.priceix = 0 ∧ c.uvEn = true ∧
      c.cmpgrp = false ∧ c.conf = 0 ∧ c.alw.length = 16 ∧ ∀ a ∈ c.alw, a.v = false) ∧
    ∀ x ∈ s.ctxs, x.rej = false ∧ x.num = 0) ∧
  (s.mem = [] ∧ MemOk s ∧ ScratchOk s ∧ ShapesOk s ∧ KernelsOk s ∧ HandlesOk s)

/-- The form of memory is the model's own (log 2): equal memories are equal data, after whatever runs. -/
def Obligations.EveryStepKeepsMemoryCanonical : Prop :=
  (∀ (i : Instr) (s u : State), MemOk s → ScratchOk s → exec i s = .next u → MemOk u ∧ ScratchOk u) ∧
  (∀ s u : State, MemOk s → ScratchOk s → step s = .next u → MemOk u ∧ ScratchOk u)

/-- R13, R17: what the statements about groups take as a premise is kept by whatever runs; no run gets stuck. -/
def Obligations.EveryStepKeepsShapesAndHandles : Prop :=
  (∀ (i : Instr) (s u : State), ShapesOk s → KernelsOk s → HandlesOk s → exec i s = .next u →
    ShapesOk u ∧ KernelsOk u ∧ HandlesOk u) ∧
  (∀ s u : State, ShapesOk s → KernelsOk s → HandlesOk s → step s = .next u → ShapesOk u ∧ KernelsOk u ∧ HandlesOk u) ∧
  (∀ s : State, (s.busy = true → ∃ g, curGroup s = some g) → ∃ u, step s = .next u)

end Statements
end

