-- ==== Sys2Proof/Laws/Regs.lean ====
section
/-! SUPPORT. Registers and predicates of a group: a place written holds its value, every other cell what it held; fixed-latency
results are readable after their latency and not before (R60 to R62). -/

namespace Sys2Proof.Machine

open Sys2Proof.Safety

/-! ## Lists -/

section Lists
variable {α : Type}

/-- A replaced element is there. -/
theorem nth_setNth_same (d y : α) : ∀ (xs : List α) (n : Nat), n < xs.length → nth d (setNth xs n y) n = y := by
  intro xs
  induction xs with
  | nil => intro n h; simp at h
  | cons x xs ih =>
    intro n h
    cases n with
    | zero => rfl
    | succ n => simpa [setNth, nth] using ih n (by simpa using h)

/-- Replacing one element leaves the others. -/
theorem nth_setNth_other (d y : α) : ∀ (xs : List α) (n k : Nat), n ≠ k → nth d (setNth xs n y) k = nth d xs k := by
  intro xs
  induction xs with
  | nil => intro n k _; cases n <;> rfl
  | cons x xs ih =>
    intro n k h
    cases n with
    | zero => cases k with
      | zero => exact absurd rfl h
      | succ k => rfl
    | succ n => cases k with
      | zero => rfl
      | succ k => simpa [setNth, nth] using ih n k (by omega)

/-- Replacing keeps the length. -/
@[simp] theorem length_setNth (y : α) : ∀ (xs : List α) (n : Nat), (setNth xs n y).length = xs.length := by
  intro xs
  induction xs with
  | nil => intro n; cases n <;> rfl
  | cons x xs ih => intro n; cases n <;> simp [setNth, ih]

/-- Changing an element keeps the length. -/
@[simp] theorem length_modNth (f : α → α) : ∀ (xs : List α) (n : Nat), (modNth xs n f).length = xs.length := by
  intro xs
  induction xs with
  | nil => intro n; cases n <;> rfl
  | cons x xs ih => intro n; cases n <;> simp [modNth, ih]

/-- The changed element. -/
theorem nth_modNth_same (d : α) (f : α → α) :
    ∀ (xs : List α) (n : Nat), n < xs.length → nth d (modNth xs n f) n = f (nth d xs n) := by
  intro xs
  induction xs with
  | nil => intro n h; simp at h
  | cons x xs ih =>
    intro n h
    cases n with
    | zero => rfl
    | succ n => simpa [modNth, nth] using ih n (by simpa using h)

/-- Changing one element leaves the others. -/
theorem nth_modNth_other (d : α) (f : α → α) :
    ∀ (xs : List α) (n k : Nat), n ≠ k → nth d (modNth xs n f) k = nth d xs k := by
  intro xs
  induction xs with
  | nil => intro n k _; cases n <;> rfl
  | cons x xs ih =>
    intro n k h
    cases n with
    | zero => cases k with
      | zero => exact absurd rfl h
      | succ k => rfl
    | succ n => cases k with
      | zero => rfl
      | succ k => simpa [modNth, nth] using ih n k (by omega)

/-- Beyond the end there is nothing to change. -/
theorem modNth_beyond (f : α → α) : ∀ (xs : List α) (n : Nat), xs.length ≤ n → modNth xs n f = xs := by
  intro xs
  induction xs with
  | nil => intro n _; cases n <;> rfl
  | cons x xs ih =>
    intro n h
    cases n with
    | zero => simp at h
    | succ n => simp [modNth, ih n (by simpa using h)]

/-- An element of a list mapped with its index. -/
theorem nth_mapIdx (d : α) (f : Nat → α → α) :
    ∀ (xs : List α) (n : Nat), n < xs.length → nth d (xs.mapIdx f) n = f n (nth d xs n) := by
  intro xs
  induction xs generalizing f with
  | nil => intro n h; simp at h
  | cons x xs ih =>
    intro n h
    cases n with
    | zero => simp [nth]
    | succ n => simpa [nth, Function.comp] using ih (fun i => f (i + 1)) n (by simpa using h)

/-- Beyond the end the default is read. -/
theorem nth_beyond (d : α) : ∀ (xs : List α) (n : Nat), xs.length ≤ n → nth d xs n = d := by
  intro xs
  induction xs with
  | nil => intro n _; rfl
  | cons x xs ih => intro n h; cases n with
    | zero => simp at h
    | succ n => simpa [nth] using ih n (by simpa using h)

end Lists

/-! ## Lanes -/

/-- The changed lane. -/
theorem lane_modLane_same (g : Group) (l : Nat) (f : Lane → Lane) (h : l < g.lanes.length) :
    (g.modLane l f).lane l = f (g.lane l) := nth_modNth_same _ _ _ _ h

/-- Every other lane. -/
theorem lane_modLane_other (g : Group) (l m : Nat) (f : Lane → Lane) (h : l ≠ m) : (g.modLane l f).lane m = g.lane m :=
  nth_modNth_other _ _ _ _ _ h

/-- A register of a lane written. -/
theorem stk_setStk_same (l : Lane) (x y : Nat) (w : Word) (hr : 0 < l.rz) (h : x % l.rz = y % l.rz) :
    (l.setStk x w).stk y = w := by
  have hl : (l.setStk x w).rz = l.rz := by simp [Lane.rz, Lane.setStk]
  rw [Lane.stk, hl, ← h]
  exact nth_setNth_same _ _ _ _ (Nat.mod_lt _ hr)

/-- A register of a lane that shares no cell with the one written. -/
theorem stk_setStk_other (l : Lane) (x y : Nat) (w : Word) (h : x % l.rz ≠ y % l.rz) : (l.setStk x w).stk y = l.stk y := by
  have hl : (l.setStk x w).rz = l.rz := by simp [Lane.rz, Lane.setStk]
  rw [Lane.stk, hl, Lane.stk]
  exact nth_setNth_other _ _ _ _ _ h

/-- A bit of a predicate set. -/
theorem setPred_bit (ps : BitVec 7) (n k : Nat) (b : Bool) (hn : n < 7) (hk : k < 7) :
    (setPred ps n b).getLsbD k = if n = k then b else ps.getLsbD k := by
  interval_cases n <;> interval_cases k <;> cases b <;> simp [setPred]

/-! ## Places -/

/-- Writing a place keeps the number of lanes, of registers of every lane, and the system-bank levels. -/
theorem store_rz (g : Group) (d : Dst) (w : Word) (l : Nat) : ((g.store d w).lane l).rz = (g.lane l).rz := by
  have key : ∀ (m : Nat) (f : Lane → Lane), (∀ y, (f y).rz = y.rz) → ((g.modLane m f).lane l).rz = (g.lane l).rz := by
    intro m f hf
    by_cases h : m = l
    · subst h
      by_cases hl : m < g.lanes.length
      · rw [lane_modLane_same g m f hl, hf]
      · rw [Group.lane, Group.modLane, modNth_beyond f g.lanes m (by omega)]; rfl
    · rw [lane_modLane_other g m l f h]
  cases d with
  | v m x =>
    simp only [Group.store]
    split
    · exact key m _ fun y => by simp [Lane.rz, Lane.setStk]
    · exact key m _ fun y => rfl
  | p m n =>
    simp only [Group.store]
    split
    · rfl
    · split
      · exact key m _ fun y => rfl
      · exact key m _ fun y => rfl
  | g n => simp only [Group.store]; split <;> rfl
  | gf b => cases b <;> rfl

/-- Cells of a group are the same after a write. -/
theorem sameCell_store (g : Group) (d : Dst) (w : Word) (a b : Dst) : sameCell (g.store d w) a b = sameCell g a b := by
  cases a <;> cases b <;> simp [sameCell, store_rz]

/-- A place is its own cell. -/
theorem sameCell_refl (g : Group) (d : Dst) : sameCell g d d = true := by
  cases d <;> simp [sameCell]

/-- One cell either way. -/
theorem sameCell_symm (g : Group) (a b : Dst) : sameCell g a b = sameCell g b a := by
  by_cases hv : ∃ l x m y, a = .v l x ∧ b = .v m y
  · obtain ⟨l, x, m, y, rfl, rfl⟩ := hv
    by_cases h : l = m
    · subst h
      by_cases hx : x < 65536 ∧ y < 65536
      · simp only [sameCell, if_pos hx, if_pos hx.symm, BEq.comm (a := x % _)]
      · simp only [sameCell, if_neg hx, if_neg fun k : y < 65536 ∧ x < 65536 => hx k.symm, BEq.comm (a := x)]
    · have e1 : (l == m) = false := beq_eq_false_iff_ne.2 h
      have e2 : (m == l) = false := beq_eq_false_iff_ne.2 fun k => h k.symm
      simp only [sameCell, e1, e2, Bool.false_and]
  · cases a <;> cases b <;> first
      | exact BEq.comm
      | exact absurd ⟨_, _, _, _, rfl, rfl⟩ hv

/-- A place written holds what it keeps of the value. -/
theorem get_store_same (g : Group) (d : Dst) (w : Word) (he : placeExists g d = true) (hr : d.real = true) :
    (g.store d w).get d = keeps d w := by
  cases d with
  | v l x =>
    simp only [placeExists, Bool.and_eq_true, decide_eq_true_eq] at he
    simp only [Group.store, keeps]
    by_cases hx : x < 65536
    · simp only [hx, if_true, decide_eq_true_eq] at he
      simp only [hx, if_true, Group.get, lane_modLane_same g l _ he.1]
      exact stk_setStk_same _ _ _ _ he.2 rfl
    · simp only [hx, if_false, decide_eq_true_eq] at he
      simp only [hx, if_false, Group.get, lane_modLane_same g l _ he.1]
      exact nth_setNth_same _ _ _ _ he.2
  | p l n =>
    simp only [placeExists, Bool.and_eq_true, decide_eq_true_eq] at he
    have h7 : n % 8 ≠ 7 := by simpa [Dst.real] using hr
    simp only [Group.store, Group.get, keeps, h7, if_false]
    by_cases hn : n < 8
    · simp only [hn, if_true, lane_modLane_same g l _ he.1]
      rw [setPred_bit _ _ _ _ (by omega) (by omega)]; simp
    · simp only [hn, if_false, lane_modLane_same g l _ he.1]
      rw [setPred_bit _ _ _ _ (by omega) (by omega)]; simp
  | g n =>
    simp only [placeExists] at he
    simp only [Group.store, keeps]
    by_cases hn : n < 24
    · simp only [hn, if_true, decide_eq_true_eq] at he
      simp only [hn, if_true, Group.get]
      exact nth_setNth_same _ _ _ _ he
    · simp only [hn, if_false, decide_eq_true_eq] at he
      simp only [hn, if_false, Group.get]
      exact nth_setNth_same _ _ _ _ he
  | gf b => cases b <;> simp [Group.store, Group.get, keeps]

/-- Every other cell holds what it held. -/
theorem get_store_other (g : Group) (d e : Dst) (w : Word) (h : sameCell g d e = false) : (g.store d w).get e = g.get e := by
  have laneEq : ∀ (l m : Nat) (f : Lane → Lane), l ≠ m → (g.modLane l f).lane m = g.lane m :=
    fun l m f hlm => lane_modLane_other g l m f hlm
  cases d with
  | v l x =>
    cases e with
    | v m y =>
      by_cases hlm : l = m
      · subst hlm
        simp only [sameCell, beq_self_eq_true, Bool.true_and] at h
        by_cases hl : l < g.lanes.length
        · by_cases hx : x < 65536
          · simp only [Group.store, hx, if_true, Group.get, lane_modLane_same g l _ hl]
            by_cases hy : y < 65536
            · simp only [hx, hy, and_self, if_true, beq_eq_false_iff_ne] at h
              simp only [hy, if_true]
              exact stk_setStk_other _ _ _ _ h
            · simp [hy, Lane.setStk]
          · simp only [Group.store, hx, if_false, Group.get, lane_modLane_same g l _ hl]
            by_cases hy : y < 65536
            · simp [hy, Lane.stk, Lane.rz]
            · simp only [hx, false_and, if_false, beq_eq_false_iff_ne] at h
              simp only [hy, if_false]
              exact nth_setNth_other _ _ _ _ _ (by omega)
        · have : ∀ f : Lane → Lane, (g.modLane l f).lane l = g.lane l := fun f => by
            rw [Group.lane, Group.modLane, modNth_beyond f g.lanes l (by omega)]; rfl
          simp only [Group.store]
          split <;> simp only [Group.get, this]
      · simp only [Group.store]
        split <;> simp only [Group.get, laneEq l m _ hlm]
    | p m n =>
      have : ∀ f : Lane → Lane, (∀ y, (f y).preds = y.preds ∧ (f y).bp = y.bp) →
          ((g.modLane l f).lane m).preds = (g.lane m).preds ∧ ((g.modLane l f).lane m).bp = (g.lane m).bp := by
        intro f hf
        by_cases hlm : l = m
        · subst hlm
          by_cases hl : l < g.lanes.length
          · rw [lane_modLane_same g l f hl]; exact hf _
          · rw [Group.lane, Group.modLane, modNth_beyond f g.lanes l (by omega)]; exact ⟨rfl, rfl⟩
        · rw [laneEq l m f hlm]; exact ⟨rfl, rfl⟩
      simp only [Group.store]
      split
      · have k := this (fun y => y.setStk x w) fun y => ⟨rfl, rfl⟩
        simp only [Group.get, k.1, k.2]
      · have k := this (fun y => { y with bv := setNth y.bv (x - 65536) w, pois := y.pois.filter (· != x) }) fun y => ⟨rfl, rfl⟩
        simp only [Group.get, k.1, k.2]
    | g n => simp only [Group.store]; split <;> rfl
    | gf b => simp only [Group.store]; split <;> rfl
  | p l n =>
    simp only [Group.store]
    split
    · rfl
    · cases e with
      | v m y =>
        have : ∀ f : Lane → Lane, (∀ y, (f y).rf = y.rf ∧ (f y).bv = y.bv) →
            ((g.modLane l f).lane m).rf = (g.lane m).rf ∧ ((g.modLane l f).lane m).bv = (g.lane m).bv := by
          intro f hf
          by_cases hlm : l = m
          · subst hlm
            by_cases hl : l < g.lanes.length
            · rw [lane_modLane_same g l f hl]; exact hf _
            · rw [Group.lane, Group.modLane, modNth_beyond f g.lanes l (by omega)]; exact ⟨rfl, rfl⟩
          · rw [laneEq l m f hlm]; exact ⟨rfl, rfl⟩
        split
        · have k := this (fun y => { y with preds := setPred y.preds n (w.getLsbD 0) }) fun y => ⟨rfl, rfl⟩
          simp only [Group.get, Lane.stk, Lane.rz, k.1, k.2]
        · have k := this (fun y => { y with bp := setPred y.bp (n - 8) (w.getLsbD 0) }) fun y => ⟨rfl, rfl⟩
          simp only [Group.get, Lane.stk, Lane.rz, k.1, k.2]
      | p m k =>
        by_cases hk : k % 8 = 7
        · split <;> simp [Group.get, hk]
        · by_cases hlm : l = m
          · subst hlm
            have hnk : n ≠ k := by intro h'; subst h'; simp [sameCell] at h
            by_cases hl : l < g.lanes.length
            · split
              · by_cases hk8 : k < 8
                · simp only [Group.get, hk, hk8, if_false, if_true, lane_modLane_same g l _ hl]
                  rw [setPred_bit _ _ _ _ (by omega) (by omega), if_neg hnk]
                · simp only [Group.get, hk, hk8, if_false, lane_modLane_same g l _ hl]
              · by_cases hk8 : k < 8
                · simp only [Group.get, hk, hk8, if_false, if_true, lane_modLane_same g l _ hl]
                · simp only [Group.get, hk, hk8, if_false, lane_modLane_same g l _ hl]
                  have : (setPred (g.lane l).bp (n - 8) (w.getLsbD 0)).getLsbD (k - 8) = (g.lane l).bp.getLsbD (k - 8) := by
                    by_cases hk15 : k - 8 < 7
                    · by_cases hn15 : n - 8 < 7
                      · rw [setPred_bit _ _ _ _ hn15 hk15, if_neg (by omega)]
                      · have hz : (2 : Nat) ^ (n - 8) % 2 ^ 7 = 0 := by
                          apply Nat.mod_eq_zero_of_dvd
                          exact Nat.pow_dvd_pow 2 (by omega)
                        have h0 : BitVec.ofNat 7 (2 ^ (n - 8)) = 0 := by
                          apply BitVec.eq_of_toNat_eq; simp only [BitVec.toNat_ofNat, hz]; rfl
                        have ones : ∀ i, i < 7 → (127#7).getLsbD i = true := by decide
                        unfold setPred; rw [h0]; cases w.getLsbD 0 <;> simp [ones _ hk15]
                    · rw [BitVec.getLsbD_of_ge _ _ (by omega), BitVec.getLsbD_of_ge _ _ (by omega)]
                  rw [this]
            · have : ∀ f : Lane → Lane, (g.modLane l f).lane l = g.lane l := fun f => by
                rw [Group.lane, Group.modLane, modNth_beyond f g.lanes l (by omega)]; rfl
              split <;> simp only [Group.get, this]
          · split <;> simp only [Group.get, laneEq l m _ hlm]
      | g k => split <;> rfl
      | gf b => split <;> rfl
  | g n =>
    cases e with
    | g k =>
      have hnk : n ≠ k := by intro h'; subst h'; simp [sameCell] at h
      simp only [Group.store]
      split
      · by_cases hk : k < 24
        · simp only [Group.get, hk, if_true]; exact nth_setNth_other _ _ _ _ _ hnk
        · simp [Group.get, hk]
      · by_cases hk : k < 24
        · simp [Group.get, hk]
        · simp only [Group.get, hk, if_false]; exact nth_setNth_other _ _ _ _ _ (by omega)
    | v m y => simp only [Group.store]; split <;> rfl
    | p m k => simp only [Group.store]; split <;> rfl
    | gf b => simp only [Group.store]; split <;> rfl
  | gf b =>
    cases e with
    | gf c =>
      have hbc : b ≠ c := by intro h'; subst h'; simp [sameCell] at h
      cases b <;> cases c <;> simp_all [Group.store, Group.get]
    | v m y => cases b <;> rfl
    | p m k => cases b <;> rfl
    | g k => cases b <;> rfl

/-- A write keeps which places exist. -/
theorem placeExists_store (g : Group) (d e : Dst) (w : Word) : placeExists (g.store d w) e = placeExists g e := by
  have len : (g.store d w).lanes.length = g.lanes.length := by
    cases d <;> simp only [Group.store, Group.modLane] <;> (repeat' split) <;> simp
  have gl : (g.store d w).g.length = g.g.length := by
    cases d <;> simp only [Group.store, Group.modLane] <;> (repeat' split) <;> simp
  have bl : (g.store d w).bg.length = g.bg.length := by
    cases d <;> simp only [Group.store, Group.modLane] <;> (repeat' split) <;> simp
  have bv : ∀ l, ((g.store d w).lane l).bv.length = (g.lane l).bv.length := by
    intro l
    have key : ∀ (m : Nat) (f : Lane → Lane), (∀ y, (f y).bv.length = y.bv.length) →
        ((g.modLane m f).lane l).bv.length = (g.lane l).bv.length := by
      intro m f hf
      by_cases h : m = l
      · subst h
        by_cases hl : m < g.lanes.length
        · rw [lane_modLane_same g m f hl, hf]
        · rw [Group.lane, Group.modLane, modNth_beyond f g.lanes m (by omega)]; rfl
      · rw [lane_modLane_other g m l f h]
    cases d with
    | v m x =>
      simp only [Group.store]
      split
      · exact key m _ fun y => rfl
      · exact key m _ fun y => by simp
    | p m n =>
      simp only [Group.store]
      split
      · rfl
      · split <;> exact key m _ fun y => rfl
    | g n => simp only [Group.store]; split <;> rfl
    | gf b => cases b <;> rfl
  cases e <;> simp [placeExists, len, gl, bl, bv, store_rz]

/-! ## Whole registers

A write stores the value, and may drop an error that the register held: no place reads those. -/

/-- A write is a store but for the errors that registers hold. -/
theorem set_store (g : Group) (d : Dst) (w : Word) : ∃ es, g.set d w = { g.store d w with errs := es } := by
  unfold Group.set
  split
  · exact ⟨(g.store d w).errs, rfl⟩
  · exact ⟨_, rfl⟩

/-- A write keeps the number of registers of every lane. -/
theorem set_rz (g : Group) (d : Dst) (w : Word) (l : Nat) : ((g.set d w).lane l).rz = (g.lane l).rz := by
  obtain ⟨es, h⟩ := set_store g d w
  rw [h]; exact store_rz g d w l

/-- Cells of a group are the same after a write. -/
theorem sameCell_set (g : Group) (d : Dst) (w : Word) (a b : Dst) : sameCell (g.set d w) a b = sameCell g a b := by
  obtain ⟨es, h⟩ := set_store g d w
  rw [h, ← sameCell_store g d w a b]; cases a <;> cases b <;> rfl

/-- A place written holds what it keeps of the value. -/
theorem get_set_same (g : Group) (d : Dst) (w : Word) (he : placeExists g d = true) (hr : d.real = true) :
    (g.set d w).get d = keeps d w := by
  obtain ⟨es, h⟩ := set_store g d w
  rw [h, ← get_store_same g d w he hr]; cases d <;> rfl

/-- Every other cell holds what it held. -/
theorem get_set_other (g : Group) (d e : Dst) (w : Word) (h : sameCell g d e = false) : (g.set d w).get e = g.get e := by
  obtain ⟨es, k⟩ := set_store g d w
  rw [k, ← get_store_other g d e w h]; cases e <;> rfl

/-- A write keeps which places exist. -/
theorem placeExists_set (g : Group) (d e : Dst) (w : Word) : placeExists (g.set d w) e = placeExists g e := by
  obtain ⟨es, h⟩ := set_store g d w
  rw [h, ← placeExists_store g d e w]; cases e <;> rfl

end Sys2Proof.Machine
end

