-- ==== Sys2Proof/Laws/Results.lean ====
section
/-! SUPPORT. Results of an issue: what a list of fixed-latency or variable-latency results does to a group (R7, R60 to R62). -/

namespace Sys2Proof.Machine

open Sys2Proof.Safety

/-- Results that do not overlap: the places that a write would change are pairwise different cells. -/
def Apart (g : Group) (ws : List (Dst × Word)) : Prop :=
  ws.Pairwise fun a b => a.1.real = true → b.1.real = true → sameCell g a.1 b.1 = false

/-- Results whose places exist, the discarded ones apart. -/
def Exist (g : Group) (ws : List (Dst × Word)) : Prop := ∀ x ∈ ws, x.1.real = true → placeExists g x.1 = true

/-- What a place holds does not depend on what is not readable yet. -/
theorem get_early (g : Group) (es : List Early) (d : Dst) : ({ g with early := es } : Group).get d = g.get d := by
  cases d <;> rfl

/-- A fixed-latency result at its own place. -/
theorem read_writeFixed_same (g : Group) (cyc lat c : Nat) (d : Dst) (w : Word) (he : placeExists g d = true)
    (hr : d.real = true) :
    (g.writeFixed cyc lat d w).read c d = if c < cyc + lat then g.get d else keeps d w := by
  have hget : (g.set d w).get d = keeps d w := get_set_same g d w he hr
  simp only [Group.writeFixed, hr, if_true, Group.read, List.find?_cons, beq_self_eq_true, Bool.true_and]
  by_cases hc : c < cyc + lat
  · simp [hc]
  · simp only [hc, decide_false]
    have hn : ∀ xs : List Early, (xs.filter fun e => e.dst != d && decide (cyc < e.untl)).find?
        (fun e => e.dst == d && decide (c < e.untl)) = none := by
      intro xs
      rw [List.find?_eq_none]
      intro e he'
      have := (List.mem_filter.1 he').2
      simp only [Bool.and_eq_true, bne_iff_ne, ne_eq] at this
      simp [this.1]
    rw [hn]
    exact (get_early (g.set d w) _ d).trans hget

/-- A fixed-latency result leaves every other cell, as an issue from its cycle on reads it. -/
theorem read_writeFixed_other (g : Group) (cyc lat c : Nat) (d e : Dst) (w : Word) (hc : cyc ≤ c)
    (h : d.real = true → sameCell g d e = false) : (g.writeFixed cyc lat d w).read c e = g.read c e := by
  unfold Group.writeFixed
  by_cases hr : d.real = true
  · have hs := h hr
    have hde : d ≠ e := by intro k; subst k; simp [sameCell_refl] at hs
    have hf : ∀ xs : List Early, (xs.filter fun x => x.dst != d && decide (cyc < x.untl)).find?
        (fun x => x.dst == e && decide (c < x.untl)) = xs.find? (fun x => x.dst == e && decide (c < x.untl)) := by
      intro xs
      induction xs with
      | nil => rfl
      | cons x xs ih =>
        cases hx : (x.dst == e && decide (c < x.untl)) with
        | true =>
          have hk : (x.dst != d && decide (cyc < x.untl)) = true := by
            simp only [Bool.and_eq_true, beq_iff_eq, decide_eq_true_eq] at hx
            simp only [Bool.and_eq_true, bne_iff_ne, ne_eq, decide_eq_true_eq]
            exact ⟨fun k => hde (k.symm.trans hx.1), by omega⟩
          simp only [List.filter_cons, hk, if_true, List.find?_cons, hx]
        | false =>
          cases hk : (x.dst != d && decide (cyc < x.untl)) with
          | true => simp only [List.filter_cons, hk, if_true, List.find?_cons, hx, ih]
          | false => simp only [List.filter_cons, hk, Bool.false_eq_true, if_false, List.find?_cons, hx, ih]
    have hh : ((d == e) && decide (c < cyc + lat)) = false := by simp [hde]
    simp only [hr, if_true, Group.read]
    simp only [List.find?_cons, hh, hf]
    cases g.early.find? fun x => x.dst == e && decide (c < x.untl) with
    | some x => rfl
    | none => exact (get_early (g.set d w) _ e).trans (get_set_other g d e w hs)
  · simp [hr]

/-- A fixed-latency result leaves which places exist. -/
theorem placeExists_writeFixed (g : Group) (cyc lat : Nat) (d e : Dst) (w : Word) :
    placeExists (g.writeFixed cyc lat d w) e = placeExists g e := by
  unfold Group.writeFixed
  split
  · rw [← placeExists_set g d e w]; cases e <;> rfl
  · rfl

/-- A fixed-latency result leaves which places are one cell. -/
theorem sameCell_writeFixed (g : Group) (cyc lat : Nat) (d a b : Dst) (w : Word) :
    sameCell (g.writeFixed cyc lat d w) a b = sameCell g a b := by
  unfold Group.writeFixed
  split
  · rw [← sameCell_set g d w a b]; cases a <;> cases b <;> rfl
  · rfl

/-- What a place holds after a fixed-latency result elsewhere. -/
theorem get_writeFixed_other (g : Group) (cyc lat : Nat) (d e : Dst) (w : Word)
    (h : d.real = true → sameCell g d e = false) : (g.writeFixed cyc lat d w).get e = g.get e := by
  unfold Group.writeFixed
  by_cases hr : d.real = true
  · simp only [hr, if_true]; exact (get_early (g.set d w) _ e).trans (get_set_other g d e w (h hr))
  · simp [hr]

/-- Everything that a list of fixed-latency results does. -/
theorem landsFixed_writesFixed (cyc lat : Nat) (ws : List (Dst × Word)) :
    ∀ g : Group, Exist g ws → Apart g ws → LandsFixed g (g.writesFixed cyc lat ws) cyc lat ws := by
  induction ws with
  | nil => intro g _ _; exact ⟨by simp, fun _ _ _ _ => rfl⟩
  | cons x ws ih =>
    intro g he ha
    obtain ⟨ha1, ha2⟩ := List.pairwise_cons.1 ha
    have hx := he x (by simp)
    have ih1 := ih (g.writeFixed cyc lat x.1 x.2)
      (fun y hy hr => by rw [placeExists_writeFixed]; exact he y (by simp [hy]) hr)
      (ha2.imp fun h => by simpa only [sameCell_writeFixed] using h)
    refine ⟨?_, ?_⟩
    · intro y hy hr c hc
      rcases List.mem_cons.1 hy with rfl | hy'
      · have := ih1.others y.1 (fun z hz hzr => by
          rw [sameCell_writeFixed, sameCell_symm]; exact ha1 z hz hr hzr) c hc
        simp only [Group.writesFixed]
        rw [this, read_writeFixed_same _ _ _ _ _ _ (hx hr) hr]
      · have := ih1.lands y hy' hr c hc
        simp only [Group.writesFixed]
        rw [this, get_writeFixed_other _ _ _ _ _ _ fun hxr => ha1 y hy' hxr hr]
    · intro d hd c hc
      have h1 := ih1.others d (fun z hz hzr => by rw [sameCell_writeFixed]; exact hd z (by simp [hz]) hzr) c hc
      simp only [Group.writesFixed]
      rw [h1, read_writeFixed_other _ _ _ _ _ _ _ hc fun hr => hd x (by simp) hr]

/-- Writing a place that no write changes is no write. -/
theorem set_unreal (g : Group) (d : Dst) (w : Word) (h : d.real = false) : g.set d w = g := by
  cases d <;> simp_all [Dst.real, Group.set, Group.store]

/-- Everything that a list of variable-latency results does. -/
theorem lands_writes (ws : List (Dst × Word)) :
    ∀ g : Group, Exist g ws → Apart g ws → Lands g (g.writes ws) ws := by
  induction ws with
  | nil => intro g _ _; exact ⟨by simp, fun _ _ => rfl⟩
  | cons x ws ih =>
    intro g he ha
    obtain ⟨ha1, ha2⟩ := List.pairwise_cons.1 ha
    have hx := he x (by simp)
    have ih1 := ih (g.set x.1 x.2) (fun y hy hr => by rw [placeExists_set]; exact he y (by simp [hy]) hr)
      (ha2.imp fun h => by simpa only [sameCell_set] using h)
    refine ⟨?_, ?_⟩
    · intro y hy hr
      rcases List.mem_cons.1 hy with rfl | hy'
      · simp only [Group.writes]
        rw [ih1.others y.1 fun z hz hzr => by rw [sameCell_set, sameCell_symm]; exact ha1 z hz hr hzr,
          get_set_same _ _ _ (hx hr) hr]
      · exact ih1.lands y hy' hr
    · intro d hd
      have h1 := ih1.others d fun z hz hzr => by rw [sameCell_set]; exact hd z (by simp [hz]) hzr
      simp only [Group.writes]
      rw [h1]
      by_cases hr : x.1.real = true
      · exact get_set_other _ _ _ _ (hd x (by simp) hr)
      · rw [set_unreal _ _ _ (by simpa using hr)]

/-- A fixed-latency result touches registers, predicates and GF only. -/
theorem bareGroup_writeFixed (g : Group) (cyc lat : Nat) (d : Dst) (w : Word) :
    bareGroup (g.writeFixed cyc lat d w) = bareGroup g := by
  have key : ∀ (xs : List Lane) (l : Nat) (f : Lane → Lane), (∀ y, bareLane (f y) = bareLane y) →
      (modNth xs l f).map bareLane = xs.map bareLane := by
    intro xs
    induction xs with
    | nil => intro l f _; cases l <;> rfl
    | cons x xs ih => intro l f hf; cases l with
      | zero => simp [modNth, hf]
      | succ l => simp [modNth, ih l f hf]
  have drop : ∀ es : List (Dst × Bool), bareGroup ({ g.store d w with errs := es } : Group) = bareGroup (g.store d w) :=
    fun _ => rfl
  unfold Group.writeFixed
  split
  · obtain ⟨es, hs⟩ := set_store g d w
    show bareGroup (g.set d w) = bareGroup g
    rw [hs, drop]
    cases d with
    | v l x =>
      simp only [Group.store]
      split
      · simp only [bareGroup, Group.modLane]; rw [key _ _ _ fun y => by simp [bareLane, Lane.setStk]]
      · simp only [bareGroup, Group.modLane]; rw [key _ _ _ fun y => by simp [bareLane]]
    | p l n =>
      simp only [Group.store]
      split
      · rfl
      · split
        · simp only [bareGroup, Group.modLane]; rw [key _ _ _ fun y => by simp [bareLane]]
        · simp only [bareGroup, Group.modLane]; rw [key _ _ _ fun y => by simp [bareLane]]
    | g n => simp only [Group.store]; split <;> rfl
    | gf b => cases b <;> rfl
  · rfl

/-- A list of fixed-latency results touches registers, predicates and GF only. -/
theorem bareGroup_writesFixed (cyc lat : Nat) (ws : List (Dst × Word)) :
    ∀ g : Group, bareGroup (g.writesFixed cyc lat ws) = bareGroup g := by
  induction ws with
  | nil => intro g; rfl
  | cons x ws ih => intro g; rw [Group.writesFixed, ih, bareGroup_writeFixed]

/-- A write touches registers, predicates and GF only. -/
theorem bareGroup_set (g : Group) (d : Dst) (w : Word) : bareGroup (g.set d w) = bareGroup g := by
  by_cases hr : d.real = true
  · have h := bareGroup_writeFixed g 0 0 d w
    simp only [Group.writeFixed, hr, if_true] at h
    rw [← h]; rfl
  · rw [set_unreal _ _ _ (by simpa using hr)]

/-- A list of results touches registers, predicates and GF only. -/
theorem bareGroup_writes (ws : List (Dst × Word)) : ∀ g : Group, bareGroup (g.writes ws) = bareGroup g := by
  induction ws with
  | nil => intro g; rfl
  | cons x ws ih => intro g; rw [Group.writes, ih, bareGroup_set]

end Sys2Proof.Machine
end

