-- ==== Sys2Proof/Laws/State.lean ====
section
/-! SUPPORT. What each update of the state changes and what it leaves: one lemma for each field and update, true by
definition, so that no proof unfolds a record update. -/

namespace Sys2Proof.Machine

@[simp] theorem bump_tb (s : State) : (bump s).tb = s.tb := rfl
@[simp] theorem bump_mem (s : State) : (bump s).mem = s.mem := rfl
@[simp] theorem bump_slices (s : State) : (bump s).slices = s.slices := rfl
@[simp] theorem bump_teams (s : State) : (bump s).teams = s.teams := rfl
@[simp] theorem bump_groups (s : State) : (bump s).groups = s.groups := rfl
@[simp] theorem bump_cores (s : State) : (bump s).cores = s.cores := rfl
@[simp] theorem bump_ops (s : State) : (bump s).ops = s.ops := rfl
@[simp] theorem bump_lines (s : State) : (bump s).lines = s.lines := rfl
@[simp] theorem bump_sigs (s : State) : (bump s).sigs = s.sigs := rfl
@[simp] theorem bump_ctxs (s : State) : (bump s).ctxs = s.ctxs := rfl
@[simp] theorem bump_rings (s : State) : (bump s).rings = s.rings := rfl
@[simp] theorem bump_queues (s : State) : (bump s).queues = s.queues := rfl
@[simp] theorem bump_served (s : State) : (bump s).served = s.served := rfl
@[simp] theorem bump_gangs (s : State) : (bump s).gangs = s.gangs := rfl
@[simp] theorem bump_agelim (s : State) : (bump s).agelim = s.agelim := rfl
@[simp] theorem bump_fab (s : State) : (bump s).fab = s.fab := rfl
@[simp] theorem bump_hbm (s : State) : (bump s).hbm = s.hbm := rfl
@[simp] theorem bump_pw (s : State) : (bump s).pw = s.pw := rfl
@[simp] theorem bump_host (s : State) : (bump s).host = s.host := rfl
@[simp] theorem bump_health (s : State) : (bump s).health = s.health := rfl
@[simp] theorem bump_isles (s : State) : (bump s).isles = s.isles := rfl
@[simp] theorem bump_sram (s : State) : (bump s).sram = s.sram := rfl
@[simp] theorem bump_tlb (s : State) : (bump s).tlb = s.tlb := rfl
@[simp] theorem bump_ptrs (s : State) : (bump s).ptrs = s.ptrs := rfl
@[simp] theorem bump_cur (s : State) : (bump s).cur = s.cur := rfl
@[simp] theorem bump_busy (s : State) : (bump s).busy = s.busy := rfl
@[simp] theorem bump_agenda (s : State) : (bump s).agenda = s.agenda := rfl
@[simp] theorem bump_fresh_new (s : State) : (bump s).fresh = s.fresh + 1 := rfl
@[simp] theorem bump_nextId (s : State) : (bump s).nextId = s.nextId := rfl

@[simp] theorem sooner_tb (s : State) (is : List Instr) : (sooner s is).tb = s.tb := rfl
@[simp] theorem sooner_mem (s : State) (is : List Instr) : (sooner s is).mem = s.mem := rfl
@[simp] theorem sooner_slices (s : State) (is : List Instr) : (sooner s is).slices = s.slices := rfl
@[simp] theorem sooner_teams (s : State) (is : List Instr) : (sooner s is).teams = s.teams := rfl
@[simp] theorem sooner_groups (s : State) (is : List Instr) : (sooner s is).groups = s.groups := rfl
@[simp] theorem sooner_cores (s : State) (is : List Instr) : (sooner s is).cores = s.cores := rfl
@[simp] theorem sooner_ops (s : State) (is : List Instr) : (sooner s is).ops = s.ops := rfl
@[simp] theorem sooner_lines (s : State) (is : List Instr) : (sooner s is).lines = s.lines := rfl
@[simp] theorem sooner_sigs (s : State) (is : List Instr) : (sooner s is).sigs = s.sigs := rfl
@[simp] theorem sooner_ctxs (s : State) (is : List Instr) : (sooner s is).ctxs = s.ctxs := rfl
@[simp] theorem sooner_rings (s : State) (is : List Instr) : (sooner s is).rings = s.rings := rfl
@[simp] theorem sooner_queues (s : State) (is : List Instr) : (sooner s is).queues = s.queues := rfl
@[simp] theorem sooner_served (s : State) (is : List Instr) : (sooner s is).served = s.served := rfl
@[simp] theorem sooner_gangs (s : State) (is : List Instr) : (sooner s is).gangs = s.gangs := rfl
@[simp] theorem sooner_agelim (s : State) (is : List Instr) : (sooner s is).agelim = s.agelim := rfl
@[simp] theorem sooner_fab (s : State) (is : List Instr) : (sooner s is).fab = s.fab := rfl
@[simp] theorem sooner_hbm (s : State) (is : List Instr) : (sooner s is).hbm = s.hbm := rfl
@[simp] theorem sooner_pw (s : State) (is : List Instr) : (sooner s is).pw = s.pw := rfl
@[simp] theorem sooner_host (s : State) (is : List Instr) : (sooner s is).host = s.host := rfl
@[simp] theorem sooner_health (s : State) (is : List Instr) : (sooner s is).health = s.health := rfl
@[simp] theorem sooner_isles (s : State) (is : List Instr) : (sooner s is).isles = s.isles := rfl
@[simp] theorem sooner_sram (s : State) (is : List Instr) : (sooner s is).sram = s.sram := rfl
@[simp] theorem sooner_tlb (s : State) (is : List Instr) : (sooner s is).tlb = s.tlb := rfl
@[simp] theorem sooner_ptrs (s : State) (is : List Instr) : (sooner s is).ptrs = s.ptrs := rfl
@[simp] theorem sooner_cur (s : State) (is : List Instr) : (sooner s is).cur = s.cur := rfl
@[simp] theorem sooner_busy (s : State) (is : List Instr) : (sooner s is).busy = s.busy := rfl
@[simp] theorem sooner_agenda_new (s : State) (is : List Instr) : (sooner s is).agenda = is ++ s.agenda := rfl
@[simp] theorem sooner_fresh (s : State) (is : List Instr) : (sooner s is).fresh = s.fresh := rfl
@[simp] theorem sooner_nextId (s : State) (is : List Instr) : (sooner s is).nextId = s.nextId := rfl

@[simp] theorem later_tb (s : State) (is : List Instr) : (later s is).tb = s.tb := rfl
@[simp] theorem later_mem (s : State) (is : List Instr) : (later s is).mem = s.mem := rfl
@[simp] theorem later_slices (s : State) (is : List Instr) : (later s is).slices = s.slices := rfl
@[simp] theorem later_teams (s : State) (is : List Instr) : (later s is).teams = s.teams := rfl
@[simp] theorem later_groups (s : State) (is : List Instr) : (later s is).groups = s.groups := rfl
@[simp] theorem later_cores (s : State) (is : List Instr) : (later s is).cores = s.cores := rfl
@[simp] theorem later_ops (s : State) (is : List Instr) : (later s is).ops = s.ops := rfl
@[simp] theorem later_lines (s : State) (is : List Instr) : (later s is).lines = s.lines := rfl
@[simp] theorem later_sigs (s : State) (is : List Instr) : (later s is).sigs = s.sigs := rfl
@[simp] theorem later_ctxs (s : State) (is : List Instr) : (later s is).ctxs = s.ctxs := rfl
@[simp] theorem later_rings (s : State) (is : List Instr) : (later s is).rings = s.rings := rfl
@[simp] theorem later_queues (s : State) (is : List Instr) : (later s is).queues = s.queues := rfl
@[simp] theorem later_served (s : State) (is : List Instr) : (later s is).served = s.served := rfl
@[simp] theorem later_gangs (s : State) (is : List Instr) : (later s is).gangs = s.gangs := rfl
@[simp] theorem later_agelim (s : State) (is : List Instr) : (later s is).agelim = s.agelim := rfl
@[simp] theorem later_fab (s : State) (is : List Instr) : (later s is).fab = s.fab := rfl
@[simp] theorem later_hbm (s : State) (is : List Instr) : (later s is).hbm = s.hbm := rfl
@[simp] theorem later_pw (s : State) (is : List Instr) : (later s is).pw = s.pw := rfl
@[simp] theorem later_host (s : State) (is : List Instr) : (later s is).host = s.host := rfl
@[simp] theorem later_health (s : State) (is : List Instr) : (later s is).health = s.health := rfl
@[simp] theorem later_isles (s : State) (is : List Instr) : (later s is).isles = s.isles := rfl
@[simp] theorem later_sram (s : State) (is : List Instr) : (later s is).sram = s.sram := rfl
@[simp] theorem later_tlb (s : State) (is : List Instr) : (later s is).tlb = s.tlb := rfl
@[simp] theorem later_ptrs (s : State) (is : List Instr) : (later s is).ptrs = s.ptrs := rfl
@[simp] theorem later_cur (s : State) (is : List Instr) : (later s is).cur = s.cur := rfl
@[simp] theorem later_busy (s : State) (is : List Instr) : (later s is).busy = s.busy := rfl
@[simp] theorem later_agenda_new (s : State) (is : List Instr) : (later s is).agenda = s.agenda ++ is := rfl
@[simp] theorem later_fresh (s : State) (is : List Instr) : (later s is).fresh = s.fresh := rfl
@[simp] theorem later_nextId (s : State) (is : List Instr) : (later s is).nextId = s.nextId := rfl

@[simp] theorem endIssue_tb (s : State) : (endIssue s).tb = s.tb := rfl
@[simp] theorem endIssue_mem (s : State) : (endIssue s).mem = s.mem := rfl
@[simp] theorem endIssue_slices (s : State) : (endIssue s).slices = s.slices := rfl
@[simp] theorem endIssue_teams (s : State) : (endIssue s).teams = s.teams := rfl
@[simp] theorem endIssue_groups (s : State) : (endIssue s).groups = s.groups := rfl
@[simp] theorem endIssue_cores (s : State) : (endIssue s).cores = s.cores := rfl
@[simp] theorem endIssue_ops (s : State) : (endIssue s).ops = s.ops := rfl
@[simp] theorem endIssue_lines (s : State) : (endIssue s).lines = s.lines := rfl
@[simp] theorem endIssue_sigs (s : State) : (endIssue s).sigs = s.sigs := rfl
@[simp] theorem endIssue_ctxs (s : State) : (endIssue s).ctxs = s.ctxs := rfl
@[simp] theorem endIssue_rings (s : State) : (endIssue s).rings = s.rings := rfl
@[simp] theorem endIssue_queues (s : State) : (endIssue s).queues = s.queues := rfl
@[simp] theorem endIssue_served (s : State) : (endIssue s).served = s.served := rfl
@[simp] theorem endIssue_gangs (s : State) : (endIssue s).gangs = s.gangs := rfl
@[simp] theorem endIssue_agelim (s : State) : (endIssue s).agelim = s.agelim := rfl
@[simp] theorem endIssue_fab (s : State) : (endIssue s).fab = s.fab := rfl
@[simp] theorem endIssue_hbm (s : State) : (endIssue s).hbm = s.hbm := rfl
@[simp] theorem endIssue_pw (s : State) : (endIssue s).pw = s.pw := rfl
@[simp] theorem endIssue_host (s : State) : (endIssue s).host = s.host := rfl
@[simp] theorem endIssue_health (s : State) : (endIssue s).health = s.health := rfl
@[simp] theorem endIssue_isles (s : State) : (endIssue s).isles = s.isles := rfl
@[simp] theorem endIssue_sram (s : State) : (endIssue s).sram = s.sram := rfl
@[simp] theorem endIssue_tlb (s : State) : (endIssue s).tlb = s.tlb := rfl
@[simp] theorem endIssue_ptrs (s : State) : (endIssue s).ptrs = s.ptrs := rfl
@[simp] theorem endIssue_cur (s : State) : (endIssue s).cur = s.cur := rfl
@[simp] theorem endIssue_busy_new (s : State) : (endIssue s).busy = false := rfl
@[simp] theorem endIssue_agenda (s : State) : (endIssue s).agenda = s.agenda := rfl
@[simp] theorem endIssue_fresh (s : State) : (endIssue s).fresh = s.fresh := rfl
@[simp] theorem endIssue_nextId (s : State) : (endIssue s).nextId = s.nextId := rfl

@[simp] theorem modGroup_tb (s : State) (id : Nat) (f : Group → Group) : (modGroup s id f).tb = s.tb := rfl
@[simp] theorem modGroup_mem (s : State) (id : Nat) (f : Group → Group) : (modGroup s id f).mem = s.mem := rfl
@[simp] theorem modGroup_slices (s : State) (id : Nat) (f : Group → Group) :
    (modGroup s id f).slices = s.slices := rfl
@[simp] theorem modGroup_teams (s : State) (id : Nat) (f : Group → Group) : (modGroup s id f).teams = s.teams := rfl
@[simp] theorem modGroup_groups_new (s : State) (id : Nat) (f : Group → Group) :
    (modGroup s id f).groups = s.groups.map fun g => if g.id == id then f g else g := rfl
@[simp] theorem modGroup_cores (s : State) (id : Nat) (f : Group → Group) : (modGroup s id f).cores = s.cores := rfl
@[simp] theorem modGroup_ops (s : State) (id : Nat) (f : Group → Group) : (modGroup s id f).ops = s.ops := rfl
@[simp] theorem modGroup_lines (s : State) (id : Nat) (f : Group → Group) : (modGroup s id f).lines = s.lines := rfl
@[simp] theorem modGroup_sigs (s : State) (id : Nat) (f : Group → Group) : (modGroup s id f).sigs = s.sigs := rfl
@[simp] theorem modGroup_ctxs (s : State) (id : Nat) (f : Group → Group) : (modGroup s id f).ctxs = s.ctxs := rfl
@[simp] theorem modGroup_rings (s : State) (id : Nat) (f : Group → Group) : (modGroup s id f).rings = s.rings := rfl
@[simp] theorem modGroup_queues (s : State) (id : Nat) (f : Group → Group) :
    (modGroup s id f).queues = s.queues := rfl
@[simp] theorem modGroup_served (s : State) (id : Nat) (f : Group → Group) :
    (modGroup s id f).served = s.served := rfl
@[simp] theorem modGroup_gangs (s : State) (id : Nat) (f : Group → Group) : (modGroup s id f).gangs = s.gangs := rfl
@[simp] theorem modGroup_agelim (s : State) (id : Nat) (f : Group → Group) :
    (modGroup s id f).agelim = s.agelim := rfl
@[simp] theorem modGroup_fab (s : State) (id : Nat) (f : Group → Group) : (modGroup s id f).fab = s.fab := rfl
@[simp] theorem modGroup_hbm (s : State) (id : Nat) (f : Group → Group) : (modGroup s id f).hbm = s.hbm := rfl
@[simp] theorem modGroup_pw (s : State) (id : Nat) (f : Group → Group) : (modGroup s id f).pw = s.pw := rfl
@[simp] theorem modGroup_host (s : State) (id : Nat) (f : Group → Group) : (modGroup s id f).host = s.host := rfl
@[simp] theorem modGroup_health (s : State) (id : Nat) (f : Group → Group) :
    (modGroup s id f).health = s.health := rfl
@[simp] theorem modGroup_isles (s : State) (id : Nat) (f : Group → Group) : (modGroup s id f).isles = s.isles := rfl
@[simp] theorem modGroup_sram (s : State) (id : Nat) (f : Group → Group) : (modGroup s id f).sram = s.sram := rfl
@[simp] theorem modGroup_tlb (s : State) (id : Nat) (f : Group → Group) : (modGroup s id f).tlb = s.tlb := rfl
@[simp] theorem modGroup_ptrs (s : State) (id : Nat) (f : Group → Group) : (modGroup s id f).ptrs = s.ptrs := rfl
@[simp] theorem modGroup_cur (s : State) (id : Nat) (f : Group → Group) : (modGroup s id f).cur = s.cur := rfl
@[simp] theorem modGroup_busy (s : State) (id : Nat) (f : Group → Group) : (modGroup s id f).busy = s.busy := rfl
@[simp] theorem modGroup_agenda (s : State) (id : Nat) (f : Group → Group) :
    (modGroup s id f).agenda = s.agenda := rfl
@[simp] theorem modGroup_fresh (s : State) (id : Nat) (f : Group → Group) : (modGroup s id f).fresh = s.fresh := rfl
@[simp] theorem modGroup_nextId (s : State) (id : Nat) (f : Group → Group) :
    (modGroup s id f).nextId = s.nextId := rfl

@[simp] theorem modTeam_tb (s : State) (id : Nat) (f : Team → Team) : (modTeam s id f).tb = s.tb := rfl
@[simp] theorem modTeam_mem (s : State) (id : Nat) (f : Team → Team) : (modTeam s id f).mem = s.mem := rfl
@[simp] theorem modTeam_slices (s : State) (id : Nat) (f : Team → Team) : (modTeam s id f).slices = s.slices := rfl
@[simp] theorem modTeam_teams_new (s : State) (id : Nat) (f : Team → Team) :
    (modTeam s id f).teams = s.teams.map fun t => if t.id == id then f t else t := rfl
@[simp] theorem modTeam_groups (s : State) (id : Nat) (f : Team → Team) : (modTeam s id f).groups = s.groups := rfl
@[simp] theorem modTeam_cores (s : State) (id : Nat) (f : Team → Team) : (modTeam s id f).cores = s.cores := rfl
@[simp] theorem modTeam_ops (s : State) (id : Nat) (f : Team → Team) : (modTeam s id f).ops = s.ops := rfl
@[simp] theorem modTeam_lines (s : State) (id : Nat) (f : Team → Team) : (modTeam s id f).lines = s.lines := rfl
@[simp] theorem modTeam_sigs (s : State) (id : Nat) (f : Team → Team) : (modTeam s id f).sigs = s.sigs := rfl
@[simp] theorem modTeam_ctxs (s : State) (id : Nat) (f : Team → Team) : (modTeam s id f).ctxs = s.ctxs := rfl
@[simp] theorem modTeam_rings (s : State) (id : Nat) (f : Team → Team) : (modTeam s id f).rings = s.rings := rfl
@[simp] theorem modTeam_queues (s : State) (id : Nat) (f : Team → Team) : (modTeam s id f).queues = s.queues := rfl
@[simp] theorem modTeam_served (s : State) (id : Nat) (f : Team → Team) : (modTeam s id f).served = s.served := rfl
@[simp] theorem modTeam_gangs (s : State) (id : Nat) (f : Team → Team) : (modTeam s id f).gangs = s.gangs := rfl
@[simp] theorem modTeam_agelim (s : State) (id : Nat) (f : Team → Team) : (modTeam s id f).agelim = s.agelim := rfl
@[simp] theorem modTeam_fab (s : State) (id : Nat) (f : Team → Team) : (modTeam s id f).fab = s.fab := rfl
@[simp] theorem modTeam_hbm (s : State) (id : Nat) (f : Team → Team) : (modTeam s id f).hbm = s.hbm := rfl
@[simp] theorem modTeam_pw (s : State) (id : Nat) (f : Team → Team) : (modTeam s id f).pw = s.pw := rfl
@[simp] theorem modTeam_host (s : State) (id : Nat) (f : Team → Team) : (modTeam s id f).host = s.host := rfl
@[simp] theorem modTeam_health (s : State) (id : Nat) (f : Team → Team) : (modTeam s id f).health = s.health := rfl
@[simp] theorem modTeam_isles (s : State) (id : Nat) (f : Team → Team) : (modTeam s id f).isles = s.isles := rfl
@[simp] theorem modTeam_sram (s : State) (id : Nat) (f : Team → Team) : (modTeam s id f).sram = s.sram := rfl
@[simp] theorem modTeam_tlb (s : State) (id : Nat) (f : Team → Team) : (modTeam s id f).tlb = s.tlb := rfl
@[simp] theorem modTeam_ptrs (s : State) (id : Nat) (f : Team → Team) : (modTeam s id f).ptrs = s.ptrs := rfl
@[simp] theorem modTeam_cur (s : State) (id : Nat) (f : Team → Team) : (modTeam s id f).cur = s.cur := rfl
@[simp] theorem modTeam_busy (s : State) (id : Nat) (f : Team → Team) : (modTeam s id f).busy = s.busy := rfl
@[simp] theorem modTeam_agenda (s : State) (id : Nat) (f : Team → Team) : (modTeam s id f).agenda = s.agenda := rfl
@[simp] theorem modTeam_fresh (s : State) (id : Nat) (f : Team → Team) : (modTeam s id f).fresh = s.fresh := rfl
@[simp] theorem modTeam_nextId (s : State) (id : Nat) (f : Team → Team) : (modTeam s id f).nextId = s.nextId := rfl

@[simp] theorem modSlice_tb (s : State) (id : Nat) (f : Slice → Slice) : (modSlice s id f).tb = s.tb := rfl
@[simp] theorem modSlice_mem (s : State) (id : Nat) (f : Slice → Slice) : (modSlice s id f).mem = s.mem := rfl
@[simp] theorem modSlice_slices_new (s : State) (id : Nat) (f : Slice → Slice) :
    (modSlice s id f).slices = s.slices.map fun x => if x.id == id then f x else x := rfl
@[simp] theorem modSlice_teams (s : State) (id : Nat) (f : Slice → Slice) : (modSlice s id f).teams = s.teams := rfl
@[simp] theorem modSlice_groups (s : State) (id : Nat) (f : Slice → Slice) :
    (modSlice s id f).groups = s.groups := rfl
@[simp] theorem modSlice_cores (s : State) (id : Nat) (f : Slice → Slice) : (modSlice s id f).cores = s.cores := rfl
@[simp] theorem modSlice_ops (s : State) (id : Nat) (f : Slice → Slice) : (modSlice s id f).ops = s.ops := rfl
@[simp] theorem modSlice_lines (s : State) (id : Nat) (f : Slice → Slice) : (modSlice s id f).lines = s.lines := rfl
@[simp] theorem modSlice_sigs (s : State) (id : Nat) (f : Slice → Slice) : (modSlice s id f).sigs = s.sigs := rfl
@[simp] theorem modSlice_ctxs (s : State) (id : Nat) (f : Slice → Slice) : (modSlice s id f).ctxs = s.ctxs := rfl
@[simp] theorem modSlice_rings (s : State) (id : Nat) (f : Slice → Slice) : (modSlice s id f).rings = s.rings := rfl
@[simp] theorem modSlice_queues (s : State) (id : Nat) (f : Slice → Slice) :
    (modSlice s id f).queues = s.queues := rfl
@[simp] theorem modSlice_served (s : State) (id : Nat) (f : Slice → Slice) :
    (modSlice s id f).served = s.served := rfl
@[simp] theorem modSlice_gangs (s : State) (id : Nat) (f : Slice → Slice) : (modSlice s id f).gangs = s.gangs := rfl
@[simp] theorem modSlice_agelim (s : State) (id : Nat) (f : Slice → Slice) :
    (modSlice s id f).agelim = s.agelim := rfl
@[simp] theorem modSlice_fab (s : State) (id : Nat) (f : Slice → Slice) : (modSlice s id f).fab = s.fab := rfl
@[simp] theorem modSlice_hbm (s : State) (id : Nat) (f : Slice → Slice) : (modSlice s id f).hbm = s.hbm := rfl
@[simp] theorem modSlice_pw (s : State) (id : Nat) (f : Slice → Slice) : (modSlice s id f).pw = s.pw := rfl
@[simp] theorem modSlice_host (s : State) (id : Nat) (f : Slice → Slice) : (modSlice s id f).host = s.host := rfl
@[simp] theorem modSlice_health (s : State) (id : Nat) (f : Slice → Slice) :
    (modSlice s id f).health = s.health := rfl
@[simp] theorem modSlice_isles (s : State) (id : Nat) (f : Slice → Slice) : (modSlice s id f).isles = s.isles := rfl
@[simp] theorem modSlice_sram (s : State) (id : Nat) (f : Slice → Slice) : (modSlice s id f).sram = s.sram := rfl
@[simp] theorem modSlice_tlb (s : State) (id : Nat) (f : Slice → Slice) : (modSlice s id f).tlb = s.tlb := rfl
@[simp] theorem modSlice_ptrs (s : State) (id : Nat) (f : Slice → Slice) : (modSlice s id f).ptrs = s.ptrs := rfl
@[simp] theorem modSlice_cur (s : State) (id : Nat) (f : Slice → Slice) : (modSlice s id f).cur = s.cur := rfl
@[simp] theorem modSlice_busy (s : State) (id : Nat) (f : Slice → Slice) : (modSlice s id f).busy = s.busy := rfl
@[simp] theorem modSlice_agenda (s : State) (id : Nat) (f : Slice → Slice) :
    (modSlice s id f).agenda = s.agenda := rfl
@[simp] theorem modSlice_fresh (s : State) (id : Nat) (f : Slice → Slice) : (modSlice s id f).fresh = s.fresh := rfl
@[simp] theorem modSlice_nextId (s : State) (id : Nat) (f : Slice → Slice) :
    (modSlice s id f).nextId = s.nextId := rfl

@[simp] theorem modCore_tb (s : State) (c : Nat) (f : Core → Core) : (modCore s c f).tb = s.tb := rfl
@[simp] theorem modCore_mem (s : State) (c : Nat) (f : Core → Core) : (modCore s c f).mem = s.mem := rfl
@[simp] theorem modCore_slices (s : State) (c : Nat) (f : Core → Core) : (modCore s c f).slices = s.slices := rfl
@[simp] theorem modCore_teams (s : State) (c : Nat) (f : Core → Core) : (modCore s c f).teams = s.teams := rfl
@[simp] theorem modCore_groups (s : State) (c : Nat) (f : Core → Core) : (modCore s c f).groups = s.groups := rfl
@[simp] theorem modCore_cores_new (s : State) (c : Nat) (f : Core → Core) :
    (modCore s c f).cores = modNth s.cores c f := rfl
@[simp] theorem modCore_ops (s : State) (c : Nat) (f : Core → Core) : (modCore s c f).ops = s.ops := rfl
@[simp] theorem modCore_lines (s : State) (c : Nat) (f : Core → Core) : (modCore s c f).lines = s.lines := rfl
@[simp] theorem modCore_sigs (s : State) (c : Nat) (f : Core → Core) : (modCore s c f).sigs = s.sigs := rfl
@[simp] theorem modCore_ctxs (s : State) (c : Nat) (f : Core → Core) : (modCore s c f).ctxs = s.ctxs := rfl
@[simp] theorem modCore_rings (s : State) (c : Nat) (f : Core → Core) : (modCore s c f).rings = s.rings := rfl
@[simp] theorem modCore_queues (s : State) (c : Nat) (f : Core → Core) : (modCore s c f).queues = s.queues := rfl
@[simp] theorem modCore_served (s : State) (c : Nat) (f : Core → Core) : (modCore s c f).served = s.served := rfl
@[simp] theorem modCore_gangs (s : State) (c : Nat) (f : Core → Core) : (modCore s c f).gangs = s.gangs := rfl
@[simp] theorem modCore_agelim (s : State) (c : Nat) (f : Core → Core) : (modCore s c f).agelim = s.agelim := rfl
@[simp] theorem modCore_fab (s : State) (c : Nat) (f : Core → Core) : (modCore s c f).fab = s.fab := rfl
@[simp] theorem modCore_hbm (s : State) (c : Nat) (f : Core → Core) : (modCore s c f).hbm = s.hbm := rfl
@[simp] theorem modCore_pw (s : State) (c : Nat) (f : Core → Core) : (modCore s c f).pw = s.pw := rfl
@[simp] theorem modCore_host (s : State) (c : Nat) (f : Core → Core) : (modCore s c f).host = s.host := rfl
@[simp] theorem modCore_health (s : State) (c : Nat) (f : Core → Core) : (modCore s c f).health = s.health := rfl
@[simp] theorem modCore_isles (s : State) (c : Nat) (f : Core → Core) : (modCore s c f).isles = s.isles := rfl
@[simp] theorem modCore_sram (s : State) (c : Nat) (f : Core → Core) : (modCore s c f).sram = s.sram := rfl
@[simp] theorem modCore_tlb (s : State) (c : Nat) (f : Core → Core) : (modCore s c f).tlb = s.tlb := rfl
@[simp] theorem modCore_ptrs (s : State) (c : Nat) (f : Core → Core) : (modCore s c f).ptrs = s.ptrs := rfl
@[simp] theorem modCore_cur (s : State) (c : Nat) (f : Core → Core) : (modCore s c f).cur = s.cur := rfl
@[simp] theorem modCore_busy (s : State) (c : Nat) (f : Core → Core) : (modCore s c f).busy = s.busy := rfl
@[simp] theorem modCore_agenda (s : State) (c : Nat) (f : Core → Core) : (modCore s c f).agenda = s.agenda := rfl
@[simp] theorem modCore_fresh (s : State) (c : Nat) (f : Core → Core) : (modCore s c f).fresh = s.fresh := rfl
@[simp] theorem modCore_nextId (s : State) (c : Nat) (f : Core → Core) : (modCore s c f).nextId = s.nextId := rfl

@[simp] theorem modSlot_tb (s : State) (c n : Nat) (f : Slot → Slot) : (modSlot s c n f).tb = s.tb := rfl
@[simp] theorem modSlot_mem (s : State) (c n : Nat) (f : Slot → Slot) : (modSlot s c n f).mem = s.mem := rfl
@[simp] theorem modSlot_slices (s : State) (c n : Nat) (f : Slot → Slot) : (modSlot s c n f).slices = s.slices := rfl
@[simp] theorem modSlot_teams (s : State) (c n : Nat) (f : Slot → Slot) : (modSlot s c n f).teams = s.teams := rfl
@[simp] theorem modSlot_groups (s : State) (c n : Nat) (f : Slot → Slot) : (modSlot s c n f).groups = s.groups := rfl
@[simp] theorem modSlot_cores_new (s : State) (c n : Nat) (f : Slot → Slot) :
    (modSlot s c n f).cores = modNth s.cores c fun k => { k with slots := modNth k.slots n f } := rfl
@[simp] theorem modSlot_ops (s : State) (c n : Nat) (f : Slot → Slot) : (modSlot s c n f).ops = s.ops := rfl
@[simp] theorem modSlot_lines (s : State) (c n : Nat) (f : Slot → Slot) : (modSlot s c n f).lines = s.lines := rfl
@[simp] theorem modSlot_sigs (s : State) (c n : Nat) (f : Slot → Slot) : (modSlot s c n f).sigs = s.sigs := rfl
@[simp] theorem modSlot_ctxs (s : State) (c n : Nat) (f : Slot → Slot) : (modSlot s c n f).ctxs = s.ctxs := rfl
@[simp] theorem modSlot_rings (s : State) (c n : Nat) (f : Slot → Slot) : (modSlot s c n f).rings = s.rings := rfl
@[simp] theorem modSlot_queues (s : State) (c n : Nat) (f : Slot → Slot) : (modSlot s c n f).queues = s.queues := rfl
@[simp] theorem modSlot_served (s : State) (c n : Nat) (f : Slot → Slot) : (modSlot s c n f).served = s.served := rfl
@[simp] theorem modSlot_gangs (s : State) (c n : Nat) (f : Slot → Slot) : (modSlot s c n f).gangs = s.gangs := rfl
@[simp] theorem modSlot_agelim (s : State) (c n : Nat) (f : Slot → Slot) : (modSlot s c n f).agelim = s.agelim := rfl
@[simp] theorem modSlot_fab (s : State) (c n : Nat) (f : Slot → Slot) : (modSlot s c n f).fab = s.fab := rfl
@[simp] theorem modSlot_hbm (s : State) (c n : Nat) (f : Slot → Slot) : (modSlot s c n f).hbm = s.hbm := rfl
@[simp] theorem modSlot_pw (s : State) (c n : Nat) (f : Slot → Slot) : (modSlot s c n f).pw = s.pw := rfl
@[simp] theorem modSlot_host (s : State) (c n : Nat) (f : Slot → Slot) : (modSlot s c n f).host = s.host := rfl
@[simp] theorem modSlot_health (s : State) (c n : Nat) (f : Slot → Slot) : (modSlot s c n f).health = s.health := rfl
@[simp] theorem modSlot_isles (s : State) (c n : Nat) (f : Slot → Slot) : (modSlot s c n f).isles = s.isles := rfl
@[simp] theorem modSlot_sram (s : State) (c n : Nat) (f : Slot → Slot) : (modSlot s c n f).sram = s.sram := rfl
@[simp] theorem modSlot_tlb (s : State) (c n : Nat) (f : Slot → Slot) : (modSlot s c n f).tlb = s.tlb := rfl
@[simp] theorem modSlot_ptrs (s : State) (c n : Nat) (f : Slot → Slot) : (modSlot s c n f).ptrs = s.ptrs := rfl
@[simp] theorem modSlot_cur (s : State) (c n : Nat) (f : Slot → Slot) : (modSlot s c n f).cur = s.cur := rfl
@[simp] theorem modSlot_busy (s : State) (c n : Nat) (f : Slot → Slot) : (modSlot s c n f).busy = s.busy := rfl
@[simp] theorem modSlot_agenda (s : State) (c n : Nat) (f : Slot → Slot) : (modSlot s c n f).agenda = s.agenda := rfl
@[simp] theorem modSlot_fresh (s : State) (c n : Nat) (f : Slot → Slot) : (modSlot s c n f).fresh = s.fresh := rfl
@[simp] theorem modSlot_nextId (s : State) (c n : Nat) (f : Slot → Slot) : (modSlot s c n f).nextId = s.nextId := rfl

@[simp] theorem commitGroup_tb (s : State) (g : Group) : (commitGroup s g).tb = s.tb := rfl
@[simp] theorem commitGroup_mem (s : State) (g : Group) : (commitGroup s g).mem = s.mem := rfl
@[simp] theorem commitGroup_slices (s : State) (g : Group) : (commitGroup s g).slices = s.slices := rfl
@[simp] theorem commitGroup_teams (s : State) (g : Group) : (commitGroup s g).teams = s.teams := rfl
@[simp] theorem commitGroup_groups (s : State) (g : Group) : (commitGroup s g).groups = s.groups := rfl
@[simp] theorem commitGroup_cores_new (s : State) (g : Group) :
    (commitGroup s g).cores = modNth s.cores g.core fun c => { c with hist := c.hist.filter fun h => h.grp.id != g.id } := rfl
@[simp] theorem commitGroup_ops (s : State) (g : Group) : (commitGroup s g).ops = s.ops := rfl
@[simp] theorem commitGroup_lines (s : State) (g : Group) : (commitGroup s g).lines = s.lines := rfl
@[simp] theorem commitGroup_sigs (s : State) (g : Group) : (commitGroup s g).sigs = s.sigs := rfl
@[simp] theorem commitGroup_ctxs (s : State) (g : Group) : (commitGroup s g).ctxs = s.ctxs := rfl
@[simp] theorem commitGroup_rings (s : State) (g : Group) : (commitGroup s g).rings = s.rings := rfl
@[simp] theorem commitGroup_queues (s : State) (g : Group) : (commitGroup s g).queues = s.queues := rfl
@[simp] theorem commitGroup_served (s : State) (g : Group) : (commitGroup s g).served = s.served := rfl
@[simp] theorem commitGroup_gangs (s : State) (g : Group) : (commitGroup s g).gangs = s.gangs := rfl
@[simp] theorem commitGroup_agelim (s : State) (g : Group) : (commitGroup s g).agelim = s.agelim := rfl
@[simp] theorem commitGroup_fab (s : State) (g : Group) : (commitGroup s g).fab = s.fab := rfl
@[simp] theorem commitGroup_hbm (s : State) (g : Group) : (commitGroup s g).hbm = s.hbm := rfl
@[simp] theorem commitGroup_pw (s : State) (g : Group) : (commitGroup s g).pw = s.pw := rfl
@[simp] theorem commitGroup_host (s : State) (g : Group) : (commitGroup s g).host = s.host := rfl
@[simp] theorem commitGroup_health (s : State) (g : Group) : (commitGroup s g).health = s.health := rfl
@[simp] theorem commitGroup_isles (s : State) (g : Group) : (commitGroup s g).isles = s.isles := rfl
@[simp] theorem commitGroup_sram (s : State) (g : Group) : (commitGroup s g).sram = s.sram := rfl
@[simp] theorem commitGroup_tlb (s : State) (g : Group) : (commitGroup s g).tlb = s.tlb := rfl
@[simp] theorem commitGroup_ptrs (s : State) (g : Group) : (commitGroup s g).ptrs = s.ptrs := rfl
@[simp] theorem commitGroup_cur (s : State) (g : Group) : (commitGroup s g).cur = s.cur := rfl
@[simp] theorem commitGroup_busy (s : State) (g : Group) : (commitGroup s g).busy = s.busy := rfl
@[simp] theorem commitGroup_agenda (s : State) (g : Group) : (commitGroup s g).agenda = s.agenda := rfl
@[simp] theorem commitGroup_fresh (s : State) (g : Group) : (commitGroup s g).fresh = s.fresh := rfl
@[simp] theorem commitGroup_nextId (s : State) (g : Group) : (commitGroup s g).nextId = s.nextId := rfl

@[simp] theorem modTCore_tb (s : State) (t c : Nat) (f : TCore → TCore) : (modTCore s t c f).tb = s.tb := rfl
@[simp] theorem modTCore_mem (s : State) (t c : Nat) (f : TCore → TCore) : (modTCore s t c f).mem = s.mem := rfl
@[simp] theorem modTCore_slices (s : State) (t c : Nat) (f : TCore → TCore) :
    (modTCore s t c f).slices = s.slices := rfl
@[simp] theorem modTCore_teams_new (s : State) (t c : Nat) (f : TCore → TCore) :
    (modTCore s t c f).teams = s.teams.map fun x => if x.id == t then { x with cores := modNth x.cores c f } else x := rfl
@[simp] theorem modTCore_groups (s : State) (t c : Nat) (f : TCore → TCore) :
    (modTCore s t c f).groups = s.groups := rfl
@[simp] theorem modTCore_cores (s : State) (t c : Nat) (f : TCore → TCore) : (modTCore s t c f).cores = s.cores := rfl
@[simp] theorem modTCore_ops (s : State) (t c : Nat) (f : TCore → TCore) : (modTCore s t c f).ops = s.ops := rfl
@[simp] theorem modTCore_lines (s : State) (t c : Nat) (f : TCore → TCore) : (modTCore s t c f).lines = s.lines := rfl
@[simp] theorem modTCore_sigs (s : State) (t c : Nat) (f : TCore → TCore) : (modTCore s t c f).sigs = s.sigs := rfl
@[simp] theorem modTCore_ctxs (s : State) (t c : Nat) (f : TCore → TCore) : (modTCore s t c f).ctxs = s.ctxs := rfl
@[simp] theorem modTCore_rings (s : State) (t c : Nat) (f : TCore → TCore) : (modTCore s t c f).rings = s.rings := rfl
@[simp] theorem modTCore_queues (s : State) (t c : Nat) (f : TCore → TCore) :
    (modTCore s t c f).queues = s.queues := rfl
@[simp] theorem modTCore_served (s : State) (t c : Nat) (f : TCore → TCore) :
    (modTCore s t c f).served = s.served := rfl
@[simp] theorem modTCore_gangs (s : State) (t c : Nat) (f : TCore → TCore) : (modTCore s t c f).gangs = s.gangs := rfl
@[simp] theorem modTCore_agelim (s : State) (t c : Nat) (f : TCore → TCore) :
    (modTCore s t c f).agelim = s.agelim := rfl
@[simp] theorem modTCore_fab (s : State) (t c : Nat) (f : TCore → TCore) : (modTCore s t c f).fab = s.fab := rfl
@[simp] theorem modTCore_hbm (s : State) (t c : Nat) (f : TCore → TCore) : (modTCore s t c f).hbm = s.hbm := rfl
@[simp] theorem modTCore_pw (s : State) (t c : Nat) (f : TCore → TCore) : (modTCore s t c f).pw = s.pw := rfl
@[simp] theorem modTCore_host (s : State) (t c : Nat) (f : TCore → TCore) : (modTCore s t c f).host = s.host := rfl
@[simp] theorem modTCore_health (s : State) (t c : Nat) (f : TCore → TCore) :
    (modTCore s t c f).health = s.health := rfl
@[simp] theorem modTCore_isles (s : State) (t c : Nat) (f : TCore → TCore) : (modTCore s t c f).isles = s.isles := rfl
@[simp] theorem modTCore_sram (s : State) (t c : Nat) (f : TCore → TCore) : (modTCore s t c f).sram = s.sram := rfl
@[simp] theorem modTCore_tlb (s : State) (t c : Nat) (f : TCore → TCore) : (modTCore s t c f).tlb = s.tlb := rfl
@[simp] theorem modTCore_ptrs (s : State) (t c : Nat) (f : TCore → TCore) : (modTCore s t c f).ptrs = s.ptrs := rfl
@[simp] theorem modTCore_cur (s : State) (t c : Nat) (f : TCore → TCore) : (modTCore s t c f).cur = s.cur := rfl
@[simp] theorem modTCore_busy (s : State) (t c : Nat) (f : TCore → TCore) : (modTCore s t c f).busy = s.busy := rfl
@[simp] theorem modTCore_agenda (s : State) (t c : Nat) (f : TCore → TCore) :
    (modTCore s t c f).agenda = s.agenda := rfl
@[simp] theorem modTCore_fresh (s : State) (t c : Nat) (f : TCore → TCore) : (modTCore s t c f).fresh = s.fresh := rfl
@[simp] theorem modTCore_nextId (s : State) (t c : Nat) (f : TCore → TCore) :
    (modTCore s t c f).nextId = s.nextId := rfl

@[simp] theorem modOp_tb (s : State) (id : Nat) (f : Op → Op) : (modOp s id f).tb = s.tb := rfl
@[simp] theorem modOp_mem (s : State) (id : Nat) (f : Op → Op) : (modOp s id f).mem = s.mem := rfl
@[simp] theorem modOp_slices (s : State) (id : Nat) (f : Op → Op) : (modOp s id f).slices = s.slices := rfl
@[simp] theorem modOp_teams (s : State) (id : Nat) (f : Op → Op) : (modOp s id f).teams = s.teams := rfl
@[simp] theorem modOp_groups (s : State) (id : Nat) (f : Op → Op) : (modOp s id f).groups = s.groups := rfl
@[simp] theorem modOp_cores (s : State) (id : Nat) (f : Op → Op) : (modOp s id f).cores = s.cores := rfl
@[simp] theorem modOp_ops_new (s : State) (id : Nat) (f : Op → Op) :
    (modOp s id f).ops = s.ops.map fun o => if o.id == id then f o else o := rfl
@[simp] theorem modOp_lines (s : State) (id : Nat) (f : Op → Op) : (modOp s id f).lines = s.lines := rfl
@[simp] theorem modOp_sigs (s : State) (id : Nat) (f : Op → Op) : (modOp s id f).sigs = s.sigs := rfl
@[simp] theorem modOp_ctxs (s : State) (id : Nat) (f : Op → Op) : (modOp s id f).ctxs = s.ctxs := rfl
@[simp] theorem modOp_rings (s : State) (id : Nat) (f : Op → Op) : (modOp s id f).rings = s.rings := rfl
@[simp] theorem modOp_queues (s : State) (id : Nat) (f : Op → Op) : (modOp s id f).queues = s.queues := rfl
@[simp] theorem modOp_served (s : State) (id : Nat) (f : Op → Op) : (modOp s id f).served = s.served := rfl
@[simp] theorem modOp_gangs (s : State) (id : Nat) (f : Op → Op) : (modOp s id f).gangs = s.gangs := rfl
@[simp] theorem modOp_agelim (s : State) (id : Nat) (f : Op → Op) : (modOp s id f).agelim = s.agelim := rfl
@[simp] theorem modOp_fab (s : State) (id : Nat) (f : Op → Op) : (modOp s id f).fab = s.fab := rfl
@[simp] theorem modOp_hbm (s : State) (id : Nat) (f : Op → Op) : (modOp s id f).hbm = s.hbm := rfl
@[simp] theorem modOp_pw (s : State) (id : Nat) (f : Op → Op) : (modOp s id f).pw = s.pw := rfl
@[simp] theorem modOp_host (s : State) (id : Nat) (f : Op → Op) : (modOp s id f).host = s.host := rfl
@[simp] theorem modOp_health (s : State) (id : Nat) (f : Op → Op) : (modOp s id f).health = s.health := rfl
@[simp] theorem modOp_isles (s : State) (id : Nat) (f : Op → Op) : (modOp s id f).isles = s.isles := rfl
@[simp] theorem modOp_sram (s : State) (id : Nat) (f : Op → Op) : (modOp s id f).sram = s.sram := rfl
@[simp] theorem modOp_tlb (s : State) (id : Nat) (f : Op → Op) : (modOp s id f).tlb = s.tlb := rfl
@[simp] theorem modOp_ptrs (s : State) (id : Nat) (f : Op → Op) : (modOp s id f).ptrs = s.ptrs := rfl
@[simp] theorem modOp_cur (s : State) (id : Nat) (f : Op → Op) : (modOp s id f).cur = s.cur := rfl
@[simp] theorem modOp_busy (s : State) (id : Nat) (f : Op → Op) : (modOp s id f).busy = s.busy := rfl
@[simp] theorem modOp_agenda (s : State) (id : Nat) (f : Op → Op) : (modOp s id f).agenda = s.agenda := rfl
@[simp] theorem modOp_fresh (s : State) (id : Nat) (f : Op → Op) : (modOp s id f).fresh = s.fresh := rfl
@[simp] theorem modOp_nextId (s : State) (id : Nat) (f : Op → Op) : (modOp s id f).nextId = s.nextId := rfl

@[simp] theorem dropOp_tb (s : State) (id : Nat) : (dropOp s id).tb = s.tb := rfl
@[simp] theorem dropOp_mem (s : State) (id : Nat) : (dropOp s id).mem = s.mem := rfl
@[simp] theorem dropOp_slices (s : State) (id : Nat) : (dropOp s id).slices = s.slices := rfl
@[simp] theorem dropOp_teams (s : State) (id : Nat) : (dropOp s id).teams = s.teams := rfl
@[simp] theorem dropOp_groups (s : State) (id : Nat) : (dropOp s id).groups = s.groups := rfl
@[simp] theorem dropOp_cores (s : State) (id : Nat) : (dropOp s id).cores = s.cores := rfl
@[simp] theorem dropOp_ops_new (s : State) (id : Nat) : (dropOp s id).ops = s.ops.filter fun o => o.id != id := rfl
@[simp] theorem dropOp_lines (s : State) (id : Nat) : (dropOp s id).lines = s.lines := rfl
@[simp] theorem dropOp_sigs (s : State) (id : Nat) : (dropOp s id).sigs = s.sigs := rfl
@[simp] theorem dropOp_ctxs (s : State) (id : Nat) : (dropOp s id).ctxs = s.ctxs := rfl
@[simp] theorem dropOp_rings (s : State) (id : Nat) : (dropOp s id).rings = s.rings := rfl
@[simp] theorem dropOp_queues (s : State) (id : Nat) : (dropOp s id).queues = s.queues := rfl
@[simp] theorem dropOp_served (s : State) (id : Nat) : (dropOp s id).served = s.served := rfl
@[simp] theorem dropOp_gangs (s : State) (id : Nat) : (dropOp s id).gangs = s.gangs := rfl
@[simp] theorem dropOp_agelim (s : State) (id : Nat) : (dropOp s id).agelim = s.agelim := rfl
@[simp] theorem dropOp_fab (s : State) (id : Nat) : (dropOp s id).fab = s.fab := rfl
@[simp] theorem dropOp_hbm (s : State) (id : Nat) : (dropOp s id).hbm = s.hbm := rfl
@[simp] theorem dropOp_pw (s : State) (id : Nat) : (dropOp s id).pw = s.pw := rfl
@[simp] theorem dropOp_host (s : State) (id : Nat) : (dropOp s id).host = s.host := rfl
@[simp] theorem dropOp_health (s : State) (id : Nat) : (dropOp s id).health = s.health := rfl
@[simp] theorem dropOp_isles (s : State) (id : Nat) : (dropOp s id).isles = s.isles := rfl
@[simp] theorem dropOp_sram (s : State) (id : Nat) : (dropOp s id).sram = s.sram := rfl
@[simp] theorem dropOp_tlb (s : State) (id : Nat) : (dropOp s id).tlb = s.tlb := rfl
@[simp] theorem dropOp_ptrs (s : State) (id : Nat) : (dropOp s id).ptrs = s.ptrs := rfl
@[simp] theorem dropOp_cur (s : State) (id : Nat) : (dropOp s id).cur = s.cur := rfl
@[simp] theorem dropOp_busy (s : State) (id : Nat) : (dropOp s id).busy = s.busy := rfl
@[simp] theorem dropOp_agenda (s : State) (id : Nat) : (dropOp s id).agenda = s.agenda := rfl
@[simp] theorem dropOp_fresh (s : State) (id : Nat) : (dropOp s id).fresh = s.fresh := rfl
@[simp] theorem dropOp_nextId (s : State) (id : Nat) : (dropOp s id).nextId = s.nextId := rfl

@[simp] theorem modReqs_tb (s : State) (id : Nat) (f : Req → Req) : (modReqs s id f).tb = s.tb := rfl
@[simp] theorem modReqs_mem (s : State) (id : Nat) (f : Req → Req) : (modReqs s id f).mem = s.mem := rfl
@[simp] theorem modReqs_slices (s : State) (id : Nat) (f : Req → Req) : (modReqs s id f).slices = s.slices := rfl
@[simp] theorem modReqs_teams (s : State) (id : Nat) (f : Req → Req) : (modReqs s id f).teams = s.teams := rfl
@[simp] theorem modReqs_groups (s : State) (id : Nat) (f : Req → Req) : (modReqs s id f).groups = s.groups := rfl
@[simp] theorem modReqs_cores (s : State) (id : Nat) (f : Req → Req) : (modReqs s id f).cores = s.cores := rfl
@[simp] theorem modReqs_ops_new (s : State) (id : Nat) (f : Req → Req) :
    (modReqs s id f).ops = s.ops.map fun o => if o.id == id then { o with reqs := o.reqs.map f } else o := rfl
@[simp] theorem modReqs_lines (s : State) (id : Nat) (f : Req → Req) : (modReqs s id f).lines = s.lines := rfl
@[simp] theorem modReqs_sigs (s : State) (id : Nat) (f : Req → Req) : (modReqs s id f).sigs = s.sigs := rfl
@[simp] theorem modReqs_ctxs (s : State) (id : Nat) (f : Req → Req) : (modReqs s id f).ctxs = s.ctxs := rfl
@[simp] theorem modReqs_rings (s : State) (id : Nat) (f : Req → Req) : (modReqs s id f).rings = s.rings := rfl
@[simp] theorem modReqs_queues (s : State) (id : Nat) (f : Req → Req) : (modReqs s id f).queues = s.queues := rfl
@[simp] theorem modReqs_served (s : State) (id : Nat) (f : Req → Req) : (modReqs s id f).served = s.served := rfl
@[simp] theorem modReqs_gangs (s : State) (id : Nat) (f : Req → Req) : (modReqs s id f).gangs = s.gangs := rfl
@[simp] theorem modReqs_agelim (s : State) (id : Nat) (f : Req → Req) : (modReqs s id f).agelim = s.agelim := rfl
@[simp] theorem modReqs_fab (s : State) (id : Nat) (f : Req → Req) : (modReqs s id f).fab = s.fab := rfl
@[simp] theorem modReqs_hbm (s : State) (id : Nat) (f : Req → Req) : (modReqs s id f).hbm = s.hbm := rfl
@[simp] theorem modReqs_pw (s : State) (id : Nat) (f : Req → Req) : (modReqs s id f).pw = s.pw := rfl
@[simp] theorem modReqs_host (s : State) (id : Nat) (f : Req → Req) : (modReqs s id f).host = s.host := rfl
@[simp] theorem modReqs_health (s : State) (id : Nat) (f : Req → Req) : (modReqs s id f).health = s.health := rfl
@[simp] theorem modReqs_isles (s : State) (id : Nat) (f : Req → Req) : (modReqs s id f).isles = s.isles := rfl
@[simp] theorem modReqs_sram (s : State) (id : Nat) (f : Req → Req) : (modReqs s id f).sram = s.sram := rfl
@[simp] theorem modReqs_tlb (s : State) (id : Nat) (f : Req → Req) : (modReqs s id f).tlb = s.tlb := rfl
@[simp] theorem modReqs_ptrs (s : State) (id : Nat) (f : Req → Req) : (modReqs s id f).ptrs = s.ptrs := rfl
@[simp] theorem modReqs_cur (s : State) (id : Nat) (f : Req → Req) : (modReqs s id f).cur = s.cur := rfl
@[simp] theorem modReqs_busy (s : State) (id : Nat) (f : Req → Req) : (modReqs s id f).busy = s.busy := rfl
@[simp] theorem modReqs_agenda (s : State) (id : Nat) (f : Req → Req) : (modReqs s id f).agenda = s.agenda := rfl
@[simp] theorem modReqs_fresh (s : State) (id : Nat) (f : Req → Req) : (modReqs s id f).fresh = s.fresh := rfl
@[simp] theorem modReqs_nextId (s : State) (id : Nat) (f : Req → Req) : (modReqs s id f).nextId = s.nextId := rfl

@[simp] theorem modLine_tb (s : State) (id : Nat) (f : Line → Line) : (modLine s id f).tb = s.tb := rfl
@[simp] theorem modLine_mem (s : State) (id : Nat) (f : Line → Line) : (modLine s id f).mem = s.mem := rfl
@[simp] theorem modLine_slices (s : State) (id : Nat) (f : Line → Line) : (modLine s id f).slices = s.slices := rfl
@[simp] theorem modLine_teams (s : State) (id : Nat) (f : Line → Line) : (modLine s id f).teams = s.teams := rfl
@[simp] theorem modLine_groups (s : State) (id : Nat) (f : Line → Line) : (modLine s id f).groups = s.groups := rfl
@[simp] theorem modLine_cores (s : State) (id : Nat) (f : Line → Line) : (modLine s id f).cores = s.cores := rfl
@[simp] theorem modLine_ops (s : State) (id : Nat) (f : Line → Line) : (modLine s id f).ops = s.ops := rfl
@[simp] theorem modLine_lines_new (s : State) (id : Nat) (f : Line → Line) :
    (modLine s id f).lines = s.lines.map fun l => if l.id == id then f l else l := rfl
@[simp] theorem modLine_sigs (s : State) (id : Nat) (f : Line → Line) : (modLine s id f).sigs = s.sigs := rfl
@[simp] theorem modLine_ctxs (s : State) (id : Nat) (f : Line → Line) : (modLine s id f).ctxs = s.ctxs := rfl
@[simp] theorem modLine_rings (s : State) (id : Nat) (f : Line → Line) : (modLine s id f).rings = s.rings := rfl
@[simp] theorem modLine_queues (s : State) (id : Nat) (f : Line → Line) : (modLine s id f).queues = s.queues := rfl
@[simp] theorem modLine_served (s : State) (id : Nat) (f : Line → Line) : (modLine s id f).served = s.served := rfl
@[simp] theorem modLine_gangs (s : State) (id : Nat) (f : Line → Line) : (modLine s id f).gangs = s.gangs := rfl
@[simp] theorem modLine_agelim (s : State) (id : Nat) (f : Line → Line) : (modLine s id f).agelim = s.agelim := rfl
@[simp] theorem modLine_fab (s : State) (id : Nat) (f : Line → Line) : (modLine s id f).fab = s.fab := rfl
@[simp] theorem modLine_hbm (s : State) (id : Nat) (f : Line → Line) : (modLine s id f).hbm = s.hbm := rfl
@[simp] theorem modLine_pw (s : State) (id : Nat) (f : Line → Line) : (modLine s id f).pw = s.pw := rfl
@[simp] theorem modLine_host (s : State) (id : Nat) (f : Line → Line) : (modLine s id f).host = s.host := rfl
@[simp] theorem modLine_health (s : State) (id : Nat) (f : Line → Line) : (modLine s id f).health = s.health := rfl
@[simp] theorem modLine_isles (s : State) (id : Nat) (f : Line → Line) : (modLine s id f).isles = s.isles := rfl
@[simp] theorem modLine_sram (s : State) (id : Nat) (f : Line → Line) : (modLine s id f).sram = s.sram := rfl
@[simp] theorem modLine_tlb (s : State) (id : Nat) (f : Line → Line) : (modLine s id f).tlb = s.tlb := rfl
@[simp] theorem modLine_ptrs (s : State) (id : Nat) (f : Line → Line) : (modLine s id f).ptrs = s.ptrs := rfl
@[simp] theorem modLine_cur (s : State) (id : Nat) (f : Line → Line) : (modLine s id f).cur = s.cur := rfl
@[simp] theorem modLine_busy (s : State) (id : Nat) (f : Line → Line) : (modLine s id f).busy = s.busy := rfl
@[simp] theorem modLine_agenda (s : State) (id : Nat) (f : Line → Line) : (modLine s id f).agenda = s.agenda := rfl
@[simp] theorem modLine_fresh (s : State) (id : Nat) (f : Line → Line) : (modLine s id f).fresh = s.fresh := rfl
@[simp] theorem modLine_nextId (s : State) (id : Nat) (f : Line → Line) : (modLine s id f).nextId = s.nextId := rfl

@[simp] theorem dropLine_tb (s : State) (id : Nat) : (dropLine s id).tb = s.tb := rfl
@[simp] theorem dropLine_mem (s : State) (id : Nat) : (dropLine s id).mem = s.mem := rfl
@[simp] theorem dropLine_slices (s : State) (id : Nat) : (dropLine s id).slices = s.slices := rfl
@[simp] theorem dropLine_teams (s : State) (id : Nat) : (dropLine s id).teams = s.teams := rfl
@[simp] theorem dropLine_groups (s : State) (id : Nat) : (dropLine s id).groups = s.groups := rfl
@[simp] theorem dropLine_cores (s : State) (id : Nat) : (dropLine s id).cores = s.cores := rfl
@[simp] theorem dropLine_ops (s : State) (id : Nat) : (dropLine s id).ops = s.ops := rfl
@[simp] theorem dropLine_lines_new (s : State) (id : Nat) :
    (dropLine s id).lines = s.lines.filter fun l => l.id != id := rfl
@[simp] theorem dropLine_sigs (s : State) (id : Nat) : (dropLine s id).sigs = s.sigs := rfl
@[simp] theorem dropLine_ctxs (s : State) (id : Nat) : (dropLine s id).ctxs = s.ctxs := rfl
@[simp] theorem dropLine_rings (s : State) (id : Nat) : (dropLine s id).rings = s.rings := rfl
@[simp] theorem dropLine_queues (s : State) (id : Nat) : (dropLine s id).queues = s.queues := rfl
@[simp] theorem dropLine_served (s : State) (id : Nat) : (dropLine s id).served = s.served := rfl
@[simp] theorem dropLine_gangs (s : State) (id : Nat) : (dropLine s id).gangs = s.gangs := rfl
@[simp] theorem dropLine_agelim (s : State) (id : Nat) : (dropLine s id).agelim = s.agelim := rfl
@[simp] theorem dropLine_fab (s : State) (id : Nat) : (dropLine s id).fab = s.fab := rfl
@[simp] theorem dropLine_hbm (s : State) (id : Nat) : (dropLine s id).hbm = s.hbm := rfl
@[simp] theorem dropLine_pw (s : State) (id : Nat) : (dropLine s id).pw = s.pw := rfl
@[simp] theorem dropLine_host (s : State) (id : Nat) : (dropLine s id).host = s.host := rfl
@[simp] theorem dropLine_health (s : State) (id : Nat) : (dropLine s id).health = s.health := rfl
@[simp] theorem dropLine_isles (s : State) (id : Nat) : (dropLine s id).isles = s.isles := rfl
@[simp] theorem dropLine_sram (s : State) (id : Nat) : (dropLine s id).sram = s.sram := rfl
@[simp] theorem dropLine_tlb (s : State) (id : Nat) : (dropLine s id).tlb = s.tlb := rfl
@[simp] theorem dropLine_ptrs (s : State) (id : Nat) : (dropLine s id).ptrs = s.ptrs := rfl
@[simp] theorem dropLine_cur (s : State) (id : Nat) : (dropLine s id).cur = s.cur := rfl
@[simp] theorem dropLine_busy (s : State) (id : Nat) : (dropLine s id).busy = s.busy := rfl
@[simp] theorem dropLine_agenda (s : State) (id : Nat) : (dropLine s id).agenda = s.agenda := rfl
@[simp] theorem dropLine_fresh (s : State) (id : Nat) : (dropLine s id).fresh = s.fresh := rfl
@[simp] theorem dropLine_nextId (s : State) (id : Nat) : (dropLine s id).nextId = s.nextId := rfl

@[simp] theorem modHbm_tb (s : State) (f : Hbm → Hbm) : (modHbm s f).tb = s.tb := rfl
@[simp] theorem modHbm_mem (s : State) (f : Hbm → Hbm) : (modHbm s f).mem = s.mem := rfl
@[simp] theorem modHbm_slices (s : State) (f : Hbm → Hbm) : (modHbm s f).slices = s.slices := rfl
@[simp] theorem modHbm_teams (s : State) (f : Hbm → Hbm) : (modHbm s f).teams = s.teams := rfl
@[simp] theorem modHbm_groups (s : State) (f : Hbm → Hbm) : (modHbm s f).groups = s.groups := rfl
@[simp] theorem modHbm_cores (s : State) (f : Hbm → Hbm) : (modHbm s f).cores = s.cores := rfl
@[simp] theorem modHbm_ops (s : State) (f : Hbm → Hbm) : (modHbm s f).ops = s.ops := rfl
@[simp] theorem modHbm_lines (s : State) (f : Hbm → Hbm) : (modHbm s f).lines = s.lines := rfl
@[simp] theorem modHbm_sigs (s : State) (f : Hbm → Hbm) : (modHbm s f).sigs = s.sigs := rfl
@[simp] theorem modHbm_ctxs (s : State) (f : Hbm → Hbm) : (modHbm s f).ctxs = s.ctxs := rfl
@[simp] theorem modHbm_rings (s : State) (f : Hbm → Hbm) : (modHbm s f).rings = s.rings := rfl
@[simp] theorem modHbm_queues (s : State) (f : Hbm → Hbm) : (modHbm s f).queues = s.queues := rfl
@[simp] theorem modHbm_served (s : State) (f : Hbm → Hbm) : (modHbm s f).served = s.served := rfl
@[simp] theorem modHbm_gangs (s : State) (f : Hbm → Hbm) : (modHbm s f).gangs = s.gangs := rfl
@[simp] theorem modHbm_agelim (s : State) (f : Hbm → Hbm) : (modHbm s f).agelim = s.agelim := rfl
@[simp] theorem modHbm_fab (s : State) (f : Hbm → Hbm) : (modHbm s f).fab = s.fab := rfl
@[simp] theorem modHbm_hbm_new (s : State) (f : Hbm → Hbm) : (modHbm s f).hbm = f s.hbm := rfl
@[simp] theorem modHbm_pw (s : State) (f : Hbm → Hbm) : (modHbm s f).pw = s.pw := rfl
@[simp] theorem modHbm_host (s : State) (f : Hbm → Hbm) : (modHbm s f).host = s.host := rfl
@[simp] theorem modHbm_health (s : State) (f : Hbm → Hbm) : (modHbm s f).health = s.health := rfl
@[simp] theorem modHbm_isles (s : State) (f : Hbm → Hbm) : (modHbm s f).isles = s.isles := rfl
@[simp] theorem modHbm_sram (s : State) (f : Hbm → Hbm) : (modHbm s f).sram = s.sram := rfl
@[simp] theorem modHbm_tlb (s : State) (f : Hbm → Hbm) : (modHbm s f).tlb = s.tlb := rfl
@[simp] theorem modHbm_ptrs (s : State) (f : Hbm → Hbm) : (modHbm s f).ptrs = s.ptrs := rfl
@[simp] theorem modHbm_cur (s : State) (f : Hbm → Hbm) : (modHbm s f).cur = s.cur := rfl
@[simp] theorem modHbm_busy (s : State) (f : Hbm → Hbm) : (modHbm s f).busy = s.busy := rfl
@[simp] theorem modHbm_agenda (s : State) (f : Hbm → Hbm) : (modHbm s f).agenda = s.agenda := rfl
@[simp] theorem modHbm_fresh (s : State) (f : Hbm → Hbm) : (modHbm s f).fresh = s.fresh := rfl
@[simp] theorem modHbm_nextId (s : State) (f : Hbm → Hbm) : (modHbm s f).nextId = s.nextId := rfl

@[simp] theorem modIsle_tb (s : State) (n : Nat) (f : Isle → Isle) : (modIsle s n f).tb = s.tb := rfl
@[simp] theorem modIsle_mem (s : State) (n : Nat) (f : Isle → Isle) : (modIsle s n f).mem = s.mem := rfl
@[simp] theorem modIsle_slices (s : State) (n : Nat) (f : Isle → Isle) : (modIsle s n f).slices = s.slices := rfl
@[simp] theorem modIsle_teams (s : State) (n : Nat) (f : Isle → Isle) : (modIsle s n f).teams = s.teams := rfl
@[simp] theorem modIsle_groups (s : State) (n : Nat) (f : Isle → Isle) : (modIsle s n f).groups = s.groups := rfl
@[simp] theorem modIsle_cores (s : State) (n : Nat) (f : Isle → Isle) : (modIsle s n f).cores = s.cores := rfl
@[simp] theorem modIsle_ops (s : State) (n : Nat) (f : Isle → Isle) : (modIsle s n f).ops = s.ops := rfl
@[simp] theorem modIsle_lines (s : State) (n : Nat) (f : Isle → Isle) : (modIsle s n f).lines = s.lines := rfl
@[simp] theorem modIsle_sigs (s : State) (n : Nat) (f : Isle → Isle) : (modIsle s n f).sigs = s.sigs := rfl
@[simp] theorem modIsle_ctxs (s : State) (n : Nat) (f : Isle → Isle) : (modIsle s n f).ctxs = s.ctxs := rfl
@[simp] theorem modIsle_rings (s : State) (n : Nat) (f : Isle → Isle) : (modIsle s n f).rings = s.rings := rfl
@[simp] theorem modIsle_queues (s : State) (n : Nat) (f : Isle → Isle) : (modIsle s n f).queues = s.queues := rfl
@[simp] theorem modIsle_served (s : State) (n : Nat) (f : Isle → Isle) : (modIsle s n f).served = s.served := rfl
@[simp] theorem modIsle_gangs (s : State) (n : Nat) (f : Isle → Isle) : (modIsle s n f).gangs = s.gangs := rfl
@[simp] theorem modIsle_agelim (s : State) (n : Nat) (f : Isle → Isle) : (modIsle s n f).agelim = s.agelim := rfl
@[simp] theorem modIsle_fab (s : State) (n : Nat) (f : Isle → Isle) : (modIsle s n f).fab = s.fab := rfl
@[simp] theorem modIsle_hbm (s : State) (n : Nat) (f : Isle → Isle) : (modIsle s n f).hbm = s.hbm := rfl
@[simp] theorem modIsle_pw (s : State) (n : Nat) (f : Isle → Isle) : (modIsle s n f).pw = s.pw := rfl
@[simp] theorem modIsle_host (s : State) (n : Nat) (f : Isle → Isle) : (modIsle s n f).host = s.host := rfl
@[simp] theorem modIsle_health (s : State) (n : Nat) (f : Isle → Isle) : (modIsle s n f).health = s.health := rfl
@[simp] theorem modIsle_isles_new (s : State) (n : Nat) (f : Isle → Isle) :
    (modIsle s n f).isles = modNth s.isles (n - 384) f := rfl
@[simp] theorem modIsle_sram (s : State) (n : Nat) (f : Isle → Isle) : (modIsle s n f).sram = s.sram := rfl
@[simp] theorem modIsle_tlb (s : State) (n : Nat) (f : Isle → Isle) : (modIsle s n f).tlb = s.tlb := rfl
@[simp] theorem modIsle_ptrs (s : State) (n : Nat) (f : Isle → Isle) : (modIsle s n f).ptrs = s.ptrs := rfl
@[simp] theorem modIsle_cur (s : State) (n : Nat) (f : Isle → Isle) : (modIsle s n f).cur = s.cur := rfl
@[simp] theorem modIsle_busy (s : State) (n : Nat) (f : Isle → Isle) : (modIsle s n f).busy = s.busy := rfl
@[simp] theorem modIsle_agenda (s : State) (n : Nat) (f : Isle → Isle) : (modIsle s n f).agenda = s.agenda := rfl
@[simp] theorem modIsle_fresh (s : State) (n : Nat) (f : Isle → Isle) : (modIsle s n f).fresh = s.fresh := rfl
@[simp] theorem modIsle_nextId (s : State) (n : Nat) (f : Isle → Isle) : (modIsle s n f).nextId = s.nextId := rfl

@[simp] theorem modFab_tb (s : State) (f : Fabric → Fabric) : (modFab s f).tb = s.tb := rfl
@[simp] theorem modFab_mem (s : State) (f : Fabric → Fabric) : (modFab s f).mem = s.mem := rfl
@[simp] theorem modFab_slices (s : State) (f : Fabric → Fabric) : (modFab s f).slices = s.slices := rfl
@[simp] theorem modFab_teams (s : State) (f : Fabric → Fabric) : (modFab s f).teams = s.teams := rfl
@[simp] theorem modFab_groups (s : State) (f : Fabric → Fabric) : (modFab s f).groups = s.groups := rfl
@[simp] theorem modFab_cores (s : State) (f : Fabric → Fabric) : (modFab s f).cores = s.cores := rfl
@[simp] theorem modFab_ops (s : State) (f : Fabric → Fabric) : (modFab s f).ops = s.ops := rfl
@[simp] theorem modFab_lines (s : State) (f : Fabric → Fabric) : (modFab s f).lines = s.lines := rfl
@[simp] theorem modFab_sigs (s : State) (f : Fabric → Fabric) : (modFab s f).sigs = s.sigs := rfl
@[simp] theorem modFab_ctxs (s : State) (f : Fabric → Fabric) : (modFab s f).ctxs = s.ctxs := rfl
@[simp] theorem modFab_rings (s : State) (f : Fabric → Fabric) : (modFab s f).rings = s.rings := rfl
@[simp] theorem modFab_queues (s : State) (f : Fabric → Fabric) : (modFab s f).queues = s.queues := rfl
@[simp] theorem modFab_served (s : State) (f : Fabric → Fabric) : (modFab s f).served = s.served := rfl
@[simp] theorem modFab_gangs (s : State) (f : Fabric → Fabric) : (modFab s f).gangs = s.gangs := rfl
@[simp] theorem modFab_agelim (s : State) (f : Fabric → Fabric) : (modFab s f).agelim = s.agelim := rfl
@[simp] theorem modFab_fab_new (s : State) (f : Fabric → Fabric) : (modFab s f).fab = f s.fab := rfl
@[simp] theorem modFab_hbm (s : State) (f : Fabric → Fabric) : (modFab s f).hbm = s.hbm := rfl
@[simp] theorem modFab_pw (s : State) (f : Fabric → Fabric) : (modFab s f).pw = s.pw := rfl
@[simp] theorem modFab_host (s : State) (f : Fabric → Fabric) : (modFab s f).host = s.host := rfl
@[simp] theorem modFab_health (s : State) (f : Fabric → Fabric) : (modFab s f).health = s.health := rfl
@[simp] theorem modFab_isles (s : State) (f : Fabric → Fabric) : (modFab s f).isles = s.isles := rfl
@[simp] theorem modFab_sram (s : State) (f : Fabric → Fabric) : (modFab s f).sram = s.sram := rfl
@[simp] theorem modFab_tlb (s : State) (f : Fabric → Fabric) : (modFab s f).tlb = s.tlb := rfl
@[simp] theorem modFab_ptrs (s : State) (f : Fabric → Fabric) : (modFab s f).ptrs = s.ptrs := rfl
@[simp] theorem modFab_cur (s : State) (f : Fabric → Fabric) : (modFab s f).cur = s.cur := rfl
@[simp] theorem modFab_busy (s : State) (f : Fabric → Fabric) : (modFab s f).busy = s.busy := rfl
@[simp] theorem modFab_agenda (s : State) (f : Fabric → Fabric) : (modFab s f).agenda = s.agenda := rfl
@[simp] theorem modFab_fresh (s : State) (f : Fabric → Fabric) : (modFab s f).fresh = s.fresh := rfl
@[simp] theorem modFab_nextId (s : State) (f : Fabric → Fabric) : (modFab s f).nextId = s.nextId := rfl

@[simp] theorem modPw_tb (s : State) (f : Power → Power) : (modPw s f).tb = s.tb := rfl
@[simp] theorem modPw_mem (s : State) (f : Power → Power) : (modPw s f).mem = s.mem := rfl
@[simp] theorem modPw_slices (s : State) (f : Power → Power) : (modPw s f).slices = s.slices := rfl
@[simp] theorem modPw_teams (s : State) (f : Power → Power) : (modPw s f).teams = s.teams := rfl
@[simp] theorem modPw_groups (s : State) (f : Power → Power) : (modPw s f).groups = s.groups := rfl
@[simp] theorem modPw_cores (s : State) (f : Power → Power) : (modPw s f).cores = s.cores := rfl
@[simp] theorem modPw_ops (s : State) (f : Power → Power) : (modPw s f).ops = s.ops := rfl
@[simp] theorem modPw_lines (s : State) (f : Power → Power) : (modPw s f).lines = s.lines := rfl
@[simp] theorem modPw_sigs (s : State) (f : Power → Power) : (modPw s f).sigs = s.sigs := rfl
@[simp] theorem modPw_ctxs (s : State) (f : Power → Power) : (modPw s f).ctxs = s.ctxs := rfl
@[simp] theorem modPw_rings (s : State) (f : Power → Power) : (modPw s f).rings = s.rings := rfl
@[simp] theorem modPw_queues (s : State) (f : Power → Power) : (modPw s f).queues = s.queues := rfl
@[simp] theorem modPw_served (s : State) (f : Power → Power) : (modPw s f).served = s.served := rfl
@[simp] theorem modPw_gangs (s : State) (f : Power → Power) : (modPw s f).gangs = s.gangs := rfl
@[simp] theorem modPw_agelim (s : State) (f : Power → Power) : (modPw s f).agelim = s.agelim := rfl
@[simp] theorem modPw_fab (s : State) (f : Power → Power) : (modPw s f).fab = s.fab := rfl
@[simp] theorem modPw_hbm (s : State) (f : Power → Power) : (modPw s f).hbm = s.hbm := rfl
@[simp] theorem modPw_pw_new (s : State) (f : Power → Power) : (modPw s f).pw = f s.pw := rfl
@[simp] theorem modPw_host (s : State) (f : Power → Power) : (modPw s f).host = s.host := rfl
@[simp] theorem modPw_health (s : State) (f : Power → Power) : (modPw s f).health = s.health := rfl
@[simp] theorem modPw_isles (s : State) (f : Power → Power) : (modPw s f).isles = s.isles := rfl
@[simp] theorem modPw_sram (s : State) (f : Power → Power) : (modPw s f).sram = s.sram := rfl
@[simp] theorem modPw_tlb (s : State) (f : Power → Power) : (modPw s f).tlb = s.tlb := rfl
@[simp] theorem modPw_ptrs (s : State) (f : Power → Power) : (modPw s f).ptrs = s.ptrs := rfl
@[simp] theorem modPw_cur (s : State) (f : Power → Power) : (modPw s f).cur = s.cur := rfl
@[simp] theorem modPw_busy (s : State) (f : Power → Power) : (modPw s f).busy = s.busy := rfl
@[simp] theorem modPw_agenda (s : State) (f : Power → Power) : (modPw s f).agenda = s.agenda := rfl
@[simp] theorem modPw_fresh (s : State) (f : Power → Power) : (modPw s f).fresh = s.fresh := rfl
@[simp] theorem modPw_nextId (s : State) (f : Power → Power) : (modPw s f).nextId = s.nextId := rfl

@[simp] theorem modHost_tb (s : State) (f : HostIf → HostIf) : (modHost s f).tb = s.tb := rfl
@[simp] theorem modHost_mem (s : State) (f : HostIf → HostIf) : (modHost s f).mem = s.mem := rfl
@[simp] theorem modHost_slices (s : State) (f : HostIf → HostIf) : (modHost s f).slices = s.slices := rfl
@[simp] theorem modHost_teams (s : State) (f : HostIf → HostIf) : (modHost s f).teams = s.teams := rfl
@[simp] theorem modHost_groups (s : State) (f : HostIf → HostIf) : (modHost s f).groups = s.groups := rfl
@[simp] theorem modHost_cores (s : State) (f : HostIf → HostIf) : (modHost s f).cores = s.cores := rfl
@[simp] theorem modHost_ops (s : State) (f : HostIf → HostIf) : (modHost s f).ops = s.ops := rfl
@[simp] theorem modHost_lines (s : State) (f : HostIf → HostIf) : (modHost s f).lines = s.lines := rfl
@[simp] theorem modHost_sigs (s : State) (f : HostIf → HostIf) : (modHost s f).sigs = s.sigs := rfl
@[simp] theorem modHost_ctxs (s : State) (f : HostIf → HostIf) : (modHost s f).ctxs = s.ctxs := rfl
@[simp] theorem modHost_rings (s : State) (f : HostIf → HostIf) : (modHost s f).rings = s.rings := rfl
@[simp] theorem modHost_queues (s : State) (f : HostIf → HostIf) : (modHost s f).queues = s.queues := rfl
@[simp] theorem modHost_served (s : State) (f : HostIf → HostIf) : (modHost s f).served = s.served := rfl
@[simp] theorem modHost_gangs (s : State) (f : HostIf → HostIf) : (modHost s f).gangs = s.gangs := rfl
@[simp] theorem modHost_agelim (s : State) (f : HostIf → HostIf) : (modHost s f).agelim = s.agelim := rfl
@[simp] theorem modHost_fab (s : State) (f : HostIf → HostIf) : (modHost s f).fab = s.fab := rfl
@[simp] theorem modHost_hbm (s : State) (f : HostIf → HostIf) : (modHost s f).hbm = s.hbm := rfl
@[simp] theorem modHost_pw (s : State) (f : HostIf → HostIf) : (modHost s f).pw = s.pw := rfl
@[simp] theorem modHost_host_new (s : State) (f : HostIf → HostIf) : (modHost s f).host = f s.host := rfl
@[simp] theorem modHost_health (s : State) (f : HostIf → HostIf) : (modHost s f).health = s.health := rfl
@[simp] theorem modHost_isles (s : State) (f : HostIf → HostIf) : (modHost s f).isles = s.isles := rfl
@[simp] theorem modHost_sram (s : State) (f : HostIf → HostIf) : (modHost s f).sram = s.sram := rfl
@[simp] theorem modHost_tlb (s : State) (f : HostIf → HostIf) : (modHost s f).tlb = s.tlb := rfl
@[simp] theorem modHost_ptrs (s : State) (f : HostIf → HostIf) : (modHost s f).ptrs = s.ptrs := rfl
@[simp] theorem modHost_cur (s : State) (f : HostIf → HostIf) : (modHost s f).cur = s.cur := rfl
@[simp] theorem modHost_busy (s : State) (f : HostIf → HostIf) : (modHost s f).busy = s.busy := rfl
@[simp] theorem modHost_agenda (s : State) (f : HostIf → HostIf) : (modHost s f).agenda = s.agenda := rfl
@[simp] theorem modHost_fresh (s : State) (f : HostIf → HostIf) : (modHost s f).fresh = s.fresh := rfl
@[simp] theorem modHost_nextId (s : State) (f : HostIf → HostIf) : (modHost s f).nextId = s.nextId := rfl

@[simp] theorem raiseVector_tb (s : State) (v : Nat) : (raiseVector s v).tb = s.tb := rfl
@[simp] theorem raiseVector_mem (s : State) (v : Nat) : (raiseVector s v).mem = s.mem := rfl
@[simp] theorem raiseVector_slices (s : State) (v : Nat) : (raiseVector s v).slices = s.slices := rfl
@[simp] theorem raiseVector_teams (s : State) (v : Nat) : (raiseVector s v).teams = s.teams := rfl
@[simp] theorem raiseVector_groups (s : State) (v : Nat) : (raiseVector s v).groups = s.groups := rfl
@[simp] theorem raiseVector_cores (s : State) (v : Nat) : (raiseVector s v).cores = s.cores := rfl
@[simp] theorem raiseVector_ops (s : State) (v : Nat) : (raiseVector s v).ops = s.ops := rfl
@[simp] theorem raiseVector_lines (s : State) (v : Nat) : (raiseVector s v).lines = s.lines := rfl
@[simp] theorem raiseVector_sigs (s : State) (v : Nat) : (raiseVector s v).sigs = s.sigs := rfl
@[simp] theorem raiseVector_ctxs (s : State) (v : Nat) : (raiseVector s v).ctxs = s.ctxs := rfl
@[simp] theorem raiseVector_rings (s : State) (v : Nat) : (raiseVector s v).rings = s.rings := rfl
@[simp] theorem raiseVector_queues (s : State) (v : Nat) : (raiseVector s v).queues = s.queues := rfl
@[simp] theorem raiseVector_served (s : State) (v : Nat) : (raiseVector s v).served = s.served := rfl
@[simp] theorem raiseVector_gangs (s : State) (v : Nat) : (raiseVector s v).gangs = s.gangs := rfl
@[simp] theorem raiseVector_agelim (s : State) (v : Nat) : (raiseVector s v).agelim = s.agelim := rfl
@[simp] theorem raiseVector_fab (s : State) (v : Nat) : (raiseVector s v).fab = s.fab := rfl
@[simp] theorem raiseVector_hbm (s : State) (v : Nat) : (raiseVector s v).hbm = s.hbm := rfl
@[simp] theorem raiseVector_pw (s : State) (v : Nat) : (raiseVector s v).pw = s.pw := rfl
@[simp] theorem raiseVector_host_new (s : State) (v : Nat) :
    (raiseVector s v).host = { s.host with vectors := s.host.vectors ++ [v] } := rfl
@[simp] theorem raiseVector_health (s : State) (v : Nat) : (raiseVector s v).health = s.health := rfl
@[simp] theorem raiseVector_isles (s : State) (v : Nat) : (raiseVector s v).isles = s.isles := rfl
@[simp] theorem raiseVector_sram (s : State) (v : Nat) : (raiseVector s v).sram = s.sram := rfl
@[simp] theorem raiseVector_tlb (s : State) (v : Nat) : (raiseVector s v).tlb = s.tlb := rfl
@[simp] theorem raiseVector_ptrs (s : State) (v : Nat) : (raiseVector s v).ptrs = s.ptrs := rfl
@[simp] theorem raiseVector_cur (s : State) (v : Nat) : (raiseVector s v).cur = s.cur := rfl
@[simp] theorem raiseVector_busy (s : State) (v : Nat) : (raiseVector s v).busy = s.busy := rfl
@[simp] theorem raiseVector_agenda (s : State) (v : Nat) : (raiseVector s v).agenda = s.agenda := rfl
@[simp] theorem raiseVector_fresh (s : State) (v : Nat) : (raiseVector s v).fresh = s.fresh := rfl
@[simp] theorem raiseVector_nextId (s : State) (v : Nat) : (raiseVector s v).nextId = s.nextId := rfl

@[simp] theorem raiseAlert_tb (s : State) : (raiseAlert s).tb = s.tb := rfl
@[simp] theorem raiseAlert_mem (s : State) : (raiseAlert s).mem = s.mem := rfl
@[simp] theorem raiseAlert_slices (s : State) : (raiseAlert s).slices = s.slices := rfl
@[simp] theorem raiseAlert_teams (s : State) : (raiseAlert s).teams = s.teams := rfl
@[simp] theorem raiseAlert_groups (s : State) : (raiseAlert s).groups = s.groups := rfl
@[simp] theorem raiseAlert_cores (s : State) : (raiseAlert s).cores = s.cores := rfl
@[simp] theorem raiseAlert_ops (s : State) : (raiseAlert s).ops = s.ops := rfl
@[simp] theorem raiseAlert_lines (s : State) : (raiseAlert s).lines = s.lines := rfl
@[simp] theorem raiseAlert_sigs (s : State) : (raiseAlert s).sigs = s.sigs := rfl
@[simp] theorem raiseAlert_ctxs (s : State) : (raiseAlert s).ctxs = s.ctxs := rfl
@[simp] theorem raiseAlert_rings (s : State) : (raiseAlert s).rings = s.rings := rfl
@[simp] theorem raiseAlert_queues (s : State) : (raiseAlert s).queues = s.queues := rfl
@[simp] theorem raiseAlert_served (s : State) : (raiseAlert s).served = s.served := rfl
@[simp] theorem raiseAlert_gangs (s : State) : (raiseAlert s).gangs = s.gangs := rfl
@[simp] theorem raiseAlert_agelim (s : State) : (raiseAlert s).agelim = s.agelim := rfl
@[simp] theorem raiseAlert_fab (s : State) : (raiseAlert s).fab = s.fab := rfl
@[simp] theorem raiseAlert_hbm (s : State) : (raiseAlert s).hbm = s.hbm := rfl
@[simp] theorem raiseAlert_pw (s : State) : (raiseAlert s).pw = s.pw := rfl
@[simp] theorem raiseAlert_host_new (s : State) :
    (raiseAlert s).host = { s.host with alertN := true, alerts := s.host.alerts + 1 } := rfl
@[simp] theorem raiseAlert_health (s : State) : (raiseAlert s).health = s.health := rfl
@[simp] theorem raiseAlert_isles (s : State) : (raiseAlert s).isles = s.isles := rfl
@[simp] theorem raiseAlert_sram (s : State) : (raiseAlert s).sram = s.sram := rfl
@[simp] theorem raiseAlert_tlb (s : State) : (raiseAlert s).tlb = s.tlb := rfl
@[simp] theorem raiseAlert_ptrs (s : State) : (raiseAlert s).ptrs = s.ptrs := rfl
@[simp] theorem raiseAlert_cur (s : State) : (raiseAlert s).cur = s.cur := rfl
@[simp] theorem raiseAlert_busy (s : State) : (raiseAlert s).busy = s.busy := rfl
@[simp] theorem raiseAlert_agenda (s : State) : (raiseAlert s).agenda = s.agenda := rfl
@[simp] theorem raiseAlert_fresh (s : State) : (raiseAlert s).fresh = s.fresh := rfl
@[simp] theorem raiseAlert_nextId (s : State) : (raiseAlert s).nextId = s.nextId := rfl

@[simp] theorem issueDone_tb (s : State) (n : Nat) : (issueDone s n).tb = s.tb := rfl
@[simp] theorem issueDone_mem (s : State) (n : Nat) : (issueDone s n).mem = s.mem := rfl
@[simp] theorem issueDone_slices (s : State) (n : Nat) : (issueDone s n).slices = s.slices := rfl
@[simp] theorem issueDone_teams (s : State) (n : Nat) : (issueDone s n).teams = s.teams := rfl
@[simp] theorem issueDone_groups_new (s : State) (n : Nat) :
    (issueDone s n).groups = s.groups.map fun g => if g.id == s.cur.grp then g.advance s.cur.mask n else g := rfl
@[simp] theorem issueDone_cores (s : State) (n : Nat) : (issueDone s n).cores = s.cores := rfl
@[simp] theorem issueDone_ops (s : State) (n : Nat) : (issueDone s n).ops = s.ops := rfl
@[simp] theorem issueDone_lines (s : State) (n : Nat) : (issueDone s n).lines = s.lines := rfl
@[simp] theorem issueDone_sigs (s : State) (n : Nat) : (issueDone s n).sigs = s.sigs := rfl
@[simp] theorem issueDone_ctxs (s : State) (n : Nat) : (issueDone s n).ctxs = s.ctxs := rfl
@[simp] theorem issueDone_rings (s : State) (n : Nat) : (issueDone s n).rings = s.rings := rfl
@[simp] theorem issueDone_queues (s : State) (n : Nat) : (issueDone s n).queues = s.queues := rfl
@[simp] theorem issueDone_served (s : State) (n : Nat) : (issueDone s n).served = s.served := rfl
@[simp] theorem issueDone_gangs (s : State) (n : Nat) : (issueDone s n).gangs = s.gangs := rfl
@[simp] theorem issueDone_agelim (s : State) (n : Nat) : (issueDone s n).agelim = s.agelim := rfl
@[simp] theorem issueDone_fab (s : State) (n : Nat) : (issueDone s n).fab = s.fab := rfl
@[simp] theorem issueDone_hbm (s : State) (n : Nat) : (issueDone s n).hbm = s.hbm := rfl
@[simp] theorem issueDone_pw (s : State) (n : Nat) : (issueDone s n).pw = s.pw := rfl
@[simp] theorem issueDone_host (s : State) (n : Nat) : (issueDone s n).host = s.host := rfl
@[simp] theorem issueDone_health (s : State) (n : Nat) : (issueDone s n).health = s.health := rfl
@[simp] theorem issueDone_isles (s : State) (n : Nat) : (issueDone s n).isles = s.isles := rfl
@[simp] theorem issueDone_sram (s : State) (n : Nat) : (issueDone s n).sram = s.sram := rfl
@[simp] theorem issueDone_tlb (s : State) (n : Nat) : (issueDone s n).tlb = s.tlb := rfl
@[simp] theorem issueDone_ptrs (s : State) (n : Nat) : (issueDone s n).ptrs = s.ptrs := rfl
@[simp] theorem issueDone_cur (s : State) (n : Nat) : (issueDone s n).cur = s.cur := rfl
@[simp] theorem issueDone_busy_new (s : State) (n : Nat) : (issueDone s n).busy = false := rfl
@[simp] theorem issueDone_agenda (s : State) (n : Nat) : (issueDone s n).agenda = s.agenda := rfl
@[simp] theorem issueDone_fresh (s : State) (n : Nat) : (issueDone s n).fresh = s.fresh := rfl
@[simp] theorem issueDone_nextId (s : State) (n : Nat) : (issueDone s n).nextId = s.nextId := rfl

/-- An operation's late effect on its group changes the group, and what a replay would bring back, and nothing else. -/
@[simp] theorem modGroupSince_groups (s : State) (gid id : Nat) (f : Group → Group) :
    (modGroupSince s gid id f).groups = s.groups.map fun g => if g.id == gid then f g else g := by
  unfold modGroupSince
  split
  · rfl
  · split
    next h =>
      simp only [getGroup, List.find?_eq_none] at h
      conv => lhs; rw [← List.map_id s.groups]
      exact List.map_congr_left fun g hg => by simp [h g hg]
    · rfl

@[simp] theorem modGroupSince_tb (s : State) (gid id : Nat) (f : Group → Group) :
    (modGroupSince s gid id f).tb = s.tb := by
  unfold modGroupSince
  split
  · rfl
  · split <;> rfl
@[simp] theorem modGroupSince_mem (s : State) (gid id : Nat) (f : Group → Group) :
    (modGroupSince s gid id f).mem = s.mem := by
  unfold modGroupSince
  split
  · rfl
  · split <;> rfl
@[simp] theorem modGroupSince_slices (s : State) (gid id : Nat) (f : Group → Group) :
    (modGroupSince s gid id f).slices = s.slices := by
  unfold modGroupSince
  split
  · rfl
  · split <;> rfl
@[simp] theorem modGroupSince_teams (s : State) (gid id : Nat) (f : Group → Group) :
    (modGroupSince s gid id f).teams = s.teams := by
  unfold modGroupSince
  split
  · rfl
  · split <;> rfl
@[simp] theorem modGroupSince_ops (s : State) (gid id : Nat) (f : Group → Group) :
    (modGroupSince s gid id f).ops = s.ops := by
  unfold modGroupSince
  split
  · rfl
  · split <;> rfl
@[simp] theorem modGroupSince_lines (s : State) (gid id : Nat) (f : Group → Group) :
    (modGroupSince s gid id f).lines = s.lines := by
  unfold modGroupSince
  split
  · rfl
  · split <;> rfl
@[simp] theorem modGroupSince_sigs (s : State) (gid id : Nat) (f : Group → Group) :
    (modGroupSince s gid id f).sigs = s.sigs := by
  unfold modGroupSince
  split
  · rfl
  · split <;> rfl
@[simp] theorem modGroupSince_ctxs (s : State) (gid id : Nat) (f : Group → Group) :
    (modGroupSince s gid id f).ctxs = s.ctxs := by
  unfold modGroupSince
  split
  · rfl
  · split <;> rfl
@[simp] theorem modGroupSince_rings (s : State) (gid id : Nat) (f : Group → Group) :
    (modGroupSince s gid id f).rings = s.rings := by
  unfold modGroupSince
  split
  · rfl
  · split <;> rfl
@[simp] theorem modGroupSince_queues (s : State) (gid id : Nat) (f : Group → Group) :
    (modGroupSince s gid id f).queues = s.queues := by
  unfold modGroupSince
  split
  · rfl
  · split <;> rfl
@[simp] theorem modGroupSince_served (s : State) (gid id : Nat) (f : Group → Group) :
    (modGroupSince s gid id f).served = s.served := by
  unfold modGroupSince
  split
  · rfl
  · split <;> rfl
@[simp] theorem modGroupSince_gangs (s : State) (gid id : Nat) (f : Group → Group) :
    (modGroupSince s gid id f).gangs = s.gangs := by
  unfold modGroupSince
  split
  · rfl
  · split <;> rfl
@[simp] theorem modGroupSince_agelim (s : State) (gid id : Nat) (f : Group → Group) :
    (modGroupSince s gid id f).agelim = s.agelim := by
  unfold modGroupSince
  split
  · rfl
  · split <;> rfl
@[simp] theorem modGroupSince_fab (s : State) (gid id : Nat) (f : Group → Group) :
    (modGroupSince s gid id f).fab = s.fab := by
  unfold modGroupSince
  split
  · rfl
  · split <;> rfl
@[simp] theorem modGroupSince_hbm (s : State) (gid id : Nat) (f : Group → Group) :
    (modGroupSince s gid id f).hbm = s.hbm := by
  unfold modGroupSince
  split
  · rfl
  · split <;> rfl
@[simp] theorem modGroupSince_pw (s : State) (gid id : Nat) (f : Group → Group) :
    (modGroupSince s gid id f).pw = s.pw := by
  unfold modGroupSince
  split
  · rfl
  · split <;> rfl
@[simp] theorem modGroupSince_host (s : State) (gid id : Nat) (f : Group → Group) :
    (modGroupSince s gid id f).host = s.host := by
  unfold modGroupSince
  split
  · rfl
  · split <;> rfl
@[simp] theorem modGroupSince_health (s : State) (gid id : Nat) (f : Group → Group) :
    (modGroupSince s gid id f).health = s.health := by
  unfold modGroupSince
  split
  · rfl
  · split <;> rfl
@[simp] theorem modGroupSince_isles (s : State) (gid id : Nat) (f : Group → Group) :
    (modGroupSince s gid id f).isles = s.isles := by
  unfold modGroupSince
  split
  · rfl
  · split <;> rfl
@[simp] theorem modGroupSince_sram (s : State) (gid id : Nat) (f : Group → Group) :
    (modGroupSince s gid id f).sram = s.sram := by
  unfold modGroupSince
  split
  · rfl
  · split <;> rfl
@[simp] theorem modGroupSince_tlb (s : State) (gid id : Nat) (f : Group → Group) :
    (modGroupSince s gid id f).tlb = s.tlb := by
  unfold modGroupSince
  split
  · rfl
  · split <;> rfl
@[simp] theorem modGroupSince_ptrs (s : State) (gid id : Nat) (f : Group → Group) :
    (modGroupSince s gid id f).ptrs = s.ptrs := by
  unfold modGroupSince
  split
  · rfl
  · split <;> rfl
@[simp] theorem modGroupSince_cur (s : State) (gid id : Nat) (f : Group → Group) :
    (modGroupSince s gid id f).cur = s.cur := by
  unfold modGroupSince
  split
  · rfl
  · split <;> rfl
@[simp] theorem modGroupSince_busy (s : State) (gid id : Nat) (f : Group → Group) :
    (modGroupSince s gid id f).busy = s.busy := by
  unfold modGroupSince
  split
  · rfl
  · split <;> rfl
@[simp] theorem modGroupSince_agenda (s : State) (gid id : Nat) (f : Group → Group) :
    (modGroupSince s gid id f).agenda = s.agenda := by
  unfold modGroupSince
  split
  · rfl
  · split <;> rfl
@[simp] theorem modGroupSince_fresh (s : State) (gid id : Nat) (f : Group → Group) :
    (modGroupSince s gid id f).fresh = s.fresh := by
  unfold modGroupSince
  split
  · rfl
  · split <;> rfl
@[simp] theorem modGroupSince_nextId (s : State) (gid id : Nat) (f : Group → Group) :
    (modGroupSince s gid id f).nextId = s.nextId := by
  unfold modGroupSince
  split
  · rfl
  · split <;> rfl

@[simp] theorem passOp_tb (s : State) (o : Op) :
    (passOp s o).tb = s.tb := modGroupSince_tb ..
@[simp] theorem passOp_mem (s : State) (o : Op) :
    (passOp s o).mem = s.mem := modGroupSince_mem ..
@[simp] theorem passOp_slices (s : State) (o : Op) :
    (passOp s o).slices = s.slices := modGroupSince_slices ..
@[simp] theorem passOp_teams (s : State) (o : Op) :
    (passOp s o).teams = s.teams := modGroupSince_teams ..
@[simp] theorem passOp_groups (s : State) (o : Op) :
    (passOp s o).groups = s.groups.map fun g => if g.id == o.grp then g.advance o.carried o.i.len else g := modGroupSince_groups ..
@[simp] theorem passOp_ops (s : State) (o : Op) :
    (passOp s o).ops = s.ops := modGroupSince_ops ..
@[simp] theorem passOp_lines (s : State) (o : Op) :
    (passOp s o).lines = s.lines := modGroupSince_lines ..
@[simp] theorem passOp_sigs (s : State) (o : Op) :
    (passOp s o).sigs = s.sigs := modGroupSince_sigs ..
@[simp] theorem passOp_ctxs (s : State) (o : Op) :
    (passOp s o).ctxs = s.ctxs := modGroupSince_ctxs ..
@[simp] theorem passOp_rings (s : State) (o : Op) :
    (passOp s o).rings = s.rings := modGroupSince_rings ..
@[simp] theorem passOp_queues (s : State) (o : Op) :
    (passOp s o).queues = s.queues := modGroupSince_queues ..
@[simp] theorem passOp_served (s : State) (o : Op) :
    (passOp s o).served = s.served := modGroupSince_served ..
@[simp] theorem passOp_gangs (s : State) (o : Op) :
    (passOp s o).gangs = s.gangs := modGroupSince_gangs ..
@[simp] theorem passOp_agelim (s : State) (o : Op) :
    (passOp s o).agelim = s.agelim := modGroupSince_agelim ..
@[simp] theorem passOp_fab (s : State) (o : Op) :
    (passOp s o).fab = s.fab := modGroupSince_fab ..
@[simp] theorem passOp_hbm (s : State) (o : Op) :
    (passOp s o).hbm = s.hbm := modGroupSince_hbm ..
@[simp] theorem passOp_pw (s : State) (o : Op) :
    (passOp s o).pw = s.pw := modGroupSince_pw ..
@[simp] theorem passOp_host (s : State) (o : Op) :
    (passOp s o).host = s.host := modGroupSince_host ..
@[simp] theorem passOp_health (s : State) (o : Op) :
    (passOp s o).health = s.health := modGroupSince_health ..
@[simp] theorem passOp_isles (s : State) (o : Op) :
    (passOp s o).isles = s.isles := modGroupSince_isles ..
@[simp] theorem passOp_sram (s : State) (o : Op) :
    (passOp s o).sram = s.sram := modGroupSince_sram ..
@[simp] theorem passOp_tlb (s : State) (o : Op) :
    (passOp s o).tlb = s.tlb := modGroupSince_tlb ..
@[simp] theorem passOp_ptrs (s : State) (o : Op) :
    (passOp s o).ptrs = s.ptrs := modGroupSince_ptrs ..
@[simp] theorem passOp_cur (s : State) (o : Op) :
    (passOp s o).cur = s.cur := modGroupSince_cur ..
@[simp] theorem passOp_busy (s : State) (o : Op) :
    (passOp s o).busy = s.busy := modGroupSince_busy ..
@[simp] theorem passOp_agenda (s : State) (o : Op) :
    (passOp s o).agenda = s.agenda := modGroupSince_agenda ..
@[simp] theorem passOp_fresh (s : State) (o : Op) :
    (passOp s o).fresh = s.fresh := modGroupSince_fresh ..
@[simp] theorem passOp_nextId (s : State) (o : Op) :
    (passOp s o).nextId = s.nextId := modGroupSince_nextId ..

end Sys2Proof.Machine
end

