-- ==== Sys2Proof/Laws/Lane.lean ====
section
/-! SUPPORT. What an issue of a group does: the group it names, the end of the issue, and everything that an instruction of
the lanes can do (R107). -/

namespace Sys2Proof.Machine

open Sys2Proof.Safety

/-! ## The group of the issue -/

/-- The group that a handle names has that handle. -/
theorem getGroup_id {s : State} {id : Nat} {g : Group} (h : getGroup s id = some g) : g.id = id := by
  have := List.find?_some h
  simpa using this

/-- Changing one group, which keeps its handle, is seen through that handle. -/
theorem getGroup_modGroup_same (s : State) (id : Nat) (f : Group → Group) (g : Group) (h : getGroup s id = some g)
    (hf : ∀ x, (f x).id = x.id) : getGroup (modGroup s id f) id = some (f g) := by
  unfold getGroup modGroup at *
  revert h
  show s.groups.find? _ = some g → _
  induction s.groups with
  | nil => intro h; simp at h
  | cons x xs ih =>
    intro h
    by_cases hx : (x.id == id) = true
    · have hx2 : ((f x).id == id) = true := by rw [hf]; exact hx
      rw [List.find?_cons_of_pos (by exact hx)] at h
      obtain rfl : x = g := Option.some.inj h
      simp only [List.map_cons, hx, if_true, List.find?_cons, hx2]
    · have hx' : (x.id == id) = false := by simpa using hx
      rw [List.find?_cons_of_neg (by simp [hx'])] at h
      simp only [List.map_cons, hx', List.find?_cons, Bool.false_eq_true, if_false]
      exact ih h

/-- Changing one group leaves every other. -/
theorem getGroup_modGroup_other (s : State) (id k : Nat) (f : Group → Group) (hk : k ≠ id) (hf : ∀ x, (f x).id = x.id) :
    getGroup (modGroup s id f) k = getGroup s k := by
  unfold getGroup modGroup
  show (s.groups.map _).find? _ = s.groups.find? _
  induction s.groups with
  | nil => rfl
  | cons x xs ih =>
    by_cases hx : (x.id == id) = true
    · have e : x.id = id := by simpa using hx
      have h1 : ((f x).id == k) = false := by rw [hf, e]; simpa using fun h : id = k => hk h.symm
      have h2 : (x.id == k) = false := by rw [e]; simpa using fun h : id = k => hk h.symm
      simp only [List.map_cons, hx, if_true, List.find?_cons, h1, h2]
      exact ih
    · have hx' : (x.id == id) = false := by simpa using hx
      simp only [List.map_cons, hx', List.find?_cons, Bool.false_eq_true, if_false]
      split
      · rfl
      · exact ih

/-- What a view holds of the state. -/
theorem viewOf_some {s : State} {v : View} (h : viewOf s = some v) :
    getGroup s s.cur.grp = some v.g ∧ v.g.id = s.cur.grp ∧ v.carried = s.cur.mask ∧ v.pc = s.cur.pc := by
  unfold viewOf at h
  cases hg : curGroup s with
  | none => rw [hg] at h; simp at h
  | some g =>
    rw [hg] at h
    simp only [Option.some.injEq] at h
    subst h
    exact ⟨hg, getGroup_id hg, rfl, rfl⟩

/-- An operation on a group that keeps its handle. -/
theorem writesFixed_id (cyc lat : Nat) (ws : List (Dst × Word)) : ∀ g : Group, (g.writesFixed cyc lat ws).id = g.id := by
  intro g
  have h := congrArg Group.id (bareGroup_writesFixed cyc lat ws g)
  exact h

/-- Going on keeps what a place holds and reads, and which places are one cell. -/
theorem read_advance (g : Group) (m : Mask) (len c : Nat) (d : Dst) : (g.advance m len).read c d = g.read c d := by
  have key : ∀ l : Nat, ((g.advance m len).lane l).rf = (g.lane l).rf ∧ ((g.advance m len).lane l).bv = (g.lane l).bv ∧
      ((g.advance m len).lane l).preds = (g.lane l).preds ∧ ((g.advance m len).lane l).bp = (g.lane l).bp := by
    intro l
    by_cases hl : l < g.lanes.length
    · have e : (g.advance m len).lane l = _ := nth_mapIdx Lane.none
        (fun i l => if m.has i then { l with pc := l.pc + BitVec.ofNat 64 len } else l) g.lanes l hl
      rw [e]
      show (if m.has l then _ else _ : Lane).rf = _ ∧ _
      split <;> exact ⟨rfl, rfl, rfl, rfl⟩
    · have e1 : (g.advance m len).lane l = Lane.none := nth_beyond _ _ _ (by simp [Group.advance, Group.modLanes]; omega)
      have e2 : g.lane l = Lane.none := nth_beyond _ _ _ (by omega)
      rw [e1, e2]; exact ⟨rfl, rfl, rfl, rfl⟩
  have hget : (g.advance m len).get d = g.get d := by
    cases d with
    | v l x =>
      obtain ⟨k1, k2, -, -⟩ := key l
      simp only [Group.get, Lane.stk, Lane.rz, k1, k2]
    | p l n =>
      obtain ⟨-, -, k1, k2⟩ := key l
      simp only [Group.get, k1, k2]
    | g n => rfl
    | gf b => rfl
  unfold Group.read
  rw [hget]; rfl

/-- FSTAT is no place. -/
theorem read_orFstat (g : Group) (f : BitVec 5) (c : Nat) (d : Dst) : (g.orFstat f).read c d = g.read c d := by
  unfold Group.orFstat
  split <;> (unfold Group.read; cases d <;> rfl)

/-- The carried fibres go on. -/
theorem bareGroup_advance (g : Group) (m : Mask) (len : Nat) :
    bareGroup (g.advance m len) = bareGroup (stepOn g m len) := rfl

/-- Going on depends on nothing that a write of registers changes. -/
theorem bareGroup_stepOn {g g' : Group} (m : Mask) (len : Nat) (h : bareGroup g' = bareGroup g) :
    bareGroup (stepOn g' m len) = bareGroup (stepOn g m len) := by
  have hl : (bareGroup g').lanes = (bareGroup g).lanes := congrArg Group.lanes h
  change g'.lanes.map bareLane = g.lanes.map bareLane at hl
  have e : ∀ x : Group, bareGroup (stepOn x m len) = { bareGroup x with
      lanes := (x.lanes.map bareLane).mapIdx fun i l => if m.has i then { l with pc := l.pc + BitVec.ofNat 64 len } else l } := by
    intro x
    have k : ∀ (f f' : Nat → Lane → Lane), (∀ i l, bareLane (f i l) = f' i (bareLane l)) → ∀ xs : List Lane,
        (xs.mapIdx f).map bareLane = (xs.map bareLane).mapIdx f' := by
      intro f f' hf xs
      apply List.ext_getElem?
      intro i
      simp only [List.getElem?_map, List.getElem?_mapIdx]
      cases xs[i]? <;> simp [hf]
    simp only [bareGroup, stepOn]
    rw [k _ (fun i l => if m.has i then { l with pc := l.pc + BitVec.ofNat 64 len } else l)]
    intro i l
    split <;> rfl
  rw [e, e, h, hl]

/-- FSTAT changes nothing else. -/
theorem bareGroup_orFstat {g g' : Group} (f : BitVec 5) (h : bareGroup g' = bareGroup g) :
    bareGroup (g'.orFstat f) = bareGroup (g.orFstat f) := by
  have hb : (bareGroup g').onBank = (bareGroup g).onBank := congrArg (fun x : Group => x.st.active) h
  change g'.onBank = g.onBank at hb
  unfold Group.orFstat
  rw [hb]
  split
  · have k : (bareGroup g').bfstat = (bareGroup g).bfstat := congrArg Group.bfstat h
    change g'.bfstat = g.bfstat at k
    have e : ∀ x : Group, bareGroup { x with bfstat := x.bfstat ||| f } = { bareGroup x with bfstat := x.bfstat ||| f } :=
      fun _ => rfl
    rw [e, e, h, k]
  · have k : (bareGroup g').fstat = (bareGroup g).fstat := congrArg Group.fstat h
    change g'.fstat = g.fstat at k
    have e : ∀ x : Group, bareGroup { x with fstat := x.fstat ||| f } = { bareGroup x with fstat := x.fstat ||| f } :=
      fun _ => rfl
    rw [e, e, h, k]

/-- The end of an issue that changes its own group only. -/
theorem onlyGroup_done (s : State) (v : View) (f : Group → Group) (len : Nat) (h : viewOf s = some v)
    (hf : ∀ x, (f x).id = x.id) :
    OnlyGroup s (issueDone (modGroup s v.g.id f) len) v.g.id ∧
      getGroup (issueDone (modGroup s v.g.id f) len) v.g.id = some ((f v.g).advance v.carried len) := by
  obtain ⟨hg, hid, hm, -⟩ := viewOf_some h
  rw [hid]
  have ha : ∀ x : Group, (x.advance s.cur.mask len).id = x.id := fun _ => rfl
  have e : ∀ k, getGroup (issueDone (modGroup s s.cur.grp f) len) k =
      getGroup (modGroup (modGroup s s.cur.grp f) s.cur.grp fun g => g.advance s.cur.mask len) k := fun _ => rfl
  refine ⟨⟨rfl, ?_, rfl, fun _ => rfl⟩, ?_⟩
  · intro k hk
    rw [e, getGroup_modGroup_other _ _ _ _ hk ha, getGroup_modGroup_other _ _ _ _ hk hf]
  · rw [e, getGroup_modGroup_same _ _ _ _ (getGroup_modGroup_same _ _ _ _ hg hf) ha, hm]

/-! ## Results of lanes -/

/-- The lane that a place belongs to. -/
def laneOfDst : Dst → Option Nat
  | .v l _ => some l
  | .p l _ => some l
  | _ => none

/-- Results of one lane: their places exist, are the lane's own and pairwise different cells. -/
structure LanePlaces (g : Group) (l : Nat) (ws : List (Dst × Word)) : Prop where
  exist : Exist g ws
  apart : Apart g ws
  own : ∀ x ∈ ws, laneOfDst x.1 = some l

/-- Places of different lanes are different cells. -/
theorem sameCell_lanes (g : Group) {a b : Dst} {l m : Nat} (ha : laneOfDst a = some l) (hb : laneOfDst b = some m)
    (h : l ≠ m) : sameCell g a b = false := by
  cases a <;> cases b <;> simp_all [laneOfDst, sameCell]

/-- Results of several lanes. -/
theorem places_lanes (g : Group) (f : Nat → List (Dst × Word)) :
    ∀ ls : List Nat, ls.Nodup → (∀ l ∈ ls, LanePlaces g l (f l)) → Exist g (ls.flatMap f) ∧ Apart g (ls.flatMap f) := by
  intro ls
  induction ls with
  | nil => intro _ _; exact ⟨by simp [Exist], List.Pairwise.nil⟩
  | cons l ls ih =>
    intro hn h
    obtain ⟨hn1, hn2⟩ := List.nodup_cons.1 hn
    obtain ⟨e1, e2⟩ := ih hn2 fun m hm => h m (by simp [hm])
    have hl := h l (by simp)
    refine ⟨?_, ?_⟩
    · intro x hx
      rw [List.flatMap_cons, List.mem_append] at hx
      exact hx.elim (hl.exist x) (e1 x)
    · rw [List.flatMap_cons]
      refine List.pairwise_append.2 ⟨hl.apart, e2, ?_⟩
      intro a ha b hb _ _
      obtain ⟨m, hm, hbm⟩ := List.mem_flatMap.1 hb
      exact sameCell_lanes g (hl.own a ha) ((h m (by simp [hm])).own b hbm) fun k => hn1 (k ▸ hm)

/-- The lanes of a mask are different, and lanes of a group. -/
theorem lanesOf_nodup (m : Mask) : (lanesOf m).Nodup := (List.nodup_range).filter _

/-- A lane of a mask is one of 64. -/
theorem lt_of_mem_lanesOf {m : Mask} {l : Nat} (h : l ∈ lanesOf m) : l < 64 := by
  have := (List.mem_filter.1 h).1
  simpa using this

/-- A window register of a lane of a well-shaped group exists. -/
theorem vPlace_exists (g : Group) (l k : Nat) (hs : groupShaped g = true) (hw : windowsInside g = true) (hl : l < 64)
    (hk : k < 64) : placeExists g (g.vPlace l k) = true := by
  simp only [groupShaped, Bool.and_eq_true, beq_iff_eq, List.all_eq_true] at hs
  obtain ⟨⟨⟨h64, -⟩, -⟩, hall⟩ := hs
  have hmem : g.lane l ∈ g.lanes := by
    have : ∀ (xs : List Lane) (n : Nat), n < xs.length → nth Lane.none xs n ∈ xs := by
      intro xs
      induction xs with
      | nil => intro n h; simp at h
      | cons x xs ih => intro n h; cases n with
        | zero => simp [nth]
        | succ n => simp only [nth, List.mem_cons]; exact .inr (ih n (by simpa using h))
    exact this _ _ (by omega)
  have h1 := hall _ hmem
  simp only [laneShaped, Bool.and_eq_true, decide_eq_true_eq, beq_iff_eq] at h1
  unfold Group.vPlace
  split
  · simp only [placeExists, Bool.and_eq_true, decide_eq_true_eq]
    refine ⟨by omega, ?_⟩
    rw [if_neg (by omega), decide_eq_true_eq]; omega
  · next hb =>
    simp only [windowsInside, Bool.or_eq_true, List.all_eq_true, decide_eq_true_eq] at hw
    have h2 := (hw.resolve_left (by simpa using hb)) _ hmem
    simp only [placeExists, Bool.and_eq_true, decide_eq_true_eq]
    refine ⟨by omega, ?_⟩
    rw [if_pos (by omega), decide_eq_true_eq, Lane.rz]; omega

/-- Two window registers of a lane fewer than 64 apart are different cells. -/
theorem vPlace_apart (g : Group) (l j k : Nat) (hs : groupShaped g = true) (hw : windowsInside g = true) (hl : l < 64)
    (hj : j < 64) (hk : k < 64) (h : j ≠ k) : sameCell g (g.vPlace l j) (g.vPlace l k) = false := by
  have e1 := vPlace_exists g l j hs hw hl hj
  simp only [groupShaped, Bool.and_eq_true, beq_iff_eq, List.all_eq_true] at hs
  obtain ⟨⟨⟨h64, -⟩, -⟩, hall⟩ := hs
  have hmem : g.lane l ∈ g.lanes := by
    have : ∀ (xs : List Lane) (n : Nat), n < xs.length → nth Lane.none xs n ∈ xs := by
      intro xs
      induction xs with
      | nil => intro n h; simp at h
      | cons x xs ih => intro n h; cases n with
        | zero => simp [nth]
        | succ n => simp only [nth, List.mem_cons]; exact .inr (ih n (by simpa using h))
    exact this _ _ (by omega)
  have h1 := hall _ hmem
  simp only [laneShaped, Bool.and_eq_true, decide_eq_true_eq, beq_iff_eq] at h1
  unfold Group.vPlace
  split
  · simp only [sameCell, beq_self_eq_true, Bool.true_and]
    rw [if_neg (by omega), beq_eq_false_iff_ne]; omega
  · next hb =>
    simp only [windowsInside, Bool.or_eq_true, List.all_eq_true, decide_eq_true_eq] at hw
    have h2 := (hw.resolve_left (by simpa using hb)) _ hmem
    simp only [sameCell, beq_self_eq_true, Bool.true_and]
    rw [if_pos (by omega), beq_eq_false_iff_ne]
    intro he
    have hr : 64 ≤ (g.lane l).rz := h1.1
    have hd : (g.lane l).base + j ≡ (g.lane l).base + k [MOD (g.lane l).rz] := he
    have hd' : j ≡ k [MOD (g.lane l).rz] := Nat.ModEq.add_left_cancel' _ hd
    rw [Nat.ModEq, Nat.mod_eq_of_lt (by omega), Nat.mod_eq_of_lt (by omega)] at hd'
    exact h hd'

/-- Results for consecutive window registers of a lane. -/
theorem places_window (g : Group) (l k n : Nat) (ws : List Word) (hs : groupShaped g = true) (hw : windowsInside g = true)
    (hl : l < 64) (hk : k + n ≤ 64) :
    LanePlaces g l ((((List.range n).map fun i => g.vPlace l (k + i))).zip ws) := by
  have own : ∀ d ∈ (List.range n).map fun i => g.vPlace l (k + i), laneOfDst d = some l := by
    intro d hd
    obtain ⟨i, -, rfl⟩ := List.mem_map.1 hd
    unfold Group.vPlace; split <;> rfl
  refine ⟨?_, ?_, ?_⟩
  · intro x hx _
    obtain ⟨i, hi, hx1⟩ := List.mem_map.1 (List.of_mem_zip (show (x.1, x.2) ∈ _ from hx)).1
    rw [← hx1]
    exact vPlace_exists g l _ hs hw hl (by have := List.mem_range.1 hi; omega)
  · have hp : ((List.range n).map fun i => g.vPlace l (k + i)).Pairwise fun a b => sameCell g a b = false := by
      rw [List.pairwise_map]
      refine List.Pairwise.imp_of_mem ?_ (List.nodup_range (n := n))
      intro a b ha hb hab
      have ha' := List.mem_range.1 ha
      have hb' := List.mem_range.1 hb
      exact vPlace_apart g l _ _ hs hw hl (by omega) (by omega) (by omega)
    have : ∀ (ds : List Dst) (ws : List Word), ds.Pairwise (fun a b => sameCell g a b = false) →
        Apart g (ds.zip ws) := by
      intro ds
      induction ds with
      | nil => intro ws _; simp [Apart]
      | cons d ds ih =>
        intro ws h
        cases ws with
        | nil => simp [Apart]
        | cons w ws =>
          obtain ⟨h1, h2⟩ := List.pairwise_cons.1 h
          refine List.pairwise_cons.2 ⟨?_, ih ws h2⟩
          intro b hb _ _
          exact h1 _ (List.of_mem_zip (show (b.1, b.2) ∈ _ from hb)).1
    exact this _ ws hp
  · intro x hx
    exact own _ (List.of_mem_zip (show (x.1, x.2) ∈ _ from hx)).1

/-- No place is left out by zipping with one value. -/
theorem map_eq_zip (ds : List Dst) (w : Word) (h : ds.length ≤ 1) : (ds.map fun x => (x, w)) = ds.zip [w] := by
  cases ds with
  | nil => rfl
  | cons d ds => cases ds with
    | nil => rfl
    | cons e ds => simp at h

/-- Destinations that belong to a lane: no group register, and the registers inside the window. -/
def laneDest (n : Nat) : Opd → Bool
  | .v k => decide (k.toNat + n ≤ 64)
  | .p _ => true
  | .g _ => false
  | _ => true

/-- A predicate of a lane exists. -/
theorem pPlace_exists (g : Group) (l : Nat) (n : BitVec 3) (hs : groupShaped g = true) (hl : l < 64)
    (hr : (g.pPlace l n.toNat).real = true) : placeExists g (g.pPlace l n.toNat) = true := by
  simp only [groupShaped, Bool.and_eq_true, beq_iff_eq] at hs
  have h64 := hs.1.1.1
  have hn : n.toNat < 8 := n.isLt
  unfold Group.pPlace at *
  simp only [placeExists, Bool.and_eq_true, decide_eq_true_eq]
  refine ⟨by omega, ?_⟩
  simp only [Dst.real, bne_iff_ne, ne_eq] at hr
  split at hr <;> split <;> omega

/-- Results for a destination of `n` registers of a lane. -/
theorem places_dsts (g : Group) (l n : Nat) (d : Opd) (ws : List Word) (hs : groupShaped g = true)
    (hw : windowsInside g = true) (hl : l < 64) (hd : laneDest n d = true) :
    LanePlaces g l ((g.dsts l n d).zip ws) := by
  cases d with
  | v k => exact places_window g l k.toNat n ws hs hw hl (by simpa [laneDest] using hd)
  | p k =>
    have own : ∀ x ∈ (g.dsts l n (.p k)).zip ws, x.1 = g.pPlace l k.toNat := by
      intro x hx
      have := (List.of_mem_zip (show (x.1, x.2) ∈ _ from hx)).1
      simpa [Group.dsts] using this
    refine ⟨?_, ?_, ?_⟩
    · intro x hx hr
      rw [own x hx] at hr ⊢
      exact pPlace_exists g l k hs hl hr
    · cases ws <;> simp [Group.dsts, Apart]
    · intro x hx; rw [own x hx]; rfl
  | g k => simp [laneDest] at hd
  | sp x => simp only [Group.dsts, List.zip_nil_left]; exact ⟨by simp [Exist], List.Pairwise.nil, by simp⟩
  | imm => simp only [Group.dsts, List.zip_nil_left]; exact ⟨by simp [Exist], List.Pairwise.nil, by simp⟩

/-- A 32-bit result of a lane. -/
theorem places_put32 (g : Group) (l : Nat) (d : Opd) (w : Word) (hs : groupShaped g = true)
    (hw : windowsInside g = true) (hl : l < 64) (hd : laneDest 1 d = true) : LanePlaces g l (g.put32 l d w) := by
  unfold Group.put32
  rw [map_eq_zip]
  · exact places_dsts g l 1 d [w] hs hw hl hd
  · cases d <;> simp [Group.dsts]

/-- A 64-bit result of a lane. -/
theorem places_put64 (g : Group) (l : Nat) (d : Opd) (w : Dword) (hs : groupShaped g = true)
    (hw : windowsInside g = true) (hl : l < 64) (hd : laneDest 2 d = true) : LanePlaces g l (g.put64 l d w) :=
  places_dsts g l 2 d _ hs hw hl hd

/-- Several registers of a lane. -/
theorem places_putN (g : Group) (l : Nat) (d : Opd) (ws : List Word) (hs : groupShaped g = true)
    (hw : windowsInside g = true) (hl : l < 64) (hd : laneDest ws.length d = true) : LanePlaces g l (g.putN l d ws) :=
  places_dsts g l ws.length d ws hs hw hl hd

/-! ## Instructions of the lanes -/

/-- Everything that an instruction which acts in each participant does (R107). -/
theorem laneOp_lands (s : State) (v : View) (h : Hdr) (lat : Nat) (f : View → Nat → LaneRes) (hv : viewOf s = some v)
    (hp : ∀ l, l < 64 → LanePlaces v.g l (f v l).ws) :
    ∃ g', OnlyGroup s (laneOp s h lat f) v.g.id ∧ getGroup (laneOp s h lat f) v.g.id = some g' ∧
      LandsFixed v.g g' v.cyc lat ((lanesOf (v.parts h)).flatMap fun l => (f v l).ws) ∧
      bareGroup g' = bareGroup (stepOn (v.g.orFstat (joined (lanesOf (v.parts h)) fun l => (f v l).flags))
        v.carried h.len.bytes) := by
  have hid : ∀ x : Group, (x.land v.cyc lat ((lanesOf (v.parts h)).map (f v))).id = x.id := by
    intro x
    unfold Group.land Group.orFstat
    split <;> exact writesFixed_id _ _ _ _
  have hd := onlyGroup_done s v (fun g => g.land v.cyc lat ((lanesOf (v.parts h)).map (f v))) h.len.bytes hv hid
  obtain ⟨he, ha⟩ := places_lanes v.g (fun l => (f v l).ws) (lanesOf (v.parts h)) (lanesOf_nodup _)
    fun l hl => hp l (lt_of_mem_lanesOf hl)
  have hl := landsFixed_writesFixed v.cyc lat _ v.g he ha
  have hws : ((lanesOf (v.parts h)).map (f v)).flatMap LaneRes.ws = (lanesOf (v.parts h)).flatMap fun l => (f v l).ws := by
    rw [List.flatMap_map]
  have hfl : ((lanesOf (v.parts h)).map (f v)).foldl (fun a r => a ||| r.flags) 0 =
      joined (lanesOf (v.parts h)) fun l => (f v l).flags := by
    rw [List.foldl_map]; rfl
  unfold laneOp
  rw [hv]
  refine ⟨_, hd.1, hd.2, ⟨?_, ?_⟩, ?_⟩
  · intro x hx hr c hc
    rw [read_advance, Group.land, read_orFstat, hws]
    exact hl.lands x hx hr c hc
  · intro d hd c hc
    rw [read_advance, Group.land, read_orFstat, hws]
    exact hl.others d hd c hc
  · rw [bareGroup_advance]
    apply bareGroup_stepOn
    rw [Group.land, hfl, hws]
    exact bareGroup_orFstat _ (bareGroup_writesFixed _ _ _ _)

/-- An instruction of the lanes that raises no flag leaves FSTAT. -/
theorem orFstat_none (g : Group) (ls : List Nat) : g.orFstat (joined ls fun _ => 0) = g := by
  have : joined ls (fun _ => 0) = 0 := by
    unfold joined
    induction ls with
    | nil => rfl
    | cons l ls ih => simp
  rw [this]
  unfold Group.orFstat
  split <;> simp

/-- A kind that a destination of a lane has: none, window registers, or a predicate. -/
def laneKind : Kind → Bool
  | .none | .vReg | .vPair | .vQuad | .pred | .vOrP | .d32 _ => true
  | _ => false

/-- An operand of such a kind is a destination of a lane. -/
theorem laneDest_ok (k : Kind) (o : Opd) (hk : laneKind k = true) (h : k.ok o = true) : laneDest k.regs o = true := by
  cases k <;> simp [laneKind] at hk <;> cases o <;>
    simp_all [Kind.ok, laneDest, Kind.regs, vAligned] <;> omega

/-- What a well-formed instruction's D operand is. -/
theorem wf_dest {i : Instr} {g : Sig} {o : Opd × Opd × Opd × Opd} (h : i.wf = true) (hs : sig i = some g)
    (ho : opdsOf i = some o) : g.d.ok o.1 = true := by
  unfold Instr.wf at h
  rw [hs, ho] at h
  cases hh : hdrOf i with
  | none => rw [hh] at h; simp at h
  | some hd =>
    rw [hh] at h
    obtain ⟨d, a, b, c⟩ := o
    simp only [wfSig, Bool.and_eq_true] at h
    simp_all

/-- What a well-formed instruction's MOD codes are. -/
theorem wf_mod {i : Instr} {g : Sig} {o : Opd × Opd × Opd × Opd} (h : i.wf = true) (hs : sig i = some g)
    (ho : opdsOf i = some o) : g.mod = true := by
  unfold Instr.wf at h
  rw [hs, ho] at h
  cases hh : hdrOf i with
  | none => rw [hh] at h; simp at h
  | some hd =>
    rw [hh] at h
    obtain ⟨d, a, b, c⟩ := o
    simp only [wfSig, Bool.and_eq_true] at h
    simp_all

/-- An instruction of the lanes whose results have places completes as `LaneLands` says. -/
theorem laneLands_of (i : Instr) (h : Hdr) (lat : Nat) (f : View → Nat → LaneRes)
    (he : ∀ s, exec i s = .next (laneOp s h lat f))
    (hp : i.wf = true → ∀ (v : View) (l : Nat), groupShaped v.g = true → windowsInside v.g = true → l < 64 →
      LanePlaces v.g l (f v l).ws) :
    LaneLands i h lat (fun v l => (f v l).ws) (fun v l => (f v l).flags) := by
  intro s v hr
  obtain ⟨g', h1, h2, h3, h4⟩ := laneOp_lands s v h lat f hr.view fun l hl => hp hr.legal v l hr.shaped hr.windows hl
  exact ⟨_, g', he s, h1, h2, h3, h4⟩

/-- The same without flags. -/
theorem laneWrites_of (i : Instr) (h : Hdr) (lat : Nat) (f : View → Nat → LaneRes)
    (he : ∀ s, exec i s = .next (laneOp s h lat f)) (hf : ∀ v l, (f v l).flags = 0)
    (hp : i.wf = true → ∀ (v : View) (l : Nat), groupShaped v.g = true → windowsInside v.g = true → l < 64 →
      LanePlaces v.g l (f v l).ws) :
    LaneWrites i h lat fun v l => (f v l).ws := by
  intro s v hr
  obtain ⟨u, g', h1, h2, h3, h4, h5⟩ := laneLands_of i h lat f he hp s v hr
  refine ⟨u, g', h1, h2, h3, h4, ?_⟩
  rw [h5]
  simp only [hf]
  rw [orFstat_none]

end Sys2Proof.Machine
end

