-- ==== Sys2Proof/Laws/Memory.lean ====
section
/-! SUPPORT. Byte stores: every operation keeps the canonical form; a read after a write gives the byte written, and every
other address reads as before. -/

namespace Sys2Proof.Machine

/-- Every key of a store lies above `a`, if its first does and keys rise. -/
def memAbove (a : Nat) : Mem → Bool
  | [] => true
  | (k, _) :: _ => decide (a < k)

/-- The canonical form of a store by its head and tail. -/
theorem memWf_cons (k : Nat) (b : Byte) (m : Mem) :
    memWf ((k, b) :: m) = true ↔ b ≠ 0 ∧ memAbove k m = true ∧ memWf m = true := by
  cases m with
  | nil => simp [memWf, memAbove]
  | cons x m => cases x; simp [memWf, memAbove, and_assoc]

/-- The empty store is canonical. -/
theorem memWf_nil : memWf [] = true := rfl

/-- Below every key a store reads 0. -/
theorem memGet_above (m : Mem) (a : Nat) (h : memAbove a m = true) : memGet m a = 0 := by
  cases m with
  | nil => rfl
  | cons x m => cases x; simp_all [memGet, memAbove]

/-- Lying above an address carries over to lower addresses. -/
theorem memAbove_mono (m : Mem) (a b : Nat) (h : memAbove a m = true) (hb : b ≤ a) : memAbove b m = true := by
  cases m with
  | nil => rfl
  | cons x m => cases x; simp [memAbove] at *; omega

/-- A write above an address leaves a store above it. -/
theorem memAbove_memSet (m : Mem) (k a : Nat) (b : Byte) (h : memAbove k m = true) (hw : memWf m = true) (ha : k < a) :
    memAbove k (memSet m a b) = true := by
  cases m with
  | nil => simp [memSet]; split <;> simp [memAbove, ha]
  | cons x m =>
    obtain ⟨j, c⟩ := x
    obtain ⟨-, hm, -⟩ := (memWf_cons j c m).1 hw
    have hj : k < j := by simpa [memAbove] using h
    simp only [memSet]
    split
    · split <;> simp [memAbove, hj, ha]
    · split
      · split
        · exact memAbove_mono m j k hm (by omega)
        · simpa [memAbove] using ha
      · simpa [memAbove] using hj

/-- A write of one byte keeps the canonical form. -/
theorem memWf_memSet (m : Mem) (a : Nat) (b : Byte) (h : memWf m = true) : memWf (memSet m a b) = true := by
  induction m with
  | nil =>
    by_cases hb : b = 0
    · rw [memSet, if_pos hb]; rfl
    · rw [memSet, if_neg hb]; simpa [memWf] using hb
  | cons x m ih =>
    obtain ⟨k, c⟩ := x
    obtain ⟨hc, hk, hm⟩ := (memWf_cons k c m).1 h
    simp only [memSet]
    split
    · split
      · exact h
      · exact (memWf_cons ..).2 ⟨‹_›, by simpa [memAbove], h⟩
    · split
      · split
        · exact hm
        · subst a; exact (memWf_cons ..).2 ⟨‹_›, hk, hm⟩
      · exact (memWf_cons ..).2 ⟨hc, memAbove_memSet m k a b hk hm (by omega), ih hm⟩

/-- A byte written reads back. -/
theorem memGet_memSet_same (m : Mem) (a : Nat) (b : Byte) (h : memWf m = true) : memGet (memSet m a b) a = b := by
  induction m with
  | nil =>
    by_cases hb : b = 0
    · rw [memSet, if_pos hb, hb]; rfl
    · rw [memSet, if_neg hb]; simp [memGet]
  | cons x m ih =>
    obtain ⟨k, c⟩ := x
    obtain ⟨-, hk, hm⟩ := (memWf_cons k c m).1 h
    simp only [memSet]
    split
    · split <;> simp_all [memGet]
    · split
      · split
        · subst a; rw [memGet_above m k hk]; exact (‹b = 0›).symm
        · simp [memGet]
      · rename_i h1 h2; simp only [memGet, if_neg h1, if_neg h2]; exact ih hm

/-- A write leaves every other byte. -/
theorem memGet_memSet_other (m : Mem) (a x : Nat) (b : Byte) (h : memWf m = true) (hx : x ≠ a) :
    memGet (memSet m a b) x = memGet m x := by
  induction m with
  | nil =>
    by_cases hb : b = 0
    · rw [memSet, if_pos hb]
    · rw [memSet, if_neg hb]; simp [memGet, hx]
  | cons y m ih =>
    obtain ⟨k, c⟩ := y
    obtain ⟨-, hk, hm⟩ := (memWf_cons k c m).1 h
    simp only [memSet]
    split
    · rename_i hak
      split
      · rfl
      · by_cases hxa : x < a
        · have : x < k := by omega
          simp [memGet, hxa, this]
        · simp [memGet, hxa, hx]
    · split
      · subst a
        split
        · by_cases hxk : x < k
          · simp [memGet, hxk, memGet_above m x (memAbove_mono m k x hk (by omega))]
          · simp [memGet, hxk, hx]
        · simp [memGet, hx]
      · simp only [memGet, ih hm]

/-- A write of a run of bytes keeps the canonical form. -/
theorem memWf_memWrite (bs : List Byte) : ∀ (m : Mem) (a : Nat), memWf m = true → memWf (memWrite m a bs) = true := by
  induction bs with
  | nil => intro m a h; exact h
  | cons b bs ih => intro m a h; exact ih _ _ (memWf_memSet m a b h)

/-- A write at a list of keys keeps the canonical form. -/
theorem memWf_memSets (ks : List Nat) : ∀ (m : Mem) (bs : List Byte), memWf m = true → memWf (memSets m ks bs) = true := by
  induction ks with
  | nil => intro m bs h; simpa [memSets] using h
  | cons k ks ih =>
    intro m bs h
    cases bs with
    | nil => simpa [memSets] using h
    | cons b bs => exact ih _ _ (memWf_memSet m k b h)

/-- A run of bytes leaves every byte outside it. -/
theorem memGet_memWrite_outside (bs : List Byte) :
    ∀ (m : Mem) (a x : Nat), memWf m = true → (x < a ∨ a + bs.length ≤ x) → memGet (memWrite m a bs) x = memGet m x := by
  induction bs with
  | nil => intro m a x _ _; rfl
  | cons b bs ih =>
    intro m a x h hx
    simp only [List.length_cons] at hx
    rw [memWrite, ih _ _ _ (memWf_memSet m a b h) (by omega), memGet_memSet_other m a x b h (by omega)]

/-- A run of bytes reads back. -/
theorem memRead_memWrite (bs : List Byte) :
    ∀ (m : Mem) (a : Nat), memWf m = true → memRead (memWrite m a bs) a bs.length = bs := by
  induction bs with
  | nil => intro m a _; rfl
  | cons b bs ih =>
    intro m a h
    have hw := memWf_memSet m a b h
    simp only [memWrite, List.length_cons, memRead]
    rw [memGet_memWrite_outside bs _ _ _ hw (by omega), memGet_memSet_same m a b h, ih _ _ hw]

/-- Keys that are not written read as before. -/
theorem memGet_memSets_outside (ks : List Nat) :
    ∀ (m : Mem) (bs : List Byte) (x : Nat), memWf m = true → x ∉ ks → memGet (memSets m ks bs) x = memGet m x := by
  induction ks with
  | nil => intro m bs x _ _; simp [memSets]
  | cons k ks ih =>
    intro m bs x h hx
    cases bs with
    | nil => simp [memSets]
    | cons b bs =>
      simp only [List.mem_cons, not_or] at hx
      rw [memSets, ih _ _ _ (memWf_memSet m k b h) hx.2, memGet_memSet_other m k x b h hx.1]

end Sys2Proof.Machine
end

