-- ==== Sys2Proof/Tests/Slice0.lean ====
section
/-! SUPPORT. Tests: words written out from the encoding tables, ill-formed terms that the checks refuse, and for every
statement of Obligations.lean states and operands that meet its hypotheses. -/

namespace Sys2Proof.Tests

open Sys2Proof.Machine Sys2Proof.Safety

set_option maxRecDepth 20000

/-! ## Small states -/

/-- A privileged group of 64 fibres at 0x1000 whose core holds a NOP there (R79), its issue in hand. -/
def probe : State := State.reset.withFetchWord 64 0x7072C

/-- The same with the group changed. -/
def grp (f : Group → Group) : State := { probe with groups := [f probeGroup] }

/-- The group registers changed. -/
def regs (xs : List (Nat × Word)) (g : Group) : Group := { g with g := xs.foldl (fun r x => setNth r x.1 x.2) g.g }

/-- The issue carries fewer fibres. -/
def masked1 (m : Mask) (s : State) : State := { s with cur := { s.cur with mask := m } }

/-- Every lane changed. -/
def lanes (f : Lane → Lane) (g : Group) : Group := { g with lanes := g.lanes.map f }

/-- Fibre 5 stands elsewhere. -/
def apart (g : Group) : Group := { g with lanes := modNth g.lanes 5 fun l => { l with pc := 0x2000 } }

/-- The slice changed. -/
def slc (f : Slice → Slice) (s : State) : State := { s with slices := s.slices.map f }

/-- The team changed. -/
def tea (f : Team → Team) (s : State) : State := { s with teams := s.teams.map f }

/-- The share of core 0 changed. -/
def shr (f : TCore → TCore) : State := tea (fun t => { t with cores := t.cores.map f }) probe

/-- The issue of a state meets a condition. -/
def sees (s : State) (p : View → Bool) : Bool := (viewOf s).any p

/-- What `sees` says. -/
theorem of_sees {s : State} {p : View → Bool} (h : sees s p = true) : ∃ v, viewOf s = some v ∧ p v = true := by
  unfold sees at h
  cases hv : viewOf s with
  | none => simp [hv] at h
  | some v => exact ⟨v, rfl, by simpa [hv] using h⟩

/-- Headers: 64 and 96 bits, and one whose guard p0 holds nowhere. -/
def h2 : Hdr := fetchHdr .two 0
def h3 (e : BitVec 64) : Hdr := fetchHdr .three e
def hOff : Hdr := { fetchHdr .two 0 with pred := 0 }

/-- Instructions by their fields. -/
def ti (ty : Ty) (d a b c : Opd) (mode : BitVec 4 := 0) (var : BitVec 2 := 0) (h : Hdr := h2) : TI :=
  { h := h, var := var, mode := mode, ty := ty, d := d, a := a, b := b, c := c }
def mi (size : Size) (d a b c : Opd) (opx : BitVec 4 := 0) (ord : MemOrd := .none) (scope : Scope := .fib) (h : Hdr := h2) : MI :=
  { h := h, opx := opx, ord := ord, scope := scope, size := size, d := d, a := a, b := b, c := c }
def ei (d a b c : Opd) (mod : BitVec 12 := 0) (h : Hdr := h2) : EI := { h := h, mod := mod, d := d, a := a, b := b, c := c }

/-! ## Ready states: the lane and group-pipe classes -/

theorem test_probe_is_shaped :
    sees probe (fun v => groupShaped v.g && windowsInside v.g && v.g.converged v.pc && v.parts h2 == BitVec.allOnes 64) = true := by
  decide

/-- Every well-formed instruction is ready at the probe. -/
theorem ready_probe (i : Instr) (h : i.wf = true) : ∃ v, Ready i probe v := by
  obtain ⟨v, hv, hp⟩ := of_sees test_probe_is_shaped
  simp only [Bool.and_eq_true] at hp
  exact ⟨v, hv, hp.1.1.1, hp.1.1.2, h⟩

theorem test_legal_class0 :
    (let t := ti .i32 (.v 1) (.v 2) (.g 3) (.v 0)
     let u := ti .z32 (.v 1) (.v 2) (.v 3) (.v 4)
     [Instr.iadd t, .isub t, .imul t, .imulh t, .imad (ti .i32 (.v 1) (.v 2) (.g 3) (.v 63)), .imin t, .imax t,
      .iabs (ti .i32 (.v 1) (.v 2) (.v 0) (.v 0)), .ineg (ti .i32 (.v 1) (.v 2) (.v 0) (.v 0)), .and t, .or t, .xor t, .andn t,
      .shl (ti .z32 (.v 1) (.v 2) (.v 3) (.v 0)), .shr (ti .z32 (.v 1) (.v 2) (.v 3) (.v 0)),
      .sar (ti .i32 (.v 1) (.v 2) (.v 3) (.v 0)), .rot (ti .z32 (.v 1) (.v 2) (.v 3) (.v 0)), .bfx u, .bfi u,
      .popc (ti .z32 (.v 1) (.v 2) (.v 0) (.v 0)), .clz (ti .z32 (.v 1) (.v 2) (.v 0) (.v 0)),
      .ctz (ti .z32 (.v 1) (.v 2) (.v 0) (.v 0)), .brev (ti .z32 (.v 1) (.v 2) (.v 0) (.v 0)),
      .icmp (ti .i32 (.p 2) (.v 2) (.v 3) (.v 0) 5), .sel (ti .z32 (.v 1) (.v 2) (.v 3) (.p 7)),
      .mov (ti .z32 (.p 0) (.v 2) (.v 0) (.v 0)), .sad (ti .i8 (.v 1) (.v 2) (.v 3) (.v 4) 8 1),
      .dp4 (ti .i8 (.v 1) (.v 2) (.v 3) (.v 4) 8 2)].all Instr.wf) = true := by decide

theorem test_legal_class1 :
    (let t := ti .i64 (.v 2) (.v 4) (.g 22) (.v 0)
     [Instr.iadd64 t, .isub64 t, .imad64 (ti .i64 (.v 2) (.v 4) (.v 5) (.v 62)), .shl64 (ti .z64 (.v 2) (.v 4) (.v 5) (.v 0)),
      .shr64 (ti .i64 (.v 2) (.v 4) (.v 5) (.v 0)), .lea (ti .z64 (.v 2) (.v 4) (.v 5) (.v 0) 0 3),
      .mov64 (ti .z64 (.v 2) (.v 4) (.v 0) (.v 0)), .icmp64 (ti .i64 (.v 7) (.v 2) (.v 4) (.v 0) 2),
      .spmap (ti .z32 (.v 1) (.v 2) (.v 0) (.v 0))].all Instr.wf) = true := by decide

theorem test_legal_class2_and_4 :
    (let t := ti .f32 (.v 1) (.v 2) (.v 3) (.v 0) 9
     let h := ti .bf16 (.v 1) (.v 2) (.v 3) (.v 0) 3
     let f := ti .f32 (.v 1) (.v 2) (.v 0) (.v 0)
     [Instr.fadd t, .fsub t, .fmul t, .ffma (ti .f32 (.v 1) (.v 2) (.v 3) (.v 63) 1), .fscale t, .frnd (ti .f32 (.v 1) (.v 2) (.v 0) (.v 0) 2),
      .hadd2 h, .hmul2 h, .hfma2 (ti .f16 (.v 1) (.v 2) (.v 3) (.v 63)), .fmin (ti .f32 (.v 1) (.v 2) (.v 3) (.v 0)),
      .fmax (ti .f32 (.v 1) (.v 2) (.v 3) (.v 0)), .fcmp (ti .f16 (.p 1) (.v 2) (.v 3) (.v 0) 7 1), .fclass (ti .bf16 (.v 1) (.v 2) (.v 0) (.v 0) 0 1),
      .rcp f, .rsq f, .sqrt f, .exp2 f, .log2 f, .sint f, .cost f, .tanh f].all Instr.wf) = true := by decide

theorem test_legal_class3_and_5 :
    (let s := ti .z32 (.v 1) (.v 2) (.v 3) (.v 0) 0 3
     [Instr.cvt (ti (.b8 4 true false) (.v 1) (.v 2) (.v 0) (.v 0) 4) .f32, .cvt (ti .i64 (.v 2) (.v 5) (.v 0) (.v 0) 1) .f32,
      .pkb8 (ti (.b8 3 false true) (.v 1) (.v 4) (.v 8) (.v 0) 4), .upkb8 (ti (.b8 3 false true) (.v 4) (.v 2) (.v 0) (.v 0)),
      .bscale (ti (.b8 7 true true) (.v 4) (.v 8) (.v 0) (.v 0)), .shflIdx s, .shflUp s, .shflDn s,
      .shflXor (ti .i64 (.v 2) (.v 4) (.v 3) (.v 0)), .ballot (ti .z64 (.v 2) (.p 1) (.v 0) (.v 0)),
      .mpopc (ti .z64 (.v 1) (.v 2) (.v 0) (.v 0)), .matchOp (ti .z32 (.v 2) (.v 4) (.v 0) (.v 0)),
      .redux (ti .i32 (.v 1) (.v 2) (.v 0) (.v 0) 0)].all Instr.wf) = true := by decide

theorem test_legal_class6 :
    (let t := ti .i64 (.g 2) (.g 4) (.g 6) (.v 0)
     [Instr.gadd t, .gsub t, .gmul t, .glog (ti .z32 (.g 1) (.g 2) (.sp .zero) (.v 0) 0 3), .gshf (ti .z64 (.g 2) (.g 4) (.g 7) (.v 0) 0 2),
      .gmov (ti .z32 (.g 23) (.sp .tb) (.v 0) (.v 0)), .gcmp (ti .z64 (.v 0) (.g 2) (.g 4) (.v 0)),
      .rdln (ti .z32 (.g 1) (.v 2) (.g 3) (.v 0)), .gld (ti .z64 (.g 2) (.g 4) (.v 0) (.v 0))].all Instr.wf) = true := by decide

/-- VOTE: all the fibres or none take part, in every variant. -/
theorem test_meets_VOTE :
    ([0, 1, 2].all fun x => (Instr.vote (ti .z32 (.p 7) (.p 1) (.v 0) (.v 0) 0 x)).wf) = true ∧
      sees probe (fun v => v.parts h2 != 0 && v.parts hOff == 0) = true := by decide

/-- The group pipe acts for a converged group, and GLD and the rest refuse one whose fibre 5 stands elsewhere. -/
theorem test_meets_converged :
    sees probe (fun v => v.g.converged v.pc) = true ∧ sees (grp apart) (fun v => !v.g.converged v.pc) = true := by decide

/-! ## Control -/

theorem test_meets_BRC_codes :
    ((List.range 12).all fun k => (Instr.brc (ei (.v 0) (.v 0) (.v 0) (.v 0) (BitVec.ofNat 12 k) (h3 16))).wf) = true ∧
      (Instr.brc (ei (.v 0) (.v 0) (.v 0) (.v 0) 12 (h3 16))).wf = false := by decide

/-- A join entry. -/
def ent (pc : Dword) (memb park : Mask) : JEnt := { markpc := pc, rejoin := 0x1010, park := park, memb := memb }

/-- MARK: a free stack, an entry that it may join, one that it may not, the 32nd entry, the 1,024th. -/
theorem test_meets_MARK :
    sees probe (fun v => v.g.js.isEmpty && decide (v.g.js.length + v.g.jsd < 1024)) = true ∧
      sees (masked1 0xF (grp fun g => { g with js := [ent 0x1000 0xF0 0] })) (fun v =>
        v.g.js.any fun e => e.markpc == v.pc && e.rejoin == v.pc + (h3 16).disp && e.park == 0 && e.memb &&& v.carried == 0) = true ∧
      sees (grp fun g => { g with js := [ent 0x1000 0xF0 1] }) (fun v => v.g.js.all fun e => e.park != 0) = true ∧
      sees (grp fun g => { g with js := List.replicate 31 (ent 0 1 0) }) (fun v => decide (v.g.js.length < 32)) = true ∧
      sees (grp fun g => { g with js := List.replicate 32 (ent 0 1 0), jsd := 991 })
        (fun v => decide (v.g.js.length + v.g.jsd < 1024 ∧ 32 ≤ v.g.js.length)) = true ∧
      sees (grp fun g => { g with js := List.replicate 32 (ent 0 1 0), jsd := 992 })
        (fun v => decide (1024 ≤ v.g.js.length + v.g.jsd)) = true := by decide

/-- JOIN: no entry, an entry without a carried fibre, and one that it completes, whose release `Checked` describes. -/
theorem test_meets_JOIN :
    sees probe (fun v => v.g.js.isEmpty) = true ∧
      sees (grp fun g => { g with js := [ent 0 1 0] }) (fun v => v.g.js.all fun e => v.carried &&& ~~~e.memb != 0) = true ∧
      sees (grp fun g => { g with js := [ent 0 (BitVec.allOnes 64) 0] })
        (fun v => v.g.js.all fun e => v.carried &&& ~~~e.memb == 0) = true := by decide

theorem test_checked_pops (g : Group) (e : JEnt) (h : g.js = [e]) (hc : e.memb &&& ~~~e.park = 0) (hs : g.jsd = 0) :
    ∃ g', Checked 0 0 g g' := ⟨_, .pops g _ e [] h hc (Or.inr hs) (.empty _ rfl)⟩

/-- Windows of fibres for CALL and RET: base, resident base, and a longer stack. -/
def based (base rb n : Nat) (g : Group) : Group :=
  lanes (fun l => { l with base := base, rb := rb, rf := List.replicate n 0 }) g

/-- CALL by k = 2: room, no room above the resident registers, no room in the stack; and one window at the very top. -/
theorem test_meets_CALL :
    (Instr.call (ei (.v 0) (.v 0) (.v 0) (.v 0) 2 (h3 16))).wf = true ∧
      (Instr.callr (ei (.v 0) (.v 2) (.v 0) (.v 0) 64)).wf = true ∧
      sees (grp (based 14 0 80)) (fun v => windowsInside v.g && groupShaped v.g && decide ((v.g.lane 0).base + 2 + 64 ≤ 80)) = true ∧
      sees (grp (based 0 0 64)) (fun v => windowsInside v.g && decide (64 < (v.g.lane 0).base + 2 + 64)) = true ∧
      sees (grp (based 65470 65472 64)) (fun v => windowsInside v.g && decide ((v.g.lane 0).base + 2 + 64 = 65536)) = true ∧
      sees (grp (based 65472 65472 64)) (fun v => windowsInside v.g && decide ((v.g.lane 0).base + 2 + 64 = 65538)) = true := by
  decide

/-- The link words at the top of a window. -/
def linked (k : Nat) (pc : Word) (g : Group) : Group :=
  lanes (fun l => (l.setStk (l.base - 2) pc).setStk (l.base - 1) (BitVec.ofNat 32 (k * 2 ^ 25))) g

/-- RET: each check fails somewhere, and a return by k = 64 whose link is sound passes them all. -/
theorem test_meets_RET :
    sees (grp (based 1 0 64)) (fun v => decide ((v.g.lane 0).base < 2)) = true ∧
      sees (grp (based 17 16 64)) (fun v => decide (2 ≤ (v.g.lane 0).base ∧ (v.g.lane 0).base - 2 < 16)) = true ∧
      sees (grp fun g => linked 1 0x1008 (based 64 0 128 g)) (fun v => decide ((v.g.read v.cyc (.v 0 63)).toNat / 2 ^ 25 < 2)) = true ∧
      sees (grp fun g => linked 64 0x1008 (based 66 16 128 g)) (fun v =>
        decide ((v.g.read v.cyc (.v 0 65)).toNat / 2 ^ 25 = 64 ∧ 66 - 64 < 16)) = true ∧
      sees (grp fun g => linked 64 0x1008 (based 64 0 128 g)) (fun v =>
        decide ((v.g.read v.cyc (.v 0 63)).toNat / 2 ^ 25 = 64 ∧ (v.g.read v.cyc (.v 0 62)).toNat % 4 = 0)) = true := by decide

/-- In mask mode two fibres whose return addresses differ, and all whose agree. -/
theorem test_meets_RET_in_mask_mode :
    maskMode (slc (fun x => { x with k := x.k.map fun k => { k with mask := true } }) probe) probeGroup = true ∧
      maskMode probe probeGroup = false := by decide

/-- EXIT outside a system handler; FORK with every lane taken, and with lane 32 free. -/
theorem test_meets_EXIT_and_FORK :
    sees probe (fun v => !v.g.st.active && v.g.js.isEmpty) = true ∧
      probeGroup.lanes.all (fun l => l.st != .free) = true ∧
      ((grp fun g => { g with lanes := modNth g.lanes 32 fun l => { l with st := .free } }).groups.all fun g =>
        (g.lane 32).st == .free && (List.range 32).all fun l => (g.lane l).st != .free) = true := by decide

/-- YIELD, TRAP and BRK: with and without a participant, with and without a debugger. -/
theorem test_meets_YIELD_TRAP_BRK :
    (sliceOf probe probeGroup).isSome = true ∧ sees probe (fun v => v.parts h2 != 0 && v.parts hOff == 0) = true ∧
      debugOn probe probeGroup = false ∧
      debugOn { probe with ctxs := probe.ctxs.map fun c => { c with debug := true } } probeGroup = true := by decide

/-! ## Traps -/

/-- A user trap with a handler, at the least room above: a window of 64 above the one in use. -/
theorem test_meets_user_entry :
    let s := slc (fun x => { x with thand := 0x3000 }) (grp (based 0 0 128))
    (sees s fun v => !v.g.st.active && !v.g.ut.active && (lanesOf v.carried).all fun l =>
        decide ((v.g.lane l).base + 128 ≤ (v.g.lane l).rb + (v.g.lane l).rz)) = true ∧
      (s.slices.all fun x => x.thand != 0 && x.ending.isNone) = true := by decide

/-- A system trap with the slot's bank free, and with another group on it. -/
theorem test_meets_system_entry :
    (getSlot probe 0 0).bank = none ∧ (getCore probe 0).slots.length = 4 ∧ probe.cores.length = 384 ∧
      (getSlot { probe with cores := modNth probe.cores 0 fun c =>
        { c with slots := modNth c.slots 0 fun sl => { sl with bank := some 9 } } } 0 0).bank = some 9 := by decide

/-- In a handler of each kind. -/
def inUser (g : Group) : Group := { g with ut := { g.ut with active := true, set := BitVec.allOnes 64 } }
def inSystem (g : Group) : Group := { g with st := { g.st with active := true, set := BitVec.allOnes 64 } }

/-- The states in which a trap ends a slice, and those of TRET. -/
theorem test_meets_nested_traps_and_TRET :
    sees probe (fun v => !v.g.st.active && !v.g.ut.active) = true ∧
      (probe.slices.all fun x => x.thand == 0 && x.ending.isNone) = true ∧
      sees (grp inUser) (fun v => v.g.ut.active && !v.g.st.active && v.carried == v.g.ut.set &&& v.g.active) = true ∧
      sees (masked1 1 (grp inUser)) (fun v => v.carried != v.g.ut.set &&& v.g.active) = true ∧
      sees (grp inSystem) (fun v => v.g.st.active && v.carried == v.g.st.set && !v.g.userPend) = true ∧
      sees (grp fun g => { inSystem g with userPend := true }) (fun v => v.g.userPend) = true ∧
      sees (masked1 1 (grp inSystem)) (fun v => v.carried != v.g.st.set) = true ∧ (getSlot probe 0 0).bankQ = [] := by decide

/-! ## Memory -/

/-- An operation in flight of the probe's group, and the probe with it. -/
def op (i : Instr) (stage : Stage := .active) (reqs : List Req := []) (args : List Dword := []) (dsts : List Dst := []) : Op :=
  { id := 7, grp := 3, core := 0, team := 2, i := i, pc := 0x1000, mask := 1, carried := BitVec.allOnes 64, stage := stage
    parkSeq := 0, reqs := reqs, args := args, dsts := dsts, at_ := 0, cyc := 0, gran := [], sys := false }
/-- Core 0 four cycles later: what issued in cycle 0 has passed the commit gate (R418). -/
def aged (s : State) : State := { s with cores := modNth s.cores 0 fun c => { c with cyc := 4 } }
def flying (o : Op) : State := { aged probe with ops := [o], nextId := 8, busy := false }

/-- Page tables that map the first GiB of local memory, read, written and executed, A and D set (R377, R378). -/
def mapped (s : State) : State :=
  { s with mem := [(0, 0x01), (1, 0x10), (0x1000, 0x01), (0x1001, 0x20), (0x2000, 0x3F)] }

/-- Addresses: misaligned by 2, beyond 2^57, the last word below 2^57; no participant. -/
theorem test_meets_global_accesses :
    sees (grp (regs [(4, 2)])) (fun v => decide ((v.src64 h2 0 false (.g 4) + h2.disp).toNat % Size.sz4.bytes ≠ 0)) = true ∧
      sees (grp (regs [(5, 0x2000000)])) (fun v => decide (2 ^ 57 ≤ (v.src64 h2 0 false (.g 4) + h2.disp).toNat)) = true ∧
      sees (grp (regs [(4, 0xFFFFFFFC), (5, 0x1FFFFFF)])) (fun v => v.g.converged v.pc &&
        decide ((v.src64 h2 0 false (.g 4) + h2.disp).toNat = 2 ^ 57 - 4)) = true ∧
      (Instr.ld (mi .sz4 (.v 1) (.g 4) (.v 0) (.v 0))).wf = true ∧ (Instr.st (mi .sz8 (.v 0) (.v 4) (.v 2) (.v 0))).wf = true ∧
      (Instr.atom (mi .sz4 (.v 1) (.v 4) (.v 3) (.v 5) 9)).wf = true ∧ (Instr.red (mi .sz8 (.v 0) (.g 4) (.v 6) (.v 0))).wf = true := by
  decide

/-- Offsets: odd, below zero, past the window by one, at its end; a core that the team has not. -/
theorem test_meets_scratch_accesses :
    winBytes probeTeam .gen = 8576 ∧ probeTeam.cores.length = 1 ∧
      sees (grp (lanes fun l => l.setStk 2 1)) (fun v => decide (((v.src32 h2 0 (.v 2)).toNat + h2.imm32.toInt) % 4 ≠ 0)) = true ∧
      sees probe (fun v => decide (((v.src32 (h3 0xFFFFFFFC) 0 (.v 2)).toNat : Int) + (h3 0xFFFFFFFC).imm32.toInt < 0)) = true ∧
      sees (grp (lanes fun l => l.setStk 2 8573)) (fun v => decide (8576 < (v.src32 h2 0 (.v 2)).toNat + 4)) = true ∧
      sees (grp (lanes fun l => l.setStk 2 8572)) (fun v => decide ((v.src32 h2 0 (.v 2)).toNat + 4 = 8576)) = true ∧
      sees (grp (lanes fun l => l.setStk 3 1)) (fun v => decide (1 ≤ (v.src32 h2 0 (.v 3)).toNat)) = true ∧
      (Instr.lds (mi .sz4 (.v 1) (.v 2) (.v 0) (.v 0))).wf = true ∧ (Instr.ldsr (mi .sz4 (.v 1) (.v 2) (.v 0) (.v 3))).wf = true := by
  decide

/-- A gather stream and a queue entry, its elements without a mark or with a poison mark in lane 0. -/
def stream : GStream :=
  { id := 5, a := 0, b := 0, n := 1, size := 4, sx := false, next := 0, part := [], token := none, verdict := none }
def gent (m : Option (Nat × Dword)) : GEnt := { size := 4, elems := List.replicate 64 { val := 1, mark := m } }

/-- GATH's operands at each check's boundary, and QPOP with an empty queue, a stream, and an entry. -/
theorem test_meets_GATH_and_QPOP :
    hbmClean probe = true ∧ probe.hbm.failed = [] ∧
      sees (grp (regs [(2, 8572), (3, 1)])) (fun v => v.g.converged v.pc &&
        decide ((v.src32 h2 0 (.g 2)).toNat + 4 * (v.src32 h2 0 (.g 3)).toNat = 8576)) = true ∧
      sees (grp (regs [(2, 8572), (3, 2)])) (fun v => decide (8576 < (v.src32 h2 0 (.g 2)).toNat + 4 * (v.src32 h2 0 (.g 3)).toNat)) = true ∧
      sees (grp (regs [(3, 65537)])) (fun v => decide (65536 < (v.src32 h2 0 (.g 3)).toNat)) = true ∧
      sees (grp (regs [(2, 2), (4, 1)])) (fun v => decide ((v.src32 h2 0 (.g 2)).toNat % 4 ≠ 0 ∧
        (v.src64 h2 0 false (.g 4)).toNat % 4 ≠ 0)) = true ∧
      sees probe (fun v => v.g.gq.isEmpty && v.g.gs.isEmpty && decide ((v.src32 h2 0 (.g 3)).toNat = 0)) = true ∧
      sees (grp fun g => { g with gs := [stream] }) (fun v => v.g.gq.isEmpty && !v.g.gs.isEmpty) = true ∧
      sees (grp fun g => { g with gq := [gent none] }) (fun v => v.g.gq.all fun e => e.elems.all fun x => x.mark.isNone) = true ∧
      sees (grp fun g => { g with gq := [gent (some (0x0B, 8))] }) (fun v => v.g.gq.all fun e =>
        (nth { val := 0, mark := none } e.elems 0).mark == some (0x0B, 8)) = true := by decide

/-- A load of lane 0 at an address. -/
def loadAt (va : Dword) : Op :=
  op (.ld (mi .sz4 (.v 1) (.g 4) (.v 0) (.v 0))) .grant [freshReq 0 va [] []] [] [.v 0 1]

/-- Grants: an unmapped page waits, a mapped word is granted, an address past 2^57 fails its check. -/
theorem test_meets_grants :
    ((grantReqs (flying (loadAt 0x100)) (loadAt 0x100) (loadAt 0x100).reqs).2.any Req.waits) = true ∧
      (let r := grantReqs (mapped (flying (loadAt 0x100))) (loadAt 0x100) (loadAt 0x100).reqs
       !r.2.any Req.waits && (firstGrantFail r.2).isNone && r.2.all (fun q => q.peer.isNone && q.st == .granted) &&
         (getGroup r.1 3).isSome && !isEnq (loadAt 0x100).i) = true ∧
      (let r := grantReqs (flying (loadAt 0x1FFFFFFFFFFFFFFC)) (loadAt 0x1FFFFFFFFFFFFFFC) (loadAt 0x1FFFFFFFFFFFFFFC).reqs
       !r.2.any Req.waits && (firstGrantFail r.2).isSome && trapFree r.1 { loadAt 0x1FFFFFFFFFFFFFFC with reqs := r.2 }) = true := by
  decide

/-- A gather element whose page is mapped. -/
theorem test_meets_gather_element :
    let s := mapped { grp (fun g => { g with gs := [stream] }) with busy := false }
    let r := translate s (teamSpace s 2).1 (teamSpace s 2).2 (levelS s probeGroup) 0 .read
    r.2 = .ok 0 none false ∧ (getTCore s 2 0).isSome = true ∧ s.ops = [] ∧ sramClean s = true ∧ hbmClean r.1 = true ∧
      r.1.hbm.failed = [] ∧ sramClean r.1 = true ∧ linesHold r.1 [0, 1, 2, 3] = false ∧ r.1.groups = s.groups := by decide

/-- A request that has its grant. -/
def granted (keys : List Nat) (data : List Byte) : Req := { freshReq 0 0x100 data [] with st := .granted, keys := keys }

/-- Loads, stores and atomics in flight that may be satisfied. -/
theorem test_meets_LD_ST_ATOM :
    (let o := op (.ld (mi .sz4 (.v 1) (.g 4) (.v 0) (.v 0))) .active [granted [0x100, 0x101, 0x102, 0x103] []] [] [.v 0 1]
     o.reqs.all fun q => reqReady (flying o) o q && q.peer.isNone && q.scr.isNone && q.bad.isNone && !q.pois) = true ∧
      (let o := op (.st (mi .sz4 (.v 0) (.g 4) (.v 1) (.v 0))) .active [granted [0x100, 0x101, 0x102, 0x103] [1, 2, 3, 4]]
       o.reqs.all fun q => reqReady (flying o) o q && q.st == .granted && q.va.toNat / 48 == 5 &&
         q.keys.length == q.data.length && q.keys.Nodup) = true ∧
      (let o := op (.atom (mi .sz4 (.v 1) (.g 4) (.v 3) (.v 0))) .active [granted [0x100, 0x101, 0x102, 0x103] [1, 0, 0, 0]] [] [.v 0 1]
       o.reqs.all fun q => reqReady (flying o) o q && q.keys.Nodup && !q.keys.isEmpty) = true ∧
      memWf probe.mem = true := by decide

/-- A scratch access of one lane at the end of its granule. -/
def scrOp (i : Instr) (data : List Byte) (dsts : List Dst) : Op :=
  { op i .active [{ freshReq 0 4 data [] with st := .granted, scr := some (0, .gen), keys := [4, 5, 6, 7] }] [] dsts with
    gran := [[0]] }

theorem test_meets_LDS_STS :
    ([scrOp (.lds (mi .sz4 (.v 1) (.v 2) (.v 0) (.v 0))) [] [.v 0 1],
      scrOp (.sts (mi .sz4 (.v 0) (.v 2) (.v 1) (.v 0))) [1, 2, 3, 4] []].all fun o =>
        o.reqs.all (fun q => reqReady (flying o) o q && decide (q.va.toNat % 8 + 4 ≤ 8) && q.keys.length == 4) &&
          decide (scratchRivals (flying o) o 0 ≤ o.moved) && (getTCore (flying o) 2 0).isSome && sramClean (flying o)) = true ∧
      probeTCore.poisoned .gen 4 4 = false := by decide

/-! ## Barriers -/

/-- Offsets and arrivals at each check's boundary; a second core that the team has not. -/
theorem test_meets_barrier_operands :
    sees (grp (regs [(1, 8560), (2, 1), (3, 65535)])) (fun v => v.g.converged v.pc && v.parts h2 != 0 &&
        decide ((v.src32 h2 0 (.g 1)).toNat % 16 = 0 ∧ (v.src32 h2 0 (.g 1)).toNat + 16 = winBytes probeTeam .gen ∧
          1 ≤ (v.src32 h2 0 (.g 2)).toNat ∧ (v.src32 h2 0 (.g 3)).toNat ≤ 65535)) = true ∧
      sees (grp (regs [(1, 8576), (3, 65536)])) (fun v => decide (winBytes probeTeam .gen < (v.src32 h2 0 (.g 1)).toNat + 16 ∧
        (v.src32 h2 0 (.g 1)).toNat % 16 = 0 ∧ 65535 < (v.src32 h2 0 (.g 3)).toNat)) = true ∧
      sees (grp (regs [(1, 8)])) (fun v => decide ((v.src32 h2 0 (.g 1)).toNat % 16 ≠ 0)) = true ∧
      (Instr.binit (ei (.v 0) (.g 1) (.g 2) (.v 0) 0)).wf = true ∧ (Instr.bwait (ei (.p 1) (.g 1) (.g 2) (.g 3) 0x280)).wf = true ∧
      (Instr.rbind (ei (.v 0) (.g 1) (.g 2) (.g 4) 0 (h3 1))).wf = true ∧ probeTCore.baton = none ∧ probeTeam.k.nregion = 1 ∧
      sees (grp (regs [(2, 192)])) (fun v => decide ((v.src64 h2 0 false (.g 2)).toNat % 192 = 0)) = true ∧
      sees (grp (regs [(2, 64)])) (fun v => decide ((v.src64 h2 0 false (.g 2)).toNat % 192 ≠ 0)) = true := by decide

/-- A barrier at its edges (R205): pending 0 or 1, the byte count at 2^35 − 1, nothing left. -/
theorem test_meets_barrier_apply :
    (let b (p : Int) (n : Nat) : Bar := { Bar.ofWord 0 with pbytes := p, init := 2, pend := n }
     decide ((b 0 0).pend < 1 ∧ (2 ^ 35 - 1 : Int) < (b (2 ^ 35 - 1) 1).pbytes + 1 - 0 ∧
       (b (-(2 ^ 35)) 1).pbytes + 0 - 1 < -(2 ^ 35)) &&
       decide ((b 0 1).pend - 1 = 0 ∧ (b 0 1).pbytes + 0 - 0 = 0 ∧ ¬ (b 0 1).pend < 1 ∧ (b 0 1).fault = false) &&
       decide ((b 1 1).pbytes + 0 - 0 ≠ 0 ∧ ¬ (b 1 1).pend < 1)) = true := by decide

/-- BARV.ONE and BTEST in flight, first in their turn; FENCE and DRAIN whose conditions hold. -/
theorem test_meets_barrier_events :
    (let o := op (.barvOne (ei (.v 0) (.g 1) (.g 2) (.g 3))) .active [] [0, 16, 1, 0]
     barTurn (flying o) o (0, 16) && opReady (flying o) o o.mask) = true ∧
      (let o := op (.btest (ei (.p 1) (.g 1) (.g 2) (.v 0))) .active [] [0, 16, 0] [.p 0 1]
       barTurn (flying o) o (0, 16) && opReady (flying o) o 0) = true ∧
      (let t := mi .sz1 (.v 0) (.v 0) (.v 0) (.v 0) 0 .acqrel .sys
       fenceMet (flying (op (.fence t))) (op (.fence t)) t && (Instr.fence t).wf) = true ∧
      (let t := ei (.v 0) (.v 0) (.v 0) (.v 0) 0x1F
       drainMet (flying (op (.drain t))) (op (.drain t)) t && (Instr.drain t).wf) = true := by decide

/-- BWAIT: registered with a limit that has run out or not, completed, frozen. -/
theorem test_meets_BWAIT :
    (let o (seen lim : Dword) := op (.bwait (ei (.p 1) (.g 1) (.g 2) (.g 3))) .active [] [0, 16, 1, lim, seen] [.p 0 1]
     decide ((o 2 0).arg 4 = 2 ∧ (o 3 0).arg 4 = 3 ∧ (o 1 5).arg 4 = 1 ∧ (o 1 5).arg 3 ≠ 0) &&
       trapFree (flying (o 3 0)) (o 3 0) &&
       decide ((getBar (flying (o 1 5)) 2 0 16).phase ≠ (o 1 5).arg 2 ∧ (getBar (flying (o 1 5)) 2 0 16).frozen = false) &&
       decide (¬ (o 1 5).at_ + (o 1 5).arg 3 ≤ (flying (o 1 5)).tb) && decide ((o 1 5).at_ + (o 1 5).arg 3 ≤ 5)) = true := by decide

/-! ## Copies -/

/-- A copy from scratch to scratch of 4 bytes a lane. -/
def cpyT : EI := ei (.v 0) (.v 2) (.v 3) (.g 4) 0xC02

/-- Copies: an offset misaligned, at the window's end, past it; a barrier misaligned or outside; an address past 2^57. -/
theorem test_meets_copies :
    (Instr.cpy cpyT).wf = true ∧ (Instr.cpy (ei (.v 0) (.v 2) (.v 4) (.g 4) 0x803)).wf = true ∧
      (Instr.cpyr (ei (.v 0) (.v 2) (.v 4) (.g 4) 0xC22)).wf = true ∧
      (Instr.cpyred (ei (.v 0) (.v 2) (.v 3) (.g 4) 0xC02)).wf = true ∧
      sees (grp (lanes fun l => l.setStk 2 8572)) (fun v => dstSide (.cpy cpyT) (dstVal v (.cpy cpyT) cpyT 0) == .scratch 0 .gen 8572 &&
        !sideOut probeTeam 4 (dstVal v (.cpy cpyT) cpyT 0) (.scratch 0 .gen 8572)) = true ∧
      sees (grp (lanes fun l => l.setStk 2 8576)) (fun v => sideOut probeTeam 4 (dstVal v (.cpy cpyT) cpyT 0) (.scratch 0 .gen 8576)) = true ∧
      sees (grp (lanes fun l => l.setStk 3 2)) (fun v => decide ((srcSide (.cpy cpyT) (srcVal v (.cpy cpyT) cpyT 63)).off % 4 ≠ 0)) = true ∧
      barOut probeTeam false 8560 = false ∧ barOut probeTeam false 8576 = true ∧ barOut probeTeam true 0xFFFFFF = false ∧
      barOut probeTeam true 0x1000000 = true ∧ (Side.glob (2 ^ 57)).high = true ∧ (Side.glob (2 ^ 57 - 1)).high = false := by
  decide

/-- A line of the core, and lines of the queue. -/
def lineOf (segs : List Seg) : Line :=
  { id := 5, copy := 5, grp := 3, core := 0, team := 2, i := .cpy cpyT, dline := 0, segs := segs, bar := 16
    left := [0], started := false, token := none, verdict := none, cause := none, peers := [], at_ := 0, cyc := 0, lvl := true }
def seg4 : Seg :=
  { lane := 0, sec := 0, dst := 4, src := 8, size := 4, dkeys := [], skeys := [], dpeer := none, speer := none
    data := [], pois := false, drop := false, st := .fresh }

/-- A copy that enters the engine with 63 lines in it, and one that does not with 64; a peer with no allowance left. -/
theorem test_meets_copy_queue :
    sees { probe with lines := List.replicate 63 (lineOf [seg4]) } (fun v =>
      let s : State := { probe with lines := List.replicate 63 (lineOf [seg4]) }
      let ls := copyLines s v (.cpy cpyT) cpyT (v.parts h2)
      decide (queuedLines s 0 + ls.length = 64) && peersFree s (parkSeqOf s v.g) (linePeers ls)) = true ∧
      (let s : State := { probe with lines := List.replicate 64 (lineOf [seg4]) }
       decide (queuedLines s 0 = 64)) = true ∧
      peersFree probe 4 [(7, 1)] = true ∧
      peersFree { probe with groups := probe.groups.map fun g =>
        { g with parked := some { mask := 1, pc := 0, seq := 1, peers := [(7, 1)] } } } 4 [(7, 1)] = false := by decide

/-- This device is not both of two. -/
theorem test_some_device_is_another (a b : Nat) (h : a ≠ b) : devN ≠ a ∨ devN ≠ b := by omega

/-- CPYSIG: handles of devices 6 and 7 (one is not this device), one misaligned; counts 0, 65535 and 65536. -/
theorem test_meets_CPYSIG :
    (Instr.cpysig (ei (.v 0) (.g 2) (.g 4) (.g 5))).wf = true ∧
      sees (grp (regs [(3, 0x01C00000), (4, 65535)])) (fun v =>
        let h := v.uni64 h2 (.g 2)
        v.g.converged v.pc && decide (h.toNat % 16 = 0 ∧ h.toNat / 2 ^ 24 % 2 ^ 20 = 0 ∧ h.toNat / 2 ^ 54 = 7 ∧
          (v.uni h2 (.g 4)).toNat = 65535)) = true ∧
      sees (grp (regs [(3, 0x01800000), (4, 1)])) (fun v =>
        let h := v.uni64 h2 (.g 2)
        decide (h.toNat % 16 = 0 ∧ h.toNat / 2 ^ 24 % 2 ^ 20 = 0 ∧ h.toNat / 2 ^ 54 = 6)) = true ∧
      sees (grp (regs [(2, 8), (4, 65536)])) (fun v => decide ((v.uni64 h2 (.g 2)).toNat % 16 ≠ 0 ∧
        65535 < (v.uni h2 (.g 4)).toNat ∧ (v.uni h2 (.g 5)).toNat = 0)) = true ∧
      sees (grp (regs [(2, 0x1000000)])) (fun v => decide ((v.uni64 h2 (.g 2)).toNat % 16 = 0 ∧
        (v.uni64 h2 (.g 2)).toNat / 2 ^ 24 % 2 ^ 20 ≠ 0)) = true := by decide

/-- ALWB, ALWR, BRA.ALW: slots 15 and 16, devices 1022, 1023 (one is not this device) and 1024; a valid slot of the context, and none. -/
theorem test_meets_allowance :
    sees (grp (regs [(3, 15), (5, 1023)])) (fun v => v.g.converged v.pc && v.parts h2 != 0 &&
        decide ((v.uni h2 (.g 3)).toNat = 15 ∧ (v.uni h2 (.g 5)).toNat = 1023)) = true ∧
      sees (grp (regs [(5, 1022)])) (fun v => decide ((v.uni h2 (.g 5)).toNat = 1022)) = true ∧
      sees (grp (regs [(3, 16)])) (fun v => decide (15 < (v.uni h2 (.g 3)).toNat)) = true ∧
      sees (grp (regs [(5, 1024)])) (fun v => decide (1023 < (v.uni h2 (.g 5)).toNat)) = true ∧
      (getTeam probe 2).isSome = true ∧ (readAlw probe 0 15 0).1 = false ∧
      (readAlw { probe with cores := modNth probe.cores 0 fun k => { k with alw := setNth k.alw 15 { v := true, ctx := 0, dev := 7 } } }
        0 15 0).1 = true ∧
      (Instr.braAlw (ei (.v 0) (.v 0) (.g 3) (.v 0) 0x1F (h3 8))).wf = true := by decide

/-- A line with one request in scratch, to scratch or to mapped memory. -/
def lined (l : Line) (s : State) : State := { aged s with lines := [l], busy := false }
def toMem : EI := ei (.v 0) (.v 2) (.v 4) (.g 4) 0x402

theorem test_meets_copy_landing :
    (let l := lineOf [seg4]
     let s := lined l probe
     lineFree s l && s.sigs.isEmpty && s.ops.isEmpty && s.sram.isEmpty && !probeTCore.poisoned .gen 8 4 &&
       dstSide l.i seg4.dst == .scratch 0 .gen 4 && srcSide l.i seg4.src == .scratch 0 .gen 8) = true ∧
      (let l := { lineOf [seg4] with i := .cpy toMem }
       let s := lined l (mapped probe)
       let r := translate s (teamSpace s 2).1 (teamSpace s 2).2 true 4 .write
       lineFree s l && hbmClean r.1 && r.1.hbm.failed.isEmpty && memWf r.1.mem && r.2 == .ok 4 none false && r.1.lines == s.lines &&
         r.1.teams == s.teams && r.1.ops.isEmpty && r.1.sram.isEmpty && dstSide l.i seg4.dst == .glob 4 &&
         srcSide l.i seg4.src == .scratch 0 .gen 8) = true ∧
      memWf probeTCore.gen = true ∧ (probeTCore.bar 16).fault = false ∧
      (getLine (lined { lineOf [seg4] with cause := some (8, 4) } probe) 5).map Line.cause = some (some (8, 4)) ∧ sfqFull { probe with host := { probe.host with sfqbase := 0x100006 } } = false ∧ probe.host.heldEntries = [] := by decide

/-- Core 0 with tokens in hand and every price written as 1. -/
def priced (s : State) : State :=
  { s with cores := modNth s.cores 0 fun k => { k with level := 1000, prices := (List.range 256).map fun i => (i, 1) } }

/-- A parked memory operation, and a parked copy, whose peers have room. -/
theorem test_meets_parked_issues :
    (let o := op (.ld (mi .sz4 (.v 1) (.g 4) (.v 0) (.v 0))) .parked [{ freshReq 0 0 [] [] with peer := some 7, st := .granted }]
     let s := flying o
     ((s.ops.find? fun p => p.grp == 3 && p.stage == .parked) == some o) && peersFree s o.parkSeq (peersOfReqs o.reqs) &&
       s.groups.all fun g => g.parked.isNone) = true ∧
      (let s := { priced (grp fun g => { g with parked := some { mask := BitVec.allOnes 64, pc := 0x1000, seq := 0, peers := [(7, 1)] } }) with
          busy := false }
       live s && (match getGroup s 3 with
         | some g => mayForm s { g with parked := none } && !(sliceOf s g).any (outOfBudget s g) && g.chosen.isNone &&
             g.gpois.isEmpty && (match offerAt s g (BitVec.allOnes 64) 0x1000 with
               | some o => canTake s 0 o []
               | none => false)
         | none => false)) = true := by decide

/-! ## The engines -/

/-- Operations of the two queues. -/
def mxOp (i : Instr) (args : List Dword) (started : Bool) : MxOp :=
  { id := 8, grp := 3, team := 2, i := i, pc := 0x1000, mask := 3, carried := BitVec.allOnes 64, args := args, data := [(0, [1])]
    started := started, doneLanes := 0, dsts := [.g 1], sys := false, cyc := 0 }
def ergOp (i : Instr) (args : List Dword) (started : Bool) : ErgOp :=
  { id := 8, grp := 3, team := 2, i := i, pc := 0x1000, mask := 3, carried := BitVec.allOnes 64, args := args
    started := started, ta := 0, tr := 0, doneLanes := 0, dsts := [.p 0 1, .p 1 1], sys := false, cyc := 0 }
def engined (mx : List MxOp) (erg : List ErgOp) (f : TCore → TCore) : State :=
  { shr f with cores := modNth probe.cores 0 fun c => { c with mxq := mx, ergq := erg }, busy := false }

/-- A latch of 64 rows of I8, and core 0 with its weights active; the slice of the probe told to stop. -/
def latchI8 : Latch := { ty := .i8, k := 64, wbase := 0, sbase := 0 }
def latched (s : State) : State :=
  { s with cores := modNth s.cores 0 fun k => { k with active := { desc := some latchI8, w := [], sw := [], pois := false }, mxTeam := some 2 } }
def told (s : State) : State := slc (fun x => { x with preempting := true }) s

theorem test_legal_classC_and_D :
    (let u := fun (m : BitVec 12) => ei (.v 0) (.g 0) (.g 1) (.g 2) m
     [Instr.mxlw (u 0xE4), .mxlw (ei (.v 0) (.g 0) (.v 0) (.v 0) 0x009), .mxrow (u 0x204), .mxzero (ei (.v 0) (.g 0) (.g 1) (.v 0) 0x800),
      .mxrd (ei (.v 4) (.g 0) (.g 1) (.v 0) 0x808), .mxwr (ei (.v 0) (.v 4) (.g 0) (.g 1) 0x800), .mxst (u 0x12F),
      .mxflgRd (ei (.v 1) (.g 0) (.v 0) (.v 0) 0x001), .mxflgClr (ei (.v 0) (.g 0) (.g 1) (.v 0) 0x401),
      .mxflgOrr (ei (.g 3) (.g 0) (.g 1) (.v 0) 0x801), .ergc (ei (.v 1) (.g 0) (.g 1) (.g 2) 0x02F), .ergkIn (u 0x009), .ergkOut (u 0x40A),
      .ergkRst (u 0x800), .ergkInv (ei (.v 0) (.v 0) (.v 0) (.g 2) 0xC00), .ergt (ei (.p 1) (.g 0) (.v 0) (.v 0) 0x800),
      .ergmRd (ei (.g 2) (.g 0) (.v 0) (.v 0)), .ergmWr (ei (.v 0) (.g 0) (.g 2) (.v 0) 0x400),
      .ergmClr (ei (.v 0) (.g 0) (.g 1) (.v 0) 0x800), .ergmDesc (ei (.g 2) (.g 0) (.v 0) (.v 0) 0xC00)].map Instr.wf) =
      false :: List.replicate 19 true := by decide

/-- Engine instructions: full queues and all but full ones; no convergence, no participant; the baton; operands at each edge. -/
theorem test_meets_engine_issue :
    ((getCore (engined (List.replicate 16 (mxOp (.mxzero cpyT) [] false)) [] id) 0).mxq.filter fun k => !k.started).length = 16 ∧
      ((getCore (engined (mxOp (.mxzero cpyT) [] true :: List.replicate 15 (mxOp (.mxzero cpyT) [] false)) [] id) 0).mxq.filter
        fun k => !k.started).length < 16 ∧
      (getCore (engined [] (List.replicate 8 (ergOp (.ergt cpyT) [] false)) id) 0).ergq.length = 8 ∧
      (getCore (engined [] (List.replicate 7 (ergOp (.ergt cpyT) [] false)) id) 0).ergq.length < 8 ∧
      sees probe (fun v => v.g.converged v.pc && v.parts h2 != 0 && v.parts hOff == 0) = true ∧
      sees (grp apart) (fun v => !v.g.converged v.pc) = true ∧
      (getTCore probe 2 0).bind TCore.baton = none ∧
      (getTCore (shr fun c => { c with baton := some 16 }) 2 0).map (fun c => (c.baton, c.held)) = some (some 16, false) ∧
      sees probe (fun v => (lastLatch probe v).isNone) = true ∧
      sees (shr fun c => { c with latch := some latchI8 }) (fun v =>
        lastLatch (shr fun c => { c with latch := some latchI8 }) v == some (.i8, 64)) = true ∧
      probeTeam.k.acc = 16 ∧ winBytes probeTeam .act = 8576 ∧ winBytes probeTeam .wgt = 8576 ∧ rowBytes .i8 64 = 64 ∧
      min 4096 (probeTeam.k.erg / 4) = 4 := by decide

/-- The operands of a matrix row: 16 rows at a stride of 8 pass; a stride of 4, an offset of 4, a row past the last do not. -/
theorem test_meets_engine_operands :
    sees (masked1 0xFFFF (grp (regs [(1, 8)]))) (fun v => (lanesOf (v.parts h2)).all fun l => decide
        ((v.uni h2 (.g 1)).toNat % 8 = 0 ∧ l * 8 + 64 ≤ 8576 ∧ l < 16)) = true ∧
      sees (grp (regs [(1, 8)])) (fun v => decide (16 ∈ lanesOf (v.parts h2))) = true ∧
      sees (grp (regs [(1, 4)])) (fun v => decide ((v.uni h2 (.g 1)).toNat % 8 ≠ 0)) = true ∧
      sees (grp (regs [(0, 4)])) (fun v => decide ((v.uni h2 (.g 0)).toNat % 8 ≠ 0)) = true ∧
      sees (grp (regs [(0, 8576)])) (fun v => decide ((v.uni h2 (.g 0)).toNat + 8 > 8576)) = true ∧
      sees (grp (regs [(0, 15), (1, 1)])) (fun v => decide ((v.uni h2 (.g 0)).toNat + (v.uni h2 (.g 1)).toNat - 1 < 16)) = true ∧
      sees (grp (regs [(0, 15), (1, 2)])) (fun v => decide (16 ≤ (v.uni h2 (.g 0)).toNat + (v.uni h2 (.g 1)).toNat - 1)) = true ∧
      sees (grp (regs [(0, 64), (1, 128)])) (fun v => decide (63 < (v.uni h2 (.g 0)).toNat ∧ 128 ≤ (v.uni h2 (.g 1)).toNat)) = true ∧
      sees (masked1 (Mask.bit 0) (grp (regs [(0, 4095), (1, 1)]))) (fun v => decide ((v.uni h2 (.g 0)).toNat + 0 = 4095 ∧
        4095 + (v.uni h2 (.g 1)).toNat - 1 ≤ 4095)) = true ∧
      sees (grp (regs [(0, 4095), (1, 2)])) (fun v => decide (4095 < (v.uni h2 (.g 0)).toNat + 1)) = true := by decide

/-- Matrix operations that start, wait for a latch, or are alone ready; each kind of `matrixRowComplete`. -/
theorem test_meets_matrix_engine :
    (let row := mxOp (.mxrow (ei (.v 0) (.g 0) (.g 1) (.g 2) 0x004)) [0, 8, 0, 64]
     let lw := mxOp (.mxlw (ei (.v 0) (.g 0) (.v 0) (.v 0) 0xC4)) [0, 0]
     let first (q : List MxOp) (id : Nat) : Bool := (q.find? fun k => !k.started).any fun m => m.id == id && isMxrow m.i
     first [row false] 8 && first [{ lw true with id := 7 }, row false] 8 && !first [lw false] 8 &&
       (let s (q : List MxOp) : State := engined q [] fun c => { c with latch := some latchI8 }
        let other : MxOp := { row true with id := 7 }
        !engineStops (s []) 2 && engineStops (told (s [])) 2 && !loadsNow (getCore (s [row false]) 0) &&
          loadsNow (getCore (s [{ lw true with id := 7 }, row false]) 0) && (getCore (s []) 0).mxTeam == none &&
          (getCore (latched (s [])) 0).mxTeam == some 2 && (getCore (s [other, row false]) 0).mxq.any (fun p => p.started && isMxrow p.i) &&
          ([row false] : List MxOp).all (fun p => !(p.started && isMxrow p.i)) && (getTCore (s []) 2 0).isSome)) = true ∧
      (let lw : MxOp := { mxOp (.mxlw (ei (.v 0) (.g 0) (.v 0) (.v 0) 0xC4)) [0, 0] true with doneLanes := 3 }
       mxReady (engined [lw] [] id) 0 == [lw] && lw.due.isEmpty) = true ∧
      (([(.mxzero (ei (.v 0) (.g 0) (.g 1) (.v 0) 0x800), [15, 1]), (.mxflgClr (ei (.v 0) (.g 0) (.g 1) (.v 0) 0x401), [0, 16]),
         (.mxwr (ei (.v 0) (.v 4) (.g 0) (.g 1) 0), [15, 127]), (.mxrd (ei (.v 4) (.g 0) (.g 1) (.v 0) 0x008), [14, 127]),
         (.mxflgRd (ei (.v 1) (.g 0) (.v 0) (.v 0) 1), [14]), (.mxflgOrr (ei (.g 3) (.g 0) (.g 1) (.v 0) 0x801), [0, 16]),
         (.mxlw (ei (.v 0) (.g 0) (.v 0) (.v 0) 0xC4), [0, 0]), (.mxrow (ei (.v 0) (.g 0) (.g 1) (.g 2) 0x004), [0, 8, 14, 64]),
         (.mxst (ei (.v 0) (.g 0) (.g 1) (.g 2) 0x008), [0, 512, 14])] : List (Instr × List Dword)).all fun x =>
        let m := mxOp x.1 x.2 true
        let s := latched (engined [m] [] fun c => { c with latch := some latchI8 })
        mxReady s 0 == [m] && !m.due.isEmpty && (getCore s 0).active.desc == some latchI8 && !(getCore s 0).active.pois &&
          (getTCore s 2 0).any fun c =>
            !c.poisoned .act 0 64 && !c.poisoned .act 8 64 && !(c.row 14).pois && !(c.row 15).pois) = true := by
  decide

/-- The Erg engine's head, not started and started, each kind of operation. -/
theorem test_meets_Erg_engine :
    (([(.ergc (ei (.v 1) (.g 0) (.g 1) (.g 2) 0x009), [0, 8, 0]), (.ergkIn (ei (.v 0) (.g 0) (.g 1) (.g 2) 9), [0, 8, 0]),
       (.ergkOut (ei (.v 0) (.g 0) (.g 1) (.g 2) 0x409), [0, 8, 0]), (.ergkRst (ei (.v 0) (.g 0) (.g 1) (.g 2) 0x800), [0, 8, 0]),
       (.ergkInv (ei (.v 0) (.v 0) (.v 0) (.g 2) 0xC00), [0, 0, 3]), (.ergt (ei (.p 1) (.g 0) (.v 0) (.v 0) 0x800), [4095]),
       (.ergmRd (ei (.g 2) (.g 0) (.v 0) (.v 0)), [63]), (.ergmWr (ei (.v 0) (.g 0) (.g 2) (.v 0) 0x400), [63, 1]),
       (.ergmClr (ei (.v 0) (.g 0) (.g 1) (.v 0) 0x800), [4095, 1]), (.ergmDesc (ei (.g 2) (.g 0) (.v 0) (.v 0) 0xC00), [3])] :
        List (Instr × List Dword)).all fun x =>
      let e := ergOp x.1 x.2 true
      let s := engined [] [e] id
      (getCore s 0).ergq == [e] && ergBytesFree s 0 e && (getTeam s 2).any fun t => (t.cores[coreNoOf s 3]?).isSome) = true ∧
      (let s := engined [] [ergOp (.ergt cpyT) [0] false] id
       (getCore s 0).ergq.all (fun e => !e.started && ergBytesFree s 0 e) && !engineStops s 2 && engineStops (told s) 2) = true ∧
      probeTeam.skip.length = 64 := by decide

/-! ## Sub-launches -/

/-- Memory that holds: page tables that map the first two GiB; at 0x4000 the descriptor of context 0, alive, with fabric key 5, a
save stack across the GiB's end with one record, and a ring; at 0x5000 the descriptor of queue 0; at 0x9000 a packet of one team. -/
def tabled (s : State) : State :=
  { s with
    mem := [(0, 0x01), (1, 0x10), (0x1000, 0x01), (0x1001, 0x20), (0x2000, 0x3F), (0x2008, 0x3F), (0x200C, 0x08), (0x400A, 1), (0x400C, 5), (0x4018, 0xF8),
      (0x4019, 0xFF), (0x401A, 0xFF), (0x401B, 0x3F), (0x4028, 0x09), (0x402A, 0x01), (0x5002, 0x90), (0x5003, 0x01), (0x500A, 0x48), (0x9000, 0x03), (0x9004, 1),
      (0x3FFFFFF8, 1), (0x40000001, 0xA0)]
    host := { s.host with ctxtab := 0x4000, qdtab := 0x5000 } }

/-- An ENQ whose record has been read: header, then zeros. -/
def enqI : EI := ei (.p 1) (.g 8) (.v 0) (.v 0)
def enqOp (hdr : Byte) : Op := op (.enq enqI) .blocked [{ freshReq 0 0 [] [] with got := hdr :: List.replicate 63 0 }] [] [.p 0 1]

/-- ENQ: addresses misaligned, past 2^57, and the last below it; BUDR; a blocked ENQ of each kind with an entry free. -/
theorem test_meets_ENQ_and_BUDR :
    (Instr.enq enqI).wf = true ∧ (Instr.budr (ei (.g 2) (.v 0) (.v 0) (.v 0) 0x800)).wf = true ∧
      sees (grp (regs [(8, 32)])) (fun v => v.g.converged v.pc && decide ((v.uni64 h2 (.g 8)).toNat % 64 ≠ 0)) = true ∧
      sees (grp (regs [(9, 0x2000000)])) (fun v => decide ((v.uni64 h2 (.g 8)).toNat = 2 ^ 57)) = true ∧
      sees (grp (regs [(8, 0xFFFFFFC0), (9, 0x1FFFFFF)])) (fun v => v.g.converged v.pc && decide
        ((v.uni64 h2 (.g 8)).toNat = 2 ^ 57 - 64 ∧ (2 ^ 57 - 64) % 64 = 0)) = true ∧
      (sliceOf probe probeGroup).isSome = true ∧
      ([0x00, 0x02].all fun b =>
        let s := flying (enqOp b)
        (sliceOfOp s (enqOp b)).isSome && (getGroup s 3).isSome && freeGeneral s 0 == some 1 &&
          (parsePacket ((enqOp b).reqs.flatMap Req.got)).kind == (if b = 0 then 0 else 1)) = true := by decide

/-- A die with no general entry left, no ring and, for the system context, no reserved entry: an ENQ goes on waiting. -/
theorem test_meets_full_pool :
    let s := { flying (enqOp 2) with slices := (List.range 7168).map fun e => { probeSlice with entry := e, ctx := 64 } }
    freeGeneral s 0 = none ∧ ringTailVa s 64 = none ∧ freeReserved s 0 64 1 = false := by
  refine ⟨?_, by decide, by decide⟩
  simp [freeGeneral, probeSlice, List.filter_map, Function.comp_def]

/-- The ring's page: not posted, tried less than 10 µs ago, due with the ring full or absent, unmapped, mapped. -/
theorem test_meets_ring_page :
    let due (s : State) : State :=
      { s with ctxs := s.ctxs.set 0 { CtxSt.reset with ringpf := true }, tb := 10000 }
    let unmapped : State := { tabled probe with mem := (tabled probe).mem.drop 5 }
    (probe.ctxs[0]? = some CtxSt.reset) ∧ ringTailVa (due probe) 0 = none ∧ ringTailVa (due (tabled probe)) 0 = some 0x10000 ∧
      (ringMapped (due (tabled probe)) 0 0x10000).2 = true ∧
      (ringMapped (due (tabled probe)) 0 0x10000).1.ctxs = (due (tabled probe)).ctxs ∧
      (ringMapped (due unmapped) 0 0x10000).2 = false ∧ ringTailVa (due unmapped) 0 = some 0x10000 := by decide

/-! ## Control registers and system instructions -/

/-- The probe at level U. -/
def atU : State := slc (fun x => { x with priv := false }) probe
def atUplain : State := tea (fun t => { t with desc := { t.desc with expert := false } }) atU

theorem test_legal_classE_and_F :
    (let w := fun (n : BitVec 64) => ei (.v 0) (.v 0) (.g 4) (.v 0) 0 (h3 n)
     [Instr.crd (ei (.g 2) (.v 0) (.v 0) (.v 0) 0 (h3 0xF02)), .crd (ei (.v 62) (.v 0) (.v 0) (.v 0) 0 (h3 0x011)), .cwr (w 0x004),
      .crdStk (ei (.v 1) (.v 2) (.v 0) (.v 0) 0x400 (h3 0)), .cwrStk (ei (.v 0) (.v 2) (.v 3) (.v 0) 0x400 (h3 0)),
      .crdJs (ei (.v 1) (.g 2) (.v 0) (.v 0) 0x800 (h3 0)), .cwrJs (ei (.v 0) (.v 0) (.v 0) (.v 0) 0x800 (h3 0)),
      .crdTs (ei (.v 2) (.v 0) (.v 0) (.v 0) 0xC00 (h3 3)), .cwrTs (ei (.v 0) (.v 0) (.v 2) (.v 0) 0xC00 (h3 3)),
      .cwrSrseed (w 0x003), .cwrFstat (w 0x002), .cwrSkipw (w 0x17F), .cwrMxcad (w 0x100), .cwrPlane (w 0x21F), .cwrChecksb (w 0),
      .cwrUven (w 0x309), .cwrSiteal (w 0x305), .cwrSlew (w 0x304), .cwrPriced (w 0x308), .cwrCrwrej (w 0x00F),
      .cwrFabstat (w 0x210), .cwrHealth (w 0x303), .cwrSpconf (w 0x400),
      .tlbi (ei (.v 0) (.g 0) (.g 2) (.g 4) 0xC00), .haltcHalt (ei (.v 0) (.g 0) (.g 1) (.g 2)), .haltcResume (ei (.v 0) (.g 0) (.v 0) (.v 0) 0x600),
      .haltcStep (ei (.v 0) (.g 0) (.g 1) (.g 2) 0x800), .scrbRow (ei (.g 2) (.g 0) (.v 0) (.v 0)),
      .scrbQry (ei (.g 2) (.g 0) (.v 0) (.v 0) 0x400), .rspr (ei (.g 2) (.g 0) (.v 0) (.v 0))].all Instr.wf) = true := by decide

/-- Levels U, U of an expert context, S and a system handler; numbers at the edges of what is assigned. -/
theorem test_meets_control_registers :
    sees probe (fun v => levelS probe v.g && !v.g.st.active && crMayWrite probe v.g 0x004) = true ∧
      sees atU (fun v => !levelS atU v.g && expertOf atU v.g && !crMayWrite atU v.g 0x004) = true ∧
      sees atUplain (fun v => !levelS atUplain v.g && !expertOf atUplain v.g && crMayWrite atUplain v.g 0x17F && !crMayWrite atUplain v.g 0x180) = true ∧
      sees (grp inSystem) (fun v => v.g.st.active && levelS (grp inSystem) v.g) = true ∧
      ([0x010, 0x100, 0x17F, 0x210, 0x221, 0x30A, 0x401, 0xF02].all crAssigned) = true ∧
      ([0x011, 0x0FF, 0x180, 0x211, 0x222, 0x30B, 0x402, 0xF03].any crAssigned) = false ∧
      sees (grp apart) (fun v => !v.g.converged v.pc) = true ∧ sees probe (fun v => !srPending probe v.g) = true ∧
      sees (engined [mxOp (.mxst (ei (.v 0) (.g 0) (.g 1) (.g 2) 0x109)) [0, 8, 0] false] [] id) (fun v =>
        srPending (engined [mxOp (.mxst (ei (.v 0) (.g 0) (.g 1) (.g 2) 0x109)) [0, 8, 0] false] [] id) v.g) = true ∧
      (h3 4).imm32.toNat = 4 ∧ (h3 0x221).crnum = 0x221 := by decide

/-- A second group, halted, of the same team. -/
def second : Group := { probeGroup with id := 9, grp := 1, coreNo := 0, halted := true }
def twoGroups (a b c : Word) : State := { grp (regs [(0, a), (1, b), (2, c)]) with groups := [regs [(0, a), (1, b), (2, c)] probeGroup, second], nextId := 10 }

/-- TLBI, HALTC: operands at each edge; no target, and one target that may step. -/
theorem test_meets_TLBI_and_HALTC :
    probe.ops = [] ∧ probe.lines = [] ∧ probe.nextId + 1 < 2 ^ 64 ∧
      sees (grp (regs [(0, 65536)])) (fun v => decide (2 ^ 16 ≤ (v.uni h2 (.g 0)).toNat)) = true ∧
      sees (grp (regs [(0, 65535), (2, 0xFFFF0000), (3, 0x1FFFFFF)])) (fun v => decide ((v.uni h2 (.g 0)).toNat < 2 ^ 16 ∧
        (v.uni64 h2 (.g 2)).toNat < 2 ^ 57 ∧ (v.uni64 h2 (.g 2)).toNat % 65536 = 0)) = true ∧
      sees (grp (regs [(2, 32768)])) (fun v => decide ((v.uni64 h2 (.g 2)).toNat % 65536 ≠ 0)) = true ∧
      sees (grp (regs [(3, 0x2000000)])) (fun v => decide (2 ^ 57 ≤ (v.uni64 h2 (.g 2)).toNat)) = true ∧
      sees (twoGroups 0 1 0xFFFFFFFF) (fun v =>
        haltcTargets (twoGroups 0 1 0xFFFFFFFF) (ei (.v 0) (.g 0) (.g 1) (.g 2) 0x800) v == [9] &&
          (twoGroups 0 1 0xFFFFFFFF).slices.any fun x => x.sliceId == 0 && x.st == .running) = true ∧
      sees (twoGroups 0 2 0xFFFFFFFF) (fun v => (haltcTargets (twoGroups 0 2 0xFFFFFFFF) (ei (.v 0) (.g 0) (.g 1) (.g 2) 0x800) v).isEmpty) = true ∧
      getGroup (twoGroups 0 1 0xFFFFFFFF) 9 = some second ∧ second.halted = true ∧ second.resident = true ∧
      groupHeld (twoGroups 0 1 0xFFFFFFFF) second = false ∧ second.id < 2 ^ 64 ∧
      sees (twoGroups 511 16 65536) (fun v => decide ((v.uni h2 (.g 0)).toNat / 4 % 32 = 31 ∧ 16 ≤ (v.uni h2 (.g 1)).toNat ∧
        65536 ≤ (v.uni h2 (.g 2)).toNat)) = true := by decide

/-- HRAs at the edges; codewords of the row in error and not; a bank with a copy under way, with room, with no spare left. -/
def remap0 (n copied : Nat) (busy : Bool) : Remap :=
  { bank := 0, spare := n, row := 5, v := !busy, busy := busy, copied := copied, fixed := 0, bad := false, old := none, op := none }
def withHbm (f : Hbm → Hbm) : State := { probe with hbm := f probe.hbm }

theorem test_meets_SCRB_and_RSPR :
    sees (grp (regs [(0, 11 * 2 ^ 19 + 65535)])) (fun v => decide ((v.uni h2 (.g 0)).toNat / 2 ^ 19 % 16 = 11 ∧
        (v.uni h2 (.g 0)).toNat / 2 ^ 16 % 8 = 0)) = true ∧
      sees (grp (regs [(0, 12 * 2 ^ 19)])) (fun v => decide (11 < (v.uni h2 (.g 0)).toNat / 2 ^ 19 % 16)) = true ∧
      sees (grp (regs [(0, 65536)])) (fun v => decide ((v.uni h2 (.g 0)).toNat / 2 ^ 16 % 8 ≠ 0)) = true ∧
      (((List.range 16).map fun k => cwAddr 5 k / 64).all fun k => !probe.hbm.ue.contains k) = true ∧
      (((List.range 16).map fun k => cwAddr 5 k / 64).any fun k => (withHbm fun h => { h with ue := [cwAddr 5 15 / 64] }).hbm.ue.contains k) = true ∧
      freeSpare probe 0 = some 0 ∧ (bankRemaps probe 0).length ≠ 48 ∧
      freeSpare (withHbm fun h => { h with remaps := (List.range 64).map fun n => remap0 n 16 false }) 0 = none ∧
      (withHbm fun h => { h with remaps := [remap0 0 3 true] }).hbm.remaps.any (fun r => r.bank == 0 && r.busy) = true ∧
      (let s := withHbm fun h => { h with remaps := (List.range 48).map fun n => remap0 n 16 false }
       (bankRemaps s 0).length = 48 ∧ freeSpare s 0 = some 48) ∧
      (∀ o ∈ probe.ops, o.id < probe.nextId) := by decide

theorem test_meets_spare_row_copy :
    ([14, 15].all fun n =>
      let r := remap0 7 n true
      let s := withHbm fun h => { h with remaps := [r] }
      s.hbm.remaps == [r] && r.op.isNone && r.old.isNone && !s.hbm.ue.contains (cwAddr 5 n / 64) && s.ops.isEmpty) = true ∧
      (let r := { remap0 7 15 true with op := some 7 }
       let s := { flying (op (.rspr (ei (.g 2) (.g 0) (.v 0) (.v 0)))) with hbm := { probe.hbm with remaps := [r] } }
       r ∈ s.hbm.remaps ∧ (getOp s 7).map Op.i = some (.rspr (ei (.g 2) (.g 0) (.v 0) (.v 0))) ∧ s.ops.length = 1) ∧
      (cwAddr 5 3 / 64) ∈ (withHbm fun h => { h with remaps := [remap0 7 3 true], ue := [cwAddr 5 3 / 64] }).hbm.ue := by decide

/-! ## Issues and time -/

/-- An issue that a slot may make, in and out of a BUDGET handler's scope; and what keeps a slot from making one. -/
theorem test_meets_issue_cycle :
    (let s := { priced probe with busy := false }
     live s && (slotGroups s 0 0 == [probeGroup]) && mayForm s probeGroup &&
       (match formed s probeGroup, sliceOf s probeGroup with
         | some (mask, pc), some x => mask == BitVec.allOnes 64 && pc == 0x1000 && !outOfBudget s probeGroup x && !sliceHalted s x.id &&
             x.ballast.isNone && x.ending.isNone &&
             (match fetchRes s probeGroup pc, viewAt s probeGroup mask pc with
               | .ok i, some v => (lateCheck v i).isNone && !waitsForRoom s v i && !lacksAllowance s v i &&
                   decide (issuePrice s v i ≤ (getCore s 0).level)
               | _, _ => false)
         | _, _ => false) &&
       (s.groups.all fun h => h.chosen.isNone) && decide ((getCore s 0).level ≤ 1048576) &&
       decide ((getSlot s 0 0).freeAt ≤ (getCore s 0).cyc) && (getCore s 0).tokQ.isEmpty && (getCore s 0).debt == 0) = true ∧
      inBudget probeGroup = false ∧
      inBudget { inUser probeGroup with ut := { (inUser probeGroup).ut with tcause := 0x0E } } = true ∧
      live { probe with host := { probe.host with frozen := true } } = false ∧ (getCore probe 0).nextSlot ≠ 1 := by decide

/-- Histories that a replay may meet. -/
theorem test_meets_timing_errors :
    let h : Hist := { cyc := 0, grp := probeGroup, mask := BitVec.allOnes 64, pc := 0x1000, nextId := 4 }
    let s : State := { probe with cores := modNth probe.cores 0 fun k => { k with hist := [h] } }
    live s = true ∧ (getCore s 0).stopped = false ∧ (getCore s 0).retired = false ∧ (getCore s 0).hist = [h] ∧
      h.cyc = (getCore s 0).cyc ∧ getGroup s 3 = some probeGroup ∧ (getCore probe 1).hist = [] ∧
      (getCore { probe with tb := 1000000 } 0).uvAt + 1000000 ≤ 1000000 ∧ ¬ (getCore { probe with tb := 999999 } 0).uvAt + 1000000 ≤ 999999 ∧
      (probe.isles[0]?.any fun y => decide (y.at_ + 1000000 ≤ 1000000 ∧ 999999 < y.at_ + 1000000)) = true := by
  decide

/-! ## The fabric -/

/-- The part with an export of the probe's core 0, its context of FKEY 5, and an aperture of one frame. -/
def exporting (s : State) : State :=
  { tea (fun t => { t with desc := { t.desc with fkey := 5 } }) (tabled s) with
    fab := { s.fab with
      exports := [{ ctx := 0, slot := 9, team := 2, core := 0, live := true, slice := 1 }]
      apertures := [{ fkey := 5, base := 0, count := 1, r := true, w := true, a := true }] } }
def peerReq (kind : PeerKind) (addr : Nat) : PeerReq :=
  { src := 7, ctx := 0, fkey := 5, port := 0, tag := 0, gen := 0, deadline := 10, kind := kind, exp := 9, core := 0
    addr := addr, size := 4, data := [1, 2, 3, 4] }

/-- Requests: admitted at the frame's end and refused past it; no export; a saved team; the window's end and past it; late. -/
theorem test_meets_peer_requests :
    live (exporting probe) = true ∧ (exporting probe).tb < 10 ∧ hbmClean (exporting probe) = true ∧ memWf (exporting probe).mem = true ∧
      apertureAdmits (exporting probe) 5 65532 4 .memWrite = true ∧ apertureAdmits (exporting probe) 5 65534 4 .memWrite = false ∧
      findExport (exporting probe) 5 8 0 = none ∧ ((findExport (exporting probe) 5 9 0).map Export.team) = some 2 ∧
      (getTeam (exporting probe) 2).map Team.st = some .running ∧
      (getTeam (exporting (tea (fun t => { t with st := .saved }) probe)) 2).map Team.st = some .saved ∧
      (peerReq (.scratchWrite .act 8560) 8572).addr + 4 ≤ winBytes probeTeam .act ∧ winBytes probeTeam .act < 8573 + 4 ∧
      8560 + 16 ≤ winBytes probeTeam .gen ∧ 8560 % 16 = 0 ∧ (peerReq .memWrite 0).deadline ≤ { probe with tb := 10 }.tb ∧
      linesHold (exporting probe) ((List.range 4).map (65532 + ·)) = false ∧ (exporting probe).fab.held = [] ∧
      (peerReq .memWrite 0).pois = false ∧
      (let l := { lineOf [{ seg4 with dkeys := [65535], st := .fresh }] with i := .cpy (ei (.v 0) (.v 2) (.v 4) (.g 4) 0x402), started := true }
       linesHold { exporting probe with lines := [l] } ((List.range 4).map (65532 + ·))) = true := by decide

/-- Markers: the last of two planes, and the first; a signal whose barrier is at the window's end; a notice likewise. -/
def marker (plane : Nat) : Marker :=
  { src := 7, ctx := 0, fkey := 5, plane := plane, planes := [0, 1], sig := 3, exp := 9, core := 0, off := 8560, arrivals := 1
    bytes := 0, stamp := 0, deadline := 10 }
theorem test_meets_markers :
    (let all (ms : List Marker) : Bool := (marker 1).planes.all fun p => (ms.filter (fun x => x != marker 1) ++ [marker 1]).any fun x =>
      x.src == 7 && x.sig == 3 && x.fkey == 5 && x.plane == p
     all [marker 0] && !all []) = true ∧ (marker 1).off % 16 = 0 ∧ (marker 1).off + 16 = winBytes probeTeam .gen ∧
      (findExport (exporting probe) 5 (36 / 4) (36 % 4)).isSome = true ∧ (findExport (exporting probe) 5 (35 / 4) (35 % 4)).isSome = false ∧
      memWf probeTCore.gen = true ∧ winBytes probeTeam .gen < 8576 + 16 ∧ (exporting probe).tb < (marker 1).deadline ∧
      (marker 1).deadline ≤ { probe with tb := 10 }.tb := by decide

/-- An outstanding request, and states with one. -/
def outReq (ref : Ref) : OutReq :=
  { port := 1, tag := 4, gen := 0, dev := 7, plane := 0, ref := ref, sentAt := 0, deadline := 20000, fkey := 5 }
def sending (ref : Ref) (tb : Nat) : State := { probe with tb := tb, fab := { probe.fab with out := [outReq ref] } }

/-- Replies and timeouts: found, stale, due at its deadline, not due before; a signal's and a copy line's. -/
theorem test_meets_replies_and_timeouts :
    (let find (s : State) (tag : Nat) := s.fab.out.find? fun x => x.port == 1 && x.tag == tag && x.gen == 0
     (find (sending (.sig 6) 5) 4 == some (outReq (.sig 6))) && (find (sending (.sig 6) 5) 3).isNone) = true ∧
      (let due (s : State) := s.fab.out.find? fun y => y.port * 4096 + y.tag == 4100 && decide (y.deadline ≤ s.tb)
       (due (sending (.sig 6) 20000) == some (outReq (.sig 6))) && (due (sending (.sig 6) 19999)).isNone &&
         (due (sending (.line 5 0) 20000) == some (outReq (.line 5 0)))) = true ∧
      getLine (lined (lineOf [seg4]) probe) 5 = some (lineOf [seg4]) ∧ (lineOf [seg4]).left = [seg4.sec] ∧
      (getTCore probe 2 ((lineOf [seg4]).bar.toNat / 2 ^ 24 % 4)).isSome = true ∧ probe.fab.dead.getLsbD 7 = false ∧
      (let s : State := { probe with
        fab := { probe.fab with dead := 0xFF }, tb := 20000
        sigs := [{ id := 6, grp := 3, core := 0, team := 2, handle := 0, arrivals := 1, bytes := 0, tag := none, at_ := 0, cyc := 0 }] }
       (List.range 8).all s.fab.dead.getLsbD && (getLine s 6).isNone && (getOp s 6).isNone &&
         (s.sigs.all fun x => x.at_ + s.fab.rqtmo == s.tb && decide (19999 < x.at_ + s.fab.rqtmo))) = true ∧
      (outReq (.sig 6)).fkey ≠ 0 ∧ (probe.fab.dead.getLsbD 7 = false ∧ probe.fab.out = []) ∧ probe.fab.pending = [] := by decide

/-- Plane entries: one whose old plane is still in use, and one free. -/
theorem test_meets_plane_entries :
    let s (old : Nat) : State := { sending (.sig 6) 0 with fab := { (sending (.sig 6) 0).fab with pending := [(2, 5, old)] } }
    (s 0).fab.pending.find? (fun x => x.1 == 2) = some (2, 5, 0) ∧ ((s 0).fab.out.any fun r => r.plane == 0) = true ∧
      ((s 1).fab.out.all fun r => r.plane != 1) = true := by decide

/-- Ports: idle at 30 and at 31 resends, training for the first and the second time, of width 1 and 2, about to shed; beats
that agree, that share lanes alone, that share none. -/
theorem test_meets_links :
    probe.fab.ports.length = 32 ∧ probe.fab.ports[31]? = some Port.reset ∧ Port.reset.down = false ∧ Port.reset.training = false ∧
      Port.reset.resends < 31 ∧ 31 ≤ { Port.reset with resends := 31 }.resends ∧ { Port.reset with training := true }.attempt = 0 ∧
      { Port.reset with training := true, attempt := 1 }.attempt ≠ 0 ∧ { Port.reset with width := 1 }.width ≤ 1 ∧ 1 < Port.reset.width ∧
      Port.reset.lightSince + probe.fab.shedt ≤ { probe with tb := 50000 }.tb ∧ probe.tb < Port.reset.lightSince + probe.fab.shedt ∧
      (0xF : BitVec 4) &&& 0x3 ≠ 0 ∧ (0xC : BitVec 4) &&& 0x3 = 0 ∧ live probe = true := by decide

/-! ## Power -/

/-- A device at a governor step, at an intent, with a member; and one at neither. -/
theorem test_meets_governor :
    (let s : State := { probe with tb := 10000, pw := { probe.pw with members := [7] } }
     live s && decide (s.tb % 100 = 0 ∧ s.tb % 10000 = 0 ∧ s.pw.govAt ≠ s.tb ∧ s.pw.intentAt ≠ s.tb ∧ s.host.ballst = 0 ∧ 7 ∈ s.pw.members ∧
       6 ∉ s.pw.members ∧ s.tb + 20 ≤ 10020 ∧ 10019 < s.tb + 20 ∧ (getCore s 0).droopAt + 2000 ≤ s.tb)) = true ∧
      probe.pw.govAt = probe.tb ∧ probe.pw.members = [] ∧ probe.tb < (getCore probe 0).droopAt + 2000 := by decide

/-! ## Slices -/

/-- A queue with one packet. -/
def queue0 : Queue :=
  { q := 0, en := true, stopped := false, ridx := 0, widx := 1, lastSlice := none, token := none, verdict := none }
def queued (s : State) : State :=
  { tabled s with queues := [queue0], host := { (tabled s).host with ready := true } }

/-- One of the ways to translate an address that the caches allow (R380), and a read by it for ASID 0 within one page. -/
def pickAt (asid : BitVec 16) (s : State) (va n : Nat) : State × TransRes :=
  match (cachedFor s asid va)[n]? with
  | some (.leaf L e) => (tlbAdd (bump s) asid va L e, leafGrant e L va .read)
  | some (.node L p) => translateWalk (bump s) asid va .read L p
  | none => translateWalk (bump s) asid va .read 0 0

/-- A translation for a read at a cached address is one of those. -/
theorem translate_picks (s : State) (asid : BitVec 16) (va : Nat) (hv : va < 2 ^ 56) (hc : (cachedFor s asid va).isEmpty = false) :
    ∃ k < (cachedFor s asid va).length + 1, Machine.translate s 0 asid true va .read = pickAt asid s va k := by
  refine ⟨Config.choice s.fresh % ((cachedFor s asid va).length + 1), Nat.mod_lt _ (Nat.succ_pos _), ?_⟩
  rw [Machine.translate, if_neg (by omega), if_neg (by simp)]
  simp only [hc, Bool.false_eq_true, if_false]
  rfl

def readAt (s : State) (va n k : Nat) : State × CpRes :=
  match pickAt 0 s va k with
  | (s1, .wait m) => (s1, .wait m va)
  | (s1, .fail c) => (s1, .fatal c va)
  | (s1, .ok key _ pois) =>
    let keys := (List.range n).map (key + ·)
    let s2 := meetRun s1 (some 0) va keys
    if linesHold s1 keys then (s1, .busy)
    else if pois || runPoisoned s2 (some 0) va keys then (s2, .fatal 0x0B va)
    else (s2, .ok (memGets s2.mem keys ++ []))

/-- A read of the command processor at a cached address is one of those. -/
theorem cpRead_at (s : State) (ctx va n : Nat) (hr : (descOf s ctx).root = 0) (ha : (descOf s ctx).asid = 0)
    (hv : va < 2 ^ 56 ∧ va % 65536 + (n + 1) ≤ 65536) (hc : (cachedFor s 0 va).isEmpty = false) :
    ∃ k < (cachedFor s 0 va).length + 1, cpRead s ctx true va (n + 1) = readAt s va (n + 1) k := by
  obtain ⟨k, hk, ht⟩ := translate_picks s 0 va hv.1 hc
  refine ⟨k, hk, ?_⟩
  have hp : pageChunks va (n + 1) = [(va, n + 1)] := by
    have h1 : (va + (n + 1) - 1) / 65536 - va / 65536 = 0 := by omega
    rw [pageChunks, if_neg (by omega), h1]
    simp only [List.range_one, List.map_cons, List.map_nil, Nat.zero_add]
    simp only [List.cons.injEq, Prod.mk.injEq, and_true]
    omega
  rw [cpRead, hr, ha, hp]
  simp only [cpReadChunks, translateRun, ht, readAt]
  generalize pickAt 0 s va _ = r
  obtain ⟨r1, r2⟩ := r
  have hl : n + 1 ≤ 65536 - va % 65536 := by omega
  cases r2 <;> simp [hl]

/-- A packet that is due and read whole: one not valid, a NOP, a launch. -/
def headed : State × CpRes :=
  let s := queued probe
  let s0 := setQueue { s with served := s.served.set (queueDie 0) 0 } { queue0 with token := none, verdict := none }
  cpRead s0 0 true (slotVa (queueDesc s 0) queue0) 4

/-- The rest of the packet, whatever way its address is translated. -/
theorem test_meets_packet_body : ∃ s2 rest, cpRead headed.1 0 true 0x9004 60 = (s2, .ok rest) ∧
    (match headed.2 with
      | .ok hdr => (parsePacket hdr).valid && (parsePacket (hdr ++ rest)).kind == 1 && !(parsePacket (hdr ++ rest)).after &&
          !(parsePacket (hdr ++ rest)).exp && (takeInCause (parsePacket (hdr ++ rest)) (queueDesc s2 0).priv true).isNone &&
          freeGeneral s2 0 == some 1
      | _ => false) = true := by
  have h : (cachedFor headed.1 0 0x9004).length + 1 = 4 ∧ ∀ k < 4, (match readAt headed.1 0x9004 60 k with
      | (s2, .ok rest) => match headed.2 with
        | .ok hdr => (parsePacket hdr).valid && (parsePacket (hdr ++ rest)).kind == 1 && !(parsePacket (hdr ++ rest)).after &&
            !(parsePacket (hdr ++ rest)).exp && (takeInCause (parsePacket (hdr ++ rest)) (queueDesc s2 0).priv true).isNone &&
            freeGeneral s2 0 == some 1
        | _ => false
      | _ => false) = true := by decide
  obtain ⟨k, hk, e⟩ := cpRead_at headed.1 0 0x9004 59 rfl rfl (by decide) (by decide)
  have := h.2 k (h.1 ▸ hk)
  rw [e]
  split at this
  · exact ⟨_, _, ‹_›, this⟩
  · exact absurd this (by decide)

theorem test_meets_packet_take_in :
    (let s := queued probe
     (queueDesc s 0).ctx == 0 && packetDue s 0 && slotVa (queueDesc s 0) queue0 == 0x9000 && queue0.verdict != some true) = true ∧
      packetDue { queued probe with queues := [{ queue0 with widx := 0 }] } 0 = false ∧
      (parsePacket [1]).valid = true ∧ (parsePacket [1]).kind = 0 ∧ (parsePacket [2]).valid = false := by decide

/-- A slice whose next team fits in cluster 0, one with no team left, and a marker. -/
theorem test_meets_placement :
    (let s := slc (fun x => { x with nextTeam := 0, pkt := { x.pkt with hdr := 3 } }) probe
     s.slices.all fun x => hasUnplaced x && dispatchTurn s x && !x.pkt.marker && x.pkt.arglen == 0 && x.token.isNone && x.verdict.isNone &&
       x.tiles.isEmpty &&
       match x.k with
       | some k => !(fitsIn s (x.id, x.nextTeam) k 0).isEmpty && k.images.isEmpty && k.cores == 1
       | none => false) = true ∧
      (probe.slices.all fun x => !hasUnplaced x && x.ending.isNone) = true ∧
      ((slc (fun x => { x with k := none, st := .ready }) probe).slices.all fun x => x.k.isNone && x.st == .ready && !x.pkt.marker) = true ∧
      ({ probePacket with hdr := 5 } : Packet).marker = true := by decide

/-- A group with no fibre left, alone and beside another of its team; groups that are not over. -/
theorem test_meets_group_retire :
    (let out (g : Group) : Group := { g with lanes := g.lanes.map fun l => { l with st := .free } }
     let s : State := { grp out with groups := [out probeGroup, second] }
     (out probeGroup).active == 0 && !groupBusy s 3 && (s.groups.any fun h => h.id != 3 && h.team == 2) && (getSlot s 0 0).bank.isNone) = true ∧
      (let s := grp fun g => { g with lanes := g.lanes.map fun l => { l with st := .free } }
       !groupBusy s 3 && (s.groups.all fun h => h.id == 3) && (s.teams.all fun t => t.id == 2) && s.rings.isEmpty &&
         s.slices.all fun x => x.ending.isNone && decide (x.pkt.nteam ≤ x.nextTeam)) = true ∧
      probeGroup.active ≠ 0 ∧ probeTCore.held = false ∧ groupBusy (flying (enqOp 0)) 3 = true ∧ probeGroup.gs = [] := by decide

/-- The state once pre-emption has begun: the translation of the save stack is cached, so that a choice is free (R380). -/
def counted : State :=
  let s1 := (stackCount (tabled probe) probeSlice).1
  let s2 : State := { s1 with slices := s1.slices.map fun y => if y.id = 1 then { y with preempting := true } else y }
  (residentGroups s2 1).foldl saveWaits s2

/-- Whatever those choices are, the record comes off the save stack. -/
theorem test_meets_record : ∃ s4, topRecord counted probeSlice = (s4, some (0, 0xA000)) ∧ s4.lines = [] ∧
    sramClean s4 = true ∧ (getTeam s4 2).isSome = true := by
  have h0 : (cachedFor counted 0 0x3FFFFFF8).length + 1 = 4 := by decide
  have h1 : ∀ n < 4, (readAt counted 0x3FFFFFF8 8 n).2 = .ok [1, 0, 0, 0, 0, 0, 0, 0] ∧
      stackAt (readAt counted 0x3FFFFFF8 8 n).1 probeSlice 1 = 0x40000000 ∧
      (descOf (readAt counted 0x3FFFFFF8 8 n).1 0).root = 0 ∧ (descOf (readAt counted 0x3FFFFFF8 8 n).1 0).asid = 0 ∧
      (cachedFor (readAt counted 0x3FFFFFF8 8 n).1 0 0x40000000).length + 1 = 3 ∧
      ∀ k < 3, (readAt (readAt counted 0x3FFFFFF8 8 n).1 0x40000000 8 k).2 = .ok [0, 0xA0, 0, 0, 0, 0, 0, 0] ∧
        (readAt (readAt counted 0x3FFFFFF8 8 n).1 0x40000000 8 k).1.lines = [] ∧
        sramClean (readAt (readAt counted 0x3FFFFFF8 8 n).1 0x40000000 8 k).1 = true ∧
        (getTeam (readAt (readAt counted 0x3FFFFFF8 8 n).1 0x40000000 8 k).1 2).isSome = true := by decide
  obtain ⟨n, hn, e⟩ := cpRead_at counted 0 0x3FFFFFF8 7 rfl rfl (by decide) (by decide)
  obtain ⟨h, hp, hr, ha, hl, hk⟩ := h1 n (h0 ▸ hn)
  have hs : stackCount counted probeSlice = ((readAt counted 0x3FFFFFF8 8 n).1, 1) := by
    rw [stackCount, show stackAt counted probeSlice 0 = 0x3FFFFFF8 from rfl, show probeSlice.ctx = 0 from rfl, e]
    generalize readAt counted 0x3FFFFFF8 8 n = r at h ⊢
    obtain ⟨r1, r2⟩ := r
    subst h
    rfl
  obtain ⟨k, hlt, e2⟩ := cpRead_at (readAt counted 0x3FFFFFF8 8 n).1 0 0x40000000 7 hr ha (by decide) (by
    rw [List.isEmpty_eq_false_iff, ← List.length_pos_iff]; omega)
  have := hk k (hl ▸ hlt)
  refine ⟨(readAt (readAt counted 0x3FFFFFF8 8 n).1 0x40000000 8 k).1, ?_, this.2⟩
  rw [topRecord, hs]
  simp only [hp, show probeSlice.ctx = 0 from rfl, e2]
  have h2 := this.1
  generalize readAt (readAt counted 0x3FFFFFF8 8 n).1 0x40000000 8 k = r at h2 ⊢
  obtain ⟨r1, r2⟩ := r
  subst h2
  rfl

/-- Pre-emption with no record, with one and all groups quiet, with one group in a system handler. -/
theorem test_meets_preempt :
    live (tabled probe) = true ∧ probeSlice.st = .running ∧ probeSlice.ending = none ∧ (stackCount (tabled probe) probeSlice).2 = 1 ∧
      (residentTeams (tabled probe) 1).length = 1 ∧ (residentGroups counted 1).all (groupQuiet counted) = true ∧
      (stackCount probe probeSlice).2 = 0 ∧ groupQuiet probe (inSystem probeGroup) = false ∧
      residentTeams (tea (fun t => { t with st := .saved }) probe) 1 = [] := by decide

/-- A saved team that fits in cluster 1. -/
theorem test_meets_context_restore :
    (let s := tea (fun t => { t with st := .saved }) probe
     live s && (s.teams.all fun t => t.st == .saved && (s.slices.all fun x => x.ending.isNone && !x.preempting && ballastMay s x &&
       !(fitsIn s (x.id, t.no) t.k 1).isEmpty))) = true := by decide

/-! ## The host -/

/-- Host registers before and after bring-up, and ready to start; ring sizes at both ends; the board's pins. -/
theorem test_meets_host :
    (let h : HostIf := { HostIf.reset with mcup := true, ctxtab := 0x40, qdtab := 0x1000, sfqbase := 0x1006, mcrbase := 0x1010 }
     live { probe with host := h } && !h.go && h.ctxtab != 0 && h.qdtab != 0 && decide (4096 ≤ h.sfqbase.toNat ∧ h.sfqbase.toNat % 32 = 6 ∧
       4096 ≤ h.mcrbase.toNat ∧ h.mcrbase.toNat % 32 = 16)) = true ∧
      probe.host.mcup = false ∧ probe.host.goPending = false ∧ probe.host.heldEntries = [] ∧ probe.host.powerOff = false ∧
      probe.host.freezePin = false ∧ probe.host.resetPending = false ∧ { probe.host with freezePin := true }.freezePin = true ∧
      (queueDesc (queued probe) 0).en = true ∧ (queueDesc (queued probe) 1).en = false ∧ (queueDesc (queued probe) 0).log = 6 ∧
      ((List.range 8).all fun i => paOk (0x1000 + i)) = true ∧ memWf probe.mem = true ∧ hbmClean probe = true ∧
      linesHold probe ((List.range 8).map (0x1000 + ·)) = false ∧ probe.host.bars = [] ∧
      (let l := { lineOf [{ seg4 with dkeys := [0x1003] }] with i := .cpy (ei (.v 0) (.v 2) (.v 4) (.g 4) 0x402), started := true }
       linesHold { probe with lines := [l] } ((List.range 8).map (0x1000 + ·))) = true ∧
      (op (.ld (mi .sz4 (.v 1) (.g 4) (.v 0) (.v 0))) .grant [{ freshReq 0 0 [] [] with st := .waiting 7 }]).reqs.any
        (fun q => q.st == .waiting ((0x8000000000000007 : BitVec 64).toNat % 2 ^ 63)) = true := by decide

/-- A CAS of the host on a free word of local memory stores its operand; one whose comparand differs does not (R226, R428). -/
theorem test_bar4_cas :
    (let acc (c : Byte) : BarAccess :=
       { addr := 0x1000, write := true, data := [7, 0, 0, 0], size := 4, atomic := some .cas, cmp := [c, 0, 0, 0] }
     [0, 1].map fun c => match exec (.hostBar4Access (acc c)) probe with
       | .next u => (memGet u.mem 0x1000).toNat
       | _ => 99) = [7, 0] := by decide

/-! ## The step, reset and invariants -/

/-- The invariants hold at reset and at the probe. -/
theorem test_reset_meets_invariants :
    MemOk State.reset ∧ ScratchOk State.reset ∧ ShapesOk State.reset ∧ KernelsOk State.reset ∧ HandlesOk State.reset := by
  refine ⟨(rfl : memWf State.reset.mem = true), ?_, ⟨?_, ?_⟩, ⟨?_, ?_⟩, ?_⟩
  · intro t h
    exact absurd h (by simp [State.reset])
  · intro g h
    exact absurd h (by simp [State.reset])
  · intro c h
    rw [show State.reset.cores = List.replicate Config.cores Core.reset from rfl] at h
    rw [List.eq_of_mem_replicate h]
    intro k hk
    exact absurd hk (by simp [Core.reset])
  · intro x h
    exact absurd h (by simp [State.reset])
  · intro y h
    exact absurd h (by simp [State.reset])
  · intro o h
    exact absurd h (by simp [State.reset])

theorem test_probe_meets_invariants :
    memWf probe.mem = true ∧ (probe.teams.all fun t => t.cores.all fun c => memWf c.gen && memWf c.wgt && memWf c.act && memWf c.erg) = true ∧
      probe.groups.all groupShaped = true ∧ (probe.cores.all fun c => c.hist.isEmpty) = true ∧
      (probe.slices.all fun x => match x.k with
        | some k => k.roles.all fun r => decide (64 ≤ r.regs)
        | none => true) = true ∧ probe.rings = [] ∧ probe.ops = [] ∧ probe.busy = true ∧ (curGroup probe).isSome = true := by decide

/-- What a step takes: an issue whose bytes decode and one whose bytes do not, an event that is due and acts, one that does
not act in a frozen part, and a choice of its own. -/
theorem test_meets_step :
    (curGroup probe).isSome = true ∧ (getTeam probe 2).map (fun t => t.desc.asid) = some 1 ∧
      ((getCore probe 0).fetch.find? fun w => w.asid == 1 && w.va.toNat / 32 == 0x1000 / 32).map
        (fun w => (decodeBytes w.bytes).toOption.isSome) = some true ∧
      ((getCore (State.reset.withFetchWord 64 3) 0).fetch.find? fun w => w.asid == 1 && w.va.toNat / 32 == 0x1000 / 32).map
        (fun w => (decodeBytes w.bytes).toOption.isNone) = some true ∧
      acts probe .leaseExpire = true ∧ acts { probe with host := { probe.host with frozen := true } } .leaseExpire = false ∧
      State.reset.busy = false ∧ State.reset.agenda = [] ∧ State.reset.cores ≠ [] := by decide

/-! ## Ill-formed terms: one for each check of an encoding (R44 to R57, R66 to R70) -/

/-- The header's checks: p7 negated; a guard on an instruction that executes once; 64 bits where an immediate or an offset is
needed; bits above those that the length has; a branch target that is no multiple of 4, and one beyond 32 bits. -/
theorem test_ill_formed_header :
    [Instr.iadd (ti .i32 (.v 1) (.v 2) (.v 3) (.v 0) 0 0 { h2 with neg := true }),
     .join (ei (.v 0) (.v 0) (.v 0) (.v 0) 0 hOff), .iadd (ti .i32 (.v 1) (.v 2) .imm (.v 0)), .bra (ei (.v 0) (.v 0) (.v 0) (.v 0)),
     .nop (ei (.v 0) (.v 0) (.v 0) (.v 0) 0 { h2 with ext := 1 }), .iadd (ti .i32 (.v 1) (.v 2) .imm (.v 0) 0 0 (h3 0x100000000)),
     .bra (ei (.v 0) (.v 0) (.v 0) (.v 0) 0 (h3 2)), .bra (ei (.v 0) (.v 0) (.v 0) (.v 0) 0 (fetchHdr .four 0x100000000)),
     .iadd (ti .i32 (.v 1) (.v 2) (.v 3) (.v 0) 0 0 (h3 1))].any Instr.wf = false := by decide

/-- The operands' checks: a destination that is special or a group register in a lane class, an odd or last pair, a vector
register as a group operand, an unused field that is not zero, an immediate as a destination. -/
theorem test_ill_formed_operands :
    [Instr.iadd (ti .i32 (.sp .lane) (.v 2) (.v 3) (.v 0)), .iadd (ti .i32 (.g 1) (.v 2) (.v 3) (.v 0)),
     .iadd64 (ti .i64 (.v 4) (.v 63) (.v 2) (.v 0)), .iadd64 (ti .i64 (.v 4) (.g 5) (.v 2) (.v 0)), .iadd64 (ti .i64 (.v 63) (.v 2) (.v 4) (.v 0)),
     .gadd (ti .z32 (.g 1) (.v 2) (.g 3) (.v 0)), .iadd (ti .i32 (.v 1) (.v 2) (.v 3) (.v 4)), .iadd (ti .i32 .imm (.v 2) (.v 3) (.v 0)),
     .nop (ei (.v 1) (.v 0) (.v 0) (.v 0)), .bwait (ei (.v 1) (.g 1) (.g 2) (.g 3))].any Instr.wf = false := by decide

/-- MOD's checks: types, VAR, SAT, RND and CMP codes that an entry does not take; sizes, orders, windows and scopes. -/
theorem test_ill_formed_MOD :
    [Instr.iadd (ti .f32 (.v 1) (.v 2) (.v 3) (.v 0)), .iadd (ti .i32 (.v 1) (.v 2) (.v 3) (.v 0) 0 1),
     .and (ti .i32 (.v 1) (.v 2) (.v 3) (.v 0) 8), .fadd (ti .f32 (.v 1) (.v 2) (.v 3) (.v 0) 4), .icmp (ti .i32 (.p 1) (.v 2) (.v 3) (.v 0) 6),
     .cvt (ti (.b8 0 false false) (.v 1) (.v 2) (.v 0) (.v 0)) .f32,
     .ld (mi .sz16 (.v 1) (.g 4) (.v 0) (.v 0)), .ld (mi .sz4 (.v 1) (.g 4) (.v 0) (.v 0) 0 .rel), .st (mi .sz4 (.v 1) (.g 4) (.v 2) (.v 0)),
     .lds (mi .sz4 (.v 1) (.v 2) (.v 0) (.v 0) 3), .ld (mi .sz4 (.v 1) (.g 4) (.v 0) (.v 0) 0 .none .dev),
     .drain (ei (.v 0) (.v 0) (.v 0) (.v 0) 0), .cpy (ei (.v 0) (.v 2) (.v 4) (.g 4) 0x002), .call (ei (.v 0) (.v 0) (.v 0) (.v 0) 65 (h3 8)),
     .cwr (ei (.v 0) (.v 0) (.g 4) (.v 0) 0 (h3 0x304)), .crdTs (ei (.v 1) (.v 0) (.v 0) (.v 0) 0xC00 (h3 4))].any Instr.wf = false := by decide

/-! ## Decoding: words printed in the spec's worked examples, or written out from R43, R50 and R64 -/

theorem test_decode_lane_integer :
    decodeTableWord 96 0x000003E8000007F010270001 =
      some (.iadd { h := h3 1000, var := 0, mode := 0, ty := .i32, d := .v 2, a := .v 1, b := .imm, c := .v 0 }) := by decide

theorem test_decode_long :
    decodeTableWord 96 0x7FFFFE0000300027F0470115 =
      some (.lea { h := h3 0x7FFFFE00, var := 0, mode := 0, ty := .z64, d := .v 4, a := .imm, b := .v 2, c := .v 0 }) := by decide

/-- FFMA.F32 v1, v2, v3, v4: class 2, function 3. -/
theorem test_decode_float :
    decodeTableWord 64 0x008040302017020C =
      some (.ffma { h := h2, var := 0, mode := 0, ty := .f32, d := .v 1, a := .v 2, b := .v 3, c := .v 4 }) := by decide

theorem test_decode_conversion :
    decodeTableWord 64 0x0240010080C76304 =
      some (.pkb8 { h := { h2 with stall := 6 }, var := 0, mode := 0, ty := .b8 4 false false, d := .v 12, a := .v 8, b := .v 16, c := .v 0 }) := by
  decide

/-- RSQ.F32 v5, v6: class 4, function 1. -/
theorem test_decode_special_function :
    decodeTableWord 64 0x0080000060570404 =
      some (.rsq { h := h2, var := 0, mode := 0, ty := .f32, d := .v 5, a := .v 6, b := .v 0, c := .v 0 }) := by decide

/-- SHFL.XOR.I32 v1, v2, v3: class 5, function 3. -/
theorem test_decode_exchange :
    decodeTableWord 64 0x000000302017050C =
      some (.shflXor { h := h2, var := 0, mode := 0, ty := .i32, d := .v 1, a := .v 2, b := .v 3, c := .v 0 }) := by decide

theorem test_decode_group_pipe :
    decodeTableWord 64 0x0030064004272620 =
      some (.rdln { h := { h2 with stall := 2 }, var := 0, mode := 0, ty := .z64, d := .g 2, a := .v 0, b := .sp .zero, c := .v 0 }) := by decide

theorem test_decode_control :
    decodeTableWord 96 0xFFFFFFB00010000000070705 =
      some (.brc { h := h3 0xFFFFFFB0, mod := 1, d := .v 0, a := .v 0, b := .v 0, c := .v 0 }) := by decide

theorem test_decode_memory :
    decodeTableWord 64 0x0030000020470808 =
      some (.lds { h := h2, opx := 0, ord := .none, scope := .fib, size := .sz8, d := .v 4, a := .v 2, b := .v 0, c := .v 0 }) := by decide

/-- RED.IADD.SZ4 [v2], v4: class 9, function 1. -/
theorem test_decode_atomics :
    decodeTableWord 64 0x0020004020070904 =
      some (.red { h := h2, opx := 0, ord := .none, scope := .fib, size := .sz4, d := .v 0, a := .v 2, b := .v 4, c := .v 0 }) := by decide

theorem test_decode_synchronisation :
    decodeTableWord 96 0x00000001000647F405970A0D =
      some (.bwait { h := h3 1, mod := 0, d := .p 1, a := .g 0, b := .imm, c := .sp .zero }) := by decide

theorem test_decode_copy :
    decodeTableWord 64 0xA046404020070B00 =
      some (.cpy { h := h2, mod := 0xA04, d := .v 0, a := .v 2, b := .v 4, c := .sp .zero }) := by decide

theorem test_decode_matrix :
    decodeTableWord 64 0x4080064641470C0C =
      some (.mxrd { h := h2, mod := 0x408, d := .v 20, a := .sp .zero, b := .sp .zero, c := .v 0 }) := by decide

theorem test_decode_Erg :
    decodeTableWord 96 0x00000800024647F420A10D01 =
      some (.ergc { h := { h3 0x800 with pred := 1 }, mod := 0x024, d := .v 10, a := .g 2, b := .imm, c := .sp .zero }) := by decide

/-- BUDR.USED g2: class D, function 11 (hexadecimal), VAR 1. -/
theorem test_decode_tasks :
    decodeTableWord 64 0x4000000004270D44 =
      some (.budr { h := h2, mod := 0x400, d := .g 2, a := .v 0, b := .v 0, c := .v 0 }) := by decide

theorem test_decode_system :
    decodeTableWord 96 0xFFFFFFFF0007F43420070E15 =
      some (.haltcHalt { h := h3 0xFFFFFFFF, mod := 0, d := .v 0, a := .g 2, b := .g 3, c := .imm }) := by decide

/-- LEN 0b11, class F, an unassigned function, operand code 0x7E, TYPE 0x3F of IADD. -/
theorem test_decode_refuses :
    [decodeTableWord 64 0x3, decodeTableWord 64 0x70F00, decodeTableWord 64 0x70740, decodeTableWord 64 0x7E0170000,
     decodeTableWord 64 0x03F0003020170000].map Option.isSome = [false, false, false, false, false] := by decide

/-! ## More hypotheses of the statements -/

/-- Core 0 still holds the issue of its group for a replay. -/
def recorded (s : State) : State :=
  { s with cores := modNth s.cores 0 fun c => { c with hist := [{ cyc := 0, grp := probeGroup, mask := BitVec.allOnes 64, pc := 0x1000, nextId := 4 }] } }

/-- EXIT in a system handler, of every lane and of none; a replay that may still bring the group back, and none that may. -/
theorem test_meets_EXIT_and_TRET_in_a_handler :
    sees (grp inSystem) (fun v => v.g.st.active && v.g.st.set &&& ~~~(v.parts h2) == 0 && v.g.st.set &&& ~~~(v.parts hOff) != 0) = true ∧
      replayable probe 0 3 = false ∧ replayable (recorded probe) 0 3 = true ∧ (getSlot probe 0 0).bankQ = [] ∧
      0 < probe.cores.length ∧ 0 < (getCore probe 0).slots.length := by decide

/-- A user entry with no room for its window, and an end that stands already. -/
theorem test_meets_full_entry_and_ended_slice :
    sees (slc (fun x => { x with thand := 0x3000 }) probe) (fun v => (lanesOf v.carried).all fun l =>
        decide ((v.g.lane l).rb + (v.g.lane l).rz < (v.g.lane l).base + 128)) = true ∧
      ((slc (fun x => { x with ending := some { code := 2, cause := 1, tepc := 0, tval := 0 } }) probe).slices.all fun x =>
        x.ending.isSome) = true := by decide

/-- Tables whose one leaf of a GiB has these bytes. -/
def leafed (leaf : List (Nat × Byte)) (s : State) : State :=
  { s with mem := [(0, 0x01), (1, 0x10), (0x1000, 0x01), (0x1001, 0x20)] ++ leaf }

/-- Translations with nothing cached: a leaf, none, a malformed one; faults, a peer's page, a host page; errors of no cell. -/
theorem test_meets_translation :
    let at_ (s : State) (lvl : Bool) (va : Nat) (k : Want) : TransRes := (Machine.translate s 0 1 lvl va k).2
    cachedFor (mapped probe) 1 0x100 = [] ∧ walk (mapped probe).mem 0 0x100 = .leaf 0x2000 0x3F 2 ∧ walk probe.mem 0 0x100 = .notPresent ∧
      walk (leafed [(0x2000, 0x3F), (0x2007, 2)] probe).mem 0 0x100 = .malformed ∧ memWf (mapped probe).mem = true ∧
      hbmClean (mapped probe) = true ∧ (mapped probe).hbm.failed = [] ∧ sramClean (mapped probe) = true ∧
      at_ probe true (2 ^ 57) .read = .fail 0x08 ∧ at_ probe false (2 ^ 56) .read = .fail 0x09 ∧ at_ probe true (2 ^ 57 - 1) .read = .wait false ∧
      at_ (leafed [(0x2000, 0x39)] probe) true 0x100 .read = .fail 0x09 ∧ at_ (leafed [(0x2000, 0x37), (0x2001, 3)] probe) true 0x100 .read = .fail 0x08 ∧
      at_ (leafed [(0x2000, 0x37), (0x2001, 0x1D)] probe) true 0x100 .atomic = .ok (peerKey 7 0x100) (some 7) false ∧
      at_ (leafed [(0x2000, 0x37), (0x2001, 2)] probe) true 0x100 .atomic = .ok (hostKey 0x100) none false ∧
      at_ (leafed [(0x2000, 0x37), (0x2002, 0x10)] probe) true 0x100 .write = .ok 0x100 none true ∧
      (admitPeer probe 2).2 = false := by decide

/-- Grants that wait for a handler of other fibres, and that park behind an earlier issue. -/
theorem test_meets_grants_that_wait :
    (let o := { loadAt 0x1FFFFFFFFFFFFFFC with carried := 1 }
     let s := { flying o with groups := [{ probeGroup with ut := { probeGroup.ut with active := true, set := 2 } }] }
     let r := grantReqs s o o.reqs
     (firstGrantFail r.2).isSome && !r.2.any Req.waits && !trapFree (modOp r.1 7 fun _ => { o with reqs := r.2 }) { o with reqs := r.2 }) = true ∧
      (let o := { loadAt 0x100 with reqs := [{ freshReq 0 0x100 [] [] with peer := some 7, st := .granted }] }
       let s : State := { flying o with groups := [{ probeGroup with
         parked := some { mask := 1, pc := 0, seq := 1, peers := [(7, 1)] } }] }
       let r := grantReqs s o o.reqs
       !r.2.any Req.waits && (firstGrantFail r.2).isNone && !peersFree (modOp r.1 7 fun _ => { o with reqs := r.2 }) r.1.nextId (peersOfReqs r.2) &&
         (sliceOfTeam r.1 2).isSome) = true := by decide

/-- A store of two lanes to one sector, both due; and a load one of whose lanes is poisoned. -/
theorem test_meets_store_of_lanes :
    (let q (l : Nat) : Req := { freshReq l 0x100 [1, 2, 3, 4] [] with st := .granted, keys := [0x100, 0x101, 0x102, 0x103] }
     let o := op (.st (mi .sz4 (.v 0) (.g 4) (.v 1) (.v 0))) .active [q 0, q 1]
     o.reqs.all (fun r => reqReady (flying o) o r && r.va.toNat / 48 == 5 && r.st == .granted && r.peer.isNone && r.scr.isNone && r.bad.isNone) &&
       sramClean (flying o) && o.dsts.isEmpty) = true ∧
      (let q := { granted [0x100, 0x101, 0x102, 0x103] [] with pois := true }
       let o := op (.ld (mi .sz4 (.v 1) (.g 4) (.v 0) (.v 0))) .active [q] [] [.v 0 1]
       reqReady (flying o) o q && o.carried &&& probeGroup.active != 0 && !(o.sys && probeGroup.st.active)) = true := by decide

/-- Each other operation of a barrier unit in its turn, with its argument list. -/
theorem test_meets_barrier_unit :
    (([(.binit (ei (.v 0) (.g 1) (.g 2) (.v 0) 0), [0, 16, 2]), (.bexp (ei (.v 0) (.g 1) (.g 2) (.v 0)), [0, 16, 4]),
       (.brd (ei (.v 4) (.g 1) (.v 0) (.v 0)), [0, 16]), (.rbind (ei (.v 0) (.g 1) (.g 2) (.g 4) 0 (h3 1)), [0, 16, 0, 0, 1]),
       (.rfree (ei (.v 0) (.g 1) (.v 0) (.v 0)), [0, 0, 0])] : List (Instr × List Dword)).all fun x =>
      let o := op x.1 .active [] x.2
      barTurn (flying o) o (o.arg 0, o.arg 1) && opReady (flying o) o 0 && sramClean (flying o) && (getTCore (flying o) 2 0).isSome) = true ∧
      (let o := op (.barvEach (ei (.v 0) (.v 1) (.v 2) (.v 3))) .active [] [0, 16, 1, 0]
       barTurn (flying o) o (0, 16) && opReady (flying o) o (Mask.bit 0) && (lanesOf o.mask).headD 0 == 0 && decide (o.args.length ≤ 4)) = true ∧
      regionTag [none, some { base := 0, lines := 1, core := 0, bar := 16 }] 0 16 = (1, 1) ∧ regionTag [none] 0 16 = (0, 255) := by decide

/-- BWAIT at the unit: phase differing, equal without a baton, with the baton free and held, and a frozen barrier. -/
theorem test_meets_BWAIT_at_the_unit :
    (let o (ph : Dword) := op (.bwait (ei (.p 1) (.g 1) (.g 2) (.g 3))) .active [] [0, 16, ph, 0, 0] [.p 0 1]
     let s (ph : Dword) (f : TCore → TCore) : State := { flying (o ph) with teams := (shr f).teams }
     let b (s : State) : Bar := getBar s 2 0 16
     barTurn (flying (o 1)) (o 1) (0, 16) && decide ((o 1).args.length = 5 ∧ (b (s 1 id)).phase ≠ (o 1).arg 2 ∧ (b (s 0 id)).phase = (o 0).arg 2) &&
       decide ((getTCore (s 0 id) 2 0).map TCore.baton = some none) &&
       decide ((getTCore (s 0 fun c => { c with baton := some 16, held := true }) 2 0).map (fun c => (c.baton, c.held)) = some (some 16, true)) &&
       decide ((getTCore (s 0 fun c => { c with baton := some 16 }) 2 0).map (fun c => (c.baton, c.held)) = some (some 16, false)) &&
       decide ((b (s 1 fun c => c.setBar 16 { Bar.ofWord 0 with fault := true })).frozen = true)) = true := by decide

/-- The engines past the gate and before it, held by a pre-emption, and with an operation that a DRAIN waits for. -/
theorem test_meets_engine_gate :
    (let row := mxOp (.mxrow (ei (.v 0) (.g 0) (.g 1) (.g 2) 0x004)) [0, 8, 0, 64] false
     let erg := ergOp (.ergt cpyT) [0] false
     let s := engined [row] [erg] fun c => { c with latch := some latchI8 }
     gateHolds s 0 row.cyc && !gateHolds (aged s) 0 row.cyc && !gateHolds (aged s) 0 erg.cyc && !engineHeld (aged s) 0 2 8 &&
       engineHeld (told (aged s)) 0 2 8 && ergBytesFree (aged s) 0 erg && sramClean (aged s) && !rowMoves (aged s) 0) = true ∧
      (let m := mxOp (.mxrow (ei (.v 0) (.g 0) (.g 1) (.g 2) 0x004)) [0, 8, 14, 64] true
       rowMoves (latched (engined [m] [] fun c => { c with latch := some latchI8 })) 0) = true := by decide

/-- A latch of 64 rows, its buffer and a row for a row pass; a comparison with a kept tile of the same type, one of another. -/
theorem test_meets_row_and_tile :
    (let b : WBuf := { desc := some latchI8, w := List.replicate 8192 0, sw := [], pois := false }
     latchI8.k = 16 * 4 ∧ b.w.length = latchI8.k * 128 * elemSize latchI8.ty ∧ rowBytes .i8 64 = 64) ∧
      (let desc (tc : TCore) : Nat := ofBytes (tc.bytes .erg 0x820 8)
       let kept := probeTCore.write .erg 0x820 (toBytes (2 ^ 63 + Ty.f16.code.toNat * 2 ^ 32) 8)
       (desc kept).testBit 63 = true ∧ (desc kept).testBit 62 = false ∧ desc kept / 2 ^ 32 % 64 = Ty.f16.code.toNat ∧
         (desc probeTCore).testBit 63 = false ∧ fmtF32.decode 0 = .fin false 0 (-149)) := by
  refine ⟨⟨by decide, List.length_replicate, by decide⟩, by decide⟩

/-- An operation at the commit gate of core 0, past it. -/
theorem test_meets_commit_gate :
    ([Instr.cwr (ei (.v 0) (.v 0) (.g 4) (.v 0) 0 (h3 0x004)), .cwrSlew (ei (.v 0) (.v 0) (.g 4) (.v 0) 0 (h3 0x304)),
      .tlbi (ei (.v 0) (.g 0) (.g 2) (.g 4) 0xC00), .haltcHalt (ei (.v 0) (.g 0) (.g 1) (.g 2)),
      .haltcResume (ei (.v 0) (.g 0) (.v 0) (.v 0) 0x600), .haltcStep (ei (.v 0) (.g 0) (.g 1) (.g 2) 0x800),
      .scrbRow (ei (.g 2) (.g 0) (.v 0) (.v 0)), .scrbQry (ei (.g 2) (.g 0) (.v 0) (.v 0) 0x400),
      .rspr (ei (.g 2) (.g 0) (.v 0) (.v 0))].all fun i =>
        let o := op i .active [] [0, 0, 0, 0]
        (getOp (flying o) 7 == some o) && ((flying o).ops.filter fun p => p.core == 0 && gated p.i) == [o] &&
          !gateHolds (flying o) 0 o.cyc && ((List.range 4).all fun n => (getSlot (flying o) 0 n).bank.isNone) &&
          (getGroup (flying o) 3).isSome && (flying o).ops == [o] && o.reqs.isEmpty && (flying o).lines.isEmpty &&
          (flying o).groups.all fun g => g.gs.all fun z => !z.sent) = true := by decide

/-- HALTC.STEP's target, stepping and not; a codeword that reads as failed, one that can be corrected, one that cannot. -/
theorem test_meets_step_and_scrub :
    (let s := { flying (op (.haltcStep (ei (.v 0) (.g 0) (.g 1) (.g 2) 0x800)) .active [] [0, 9]) with groups := [probeGroup, second] }
     getGroup s 9 == some second && second.halted && second.resident && !groupHeld s second && !second.stepping) = true ∧
      failedKey probe (cwAddr 5 0) = false ∧ correctable probe (cwAddr 5 0 / 64) = false ∧
      correctable (withHbm fun h => { h with ce := [cwAddr 5 0 / 64] }) (cwAddr 5 0 / 64) = true ∧
      failedKey (withHbm fun h => { h with failed := [0] }) 0 = true ∧ offRing probe (cwAddr 5 0 / 64) ∧
      rowCopies (withHbm fun h => { h with remaps := [remap0 0 3 true] }) 5 = true ∧
      (probe.hbm.errs.filter fun e => e.hra != 5 && e.hra / 2 ^ 29 == 0).length < 4096 := by
  refine ⟨?_, ?_, ?_, ?_, ?_, ?_, ?_, ?_⟩ <;> (try unfold offRing) <;> decide

/-- A slot whose bank the group before has left, and a gate with nothing to release. -/
theorem test_meets_bank_release :
    (let s : State := { grp id with cores := modNth probe.cores 0 fun c =>
      { c with slots := modNth c.slots 0 fun sl => { sl with bank := some 3 } } }
     ((getSlot s 0 0).bank == some 3) && (getSlot s 0 0).bankQ.isEmpty && s.ops.isEmpty && (getCore s 0).hist.isEmpty &&
       (s.groups.all fun g => !g.st.active) && (s.cores.all fun c => c.mxq.isEmpty && c.ergq.isEmpty) &&
       (List.range 4).all fun n => n == 0 || (getSlot s 0 n).bank.isNone) = true := by decide

/-- The machine-check ring: its base not set, room in it, and full. -/
theorem test_meets_machine_check :
    (let ring (head : Word) : HostIf := { probe.host with mcrbase := 0x1006, mcrHead := head }
     probe.host.mcrbase.toNat % 2 ^ 52 / 4096 * 4096 = 0 ∧ ((ring 63).mcrHead - (ring 63).mcrTail).toNat ≠ 64 ∧
       ((ring 64).mcrHead - (ring 64).mcrTail).toNat = 2 ^ ((ring 64).mcrbase.toNat % 32) ∧ (ring 0).mcrbase.toNat % 2 ^ 52 / 4096 * 4096 ≠ 0) ∧
      memWf probe.mem = true ∧ (getCore probe 0).retired = false ∧ probe.groups.all (fun g => (sliceOf probe g).isSome) = true := by decide

/-- A request of one of two parts behind its mate, alone, and refused by a context that is not alive. -/
theorem test_meets_parts :
    (let r : PeerReq := { peerReq (.scratchWrite .gen 16) 8 with parts := 2, lane := 1 }
     let x : PeerReq := { r with lane := 0, addr := 4 }
     sameSector r x = true ∧ x ≠ r ∧ x.lane < r.lane ∧ x.kind = r.kind ∧ r.addr + r.size ≤ winBytes probeTeam .gen ∧
       ((exporting probe).fab.parts.filter fun y => sameSector r y && y != r).length + 1 < r.parts ∧
       onScratch r.kind = true ∧ 16 % 16 = 0 ∧ 16 + 16 ≤ winBytes probeTeam .gen) ∧
      ctxLive (exporting probe) 2 = true ∧
      ctxLive (tea (fun t => { t with desc := { t.desc with live := false } }) (exporting probe)) 2 = false ∧
      fkeyOf (exporting probe) 2 = 5 ∧ (findExport (exporting probe) 5 9 0).isSome = true ∧
      (let r := peerReq .memWrite 0
       let s : State := { exporting probe with fab := { (exporting probe).fab with held := [r] } }
       (∃ q ∈ s.fab.held, q.src = (marker 1).src) ∧ ∀ q ∈ s.fab.held, q.src ≠ 6) := by decide

/-- A line whose one request has not been sent when no plane is left; a port that trains by the fallback, and beats that fit it. -/
theorem test_meets_unsent_lines_and_fallback :
    (let l := { lineOf [{ seg4 with dpeer := some 7, st := .granted }] with i := .cpy (ei (.v 0) (.v 2) (.v 4) (.g 4) 0x402) }
     let s : State := { lined l probe with
       fab := { probe.fab with dead := 0xFF }
       tb := 20000 }
     (List.range 8).all s.fab.dead.getLsbD && (getLine s 5 == some l) && l.segs.any (unsentSeg s l) && !l.dead && sramClean s &&
       decide (l.at_ + s.fab.rqtmo ≤ s.tb) && (getTCore s 2 (l.bar.toNat / 2 ^ 24 % 4)).isSome) = true ∧
      (let p : Port := { Port.reset with training := true, attempt := 1, fall := 0x3 }
       p.attempt ≠ 0 ∧ (0x3 : BitVec 4) = p.fall ∧ (0xF : BitVec 4) ≠ p.fall) := by decide

/-- A ceiling in force inside a microsecond, and a ballast list of one record that may be launched. -/
theorem test_meets_ceiling_and_ballast :
    (let w : Power := { probe.pw with ceil := some 1000 }
     let cap (c : Nat) := min (w.inCap + c) (min (10 * min c (w.inCeil.getD c)) (w.inLast + 10000 * w.slew))
     w.ceil = some 1000 ∧ w.inSum ≤ cap 1000) ∧
      (let s : State := { probe with
         mem := [(0x4000, 0x13), (0x4004, 1)]
         host := { probe.host with ballst := 0x4001, ballstEff := 0x4001 } }
       nextBallast s = some 0 ∧ (ballastRecord s 0).kind ≠ 0 ∧ (ballastRecord s 0).exp = false ∧
         takeInCause (ballastRecord s 0) true true = none ∧ hbmClean s = true ∧ s.sram = [] ∧ (s.slices.all fun x => x.ballast.isNone) = true ∧
         (freeGeneral s 0).isSome = true) := by decide

/-- A slice that waits for its end, one with exported slots, a group that may still be replayed, and lines that hold the save stack. -/
theorem test_meets_slices :
    ((slc (fun x => { x with fin := some { code := 0, cause := 0, tepc := 0, tval := 0 } }) probe).slices.all fun x => x.fin.isSome) = true ∧
      (probe.slices.all fun x => x.fin.isNone && x.waitFor.isNone) = true ∧
      (let p : Packet := { probePacket with hdr := 0x00011003 }
       p.valid = true ∧ p.after = false) ∧
      mayReplay probe probeGroup = false ∧ mayReplay (recorded probe) probeGroup = true ∧ liveSlots probe 0 = [] ∧
      coresAtTakeIn (tabled probe) probeSlice = some 1 ∧ stackHeld probe probeSlice 0 = false ∧ recordHeld probe probeSlice probeTeam 0xA000 = false ∧
      probeGroup.g.length = 24 ∧ probeGroup.js.length ≤ 32 ∧ (probeGroup.lanes.all fun l => decide (l.rz = probeGroup.rz)) = true := by decide

/-- BAR0 registers read at another size or unaligned; a debug register; a queue whose descriptor is not the notifier's. -/
theorem test_meets_bar0 :
    bar0Access probe 0x10 4 = 2 ^ 32 - 1 ∧ bar0Access probe 0x14 8 = 2 ^ 64 - 1 ∧
      live { probe with host := { probe.host with mcup := true } } = true ∧ (0x17F8 : Nat) % 8 = 0 ∧
      (queueDesc (queued probe) 0).ctx ≠ 1 ∧ (getQueue (queued probe) 0).en = true ∧
      [3, 7].all (fun i => decide (i < Config.cores ∧ i < probe.cores.length)) = true := by decide

/-- The core holds a window at 0x1000 with these bytes and this poison. -/
def windowed (bs : List Byte) (pois : List Nat) : State :=
  { probe with cores := modNth probe.cores 0 fun c => { c with fetch := [{ asid := 1, va := 0x1000, bytes := bs, pois := pois }] } }
def nops : List Byte := (List.range 4).flatMap fun _ => toBytes 0x7072C 8

/-- Each outcome of the checks at fetch: alignment, range, level, no window, poison, LEN 0b11, a word over the window's end, a
word that does not decode, a level or a mode that does not fit, and a word that runs. -/
theorem test_meets_fetch_checks :
    let f (bs : List Byte) (pois : List Nat) (pc : Dword) : FetchRes := fetchRes (windowed bs pois) probeGroup pc
    f nops [] 0x1002 = .trap 0x02 0x1002 ∧ f nops [] (2 ^ 57) = .trap 0x08 (2 ^ 57) ∧ fetchRes atU probeGroup (2 ^ 56) = .trap 0x09 (2 ^ 56) ∧
      f nops [] 0x1020 = .need ∧ f nops [7] 0x1000 = .trap 0x0B 0x1000 ∧ f (toBytes 0x7072F 32) [] 0x1000 = .trap 0x01 0x7072F ∧
      f (List.replicate 28 0 ++ toBytes 0x7072C 4) [] 0x101C = .trap 0x02 0x1020 ∧ f (toBytes 0x70F00 32) [] 0x1000 = .trap 0x01 0x70F00 ∧
      f nops [] 0x1018 = .ok (.nop (ei (.v 0) (.v 0) (.v 0) (.v 0))) ∧
      (fetchRes { (windowed (toBytes 0x3010047004070E10 32) []) with slices := atU.slices } probeGroup 0x1000 == .need) = false := by decide

/-- Checks 6 and 7: a group apart, a register read early, and neither. -/
theorem test_meets_late_checks :
    sees (grp apart) (fun v => lateCheck v (.gadd (ti .z32 (.g 1) (.g 2) (.g 3) (.v 0))) == some 0x04) = true ∧
      sees (grp fun g => { g with checksb := true, early := [{ dst := .v 0 2, untl := 5, old := 0 }] })
        (fun v => lateCheck v (.iadd (ti .i32 (.v 1) (.v 2) (.v 3) (.v 0))) == some 0x03) = true ∧
      sees probe (fun v => (lateCheck v (.iadd (ti .i32 (.v 1) (.v 2) (.v 3) (.v 0)))).isNone) = true := by decide

/-- A group with 16 spilled entries of the join stack, all of them zeros, in mapped memory: each of the 16 reads of a refill, made
first, gives the bytes of an entry; and a group with 15, for which there is none. -/
theorem test_meets_join_refill :
    (let s : State := mapped (grp fun g => { g with jsd := 16, jspa := 0x4000 })
     let e : JEnt := { markpc := 0, rejoin := 0, park := 0, memb := 0 }
     (List.range 16).all fun i => (readVa s (teamSpace s 2).1 (teamSpace s 2).2 true (0x4000 + 32 * i) 32).2 == some (jentBytes e)) = true ∧
      ((grp fun g => { g with jsd := 15 }).groups.all fun g => decide (g.jsd < 16)) = true := by decide

end Sys2Proof.Tests
end

/-! SUPPORT. Memory in canonical form (R2, R25, R178) and why every step keeps it. Only a few operations write a map of
bytes at all: `memSets` on device memory, `memWrite` and `setWin` on a window of a team's share. Each of them keeps the form,
by the laws of memory. Each further operation of the model has one lemma, `canon_` and its name, which follows from those of
the operations it is made of; an instruction or event with branches of its own has `keeps_exec…`. A lemma proved by `h` itself
says that its operation touches neither memory nor a window. -/

namespace Sys2Proof.Machine

open Sys2Proof.Safety

/-! ## The invariant -/

/-- Memory and every window of every team are in canonical form. -/
def Canon (s : State) : Prop := MemOk s ∧ ScratchOk s

/-- The windows of one core's share are in canonical form. -/
def TCore.Canon (c : TCore) : Prop := memWf c.gen = true ∧ memWf c.wgt = true ∧ memWf c.act = true ∧ memWf c.erg = true

/-- The windows of a team are in canonical form. -/
def Team.Canon (t : Team) : Prop := ∀ c ∈ t.cores, c.Canon

/-- The answer, where it is a next state, is canonical. -/
def Keeps (o : Host.Outcome State Fault Refusal) : Prop := ∀ u, o = .next u → Canon u

variable {s : State}

theorem canon_iff : Canon s ↔ memWf s.mem = true ∧ ∀ t ∈ s.teams, t.Canon := Iff.rfl

theorem Canon.mem (h : Canon s) : memWf s.mem = true := h.1
theorem Canon.teams (h : Canon s) : ∀ t ∈ s.teams, t.Canon := h.2
theorem Canon.next (h : Canon s) : Keeps (.next s) := by rintro u ⟨⟩; exact h

theorem keeps_fault (r : Fault) : Keeps (.fault r) := fun _ h => nomatch h

/-! ## Device memory, and operations done again and again -/

theorem canon_setMem (h : Canon s) {m : Mem} (hm : memWf m = true) : Canon { s with mem := m } := ⟨hm, h.teams⟩

theorem canon_foldl {α : Type} (f : State → α → State) (xs : List α) (h : Canon s) (hf : ∀ s x, Canon s → Canon (f s x)) :
    Canon (xs.foldl f s) :=
  List.foldlRecOn xs f h fun s hs x _ => hf s x hs

theorem canon_foldl_fst {α β : Type} (f : State × β → α → State × β) (xs : List α) {a : State × β} (h : Canon a.1)
    (hf : ∀ a x, Canon a.1 → Canon (f a x).1) : Canon (xs.foldl f a).1 :=
  List.foldlRecOn xs f (motive := fun a => Canon a.1) h fun a ha x _ => hf a x ha

/-! ## The windows of a team -/

theorem teamsCanon_map {ts : List Team} (f : Team → Team) (h : ∀ t ∈ ts, t.Canon) (hf : ∀ t, t.Canon → (f t).Canon) :
    ∀ t ∈ ts.map f, t.Canon := by
  simpa using fun t ht => hf t (h t ht)

/-- A change of a team keeps the form if it keeps that of the team's windows; one that leaves the windows does. -/
theorem canon_modTeam (h : Canon s) (id : Nat) (f : Team → Team)
    (hf : ∀ t, t.Canon → (f t).Canon := by exact fun _ ht => ht) : Canon (modTeam s id f) :=
  ⟨h.mem, teamsCanon_map _ h.teams fun t ht => by split <;> [exact hf t ht; exact ht]⟩

theorem modNth_forall {α : Type} {p : α → Prop} (f : α → α) (hf : ∀ x, p x → p (f x)) :
    ∀ (xs : List α) (n : Nat), (∀ x ∈ xs, p x) → ∀ x ∈ modNth xs n f, p x := by
  intro xs
  induction xs with
  | nil => intro n h; exact h
  | cons x xs ih =>
    intro n h
    simp only [List.forall_mem_cons] at h
    cases n with
    | zero => simpa [modNth] using ⟨hf x h.1, h.2⟩
    | succ n => simpa [modNth] using ⟨h.1, ih n h.2⟩

theorem canon_modTCore (h : Canon s) (team core : Nat) (f : TCore → TCore)
    (hf : ∀ c, c.Canon → (f c).Canon := by exact fun _ hc => hc) : Canon (modTCore s team core f) :=
  canon_modTeam h team _ fun t ht => modNth_forall f hf t.cores core ht

theorem TCore.canon_setWin {c : TCore} (h : c.Canon) (w : Win) {m : Mem} (hm : memWf m = true) : (c.setWin w m).Canon := by
  obtain ⟨hg, hw, ha, he⟩ := h
  cases w
  · exact ⟨hm, hw, ha, he⟩
  · exact ⟨hg, hm, ha, he⟩
  · exact ⟨hg, hw, hm, he⟩
  · exact ⟨hg, hw, ha, hm⟩

theorem TCore.Canon.win {c : TCore} (h : c.Canon) (w : Win) : memWf (c.win w) = true := by
  obtain ⟨hg, hw, ha, he⟩ := h
  cases w <;> assumption

theorem TCore.canon_write {c : TCore} (h : c.Canon) (w : Win) (off : Nat) (bs : List Byte) : (c.write w off bs).Canon :=
  canon_setWin h w (memWf_memWrite bs _ off (h.win w))

theorem TCore.canon_poison {c : TCore} (h : c.Canon) (w : Win) (off n : Nat) : (c.poison w off n).Canon := h

theorem TCore.canon_setBar {c : TCore} (h : c.Canon) (off : Nat) (b : Bar) : (c.setBar off b).Canon := canon_write h _ _ _

theorem TCore.canon_bindBaton {c : TCore} (h : c.Canon) (baton : Bool) (off : Nat) : (c.bindBaton baton off).Canon := by
  unfold bindBaton
  split
  · exact h
  · split <;> exact h

theorem TCore.canon_modRow {c : TCore} (h : c.Canon) (r : Nat) (f : Row → Row) : (c.modRow r f).Canon := h

theorem TCore.canon_modRows {c : TCore} (h : c.Canon) (a n : Nat) (f : Row → Row) : (c.modRows a n f).Canon :=
  List.foldlRecOn _ _ h fun _ hc _ _ => hc

theorem TCore.canon_zeroRows {c : TCore} (h : c.Canon) (a n : Nat) (clrf : Bool) : (c.zeroRows a n clrf).Canon :=
  canon_modRows h a n _

theorem canon_mxInject {c : TCore} (h : c.Canon) (b : WBuf) (t : EI) (m : MxOp) (i : Nat) : (mxInject c b t m i).Canon := by
  unfold mxInject
  split
  · exact h
  · exact TCore.canon_modRow h _ _

theorem canon_mxStore {c : TCore} (h : c.Canon) (t : EI) (m : MxOp) (gen : Word) (i : Nat) : (mxStore c t m gen i).Canon :=
  TCore.canon_modRow (TCore.canon_write h _ _ _) _ _

theorem canon_keepTile {c : TCore} (h : c.Canon) (ty : Ty) (kind : Bool) (base pitch j : Nat) :
    (keepTile c ty kind base pitch j).Canon :=
  TCore.canon_write h _ _ _

theorem canon_restoreTile {c : TCore} (h : c.Canon) (base pitch j : Nat) : (restoreTile c base pitch j).Canon := by
  unfold restoreTile
  split
  · refine List.foldlRecOn _ _ h fun c hc r _ => ?_
    dsimp only
    split
    · exact TCore.canon_poison (TCore.canon_write hc _ _ _) _ _ _
    · exact TCore.canon_write hc _ _ _
  · exact h

/-- A share starts with empty windows, into which the bytes of its start are written. -/
theorem TCore.canon_start (k : Kernel) (phys : Nat) (pos : List Nat) (bytes : List (Win × Nat × List Byte)) (args : Bool) :
    (TCore.start k phys pos bytes args).Canon := by
  have hw (c : TCore) (hc : c.Canon) (xs : List (Win × Nat × List Byte)) :
      (xs.foldl (fun c x => c.write x.1 x.2.1 x.2.2) c).Canon :=
    List.foldlRecOn xs _ hc fun c hc x _ => canon_write hc _ _ _
  have hz (c : TCore) (hc : c.Canon) :
      ((List.range (k.erg / 4)).foldl (fun c j => c.write .erg (slotOff j + 0x820) (toBytes 0 8)) c).Canon :=
    List.foldlRecOn _ _ hc fun c hc j _ => canon_write hc _ _ _
  unfold TCore.start
  dsimp only
  split
  · exact hw _ (hz _ (hw _ ⟨rfl, rfl, rfl, rfl⟩ _)) _
  · exact hz _ (hw _ ⟨rfl, rfl, rfl, rfl⟩ _)

theorem TCore.canon_load {c : TCore} (h : c.Canon) (t : Team) (bs : List Byte) : (c.load t bs).Canon := by
  have hw : ∀ ws : List Win, ∀ a : Nat × TCore, a.2.Canon →
      (ws.foldl (fun (acc : Nat × TCore) w =>
        (acc.1 + winBytes t w, acc.2.setWin w (memWrite [] 0 ((bs.drop acc.1).take (winBytes t w))))) a).2.Canon :=
    fun ws a ha => List.foldlRecOn ws _ (motive := fun a => a.2.Canon) ha fun (a : Nat × TCore) (ha : a.2.Canon) w _ =>
      canon_setWin ha w (memWf_memWrite _ _ _ rfl)
  exact hw winOrder (0, c) h

theorem Team.canon_clearSkips {t : Team} (h : t.Canon) (a n : Nat) : (clearSkips t a n).Canon :=
  List.foldlRecOn _ _ h fun _ ht _ _ => ht

/-! ## The named operations, and traps (Machine/Ops) -/

theorem canon_modGroup (h : Canon s) (id : Nat) (f : Group → Group) : Canon (modGroup s id f) := h

theorem canon_modGroupSince (h : Canon s) (gid id : Nat) (f : Group → Group) : Canon (modGroupSince s gid id f) := by
  grind [modGroupSince, canon_iff, canon_modGroup]

theorem canon_modSlice (h : Canon s) (id : Nat) (f : Slice → Slice) : Canon (modSlice s id f) := h

theorem canon_modCore (h : Canon s) (c : Nat) (f : Core → Core) : Canon (modCore s c f) := h

theorem canon_modOp (h : Canon s) (id : Nat) (f : Op → Op) : Canon (modOp s id f) := h

theorem canon_dropOp (h : Canon s) (id : Nat) : Canon (dropOp s id) := h

theorem canon_bump (h : Canon s) : Canon (bump s) := h

theorem canon_later (h : Canon s) (is : List Instr) : Canon (later s is) := h

theorem canon_sooner (h : Canon s) (is : List Instr) : Canon (sooner s is) := h

theorem canon_modSlot (h : Canon s) (core slot : Nat) (f : Slot → Slot) : Canon (modSlot s core slot f) := h

theorem canon_modHbm (h : Canon s) (f : Hbm → Hbm) : Canon (modHbm s f) := h

theorem canon_cleanKeys (h : Canon s) (ks : List Nat) : Canon (cleanKeys s ks) := h

theorem canon_overwrite (h : Canon s) (ks : List Nat) : Canon (overwrite s ks) := by
  grind [overwrite, canon_modHbm]

theorem canon_deviceWrite (h : Canon s) (a : Nat) (bs : List Byte) : Canon (deviceWrite s a bs) := by
  have hw (ks : List Nat) (bs : List Byte) : Canon { s with mem := memSets s.mem ks bs } :=
    canon_setMem h (memWf_memSets ks _ bs h.mem)
  unfold deviceWrite
  dsimp only
  split
  · exact canon_overwrite (hw _ _) _
  · exact canon_cleanKeys (canon_overwrite (hw _ _) _) _

theorem canon_raiseVector (h : Canon s) (v : Nat) : Canon (raiseVector s v) := h

theorem canon_raiseAlert (h : Canon s) : Canon (raiseAlert s) := h

theorem canon_machineCheck (h : Canon s) (cls ctx island addr info : Nat) :
    Canon (machineCheck s cls ctx island addr info) := by
  grind [machineCheck, canon_iff, canon_deviceWrite, canon_raiseVector, canon_raiseAlert]

theorem canon_checkReplace (h : Canon s) : Canon (checkReplace s) := by
  grind [checkReplace, canon_iff, canon_raiseVector, canon_raiseAlert]

theorem canon_sfqWrite (h : Canon s) (e : List Byte) : Canon (sfqWrite s e) := by
  grind [sfqWrite, canon_iff, canon_deviceWrite, canon_raiseVector]

theorem canon_postReport (h : Canon s) (cause kind ctx flags : Nat) (asid : BitVec 16) (src : Nat) (addr : Dword) :
    Canon (postReport s cause kind ctx flags asid src addr) := by
  grind [postReport, canon_sfqWrite]

theorem canon_postWaiting (h : Canon s) (kind ctx flags : Nat) (asid : BitVec 16) (src : Nat) (addr : Dword) :
    Canon (postWaiting s kind ctx flags asid src addr).1 := by
  grind [postWaiting, canon_iff, canon_sfqWrite]

theorem canon_sfqRelease (h : Canon s) (n : Nat) : Canon (sfqRelease s n) := by
  induction n generalizing s with
  | zero => exact h
  | succ n ih =>
    unfold sfqRelease
    split
    · exact h
    · split
      · exact h
      · refine ih (canon_sfqWrite ?_ _)
        exact h

theorem canon_endIssue (h : Canon s) : Canon (endIssue s) := h

theorem canon_issueDone (h : Canon s) (len : Nat) : Canon (issueDone s len) := h

theorem canon_endSlice (h : Canon s) (sid : Nat) (e : Ending) : Canon (endSlice s sid e) := h

theorem canon_endSliceBy (h : Canon s) (sid gid since : Nat) (e : Ending) : Canon (endSliceBy s sid gid since e) := h

theorem canon_commitGroup (h : Canon s) (g : Group) : Canon (commitGroup s g) := h

theorem canon_requestBank (h : Canon s) (gid since : Nat) (e : SysEntry) : Canon (requestBank s gid since e) := by
  grind [requestBank, canon_modGroupSince, canon_modSlot]

theorem canon_dropBankWrites (h : Canon s) (gid : Nat) : Canon (dropBankWrites s gid) := h

theorem canon_releaseBank (h : Canon s) (core slot : Nat) : Canon (releaseBank s core slot) := by
  grind [releaseBank, canon_modGroupSince, canon_modSlot]

theorem canon_handBack (h : Canon s) (gid core slot : Nat) : Canon (handBack s gid core slot) := by
  grind [handBack, canon_dropBankWrites, canon_releaseBank]

theorem canon_fenceLanes (h : Canon s) (gid since : Nat) (m : Mask) : Canon (fenceLanes s gid since m) :=
  canon_modGroupSince h _ _ _

theorem canon_takeTrapSince (h : Canon s) (since gid : Nat) (set : Mask) (cause : Nat) (tepc tval : Dword)
    (paid : Bool) : Canon (takeTrapSince s since gid set cause tepc tval paid) := by
  grind [takeTrapSince, canon_modGroupSince, canon_modSlice, canon_machineCheck, canon_endSliceBy, canon_commitGroup,
    canon_requestBank, canon_fenceLanes]

theorem canon_takeTrapAt (h : Canon s) (gid : Nat) (set : Mask) (cause : Nat) (tepc tval : Dword) (paid : Bool) :
    Canon (takeTrapAt s gid set cause tepc tval paid) :=
  canon_takeTrapSince h _ _ _ _ _ _ _

theorem canon_takeTrap (h : Canon s) (cause : Nat) (tval : Dword) : Canon (takeTrap s cause tval) := by
  grind [takeTrap, canon_endIssue, canon_takeTrapAt]

theorem canon_leaveSystem (h : Canon s) (g : Group) (skip : Bool) : Canon (leaveSystem s g skip) := by
  grind [leaveSystem, canon_modGroup, canon_handBack]

theorem canon_leaveUser (h : Canon s) (g : Group) (skip : Bool) : Canon (leaveUser s g skip) := h

theorem canon_returnFromTrap (h : Canon s) (skip : Bool) : Canon (returnFromTrap s skip) := by
  grind [returnFromTrap, canon_endIssue, canon_fenceLanes, canon_takeTrap, canon_leaveSystem, canon_leaveUser]

/-! ## Instructions of the lanes: integer, float, 64-bit, conversions -/

theorem canon_laneOp (hs : Canon s) (h : Hdr) (lat : Nat) (f : View → Nat → LaneRes) : Canon (laneOp s h lat f) := by
  grind [laneOp, canon_modGroup, canon_endIssue, canon_issueDone]

theorem canon_lane1 (h : Canon s) (t : TI) (lat : Nat) (f : Word → Word) : Canon (lane1 s t lat f) :=
  canon_laneOp h _ _ _

theorem canon_lane2 (h : Canon s) (t : TI) (lat : Nat) (f : Word → Word → Word) : Canon (lane2 s t lat f) :=
  canon_laneOp h _ _ _

theorem canon_lane3 (h : Canon s) (t : TI) (lat : Nat) (f : Word → Word → Word → Word) : Canon (lane3 s t lat f) :=
  canon_laneOp h _ _ _

theorem canon_float2 (h : Canon s) (t : TI) (f : FVal → FVal → FExact) : Canon (float2 s t f) := canon_laneOp h _ _ _

theorem canon_half2 (h : Canon s) (t : TI) (f : FVal → FVal → FVal → FExact) : Canon (half2 s t f) :=
  canon_laneOp h _ _ _

theorem canon_long2 (h : Canon s) (t : TI) (f : Dword → Dword → Dword) : Canon (long2 s t f) := canon_laneOp h _ _ _

theorem canon_longShift (h : Canon s) (t : TI) (f : Dword → Word → Dword) : Canon (longShift s t f) :=
  canon_laneOp h _ _ _

theorem canon_laneOpSr (hs : Canon s) (h : Hdr) (lat k : Nat) (f : View → Nat → LaneRes) :
    Canon (laneOpSr s h lat k f) := by
  grind [laneOpSr, canon_modGroup, canon_endIssue, canon_issueDone]

/-! ## Errors of cells, as reads meet them (R404 to R408) -/

theorem canon_modIsle (h : Canon s) (island : Nat) (f : Isle → Isle) : Canon (modIsle s island f) := h

theorem canon_tripIsland (h : Canon s) (island : Nat) : Canon (tripIsland s island) := by
  grind [tripIsland, canon_modCore, canon_modIsle]

theorem canon_countIsland (h : Canon s) (island : Nat) : Canon (countIsland s island) := by
  grind [countIsland, canon_modCore, canon_modIsle]

theorem canon_sramReport (h : Canon s) (island ctx array : Nat) : Canon (sramReport s island ctx array) := by
  grind [sramReport, canon_machineCheck, canon_tripIsland]

theorem canon_meetUnit (h : Canon s) (island array unit ctx : Nat) : Canon (meetUnit s island array unit ctx).1 := by
  grind [meetUnit, canon_iff, canon_countIsland, canon_sramReport]

theorem canon_countRow (h : Canon s) (hra n : Nat) : Canon (countRow s hra n) := by
  induction n generalizing s with
  | zero => exact h
  | succ n ih => exact ih h

theorem canon_requestRow (h : Canon s) (hra : Nat) : Canon (requestRow s hra) := h

theorem canon_poisonKeys (h : Canon s) (ks : List Nat) : Canon (poisonKeys s ks) := h

theorem canon_poisonCodeword (h : Canon s) (cw : Nat) : Canon (poisonCodeword s cw) := h

theorem canon_refillPoison (h : Canon s) (cw : Nat) : Canon (refillPoison s cw) := by
  grind [refillPoison, canon_bump, canon_poisonKeys]

theorem canon_meetCodeword (h : Canon s) (nc : Bool) (cw : Nat) : Canon (meetCodeword s nc cw) := by
  grind [meetCodeword, canon_bump, canon_machineCheck, canon_countRow, canon_requestRow, canon_poisonCodeword,
    canon_refillPoison]

theorem canon_meetL2 (h : Canon s) (secs : List (List Nat)) : Canon (meetL2 s secs) := by
  unfold meetL2
  split
  · exact h
  · refine canon_foldl _ secs h fun s sec hs => canon_foldl _ _ hs fun s e hs => ?_
    grind [canon_meetUnit, canon_poisonKeys]

theorem canon_meetCells (h : Canon s) (nc : Nat → Bool) (secs : List (List Nat)) : Canon (meetCells s nc secs) := by
  unfold meetCells
  dsimp only
  split
  · exact canon_meetL2 h secs
  · exact canon_foldl _ _ (canon_meetL2 h secs) fun s cw hs => canon_meetCodeword hs _ _

theorem canon_meetKeys (h : Canon s) (ks : List Nat) : Canon (meetKeys s ks) := canon_meetCells h _ _

theorem canon_meetAt (h : Canon s) (a n : Nat) : Canon (meetAt s a n) := by
  grind [meetAt, canon_meetKeys]

theorem canon_meetCtx (h : Canon s) (c : Nat) : Canon (meetCtx s c) := canon_meetAt h _ _

/-! ## Translation (R375 to R380): a walk sets A and D in memory -/

theorem canon_tlbAdd (h : Canon s) (asid : BitVec 16) (va L : Nat) (e : Nat) : Canon (tlbAdd s asid va L e) := h

theorem canon_ptrsAdd (h : Canon s) (asid : BitVec 16) (va : Nat) (nodes : List (Nat × Nat)) :
    Canon (ptrsAdd s asid va nodes) := h

theorem canon_walkMeet (h : Canon s) (va : Nat) (nodes : List (Nat × Nat)) : Canon (walkMeet s va nodes).1 := by
  induction nodes generalizing s with
  | nil => exact h
  | cons n nodes ih => grind [walkMeet, canon_meetAt]

theorem canon_translateWalk (h : Canon s) (asid : BitVec 16) (va : Nat) (k : Want) (L node : Nat) :
    Canon (translateWalk s asid va k L node).1 := by
  have hm := canon_walkMeet h va ((L, node) :: walkNodes s.mem va L node (5 - L))
  have hw {s : State} (hs : Canon s) (a : Nat) (bs : List Byte) : Canon { s with mem := memWrite s.mem a bs } :=
    canon_setMem hs (memWf_memWrite bs _ a hs.mem)
  unfold translateWalk
  grind [canon_ptrsAdd, canon_tlbAdd]

theorem canon_translate (h : Canon s) (root : Nat) (asid : BitVec 16) (lvlS : Bool) (va : Nat) (k : Want) :
    Canon (translate s root asid lvlS va k).1 := by
  grind [translate, canon_bump, canon_tlbAdd, canon_translateWalk]

theorem canon_translateRun (h : Canon s) (root : Nat) (asid : BitVec 16) (lvlS : Bool) (va : Nat) (k : Want) (n : Nat) :
    Canon (translateRun s root asid lvlS va k n).1 := by
  induction n generalizing s va with
  | zero => exact h
  | succ n ih => grind [translateRun, canon_translate]

theorem canon_readVa (h : Canon s) (root : Nat) (asid : BitVec 16) (lvlS : Bool) (va n : Nat) :
    Canon (readVa s root asid lvlS va n).1 := by
  grind [readVa, canon_meetKeys, canon_translateRun]

/-! ## Control flow (R285 to R308) -/

theorem canon_moveTo (h : Canon s) (f : View → Nat → Dword) : Canon (moveTo s f) := by
  grind [moveTo, canon_modGroup, canon_endIssue]

theorem canon_branch (hs : Canon s) (h : Hdr) (taken : View → Nat → Bool) : Canon (branch s h taken) :=
  canon_moveTo hs _

theorem canon_joinRefill (h : Canon s) (gid : Nat) : Canon (joinRefill s gid) := by
  unfold joinRefill
  split
  · exact h
  · split
    · exact h
    · dsimp only
      split
      · refine canon_modGroup (canon_foldl_fst _ _ h fun a i ha => ?_) _ _
        grind [canon_readVa]
      · refine canon_foldl_fst _ _ h fun a i ha => ?_
        grind [canon_readVa]

theorem canon_joinCheck (h : Canon s) (gid t hold fuel : Nat) : Canon (joinCheck s gid t hold fuel) := by
  induction fuel generalizing s with
  | zero => exact h
  | succ fuel ih => grind [joinCheck, canon_modGroup, canon_joinRefill]

theorem keeps_execMark (h : Canon s) (t : EI) : Keeps (execMark t s) := by
  refine Canon.next ?_
  grind [canon_modGroup, canon_endIssue, canon_issueDone, canon_takeTrap]

theorem keeps_execJoin (h : Canon s) (_t : EI) : Keeps (execJoin _t s) := by
  refine Canon.next ?_
  grind [canon_modGroup, canon_endIssue, canon_takeTrap, canon_joinCheck]

theorem canon_callOp (hs : Canon s) (h : Hdr) (k : Nat) (checks : View → List Check) (target : View → Nat → Dword) :
    Canon (callOp s h k checks target) := by
  grind [callOp, canon_modGroup, canon_endIssue, canon_takeTrap]

theorem keeps_execRet (h : Canon s) (t : EI) : Keeps (execRet t s) := by
  refine Canon.next ?_
  grind [canon_modGroup, canon_endIssue, canon_takeTrap]

theorem canon_exitSystem (h : Canon s) (gid : Nat) (m : Mask) : Canon (exitSystem s gid m) := by
  grind [exitSystem, canon_modGroup, canon_handBack]

theorem keeps_execExit (h : Canon s) (t : EI) : Keeps (execExit t s) := by
  refine Canon.next ?_
  grind [canon_modGroup, canon_endIssue, canon_issueDone, canon_joinCheck, canon_exitSystem]

theorem keeps_execFork (h : Canon s) (t : EI) : Keeps (execFork t s) := by
  refine Canon.next ?_
  grind [canon_modGroup, canon_endIssue, canon_issueDone]

theorem canon_reloadBudget (h : Canon s) (sid : Nat) : Canon (reloadBudget s sid) := h

theorem keeps_execYield (h : Canon s) (t : EI) : Keeps (execYield t s) := by
  refine Canon.next ?_
  grind [canon_modGroup, canon_endIssue, canon_issueDone, canon_reloadBudget]

theorem keeps_execTrap (h : Canon s) (t : EI) : Keeps (execTrap t s) := by
  refine Canon.next ?_
  grind [canon_endIssue, canon_issueDone, canon_takeTrap]

theorem keeps_execBrk (h : Canon s) (t : EI) : Keeps (execBrk t s) := by
  refine Canon.next ?_
  grind [canon_modGroup, canon_endIssue, canon_issueDone, canon_takeTrap]

/-! ## Barrier words -/

theorem canon_modBar (h : Canon s) (team core off : Nat) (f : Bar → Bar) : Canon (modBar s team core off f) := by
  grind [modBar, canon_modTCore, TCore.canon_setBar]

theorem canon_retag (h : Canon s) (team core off : Nat) : Canon (retag s team core off) := by
  grind [retag, canon_modBar]

/-! ## The fabric as a sender uses it -/

theorem canon_setPeer (h : Canon s) (p : Peer) : Canon (setPeer s p) := h

theorem canon_modFab (h : Canon s) (f : Fabric → Fabric) : Canon (modFab s f) := h

theorem canon_countRefuse (h : Canon s) : Canon (countRefuse s) := h

theorem canon_admitPeer (h : Canon s) (team : Nat) : Canon (admitPeer s team).1 := by
  grind [admitPeer, canon_bump, canon_countRefuse]

theorem canon_sendNotice (h : Canon s) (x : Notice) : Canon (sendNotice s x) := by
  grind [sendNotice, canon_modFab]

theorem canon_releaseTag (h : Canon s) (port tag : Nat) (timeout : Bool) : Canon (releaseTag s port tag timeout) := h

theorem canon_sendReq (h : Canon s) {fkey : BitVec 16} {dev k : Nat} {ref : Ref} {u : State × Nat × Nat}
    (hu : sendReq s fkey dev k ref = some u) : Canon u.1 := by
  unfold sendReq at hu
  grind [canon_modFab]

/-! ## SRAM errors of a core's arrays (R404, R405) -/

theorem canon_meetL1 (h : Canon s) (core ctx : Nat) (secs : List (List Nat)) : Canon (meetL1 s core ctx secs) := by
  unfold meetL1
  split
  · exact h
  · refine canon_foldl _ secs h fun s sec hs => canon_foldl _ _ hs fun s e hs => ?_
    grind [canon_meetUnit, canon_countIsland]

theorem canon_meetRecord (h : Canon s) (x : Slice) : Canon (meetRecord s x).1 := by
  grind [meetRecord, canon_meetUnit]

theorem canon_meetPart (h : Canon s) (team core : Nat) (w : Option Win) (n : Nat) : Canon (meetPart s team core w n) := by
  have h1 (e : Option Win × Nat × Bool) :
      Canon (modTCore s team core fun c => { c with errs := c.errs.filter (· != e) }) :=
    canon_modTCore h _ _ _ fun _ hc => hc
  unfold meetPart
  split
  · exact h
  · split
    · exact h
    · dsimp only
      split
      · refine canon_modTCore (canon_sramReport (h1 _) _ _ _) _ _ _ fun c hc => ?_
        split <;> exact hc
      · exact canon_countIsland (h1 _) _

theorem canon_meetScratch (h : Canon s) (team core : Nat) (w : Win) (off n : Nat) :
    Canon (meetScratch s team core w off n) := by
  unfold meetScratch
  split
  · exact h
  · exact canon_foldl _ _ h fun s g hs => canon_meetPart hs _ _ _ _

theorem canon_meetRow (h : Canon s) (team core row : Nat) : Canon (meetRow s team core row) := by
  grind [meetRow, canon_meetPart]

theorem canon_meetRegs (h : Canon s) (g : Group) (ds : List Dst) : Canon (meetRegs s g ds) := by
  unfold meetRegs
  split
  · exact h
  · refine canon_foldl _ ds h fun s d hs => ?_
    grind [canon_modGroup, canon_sramReport, canon_countIsland]

/-! ## Sectors of accesses (R186 to R191) -/

theorem canon_meetSectors (h : Canon s) (root : Option Nat) (xs : List (Nat × Nat)) : Canon (meetSectors s root xs) :=
    by
  grind [meetSectors, canon_meetCells]

theorem canon_meetRun (h : Canon s) (root : Option Nat) (va : Nat) (keys : List Nat) : Canon (meetRun s root va keys) :=
    by
  grind [meetRun, canon_meetSectors]

theorem canon_rewriteSector (h : Canon s) (core : Option Nat) (sk ks : List Nat) : Canon (rewriteSector s core sk ks) :=
    by
  grind [rewriteSector, canon_iff]

theorem canon_writeSector (h : Canon s) (core root : Option Nat) (va key : Nat) (kbs : List (Nat × Byte)) :
    Canon (writeSector s core root va key kbs) := by
  have hw (ks : List Nat) (bs : List Byte) : Canon { s with mem := memSets s.mem ks bs } :=
    canon_setMem h (memWf_memSets ks _ bs h.mem)
  unfold writeSector
  grind [canon_overwrite, canon_rewriteSector, canon_cleanKeys]

/-! ## Operations in flight -/

theorem canon_pushOp (h : Canon s) (v : View) (x : OpSpec) : Canon (pushOp s v x) := h

theorem canon_modReqs (h : Canon s) (id : Nat) (f : Req → Req) : Canon (modReqs s id f) := h

theorem canon_modReq (h : Canon s) (id lane : Nat) (f : Req → Req) : Canon (modReq s id lane f) := h

theorem canon_deferAt (h : Canon s) (since gid : Nat) (carried : Mask) (pc : Dword) (cause : Nat) (tval : Dword)
    (src : Option (Nat × Nat)) : Canon (deferAt s since gid carried pc cause tval src) := by
  grind [deferAt, canon_modGroupSince, canon_endSliceBy]

theorem canon_deferTrap (h : Canon s) (o : Op) (cause : Nat) (tval : Dword) (src : Option (Nat × Nat)) :
    Canon (deferTrap s o cause tval src) := by
  grind [deferTrap, canon_takeTrapSince, canon_deferAt]

theorem canon_trapOp (h : Canon s) (o : Op) (cause : Nat) (tval : Dword) : Canon (trapOp s o cause tval) := by
  grind [trapOp, canon_dropOp, canon_takeTrapSince]

theorem canon_passOp (h : Canon s) (o : Op) : Canon (passOp s o) := canon_modGroupSince h _ _ _

theorem canon_landRegs (h : Canon s) (o : Op) (ws : List (Dst × Word)) : Canon (landRegs s o ws) :=
  canon_modGroupSince h _ _ _

theorem canon_grantReq (h : Canon s) (o : Op) (q : Req) : Canon (grantReq s o q).1 := by
  grind [grantReq, canon_postWaiting, canon_translate, canon_admitPeer]

theorem canon_grantReqs (h : Canon s) (o : Op) (qs : List Req) : Canon (grantReqs s o qs).1 := by
  induction qs generalizing s with
  | nil => exact h
  | cons q qs ih => grind [grantReqs, canon_grantReq]

theorem canon_settleWait (h : Canon s) (o : Op) : Canon (settleWait s o) := by
  grind [settleWait, canon_modTCore, canon_modOp, TCore.Canon]

theorem canon_notifyWaits (h : Canon s) (team core off : Nat) : Canon (notifyWaits s team core off) :=
  canon_foldl _ _ h fun _ o hs => canon_settleWait hs o

theorem canon_notifyBytes (h : Canon s) (team core : Nat) (w : Win) (off n : Nat) :
    Canon (notifyBytes s team core w off n) := by
  unfold notifyBytes
  split
  · exact canon_foldl _ _ h fun s x hs => canon_notifyWaits hs _ _ _
  · exact h

/-! ## Lane exchange and the group pipe -/

theorem canon_shuffle (h : Canon s) (t : TI) (src : Nat → Nat → Nat → Nat) : Canon (shuffle s t src) :=
  canon_laneOp h _ _ _

theorem keeps_execVote (h : Canon s) (t : TI) : Keeps (execVote t s) := by
  refine Canon.next ?_
  grind [canon_modGroup, canon_endIssue, canon_issueDone]

theorem canon_groupOp (hs : Canon s) (h : Hdr) (f : View → List (Dst × Word)) : Canon (groupOp s h f) := by
  grind [groupOp, canon_modGroup, canon_endIssue, canon_issueDone, canon_takeTrap]

theorem canon_groupArith (h : Canon s) (t : TI) (f : Int → Int → Int) : Canon (groupArith s t f) := canon_groupOp h _ _

/-! ## Memory instructions and how their data moves -/

theorem canon_globalAccess (h : Canon s) (i : Instr) (t : MI) (dsts : View → Nat → List Dst)
    (data cmp : View → Nat → List Byte) : Canon (globalAccess s i t dsts data cmp) := by
  grind [globalAccess, canon_endIssue, canon_issueDone, canon_takeTrap, canon_pushOp]

theorem keeps_execGld (h : Canon s) (t : TI) : Keeps (execGld t s) := by
  refine Canon.next ?_
  grind [canon_endIssue, canon_takeTrap, canon_pushOp]

theorem canon_prefLine (h : Canon s) (root va : Nat) : Canon (prefLine s root va) := by
  unfold prefLine
  split
  · exact canon_meetRun h _ _ _
  · exact h

theorem keeps_execPref (h : Canon s) (t : MI) : Keeps (execPref t s) := by
  refine Canon.next ?_
  split
  · exact h
  · refine canon_issueDone (canon_foldl _ _ h fun s l hs => ?_) _
    dsimp only
    split
    · exact canon_prefLine hs _ _
    · exact hs

theorem canon_scratchAccess (h : Canon s) (i : Instr) (t : MI) (w : Win) (core : View → Nat → Nat)
    (dsts : View → Nat → List Dst) (data cmp : View → Nat → List Byte) :
    Canon (scratchAccess s i t w core dsts data cmp) := by
  grind [scratchAccess, canon_endIssue, canon_issueDone, canon_takeTrap, canon_pushOp]

theorem keeps_execGath (h : Canon s) (t : MI) : Keeps (execGath t s) := by
  refine Canon.next ?_
  grind [canon_iff, canon_modGroup, canon_endIssue, canon_issueDone, canon_takeTrap]

theorem keeps_execQpop (h : Canon s) (t : MI) : Keeps (execQpop t s) := by
  refine Canon.next ?_
  grind [canon_modGroup, canon_endIssue, canon_issueDone, canon_takeTrap]

theorem canon_finishOp (h : Canon s) (id : Nat) : Canon (finishOp s id) := by
  grind [finishOp, canon_dropOp, canon_deferTrap, canon_landRegs]

theorem canon_timeOutLane (h : Canon s) (id lane : Nat) : Canon (timeOutLane s id lane) := by
  grind [timeOutLane, canon_modGroupSince, canon_modOp, canon_deferTrap, canon_finishOp]

theorem canon_sendLane (h : Canon s) (o : Op) (q : Req) : Canon (sendLane s o q) := by
  unfold sendLane
  grind [canon_modReq, → canon_sendReq]

theorem canon_sendLanes (h : Canon s) (o : Op) : Canon (sendLanes s o) := canon_foldl _ _ h fun _ q hs => canon_sendLane hs o q

theorem canon_readReqs (h : Canon s) (root : Option Nat) (qs : List Req) : Canon (readReqs s root qs).1 :=
  canon_meetSectors h _ _

theorem canon_loadReturn (h : Canon s) (id : Nat) : Canon (loadReturn s id) := by
  grind [loadReturn, canon_modOp, canon_meetL1, canon_finishOp, canon_sendLanes, canon_readReqs]

theorem canon_writePerform (h : Canon s) (id sector : Nat) : Canon (writePerform s id sector) := by
  grind [writePerform, canon_writeSector, canon_modReqs, canon_finishOp, canon_sendLanes]

theorem canon_serveReq (h : Canon s) (o : Op) (core g : Nat) (q : Req) : Canon (serveReq s o core g q).1 := by
  grind [serveReq, canon_modTCore, canon_meetScratch, canon_notifyBytes, TCore.canon_write]

theorem canon_serveReqs (h : Canon s) (o : Op) (core g : Nat) (qs : List Req) : Canon (serveReqs s o core g qs).1 := by
  induction qs generalizing s with
  | nil => exact h
  | cons q qs ih => grind [serveReqs, canon_serveReq]

theorem canon_serveGranules (h : Canon s) (o : Op) (qs : List Req) (gs : List Nat) : Canon (serveGranules s o qs gs).1 := by
  induction gs generalizing s qs with
  | nil => exact h
  | cons g gs ih => grind [serveGranules, canon_serveReqs]

theorem canon_countScratch (h : Canon s) (core : Nat) (xarb conf : Bool) : Canon (countScratch s core xarb conf) := h

theorem canon_scratchService (h : Canon s) (id : Nat) : Canon (scratchService s id) := by
  grind [scratchService, canon_modOp, canon_bump, canon_finishOp, canon_serveGranules, canon_countScratch]

theorem canon_meetIndex (h : Canon s) (g : Group) (x : GStream) : Canon (meetIndex s g x) :=
  canon_meetScratch h _ _ _ _ _

theorem canon_modStream (h : Canon s) (gid : Nat) (f : Group → GStream → Group) : Canon (modStream s gid f) := by
  grind [modStream, canon_modGroupSince]

theorem canon_gatherGive (h : Canon s) (gid : Nat) (e : GElem) : Canon (gatherGive s gid e) := canon_modStream h _ _

theorem canon_gatherWait (h : Canon s) (gid : Nat) (f : GStream → GStream) : Canon (gatherWait s gid f) :=
  canon_modStream h _ _

theorem canon_gatherRemote (h : Canon s) (g : Group) (x : GStream) (a : Dword) (mark : Option Nat) (dev key : Nat) :
    Canon (gatherRemote s g x a mark dev key) := by
  unfold gatherRemote
  grind [canon_admitPeer, canon_gatherGive, canon_gatherWait, → canon_sendReq]

theorem canon_gatherRead (h : Canon s) (gid : Nat) : Canon (gatherRead s gid) := by
  unfold gatherRead
  split
  · exact h
  split
  · exact h
  split
  · exact h
  have hm := canon_meetIndex h
  dsimp only
  grind [canon_gatherGive, canon_translate, canon_postWaiting, canon_gatherWait, canon_gatherRemote, canon_meetSectors]

/-! ## Atomics -/

theorem canon_atomGlobal (h : Canon s) (o : Op) (op : Nat) (q : Req) : Canon (atomGlobal s o op q).1 := by
  grind [atomGlobal, canon_meetSectors, canon_writeSector]

theorem canon_atomScratch (h : Canon s) (o : Op) (op : Nat) (q : Req) (c : Nat) (w : Win) :
    Canon (atomScratch s o op q c w).1 := by
  grind [atomScratch, canon_modTCore, canon_meetScratch, canon_notifyBytes, TCore.canon_write]

theorem canon_atomLane (h : Canon s) (o : Op) (op : Nat) (q : Req) : Canon (atomLane s o op q).1 := by
  grind [atomLane, canon_atomGlobal, canon_atomScratch]

theorem canon_atomicPerform (h : Canon s) (id : Nat) : Canon (atomicPerform s id) := by
  unfold atomicPerform
  split
  · exact h
  split
  · exact h
  split
  · have h1 := canon_sendLanes h
    dsimp only
    grind [canon_finishOp, canon_atomLane, canon_modReq, canon_bump]
  · exact h

/-! ## Barrier instructions and the barrier unit -/

theorem canon_barIssue (h : Canon s) (hd : Hdr) (once : Bool) (checks : View → Team → List Check)
    (act : State → View → Team → Mask → State) (ha : ∀ v tm m, Canon (act s v tm m)) :
    Canon (barIssue s hd once checks act) := by
  unfold barIssue
  grind [canon_endIssue, canon_takeTrap, canon_issueDone]

theorem canon_barSend (h : Canon s) (v : View) (t : EI) (m : Mask) (i : Instr) (args : List Dword) (dsts : List Dst) :
    Canon (barSend s v t m i args dsts) := h

theorem keeps_execBinit (h : Canon s) (t : EI) : Keeps (execBinit t s) := by
  refine Canon.next ?_
  grind [canon_barIssue, canon_barSend]

theorem keeps_execBarvOne (h : Canon s) (t : EI) : Keeps (execBarvOne t s) := by
  refine Canon.next ?_
  grind [canon_barIssue, canon_barSend]

theorem keeps_execBarvEach (h : Canon s) (t : EI) : Keeps (execBarvEach t s) := by
  refine Canon.next ?_
  grind [canon_barIssue, canon_barSend]

theorem keeps_execBexp (h : Canon s) (t : EI) : Keeps (execBexp t s) := by
  refine Canon.next ?_
  grind [canon_barIssue, canon_barSend]

theorem keeps_execBwait (h : Canon s) (t : EI) : Keeps (execBwait t s) := by
  refine Canon.next ?_
  grind [canon_endIssue, canon_pushOp, canon_barIssue]

theorem keeps_execBtest (h : Canon s) (t : EI) : Keeps (execBtest t s) := by
  refine Canon.next ?_
  grind [canon_barIssue, canon_barSend]

theorem keeps_execBrd (h : Canon s) (t : EI) : Keeps (execBrd t s) := by
  refine Canon.next ?_
  grind [canon_barIssue, canon_barSend]

theorem canon_bindRegion (h : Canon s) (team slot : Nat) (r : Option Region) : Canon (bindRegion s team slot r) := by
  have h1 : Canon (modTeam s team fun t => { t with regions := setNth t.regions slot r }) := canon_modTeam h _ _ fun _ ht => ht
  unfold bindRegion
  grind [canon_retag, canon_meetScratch]

theorem keeps_execRbind (h : Canon s) (t : EI) : Keeps (execRbind t s) := by
  refine Canon.next ?_
  grind [canon_barIssue, canon_barSend]

theorem keeps_execRfree (h : Canon s) (t : EI) : Keeps (execRfree t s) := by
  refine Canon.next ?_
  grind [canon_barIssue, canon_barSend]

theorem canon_holdFibres (hs : Canon s) (h : Hdr) (i : Instr) : Canon (holdFibres s h i) := by
  grind [holdFibres, canon_endIssue, canon_issueDone, canon_pushOp]

theorem canon_passBaton (h : Canon s) (o : Op) (core off : Nat) : Canon (passBaton s o core off) := by
  grind [passBaton, canon_modTCore, TCore.Canon]

theorem canon_endSignals (h : Canon s) (team core off : Nat) : Canon (endSignals s team core off) := by
  grind [endSignals, canon_modTeam, canon_modFab, Team.Canon]

theorem canon_meetBar (h : Canon s) (team core off : Nat) : Canon (meetBar s team core off) :=
  canon_meetScratch h _ _ _ _ _

theorem canon_changeBar (h : Canon s) (team core off : Nat) (f : Bar → Bar) : Canon (changeBar s team core off f) := by
  grind [changeBar, canon_modBar, canon_notifyWaits, canon_meetBar]

theorem canon_applyBar (h : Canon s) (team core off n add landed : Nat) :
    Canon (applyBar s team core off n add landed) := by
  grind [applyBar, canon_modBar, canon_notifyWaits, canon_endSignals, canon_meetBar]

theorem canon_performBinit (h : Canon s) (o : Op) (t : EI) : Canon (performBinit s o t) := by
  grind [performBinit, canon_modTCore, canon_dropOp, canon_modBar, canon_notifyWaits, TCore.canon_bindBaton]

theorem canon_barrierApply (h : Canon s) (id : Nat) : Canon (barrierApply s id) := by
  grind [barrierApply, canon_modOp, canon_dropOp, canon_landRegs, canon_bindRegion, canon_passBaton, canon_meetBar,
    canon_applyBar, canon_performBinit]

theorem canon_lookWait (h : Canon s) (o : Op) : Canon (lookWait s o) := by
  grind [lookWait, canon_modOp, canon_notifyWaits, canon_meetBar]

theorem canon_endWait (h : Canon s) (o : Op) (r : Bool) : Canon (endWait s o r) := by
  grind [endWait, canon_dropOp, canon_passOp, canon_landRegs]

theorem canon_onWait (h : Canon s) (id : Nat) (f : State → Op → State) (hf : ∀ s o, Canon s → Canon (f s o)) :
    Canon (onWait s id f) := by
  unfold onWait
  grind [canon_lookWait]

theorem canon_bwaitComplete (h : Canon s) (id : Nat) : Canon (bwaitComplete s id) := by
  grind [bwaitComplete, canon_endWait, canon_onWait]

theorem canon_bwaitBarfault (h : Canon s) (id : Nat) : Canon (bwaitBarfault s id) := by
  grind [bwaitBarfault, canon_trapOp, canon_onWait]

theorem canon_bwaitLimitExpire (h : Canon s) (id : Nat) : Canon (bwaitLimitExpire s id) := by
  grind [bwaitLimitExpire, canon_endWait, canon_onWait]

theorem canon_fenceEnd (h : Canon s) (id : Nat) : Canon (fenceEnd s id) := by
  grind [fenceEnd, canon_dropOp, canon_passOp]

theorem canon_drainEnd (h : Canon s) (id : Nat) : Canon (drainEnd s id) := by
  grind [drainEnd, canon_dropOp, canon_passOp]

/-! ## The command processors and the pool -/

theorem canon_cpReadChunks (h : Canon s) (root : Nat) (asid : BitVec 16) (lvlS : Bool) (cs : List (Nat × Nat)) :
    Canon (cpReadChunks s root asid lvlS cs).1 := by
  induction cs generalizing s with
  | nil => exact h
  | cons c cs ih => grind [cpReadChunks, canon_translateRun, canon_meetRun]

theorem canon_cpRead (h : Canon s) (ctx : Nat) (lvlS : Bool) (va n : Nat) : Canon (cpRead s ctx lvlS va n).1 :=
  canon_cpReadChunks h _ _ _ _

theorem canon_writeRun (h : Canon s) (root va : Nat) (keys : List Nat) (bs : List Byte) : Canon (writeRun s root va keys bs) :=
  canon_foldl _ _ h fun _ _ hs => canon_writeSector hs _ _ _ _ _

theorem canon_dropWrite (h : Canon s) (die ctx cause : Nat) (malformed : Bool) (va : Nat) :
    Canon (dropWrite s die ctx cause malformed va) :=
  canon_postReport h _ _ _ _ _ _ _

theorem canon_cpWrite (h : Canon s) (die ctx : Nat) (lvlS : Bool) (va : Nat) (bs : List Byte) :
    Canon (cpWrite s die ctx lvlS va bs) := by
  grind [cpWrite, canon_translateRun, canon_writeRun, canon_dropWrite]

theorem canon_cpDecrement (h : Canon s) (die ctx : Nat) (lvlS : Bool) (va : Nat) :
    Canon (cpDecrement s die ctx lvlS va) := by
  grind [cpDecrement, canon_translateRun, canon_meetRun, canon_writeRun, canon_dropWrite]

theorem canon_readEntry (h : Canon s) (x : Slice) (va n : Nat) : Canon (readEntry s x va n).1 := by
  grind [readEntry, canon_cpRead]

theorem canon_readEntries (h : Canon s) (x : Slice) (ends : Option (List Byte → Bool)) (va n : Nat) :
    Canon (readEntries s x ends va n).1 := by
  induction n generalizing s va with
  | zero => exact h
  | succ n ih => grind [readEntries, canon_readEntry]

theorem canon_holdExports (h : Canon s) (x : Slice) (cores : Nat) : Canon (holdExports s x cores) := h

theorem canon_readStructs (h : Canon s) (x : Slice) : Canon (readStructs s x).1 := by
  grind [readStructs, canon_readEntry, canon_readEntries]

theorem canon_releaseSuccessors (h : Canon s) (id : Nat) : Canon (releaseSuccessors s id) := h

theorem canon_closeSlice (h : Canon s) (x : Slice) (e : Ending) : Canon (closeSlice s x e).1 := by
  grind [closeSlice, canon_iff, canon_modSlice, canon_cpWrite, canon_cpDecrement, canon_releaseSuccessors]

theorem canon_completeSlice (h : Canon s) (x : Slice) (code cause : Nat) (tepc tval : Dword) :
    Canon (completeSlice s x code cause tepc tval).1 := by
  grind [completeSlice, canon_modSlice, canon_closeSlice]

theorem canon_rejectSlice (h : Canon s) (x : Slice) (cause : Nat) : Canon (rejectSlice s x cause) :=
  canon_completeSlice h _ _ _ _ _

theorem canon_takeIn (h : Canon s) (x : Slice) (privOk : Bool) (pred : Option Nat) : Canon (takeIn s x privOk pred) :=
    by
  grind [takeIn, canon_iff, canon_modSlice, canon_holdExports, canon_rejectSlice]

theorem canon_takeRing (h : Canon s) {u : State} (hu : takeRing s = some u) : Canon u := by
  unfold takeRing at hu
  simp only [Option.bind_eq_some_iff, Option.map_eq_some_iff] at hu
  obtain ⟨r, -, e, -, rfl⟩ := hu
  refine canon_takeIn ?_ _ _ _
  exact h

theorem canon_takeRings (h : Canon s) (n : Nat) : Canon (takeRings s n) := by
  induction n generalizing s with
  | zero => exact h
  | succ n ih => grind [takeRings, canon_takeRing]

theorem canon_retryBlocked (h : Canon s) : Canon (retryBlocked s) := h

theorem canon_entryFreed {r : State × Bool} (h : Canon r.1) : Canon (entryFreed r) := by
  unfold entryFreed
  grind [canon_takeRings, canon_retryBlocked]

theorem canon_endOfSlice (h : Canon s) (x : Slice) (code cause : Nat) (tepc tval : Dword) :
    Canon (endOfSlice s x code cause tepc tval) := by
  grind [endOfSlice, canon_completeSlice, canon_entryFreed]

theorem canon_sliceWaits (h : Canon s) (x : Slice) (malformed : Bool) (va : Nat) :
    Canon (sliceWaits s x malformed va) := by
  grind [sliceWaits, canon_modSlice, canon_postWaiting]

theorem canon_sliceFault (h : Canon s) (x : Slice) (cause va : Nat) (malformed : Bool) :
    Canon (sliceFault s x cause va malformed) :=
  canon_postReport h _ _ _ _ _ _ _

theorem canon_prepareSlice (h : Canon s) (x : Slice) : Canon (prepareSlice s x) := by
  unfold prepareSlice
  split
  · exact h
  have hr := canon_readStructs (canon_modSlice h x.id fun _ => x.answered) x.answered
  dsimp only
  split
  · exact h
  · exact canon_sliceWaits hr _ _ _
  · split
    · exact canon_endOfSlice (canon_foldl _ _ hr fun s f hs => canon_sliceFault hs _ _ _ _) _ _ _ _ _
    · split
      · exact canon_holdExports (canon_modSlice hr _ _) _ _
      · exact canon_modSlice hr _ _

/-! ## ENQ, BUDR and the host queues -/

theorem keeps_execEnq (h : Canon s) (t : EI) : Keeps (execEnq t s) := by
  refine Canon.next ?_
  grind [canon_endIssue, canon_takeTrap, canon_pushOp]

theorem canon_ringMapped (h : Canon s) (ctx va : Nat) : Canon (ringMapped s ctx va).1 := by
  grind [ringMapped, canon_translate]

theorem canon_postRingpf (h : Canon s) (die ctx va : Nat) : Canon (postRingpf s die ctx va) := by
  grind [postRingpf, canon_iff, canon_postReport]

theorem canon_placeInRing (h : Canon s) (o : Op) (child : Slice) : Canon (placeInRing s o child).1 := by
  grind [placeInRing, canon_iff, canon_ringMapped, canon_postRingpf]

theorem canon_enterChild (h : Canon s) (parent child : Slice) (entry : Nat) (reserved : Bool) :
    Canon (enterChild s parent child entry reserved) := by
  grind [enterChild, canon_iff, canon_takeIn]

theorem canon_placeChild (h : Canon s) (o : Op) (parent : Slice) (p : Packet) : Canon (placeChild s o parent p).1 := by
  grind [placeChild, canon_placeInRing, canon_enterChild]

theorem canon_enqEnd (h : Canon s) (o : Op) (r : Bool) : Canon (enqEnd s o r) := by
  grind [enqEnd, canon_dropOp, canon_passOp, canon_landRegs]

theorem canon_enqTry (h : Canon s) (o : Op) : Canon (enqTry s o) := by
  grind [enqTry, canon_iff, canon_modOp, canon_dropOp, canon_placeChild, canon_enqEnd]

theorem canon_enqRead (h : Canon s) (o : Op) : Canon (enqRead s o) := by
  grind [enqRead, canon_trapOp, canon_enqTry]

theorem canon_settleOp (h : Canon s) (id : Nat) : Canon (settleOp s id) := by
  grind [settleOp, canon_finishOp, canon_enqRead]

theorem canon_enqReturn (h : Canon s) (o : Op) : Canon (enqReturn s o) := by
  grind [enqReturn, canon_modOp, canon_sendLanes, canon_readReqs, canon_settleOp]

theorem keeps_execEnqRetry (h : Canon s) (op : Nat) : Keeps (execEnqRetry op s) := by
  refine Canon.next ?_
  grind [canon_enqTry]

theorem keeps_execRingPageRetry (h : Canon s) (ctx : Nat) : Keeps (execRingPageRetry ctx s) := by
  refine Canon.next ?_
  grind [canon_iff, canon_retryBlocked, canon_ringMapped]

theorem keeps_execBudr (h : Canon s) (t : EI) : Keeps (execBudr t s) := by
  refine Canon.next ?_
  grind [canon_modGroup, canon_endIssue, canon_issueDone, canon_takeTrap]

theorem canon_setQueue (h : Canon s) (x : Queue) : Canon (setQueue s x) := h

theorem canon_takePacket (h : Canon s) (q : Nat) (bs : List Byte) : Canon (takePacket s q bs) := by
  grind [takePacket, canon_iff, canon_cpWrite, canon_takeIn, canon_setQueue]

theorem canon_passQueue (h : Canon s) (q : Nat) : Canon (passQueue s q) := h

theorem canon_packetTakeIn (h : Canon s) (q : Nat) : Canon (packetTakeIn s q) := by
  grind [packetTakeIn, canon_postReport, canon_postWaiting, canon_cpRead, canon_setQueue, canon_takePacket,
    canon_passQueue]

theorem keeps_execPacketTakeIn (h : Canon s) (ctx queue : Nat) : Keeps (execPacketTakeIn ctx queue s) := by
  refine Canon.next ?_
  grind [canon_packetTakeIn]

theorem keeps_execHostNotifyWrite (h : Canon s) (ctx queue : Nat) (widx : BitVec 32) :
    Keeps (execHostNotifyWrite ctx queue widx s) := by
  refine Canon.next ?_
  grind [canon_meetAt, canon_setQueue]

/-! ## Events of memory operations -/

theorem canon_unchargeOp (h : Canon s) (o : Op) : Canon (unchargeOp s o) := by
  grind [unchargeOp, canon_modSlice, canon_modCore]

theorem canon_memoryGrant (h : Canon s) (id : Nat) : Canon (memoryGrant s id) := by
  grind [memoryGrant, canon_iff, canon_modOp, canon_trapOp, canon_passOp, canon_grantReqs, canon_unchargeOp]

theorem keeps_execLoadDataReturn (h : Canon s) (op : Nat) : Keeps (execLoadDataReturn op s) := by
  refine Canon.next ?_
  grind [canon_loadReturn, canon_enqReturn]

/-! ## Copies, signals and allowance -/

theorem canon_parkIssue (h : Canon s) (v : View) (ps : List (Nat × Nat)) : Canon (parkIssue s v ps) := h

theorem canon_copyOp (h : Canon s) (i : Instr) (t : EI) : Canon (copyOp s i t) := by
  grind [copyOp, canon_iff, canon_modGroup, canon_endIssue, canon_issueDone, canon_takeTrap, canon_parkIssue]

theorem keeps_execCpysig (h : Canon s) (t : EI) : Keeps (execCpysig t s) := by
  refine Canon.next ?_
  grind [canon_iff, canon_modGroup, canon_endIssue, canon_issueDone, canon_takeTrap, canon_parkIssue]

theorem keeps_execAlwb (h : Canon s) (t : EI) : Keeps (execAlwb t s) := by
  refine Canon.next ?_
  grind [canon_modCore, canon_issueDone, canon_barIssue]

theorem keeps_execAlwr (h : Canon s) (t : EI) : Keeps (execAlwr t s) := by
  refine Canon.next ?_
  grind [canon_modGroup, canon_issueDone, canon_barIssue]

theorem canon_modLine (h : Canon s) (id : Nat) (f : Line → Line) : Canon (modLine s id f) := h

theorem canon_dropLine (h : Canon s) (id : Nat) : Canon (dropLine s id) := h

theorem canon_markBar (h : Canon s) (l : Line) (f : Bar → Bar) : Canon (markBar s l f) := by
  grind [markBar, canon_changeBar]

theorem canon_timeoutBar (h : Canon s) (l : Line) : Canon (timeoutBar s l) := by
  grind [timeoutBar, canon_sendNotice, canon_markBar]

theorem canon_resolveSide (h : Canon s) (l : Line) (n : Nat) (write : Bool) (x : Side) :
    Canon (resolveSide s l n write x).1 := by
  unfold resolveSide
  split
  · exact h
  · exact h
  · dsimp only
    grind [canon_translate, canon_admitPeer]

theorem canon_lookSeg (h : Canon s) (l : Line) (q : Seg) : Canon (lookSeg s l q).1 := by
  grind [lookSeg, canon_resolveSide]

theorem canon_lookSegs (h : Canon s) (l : Line) (sec : Nat) (qs : List Seg) : Canon (lookSegs s l sec qs).1 := by
  induction qs generalizing s with
  | nil => exact h
  | cons q qs ih => grind [lookSegs, canon_lookSeg]

theorem canon_sendSeg (h : Canon s) (l : Line) (n dev : Nat) (x : Side) (keys : List Nat) :
    Canon (sendSeg s l n dev x keys) := by
  unfold sendSeg
  grind [canon_modLine, → canon_sendReq]

theorem canon_fetchSegs (h : Canon s) (l : Line) (sec : Nat) : Canon (fetchSegs s l sec) := by
  refine canon_foldl _ _ h fun s x hs => ?_
  split
  · exact canon_sendSeg hs _ _ _ _ _
  · exact hs

theorem canon_readSector (h : Canon s) (l : Line) (q : Seg) : Canon (readSector s l q) := by
  grind [readSector, canon_iff, canon_meetSectors]

theorem canon_readSeg (h : Canon s) (id n : Nat) : Canon (readSeg s id n) := by
  unfold readSeg
  split
  · exact h
  split
  · exact h
  split
  · split
    · have hm := canon_meetScratch h
      grind [canon_modLine]
    · exact canon_readSector h _ _
  · exact h

theorem canon_readSegs (h : Canon s) (l : Line) (sec : Nat) : Canon (readSegs s l sec) := by
  refine canon_foldl _ _ h fun s x hs => ?_
  split
  · exact canon_readSeg hs _ _
  · exact hs

theorem canon_putScratch (h : Canon s) (team c : Nat) (w : Win) (off n : Nat) (reduce pois : Bool)
    (f : List Byte → List Byte) : Canon (putScratch s team c w off n reduce pois f) := by
  have h1 : Canon (if reduce then meetScratch s team c w off n else s) := by
    split
    · exact canon_meetScratch h _ _ _ _ _
    · exact h
  have hw (x : TCore) (hx : x.Canon) (b : Bool) (bs : List Byte) :
      (if b then (x.write w off bs).poison w off n else x.write w off bs).Canon := by
    split
    · exact TCore.canon_poison (TCore.canon_write hx _ _ _) _ _ _
    · exact TCore.canon_write hx _ _ _
  exact canon_notifyBytes (canon_modTCore h1 _ _ _ fun x hx => hw x hx _ _) _ _ _ _ _

theorem canon_landScratch (h : Canon s) (l : Line) (q : Seg) (c : Nat) (w : Win) (off : Nat) :
    Canon (landScratch s l q c w off) :=
  canon_putScratch h _ _ _ _ _ _ _ _

theorem canon_reduceMemory (h : Canon s) (l : Line) (root : Option Nat) (q : Seg) : Canon (reduceMemory s l root q) :=
    by
  grind [reduceMemory, canon_meetSectors, canon_writeSector]

theorem canon_skipLower (h : Canon s) (l : Line) (qs : List Seg) : Canon (skipLower s l qs) := h

theorem canon_landMemory (h : Canon s) (l : Line) (qs : List Seg) : Canon (landMemory s l qs) := by
  unfold landMemory
  split
  · exact h
  · dsimp only
    split
    · exact canon_poisonKeys (canon_foldl _ _ h fun s q hs => canon_reduceMemory hs _ _ _) _
    · exact canon_skipLower (canon_poisonKeys (canon_writeSector h _ _ _ _ _) _) _ _

theorem canon_landHere (h : Canon s) (l : Line) (sec : Nat) : Canon (landHere s l sec) := by
  unfold landHere
  refine canon_modLine (canon_landMemory (canon_foldl _ _ h fun s q hs => ?_) _ _) _ _
  split
  · exact canon_landScratch hs _ _ _ _ _
  · exact hs

theorem canon_sendOut (h : Canon s) (l : Line) (sec : Nat) : Canon (sendOut s l sec) := by
  refine canon_foldl _ _ h fun s x hs => ?_
  split
  · exact canon_sendSeg hs _ _ _ _ _
  · exact hs

theorem canon_closeSector (h : Canon s) (id sec : Nat) : Canon (closeSector s id sec) := by
  grind [closeSector, canon_applyBar, canon_modLine, canon_dropLine]

theorem canon_lineWaits (h : Canon s) (l : Line) (va : Dword) (write malformed : Bool) :
    Canon (lineWaits s l va write malformed) := by
  grind [lineWaits, canon_postWaiting, canon_modLine]

theorem canon_lineFatal (h : Canon s) (id cause : Nat) (va : Dword) (onDst malf : Bool) :
    Canon (lineFatal s id cause va onDst malf) := h

theorem canon_moveSector (h : Canon s) (id sec : Nat) : Canon (moveSector s id sec) := by
  grind [moveSector, canon_fetchSegs, canon_readSegs, canon_landHere, canon_sendOut, canon_closeSector]

theorem canon_copySector (h : Canon s) (id sec : Nat) : Canon (copySector s id sec) := by
  grind [copySector, canon_modLine, canon_lookSegs, canon_lineWaits, canon_lineFatal, canon_moveSector]

theorem canon_markFault (h : Canon s) (team c off copy low : Nat) : Canon (markFault s team c off copy low) := by
  grind [markFault, canon_modTeam, canon_changeBar, Team.Canon]

theorem canon_setFault (h : Canon s) (team c off copy low : Nat) : Canon (setFault s team c off copy low) := by
  grind [setFault, canon_markFault]

theorem canon_faultBar (h : Canon s) (l : Line) : Canon (faultBar s l) := by
  grind [faultBar, canon_sendNotice, canon_setFault]

theorem canon_endLine (h : Canon s) (id : Nat) : Canon (endLine s id) := by
  grind [endLine, canon_modLine, canon_dropLine]

theorem canon_settleDead (h : Canon s) (id n : Nat) : Canon (settleDead s id n) := by
  grind [settleDead, canon_modLine, canon_endLine]

theorem canon_copyFault (h : Canon s) (id : Nat) : Canon (copyFault s id) := by
  grind [copyFault, canon_postReport, canon_faultBar, canon_endLine]

theorem canon_sendSignal (h : Canon s) (id : Nat) : Canon (sendSignal s id) := by
  unfold sendSignal
  grind [canon_iff, → canon_sendReq]

theorem keeps_execCopySectorLand (h : Canon s) (line sector : Nat) : Keeps (execCopySectorLand line sector s) := by
  refine Canon.next ?_
  grind [canon_copySector, canon_sendSignal]

/-! ## The matrix engine -/

theorem canon_mxIssue (hs : Canon s) (h : Hdr) (i : Instr) (checks : View → Team → List Check)
    (x : View → Mask → EngSpec) : Canon (mxIssue s h i checks x) := by
  grind [mxIssue, canon_iff, canon_modCore, canon_endIssue, canon_issueDone, canon_takeTrap]

theorem canon_settleArray (h : Canon s) (core : Nat) : Canon (settleArray s core) := by
  grind [settleArray, canon_modCore]

theorem canon_modMx (h : Canon s) (core id : Nat) (f : MxOp → MxOp) : Canon (modMx s core id f) := h

theorem canon_fillBuffer (h : Canon s) (core team cn : Nat) (l : Latch) (whole : Option Nat) :
    Canon (fillBuffer s core team cn l whole) := by
  have h1 (rs : List Range) : Canon (rs.foldl (fun s r => meetScratch s team cn r.win r.off r.n) s) :=
    canon_foldl _ rs h fun s r hs => canon_meetScratch hs _ _ _ _ _
  unfold fillBuffer
  dsimp only
  split
  · exact canon_modCore (h1 _) _ _
  · exact h1 _

theorem canon_reloadLatch (h : Canon s) (core team cn : Nat) : Canon (reloadLatch s core team cn) := by
  grind [reloadLatch, canon_fillBuffer]

theorem canon_mxStart (h : Canon s) (core : Nat) : Canon (mxStart s core) := by
  grind [mxStart, canon_modCore, canon_modTCore, canon_bump, canon_settleArray, canon_modMx, canon_reloadLatch,
    TCore.Canon]

theorem canon_mxDone (h : Canon s) (core : Nat) (m : MxOp) : Canon (mxDone s core m) := h

theorem canon_mxLaneDone (h : Canon s) (core : Nat) (m : MxOp) (i : Nat) : Canon (mxLaneDone s core m i) := by
  grind [mxLaneDone, canon_modMx, canon_mxDone]

theorem canon_mxPoison (h : Canon s) (core : Nat) (m : MxOp) (row : Nat) : Canon (mxPoison s core m row) := by
  grind [mxPoison, canon_deferAt, canon_mxDone]

theorem canon_mxMeet (h : Canon s) (cn : Nat) (m : MxOp) : Canon (mxMeet s cn m) :=
  canon_foldl _ _ (canon_foldl _ _ h fun _ _ hs => canon_meetScratch hs _ _ _ _ _) fun _ _ hs => canon_meetRow hs _ _ _

theorem canon_mxWork (h : Canon s) (core : Nat) (m : MxOp) : Canon (mxWork s core m) := by
  unfold mxWork
  have hm := canon_mxMeet h (coreNoOf s m.grp) m
  dsimp only
  split
  · exact canon_mxDone hm _ _
  split
  · split
    · exact canon_mxDone (canon_modCore hm _ _) _ _
    · split
      · exact canon_modMx (canon_fillBuffer hm _ _ _ _ _) _ _ _
      · exact canon_mxDone hm _ _
  · exact canon_mxLaneDone (canon_modTCore hm _ _ _ fun c hc => canon_mxInject hc _ _ _ _) _ _ _
  · exact canon_mxDone (canon_modTCore hm _ _ _ fun c hc => TCore.canon_zeroRows hc _ _ _) _ _
  · split
    · exact canon_mxPoison hm _ _ _
    · exact canon_mxDone (canon_modGroupSince hm _ _ _) _ _
  · refine canon_mxDone (canon_modTCore hm _ _ _ fun c hc => ?_) _ _
    exact List.foldlRecOn _ _ hc fun c hc x _ => TCore.canon_modRow hc _ _
  · split
    · exact canon_mxPoison hm _ _ _
    · refine canon_mxLaneDone ?_ _ _ _
      split
      · exact canon_modGroupSince (canon_modTCore hm _ _ _ fun c hc => canon_mxStore hc _ _ _ _) _ _ _
      · exact canon_modTCore hm _ _ _ fun c hc => canon_mxStore hc _ _ _ _
  · split
    · exact canon_mxPoison hm _ _ _
    · exact canon_mxDone (canon_modGroupSince hm _ _ _) _ _
  · exact canon_mxDone (canon_modTCore hm _ _ _ fun c hc => TCore.canon_modRows hc _ _ _) _ _
  · exact canon_mxDone (canon_modGroupSince hm _ _ _) _ _
  · exact canon_mxDone hm _ _

theorem canon_noteRow (h : Canon s) (core : Nat) (m : MxOp) : Canon (noteRow s core m) := by
  grind [noteRow, canon_modCore]

theorem canon_mxComplete (h : Canon s) (core : Nat) : Canon (mxComplete s core) := by
  grind [mxComplete, canon_bump, canon_mxWork, canon_noteRow]

/-! ## Control registers -/

theorem keeps_execCrd (h : Canon s) (t : EI) : Keeps (execCrd t s) := by
  refine Canon.next ?_
  grind [canon_modGroup, canon_endIssue, canon_issueDone, canon_takeTrap]

theorem canon_cwrOp (h : Canon s) (t : EI) (f : View → Dword → State) (hf : ∀ v x, Canon (f v x)) : Canon (cwrOp s t f) := by
  unfold cwrOp
  grind [canon_endIssue, canon_takeTrap]

theorem canon_cwrIn (h : Canon s) (t : EI) (f : Dword → Group → Group) : Canon (cwrIn s t f) := by
  grind [cwrIn, canon_modGroup, canon_issueDone, canon_cwrOp]

theorem canon_cwrOut (h : Canon s) (t : EI) (i : Instr) : Canon (cwrOut s t i) := by
  grind [cwrOut, canon_endIssue, canon_pushOp, canon_cwrOp]

theorem canon_rejectWrite (h : Canon s) (g : Group) (n : Nat) : Canon (rejectWrite s g n) := h

theorem canon_expertWrite (h : Canon s) (g : Group) (n x lo hi : Nat) (f : State → State) (hf : Canon (f s)) :
    Canon (expertWrite s g n x lo hi f) := by
  unfold expertWrite
  split
  · exact hf
  · exact canon_rejectWrite h _ _

theorem canon_modSliceOf (h : Canon s) (g : Group) (f : Slice → Slice) : Canon (modSliceOf s g f) := by
  grind [modSliceOf, canon_modSlice]

theorem canon_cwrPlain (h : Canon s) (g : Group) (n : Nat) (x : Dword) : Canon (cwrPlain s g n x) := by
  unfold cwrPlain
  split
  · exact canon_modSliceOf h _ _
  · exact canon_modSliceOf h _ _
  · exact canon_modSliceOf h _ _
  · exact canon_expertWrite h _ _ _ _ _ _ h
  · exact canon_modTeam h _ _
  · exact canon_modTeam h _ _
  · exact canon_expertWrite h _ _ _ _ _ _ (canon_modFab h _)
  · exact canon_expertWrite h _ _ _ _ _ _ (canon_modFab h _)
  · exact canon_modCore h _ _
  · exact canon_modCore h _ _
  · exact canon_expertWrite h _ _ _ _ _ _ (canon_modHbm h _)
  · exact h

theorem keeps_execCwr (h : Canon s) (t : EI) : Keeps (execCwr t s) := by
  refine Canon.next ?_
  grind [canon_cwrIn, canon_cwrOut]

theorem keeps_execCwrSrseed (h : Canon s) (t : EI) : Keeps (execCwrSrseed t s) := by
  refine Canon.next ?_
  grind [canon_endIssue, canon_cwrIn]

theorem canon_writeMxcad (h : Canon s) (core : Nat) (x : Dword) : Canon (writeMxcad s core x) := by
  grind [writeMxcad, canon_modCore, canon_settleArray]

theorem canon_changePlane (h : Canon s) (e new : Nat) : Canon (changePlane s e new) := h

theorem canon_writePlane (h : Canon s) (g : Group) (n : Nat) (x : Dword) : Canon (writePlane s g n x) := by
  grind [writePlane, canon_rejectWrite, canon_changePlane]

theorem canon_writeFabstat (h : Canon s) (x : Dword) : Canon (writeFabstat s x) := h

theorem canon_writeHealth (h : Canon s) (x : Dword) : Canon (writeHealth s x) := h

theorem canon_cwrPerform (h : Canon s) (g : Group) (i : Instr) (x : Dword) : Canon (cwrPerform s g i x) := by
  unfold cwrPerform
  split
  · exact canon_cwrPlain h _ _ _
  · exact canon_modTeam h _ _
  · exact canon_writeMxcad h _ _
  · exact canon_writePlane h _ _ _
  · exact canon_modCore h _ _
  · exact canon_expertWrite h _ _ _ _ _ _ h
  · exact canon_expertWrite h _ _ _ _ _ _ h
  · exact canon_expertWrite h _ _ _ _ _ _ (canon_modCore h _ _)
  · split <;> exact h
  · exact canon_writeFabstat h _
  · exact canon_writeHealth h _
  · exact canon_modCore h _ _
  · exact h

/-! ## The Erg sequencer -/

theorem canon_ergIssue (hs : Canon s) (h : Hdr) (i : Instr) (checks : View → Team → List Check)
    (x : View → Mask → EngSpec) : Canon (ergIssue s h i checks x) := by
  grind [ergIssue, canon_iff, canon_modCore, canon_bump, canon_endIssue, canon_issueDone, canon_takeTrap]

theorem canon_modErgHead (h : Canon s) (core : Nat) (f : ErgOp → ErgOp) : Canon (modErgHead s core f) := h

theorem canon_dropErgHead (h : Canon s) (core : Nat) : Canon (dropErgHead s core) := h

theorem canon_ergLaneDone (h : Canon s) (core : Nat) (e : ErgOp) (i : Nat) : Canon (ergLaneDone s core e i) := by
  grind [ergLaneDone, canon_modErgHead, canon_dropErgHead]

theorem canon_ergMeet (h : Canon s) (cn : Nat) (e : ErgOp) : Canon (ergMeet s cn e) := by
  have hr (s : State) (hs : Canon s) (rs : List Range) :
      Canon (rs.foldl (fun s r => meetScratch s e.team cn r.win r.off r.n) s) :=
    canon_foldl _ rs hs fun s r hs => canon_meetScratch hs _ _ _ _ _
  have ho (s : State) (hs : Canon s) (n : Nat) (offs : List Nat) :
      Canon (offs.foldl (fun s off => meetScratch s e.team cn .erg off n) s) :=
    canon_foldl _ offs hs fun s off hs => canon_meetScratch hs _ _ _ _ _
  exact ho _ (ho _ (hr _ h _) _ _) _ _

theorem canon_ergWork (h : Canon s) (core : Nat) (e : ErgOp) : Canon (ergWork s core e) := by
  unfold ergWork
  have hm := canon_ergMeet h (coreNoOf s e.grp) e
  dsimp only
  split
  · exact canon_dropErgHead hm _
  split
  · split
    · exact canon_dropErgHead hm _
    · exact canon_ergLaneDone (canon_modGroupSince (canon_modTeam hm _ _) _ _ _) _ _ _
  · exact canon_ergLaneDone (canon_modTCore hm _ _ _ fun _ hc => canon_keepTile hc _ _ _ _ _) _ _ _
  · exact canon_ergLaneDone (canon_modTCore hm _ _ _ fun _ hc => canon_keepTile hc _ _ _ _ _) _ _ _
  · exact canon_ergLaneDone (canon_modTCore hm _ _ _ fun _ hc => canon_restoreTile hc _ _ _) _ _ _
  · exact canon_ergLaneDone (canon_modTCore hm _ _ _ fun _ hc => TCore.canon_write hc _ _ _) _ _ _
  · exact canon_dropErgHead (canon_modGroupSince hm _ _ _) _
  · exact canon_dropErgHead (canon_modGroupSince hm _ _ _) _
  · exact canon_dropErgHead (canon_modTeam hm _ _) _
  · exact canon_dropErgHead (canon_modTeam hm _ _ fun _ ht => Team.canon_clearSkips ht _ _) _
  · split
    · exact canon_dropErgHead hm _
    · exact canon_dropErgHead (canon_modGroupSince hm _ _ _) _
  · exact canon_dropErgHead hm _

theorem canon_ergComplete (h : Canon s) (core : Nat) : Canon (ergComplete s core) := by
  grind [ergComplete, canon_modErgHead, canon_dropErgHead, canon_ergWork]

/-! ## System instructions -/

theorem canon_levelSOnly (h : Canon s) (f : View → State) (hf : ∀ v, Canon (f v)) : Canon (levelSOnly s f) := by
  unfold levelSOnly
  grind [canon_endIssue, canon_takeTrap]

theorem canon_handlerForm (h : Canon s) (f : View → State) (hf : ∀ v, Canon (f v)) : Canon (handlerForm s f) := by
  refine canon_levelSOnly h _ fun v => ?_
  split
  · exact hf v
  · exact canon_takeTrap h _ _

theorem keeps_execCrdStk (h : Canon s) (t : EI) : Keeps (execCrdStk t s) := by
  refine Canon.next ?_
  grind [canon_modGroup, canon_issueDone, canon_handlerForm]

theorem keeps_execCwrStk (h : Canon s) (t : EI) : Keeps (execCwrStk t s) := by
  refine Canon.next ?_
  grind [canon_modGroup, canon_issueDone, canon_handlerForm]

theorem keeps_execCrdJs (h : Canon s) (t : EI) : Keeps (execCrdJs t s) := by
  refine Canon.next ?_
  grind [canon_modGroup, canon_issueDone, canon_handlerForm]

theorem keeps_execCwrJs (h : Canon s) (t : EI) : Keeps (execCwrJs t s) := by
  refine Canon.next ?_
  grind [canon_modGroup, canon_issueDone, canon_handlerForm]

theorem keeps_execCrdTs (h : Canon s) (t : EI) : Keeps (execCrdTs t s) := by
  refine Canon.next ?_
  grind [canon_modGroup, canon_issueDone, canon_takeTrap, canon_handlerForm]

theorem keeps_execCwrTs (h : Canon s) (t : EI) : Keeps (execCwrTs t s) := by
  refine Canon.next ?_
  grind [canon_modGroup, canon_issueDone, canon_takeTrap, canon_handlerForm]

theorem canon_systemHold (h : Canon s) (t : EI) (i : Instr) (checks : View → List Check) (args : View → List Dword)
    (dsts : View → List Dst) : Canon (systemHold s t i checks args dsts) := by
  grind [systemHold, canon_endIssue, canon_takeTrap, canon_pushOp, canon_levelSOnly]

theorem canon_endHold (h : Canon s) (o : Op) (ws : List Word) : Canon (endHold s o ws) := by
  grind [endHold, canon_dropOp, canon_passOp, canon_landRegs]

theorem canon_tlbiDiscard (h : Canon s) (var a b n : Nat) : Canon (tlbiDiscard s var a b n) := h

theorem canon_settleTlbi (h : Canon s) (id : Nat) : Canon (settleTlbi s id) := by
  grind [settleTlbi, canon_modOp, canon_endHold, canon_tlbiDiscard]

theorem canon_haltcIssue (h : Canon s) (t : EI) (i : Instr) : Canon (haltcIssue s t i) := canon_systemHold h _ _ _ _ _

theorem canon_haltcAct (h : Canon s) (o : Op) (f : Group → Group) : Canon (haltcAct s o f) :=
  canon_foldl _ _ h fun _ _ hs => canon_modGroupSince hs _ _ _

theorem canon_settleStep (h : Canon s) (id : Nat) : Canon (settleStep s id) := by
  grind [settleStep, canon_endHold]

theorem canon_startStep (h : Canon s) (o : Op) : Canon (startStep s o) := by
  grind [startStep, canon_modOp, canon_haltcAct, canon_settleStep]

theorem canon_stepCursor (h : Canon s) (hra : Nat) : Canon (stepCursor s hra) := by
  grind [stepCursor, canon_modHbm]

theorem canon_scrubCodeword (h : Canon s) (hra k : Nat) : Canon (scrubCodeword s hra k).1 := by
  have hp {a b : State × Bool × Bool} {p : Prop} [Decidable p] (ha : Canon a.1) (hb : Canon b.1) :
      Canon (if p then a else b).1 := by
    split <;> assumption
  exact hp h (hp (canon_machineCheck (canon_poisonCodeword h _) _ _ _ _ _) (hp (canon_modHbm h _) h))

theorem canon_endScrub (h : Canon s) (hra ce : Nat) (ue : Bool) : Canon (endScrub s hra ce ue) := by
  grind [endScrub, canon_countRow, canon_requestRow, canon_stepCursor]

theorem canon_scrbPair (h : Canon s) (o : Op) (ce : Nat) (ue : Bool) : Canon (scrbPair s o ce ue) := canon_endHold h _ _

theorem canon_scrubStep (h : Canon s) (o : Op) : Canon (scrubStep s o) := by
  unfold scrubStep
  extract_lets hra k ue
  split
  · have h1 := canon_scrubCodeword h hra k
    split
    next heq =>
      rw [heq] at h1
      exact canon_modOp h1 _ _
  · exact canon_scrbPair (canon_endScrub h _ _ _) _ _ _

theorem canon_scrbIssue (h : Canon s) (t : EI) (i : Instr) : Canon (scrbIssue s t i) := canon_systemHold h _ _ _ _ _

theorem canon_checkSpares (h : Canon s) (bank : Nat) : Canon (checkSpares s bank) := by
  grind [checkSpares, canon_iff, canon_machineCheck, canon_checkReplace]

theorem canon_settleRspr (h : Canon s) (id : Nat) : Canon (settleRspr s id) := by
  grind [settleRspr, canon_modHbm, canon_endHold, canon_checkSpares]

theorem canon_finishCopy (h : Canon s) (r : Remap) (hra : Nat) : Canon (finishCopy s r hra) := by
  grind [finishCopy, canon_modHbm, canon_endHold]

theorem keeps_execSpareRowCopyStep (h : Canon s) (bank : Nat) : Keeps (execSpareRowCopyStep bank s) := by
  refine Canon.next ?_
  grind [canon_modHbm, canon_machineCheck, canon_requestRow, canon_poisonCodeword, canon_settleRspr, canon_finishCopy]

theorem canon_passGate (h : Canon s) (o : Op) : Canon (passGate s o) := by
  grind [passGate, canon_dropOp, canon_cwrPerform, canon_endHold, canon_settleTlbi, canon_haltcAct, canon_startStep,
    canon_scrbPair, canon_scrubStep, canon_settleRspr]

theorem canon_settleHolds (h : Canon s) : Canon (settleHolds s) := by
  refine canon_foldl _ _ h fun s o hs => ?_
  split
  · exact canon_settleTlbi hs _
  · exact canon_settleStep hs _
  · exact hs

/-! ## Placement and retirement -/

theorem canon_readImageBytes (h : Canon s) (x : Slice) (ims : List (Nat × Nat × Nat × Dword)) :
    Canon (readImageBytes s x ims).1 := by
  induction ims generalizing s with
  | nil => exact h
  | cons im ims ih => grind [readImageBytes, canon_cpRead]

theorem canon_readPrologue (h : Canon s) (x : Slice) (k : Kernel) : Canon (readPrologue s x k).1 := by
  grind [readPrologue, canon_cpRead, canon_readImageBytes]

theorem canon_startGroup (h : Canon s) (x : Slice) (team no : Nat) (cores : List Nat) (n : Nat) (r : Nat × Nat × Role) :
    Canon (startGroup s x team no cores n r) := h

theorem canon_dropFetch (h : Canon s) (asid : BitVec 16) (cores : List Nat) : Canon (dropFetch s asid cores) :=
  canon_foldl _ _ h fun _ _ hs => canon_modCore hs _ _

theorem canon_ageGang (h : Canon s) (cl : Nat) (own : Nat × Nat) : Canon (ageGang s cl own) := h

theorem canon_prefetchTiles (h : Canon s) (x : Slice) : Canon (prefetchTiles s x) := by
  unfold prefetchTiles
  split
  · exact h
  · refine canon_foldl _ _ h fun s va hs => ?_
    split
    · exact canon_prefLine hs _ _
    · exact hs

theorem canon_takeCores (h : Canon s) (x : Slice) (cores : List Nat) : Canon (takeCores s x cores) :=
  canon_foldl _ _ h fun _ _ hs => canon_modCore hs _ _

theorem canon_addTeam (h : Canon s) {tm : Team} (ht : tm.Canon) (id : Nat) :
    Canon { s with teams := s.teams ++ [tm], nextId := id } := by
  refine ⟨h.mem, fun t hm => ?_⟩
  rcases List.mem_append.1 hm with hm | hm
  · exact h.teams t hm
  · exact List.mem_singleton.1 hm ▸ ht

theorem canon_startTeam (h : Canon s) (x : Slice) (k : Kernel) (cl : Nat) (cores : List Nat) (pos : List (List Nat))
    (bytes : List (Win × Nat × List Byte)) : Canon (startTeam s x k cl cores pos bytes) := by
  have h1 := canon_takeCores (canon_meetCtx h x.ctx) x cores
  refine canon_dropFetch (canon_modSlice (canon_modFab (canon_foldl _ _ (canon_ageGang (canon_addTeam h1 ?_ _) _ _)
    fun _ _ hs => canon_startGroup hs _ _ _ _ _ _) _) _ _) _ _
  intro c hc
  obtain ⟨y, -, rfl⟩ := List.mem_map.1 hc
  exact TCore.canon_start _ _ _ _ _

theorem canon_sliceOver (h : Canon s) (sid : Nat) : Canon (sliceOver s sid) := by
  grind [sliceOver, canon_endOfSlice]

theorem canon_prologueFault (h : Canon s) (x : Slice) (cause va : Nat) (malformed : Bool) :
    Canon (prologueFault s x cause va malformed) := by
  grind [prologueFault, canon_modSlice, canon_endSlice, canon_endOfSlice, canon_sliceFault, canon_sliceOver]

theorem canon_placeTeam (h : Canon s) (x : Slice) (k : Kernel) (cl : Nat) (ways : List (List Nat × List (List Nat))) :
    Canon (placeTeam s x k cl ways) := by
  grind [placeTeam, canon_modSlice, canon_bump, canon_sliceWaits, canon_readPrologue, canon_prefetchTiles,
    canon_startTeam, canon_prologueFault]

theorem canon_makeGang (h : Canon s) (own : Nat × Nat) (k : Kernel) (cl : Nat) : Canon (makeGang s own k cl) := by
  grind [makeGang, canon_iff]

theorem keeps_execTeamPlace (h : Canon s) (slice cluster : Nat) : Keeps (execTeamPlace slice cluster s) := by
  refine Canon.next ?_
  grind [canon_endSlice, canon_meetRecord, canon_closeSlice, canon_entryFreed, canon_endOfSlice, canon_prepareSlice,
    canon_sliceOver, canon_placeTeam, canon_makeGang]

theorem canon_dropPending (h : Canon s) (gid : Nat) : Canon (dropPending s gid) := h

theorem canon_releaseBaton (h : Canon s) (g : Group) : Canon (releaseBaton s g) := by
  unfold releaseBaton
  split
  · exact h
  · refine canon_foldl _ _ h fun s x hs => ?_
    split
    · split
      · exact canon_applyBar (canon_modTCore hs _ _ _) _ _ _ _ _ _
      · exact hs
    · exact hs

theorem canon_retireTeam (h : Canon s) (tm : Team) : Canon (retireTeam s tm) :=
  ⟨h.mem, fun t ht => h.teams t (List.mem_of_mem_filter ht)⟩

theorem canon_removeGroup (h : Canon s) (g : Group) : Canon (removeGroup s g) := by
  grind [removeGroup, canon_iff, canon_modCore, canon_modSlot, canon_releaseBank, canon_sliceOver, canon_releaseBaton,
    canon_retireTeam]

theorem keeps_execGroupRetire (h : Canon s) (grp : Nat) : Keeps (execGroupRetire grp s) := by
  refine Canon.next ?_
  grind [canon_dropPending, canon_removeGroup]

/-! ## Issues, tokens and the commit gate -/

theorem canon_clearFetch (h : Canon s) (gid : Nat) : Canon (clearFetch s gid) := h

theorem canon_fetchWindow (h : Canon s) (g : Group) (mask : Mask) (pc : Dword) : Canon (fetchWindow s g mask pc) := by
  grind [fetchWindow, canon_modGroup, canon_modCore, canon_postWaiting, canon_takeTrapAt, canon_translate,
    canon_meetRun, canon_clearFetch]

theorem canon_dropChosen (h : Canon s) (gid core : Nat) : Canon (dropChosen s gid core) := h

theorem canon_raiseDeferred (h : Canon s) (g : Group) (d : Deferred) : Canon (raiseDeferred s g d) := by
  grind [raiseDeferred, canon_modGroup, canon_endSlice, canon_takeTrapAt, canon_dropChosen]

theorem canon_resolveSkip (h : Canon s) (g : Group) : Canon (resolveSkip s g) := by
  grind [resolveSkip, canon_modGroup, canon_takeTrapAt, canon_fetchWindow]

theorem canon_fetchFatal (h : Canon s) (g : Group) : Canon (fetchFatal s g) := by
  grind [fetchFatal, canon_takeTrapAt, canon_clearFetch, canon_dropChosen]

theorem canon_parkGroup (h : Canon s) (gid core : Nat) (mask : Mask) (pc : Dword) (peers : List (Nat × Nat)) :
    Canon (parkGroup s gid core mask pc peers) := h

theorem canon_boundaryIssue (h : Canon s) (g : Group) (x : Slice) : Canon (boundaryIssue s g x) := by
  grind [boundaryIssue, canon_takeTrapAt, canon_fetchWindow, canon_dropChosen, canon_parkGroup]

theorem canon_boundary (h : Canon s) (gid : Nat) : Canon (boundary s gid) := by
  grind [boundary, canon_raiseDeferred, canon_resolveSkip, canon_fetchFatal, canon_boundaryIssue]

theorem canon_passOver (h : Canon s) (cyc : Nat) (chosen : Nat) (os : List Offer) : Canon (passOver s cyc chosen os)
    := h

theorem canon_meetArray6 (h : Canon s) (g : Group) (x : Slice) : Canon (meetArray6 s g x) := by
  grind [meetArray6, canon_endSlice, canon_meetUnit]

theorem canon_meetGroupState (h : Canon s) (g : Group) (x : Slice) (i : Instr) : Canon (meetGroupState s g x i) := by
  grind [meetGroupState, canon_meetArray6]

theorem canon_issueNow (h : Canon s) (core slot : Nat) (o : Offer) : Canon (issueNow s core slot o) := by
  grind [issueNow, canon_iff, canon_modSlice, canon_modCore, canon_takeTrapAt, canon_meetRegs, canon_meetGroupState]

theorem canon_issueOrTrap (h : Canon s) (core slot : Nat) (o : Offer) : Canon (issueOrTrap s core slot o) := by
  grind [issueOrTrap, canon_takeTrapAt, canon_dropChosen, canon_issueNow]

theorem canon_lineUp (h : Canon s) (core gid : Nat) : Canon (lineUp s core gid) := h

theorem canon_waitTokens (h : Canon s) (core gid : Nat) (mask : Mask) (pc : Dword) (price : Nat) :
    Canon (waitTokens s core gid mask pc price) := h

theorem canon_slotChoice (h : Canon s) (core slot : Nat) : Canon (slotChoice s core slot) := by
  grind [slotChoice, canon_modSlot, canon_passOver, canon_issueOrTrap, canon_waitTokens]

theorem canon_tidyLine (h : Canon s) (core : Nat) : Canon (tidyLine s core) := by
  refine canon_foldl _ _ (canon_foldl _ _ h fun s gid hs => ?_) fun _ _ hs => canon_lineUp hs _ _
  grind [canon_dropChosen, canon_modCore]

theorem canon_noteReady (h : Canon s) (gid : Nat) : Canon (noteReady s gid) := by
  grind [noteReady, canon_modGroup]

theorem canon_slotCycle (h : Canon s) (core slot : Nat) : Canon (slotCycle s core slot) := by
  have h0 : Canon ((slotGroups s core slot).foldl (fun s g => noteReady s g.id) (settleHolds s)) :=
    canon_foldl _ _ (canon_settleHolds h) fun _ _ hs => canon_noteReady hs _
  have h1 := canon_foldl (fun s g => boundary s g.id) (slotGroups s core slot) (canon_tidyLine h0 core)
    fun _ _ hs => canon_boundary hs _
  unfold slotCycle
  extract_lets gs s0 s1 c
  split
  · exact h1
  split
  · exact canon_issueOrTrap h1 _ _ _
  · exact canon_slotChoice h1 _ _

theorem keeps_execIssueCycle (h : Canon s) (core slot : Nat) : Keeps (execIssueCycle core slot s) := by
  refine Canon.next ?_
  grind [canon_modCore, canon_slotCycle]

theorem canon_tick (h : Canon s) : Canon (tick s) := by
  grind [tick, canon_iff, canon_sooner]

theorem canon_settleBank (h : Canon s) (core slot : Nat) : Canon (settleBank s core slot) := by
  grind [settleBank, canon_dropBankWrites, canon_releaseBank]

theorem keeps_execCommitGateRelease (h : Canon s) (core : Nat) : Keeps (execCommitGateRelease core s) := by
  have h2 : Canon ((List.range 4).foldl (fun s slot => settleBank s core slot)
      (modCore s core fun c => { c with hist := c.hist.filter fun h => decide (c.cyc < h.cyc + 4) })) :=
    canon_foldl _ _ (canon_modCore h _ _) fun _ _ hs => canon_settleBank hs _ _
  refine Canon.next (canon_foldl _ _ h2 fun s o hs => ?_)
  split
  · exact canon_passGate hs _
  · exact hs

theorem canon_chargeOp (h : Canon s) (o : Op) : Canon (chargeOp s o) := by
  grind [chargeOp, canon_modSlice, canon_modCore]

theorem canon_opProceeds (h : Canon s) (g : Group) (o : Op) : Canon (opProceeds s g o) := by
  grind [opProceeds, canon_modOp, canon_dropOp, canon_passOp, canon_chargeOp]

theorem canon_parkedProceeds (h : Canon s) (g : Group) (p : Chosen) : Canon (parkedProceeds s g p) := by
  grind [parkedProceeds, canon_modGroup, canon_issueOrTrap, canon_waitTokens]

theorem keeps_execParkedIssueProceed (h : Canon s) (grp : Nat) : Keeps (execParkedIssueProceed grp s) := by
  refine Canon.next ?_
  grind [canon_opProceeds, canon_parkedProceeds]

/-! ## Events of the fabric -/

theorem canon_countAt (h : Canon s) (tm : Team) (core off n : Nat) : Canon (countAt s tm core off n) := by
  grind [countAt, canon_applyBar]

theorem canon_faultAt (h : Canon s) (tm : Team) (core off : Nat) (r : PeerReq) (low : Nat) :
    Canon (faultAt s tm core off r low) := by
  grind [faultAt, canon_setFault]

theorem canon_landPart (h : Canon s) (tm : Team) (core : Nat) (r : PeerReq) : Canon (landPart tm core s r) := by
  grind [landPart, canon_putScratch]

theorem canon_landParts (h : Canon s) (tm : Team) (core : Nat) (rs : List PeerReq) : Canon (landParts s tm core rs) := by
  unfold landParts
  split
  · exact h
  split
  · exact h
  split
  · exact canon_countAt (canon_foldl _ _ h fun _ _ hs => canon_landPart hs _ _ _) _ _ _ _
  · exact canon_faultAt h _ _ _ _ _

theorem canon_receivePart (h : Canon s) (tm : Team) (core : Nat) (r : PeerReq) : Canon (receivePart s tm core r) := by
  grind [receivePart, canon_modFab, canon_landParts]

theorem canon_performScratch (h : Canon s) (tm : Team) (core : Nat) (r : PeerReq) :
    Canon (performScratch s tm core r) := by
  grind [performScratch, canon_meetScratch, canon_faultAt, canon_receivePart]

theorem canon_performMemory (h : Canon s) (r : PeerReq) : Canon (performMemory s r) := by
  grind [performMemory, canon_poisonKeys, canon_meetKeys, canon_writeSector]

theorem canon_receiveScratch (h : Canon s) (r : PeerReq) : Canon (receiveScratch s r) := by
  grind [receiveScratch, canon_modTeam, canon_countRefuse, canon_performScratch, Team.Canon]

theorem keeps_execPortRequestDiscard (h : Canon s) (r : PeerReq) : Keeps (execPortRequestDiscard r s) := by
  refine Canon.next ?_
  split
  · exact canon_modFab (s := { s with teams := s.teams.map fun t => t.unhold r })
      ⟨h.mem, teamsCanon_map _ h.teams fun _ ht => ht⟩ _
  · exact h

theorem canon_dropMarkers (h : Canon s) (m : Marker) : Canon (dropMarkers s m) := h

theorem canon_performSignal (h : Canon s) (tm : Team) (core : Nat) (m : Marker) : Canon (performSignal s tm core m) :=
    by
  grind [performSignal, canon_modTeam, canon_applyBar, Team.Canon]

theorem canon_settleSignal (h : Canon s) (m : Marker) : Canon (settleSignal s m) := by
  grind [settleSignal, canon_modTeam, canon_countRefuse, canon_dropMarkers, canon_performSignal, Team.Canon]

theorem keeps_execFlushMarkerReceive (h : Canon s) (m : Marker) : Keeps (execFlushMarkerReceive m s) := by
  refine Canon.next ?_
  grind [canon_modFab, canon_settleSignal]

theorem canon_performMarkers (h : Canon s) : Canon (performMarkers s) := by
  refine canon_foldl _ _ h fun s m hs => ?_
  split
  · exact canon_settleSignal hs _
  · exact hs

theorem canon_receiveMemory (h : Canon s) (r : PeerReq) : Canon (receiveMemory s r) := by
  grind [receiveMemory, canon_modFab, canon_performMemory, canon_performMarkers]

theorem keeps_execPeerRequestReceive (h : Canon s) (r : PeerReq) : Keeps (execPeerRequestReceive r s) := by
  refine Canon.next ?_
  grind [canon_countRefuse, canon_receiveScratch, canon_receiveMemory]

theorem canon_releaseReq (h : Canon s) (team : Nat) (r : PeerReq) : Canon (releaseReq team s r) := by
  grind [releaseReq, canon_performScratch]

theorem canon_releaseSigs (h : Canon s) (sigs : List (Nat × Marker)) (k : Nat) : Canon (releaseSigs sigs s k) :=
  canon_foldl _ _ h fun _ _ hs => canon_settleSignal hs _

theorem canon_performHeld (h : Canon s) (team : Nat) : Canon (performHeld s team) := by
  unfold performHeld
  split
  · exact h
  · exact canon_releaseSigs (canon_foldl _ _ (canon_modTeam h _ _)
      fun _ _ hs => canon_releaseReq (canon_releaseSigs hs _ _) _ _) _ _

theorem keeps_execTimeoutNoticeReceive (h : Canon s) (fkey : BitVec 16) (handle off : Nat) :
    Keeps (execTimeoutNoticeReceive fkey handle off s) := by
  refine Canon.next ?_
  grind [canon_modBar, canon_notifyWaits]

theorem canon_reportGone (h : Canon s) (team port : Nat) (handle : Dword) : Canon (reportGone s team port handle) :=
  canon_postReport h _ _ _ _ _ _ _

theorem canon_replyLine (h : Canon s) (r : Reply) (refused : Bool) (id n : Nat) : Canon (replyLine s r refused id n) :=
    by
  grind [replyLine, canon_countRefuse, canon_modLine, canon_markBar, canon_closeSector, canon_lineFatal,
    canon_settleDead, canon_reportGone]

theorem canon_replyOp (h : Canon s) (r : Reply) (id lane : Nat) : Canon (replyOp s r id lane) := by
  grind [replyOp, canon_modReq, canon_settleOp]

theorem canon_replySignal (h : Canon s) (r : Reply) (refused : Bool) (id : Nat) : Canon (replySignal s r refused id) :=
    by
  grind [replySignal, canon_iff, canon_countRefuse, canon_reportGone]

theorem canon_replyGather (h : Canon s) (r : Reply) (gid stream : Nat) : Canon (replyGather s r gid stream) := by
  grind [replyGather, canon_gatherGive]

theorem canon_deliver (h : Canon s) (r : Reply) (refused : Bool) (ref : Ref) : Canon (deliver s r refused ref) := by
  cases ref with
  | line id n => exact canon_replyLine h _ _ _ _
  | op id lane => exact canon_replyOp h _ _ _
  | sig id => exact canon_replySignal h _ _ _
  | gath gid stream => exact canon_replyGather h _ _ _

theorem keeps_execFabricReplyReceive (h : Canon s) (r : Reply) : Keeps (execFabricReplyReceive r s) := by
  refine Canon.next ?_
  grind [canon_setPeer, canon_modFab, canon_releaseTag, canon_deliver]

theorem canon_countTmo (h : Canon s) (sig : Bool) : Canon (countTmo s sig) := h

theorem canon_timeOutRef (h : Canon s) (ref : Ref) : Canon (timeOutRef s ref) := by
  have hc (b : Bool) := canon_countTmo h b
  cases ref with
  | line id n =>
    unfold timeOutRef
    grind [canon_timeoutBar, canon_modLine, canon_settleDead, canon_closeSector]
  | op id lane =>
    unfold timeOutRef
    grind [canon_settleOp, canon_modReq, canon_timeOutLane]
  | sig id =>
    unfold timeOutRef
    dsimp only
    split
    · refine canon_sendNotice ?_ _
      exact hc true
    · exact h
  | gath gid stream =>
    unfold timeOutRef
    dsimp only
    split
    · exact h
    · exact canon_gatherGive (canon_bump (hc false)) _ _

theorem keeps_execRequestTimeout (h : Canon s) (tag : Nat) : Keeps (execRequestTimeout tag s) := by
  refine Canon.next ?_
  grind [canon_releaseTag, canon_timeOutRef]

theorem keeps_execUnsentTimeout (h : Canon s) (req : Nat) : Keeps (execUnsentTimeout req s) := by
  refine Canon.next ?_
  split
  · exact h
  split
  · have h1 := canon_timeoutBar (canon_countTmo h false)
    grind [canon_dropLine, canon_modLine]
  split
  · exact canon_timeOutRef h _
  split
  · exact canon_foldl _ _ h fun _ _ hs => canon_timeOutRef hs _
  · exact h

theorem keeps_execTagQuarantineExpire (h : Canon s) (tag : Nat) : Keeps (execTagQuarantineExpire tag s) := by
  refine Canon.next ?_
  grind [canon_modFab]

theorem keeps_execPlaneEntrySwitch (h : Canon s) (entry : Nat) : Keeps (execPlaneEntrySwitch entry s) := by
  refine Canon.next ?_
  grind [canon_modFab]

theorem canon_rewriteEntries (h : Canon s) (q : Nat) : Canon (rewriteEntries s q) := by
  unfold rewriteEntries
  split
  · exact h
  · refine canon_foldl _ _ h fun s e hs => ?_
    split
    · exact canon_changePlane hs _ _
    · exact hs

theorem canon_modPort (h : Canon s) (p : Nat) (f : Port → Port) : Canon (modPort s p f) := h

theorem canon_startTraining (h : Canon s) (p attempt : Nat) (lanes : BitVec 4) : Canon (startTraining s p attempt lanes)
    := h

theorem keeps_execLinkFlitResend (h : Canon s) (port : Nat) : Keeps (execLinkFlitResend port s) := by
  refine Canon.next ?_
  grind [canon_bump, canon_modPort, canon_startTraining]

theorem keeps_execLinkRetrain (h : Canon s) (port : Nat) : Keeps (execLinkRetrain port s) := by
  refine Canon.next ?_
  grind [canon_startTraining]

theorem canon_portDown (h : Canon s) (p : Nat) (mine theirs : TrainResult) : Canon (portDown s p mine theirs) := by
  grind [portDown, canon_iff, canon_machineCheck, canon_checkReplace, canon_rewriteEntries, canon_modPort]

theorem canon_linkUp (h : Canon s) (p : Nat) (r : TrainResult) : Canon (linkUp s p r) := by
  grind [linkUp, canon_modFab, canon_modPort]

theorem keeps_execLinkTrainingBeat (h : Canon s) (port : Nat) (mine theirs : TrainResult) :
    Keeps (execLinkTrainingBeat port mine theirs s) := by
  refine Canon.next ?_
  grind [canon_startTraining, canon_portDown, canon_linkUp]

theorem keeps_execLaneShed (h : Canon s) (port : Nat) : Keeps (execLaneShed port s) := by
  refine Canon.next ?_
  grind [canon_modPort]

theorem keeps_execLaneRegain (h : Canon s) (port : Nat) : Keeps (execLaneRegain port s) := by
  refine Canon.next ?_
  grind [canon_modPort]

/-! ## The governor and the alarms -/

theorem canon_modPw (h : Canon s) (f : Power → Power) : Canon (modPw s f) := h

theorem canon_settleArrays (h : Canon s) : Canon (settleArrays s) := h

theorem canon_meetBallast (h : Canon s) : Canon (meetBallast s) := canon_foldl _ _ h fun _ _ hs => canon_meetAt hs _ _

theorem canon_launchBallast (h : Canon s) : Canon (launchBallast s) := by
  grind [launchBallast, canon_iff, canon_takeIn, canon_modPw, canon_meetBallast]

theorem canon_stopBallast (h : Canon s) : Canon (stopBallast s) := h

theorem canon_lend (h : Canon s) (k : Nat) : Canon (lend s k) := by
  grind [lend, canon_modPw]

theorem canon_governorStep (h : Canon s) : Canon (governorStep s) := by
  have h0 : Canon ((List.range 65).foldl meetCtx s) := canon_foldl _ _ h fun _ c hs => canon_meetCtx hs c
  unfold governorStep
  generalize (List.range 65).foldl meetCtx s = s0 at h0 ⊢
  refine canon_later ?_ _
  split
  · refine canon_launchBallast (canon_lend (canon_settleArrays ?_) _)
    exact h0
  · refine canon_stopBallast (canon_lend (canon_settleArrays ?_) _)
    exact h0

theorem keeps_execGovernorStep (h : Canon s) : Keeps (execGovernorStep s) := by
  refine Canon.next ?_
  grind [canon_governorStep]

theorem keeps_execPowerIntentSend (h : Canon s) : Keeps (execPowerIntentSend s) := by
  refine Canon.next ?_
  grind [canon_iff, canon_modPw]

theorem keeps_execPowerIntentReceive (h : Canon s) (m : Intent) : Keeps (execPowerIntentReceive m s) := by
  refine Canon.next ?_
  grind [canon_modPw]

theorem keeps_execLeaseReceive (h : Canon s) (alloc expires : BitVec 64) : Keeps (execLeaseReceive alloc expires s) :=
    by
  refine Canon.next ?_
  grind [canon_modPw]

theorem keeps_execLeaseExpire (h : Canon s) : Keeps (execLeaseExpire s) := by
  refine Canon.next ?_
  grind [canon_modPw]

theorem keeps_execPacingHintReceive (hs : Canon s) (slice : Nat) (h : BitVec 64) :
    Keeps (execPacingHintReceive slice h s) := by
  refine Canon.next ?_
  grind [canon_iff, canon_modSlice]

theorem keeps_execPacingExpire (h : Canon s) (core : Nat) : Keeps (execPacingExpire core s) := by
  refine Canon.next ?_
  grind [canon_modCore]

theorem keeps_execDroopAlarmRaise (h : Canon s) (core : Nat) : Keeps (execDroopAlarmRaise core s) := by
  refine Canon.next ?_
  grind [canon_modCore, canon_settleArrays]

theorem keeps_execDroopAlarmClear (h : Canon s) (core : Nat) : Keeps (execDroopAlarmClear core s) := by
  refine Canon.next ?_
  grind [canon_modCore, canon_settleArrays]

theorem keeps_execStorageAlarmRaise (h : Canon s) : Keeps (execStorageAlarmRaise s) := by
  refine Canon.next ?_
  grind [canon_modPw, canon_settleArrays]

theorem keeps_execStorageAlarmClear (h : Canon s) : Keeps (execStorageAlarmClear s) := by
  refine Canon.next ?_
  grind [canon_modPw, canon_settleArrays]

theorem keeps_execUndervoltWindowEnd (h : Canon s) (core : Nat) : Keeps (execUndervoltWindowEnd core s) := by
  refine Canon.next ?_
  grind [canon_modCore, canon_modIsle]

/-! ## Replay and degraded stacks -/

theorem canon_dropIssued (h : Canon s) (core gid first : Nat) : Canon (dropIssued s core gid first) := h

theorem canon_leaveBankQ (h : Canon s) (core gid : Nat) : Canon (leaveBankQ s core gid) := by
  grind [leaveBankQ, canon_modSlot]

theorem canon_replayOne (h : Canon s) (core named gid : Nat) : Canon (replayOne s core named gid) := by
  grind [replayOne, canon_iff, canon_modGroup, canon_dropIssued, canon_leaveBankQ]

theorem keeps_execTimingErrorReplay (h : Canon s) (core : Nat) : Keeps (execTimingErrorReplay core s) := by
  have h1 (gids : List Nat) (named : Nat) : Canon (gids.foldl (fun s gid => replayOne s core named gid) (bump s)) :=
    canon_foldl _ _ (canon_bump h) fun _ _ hs => canon_replayOne hs _ _ _
  have h3 {s : State} (hs : Canon s) : Canon ((List.range 4).foldl (fun s slot => settleBank s core slot) s) :=
    canon_foldl _ _ hs fun _ _ hs => canon_settleBank hs _ _
  refine Canon.next ?_
  extract_lets c named gids s1 s2 s3
  split
  · exact h
  · have h4 : Canon s3 := h3 (canon_modCore (h1 _ _) _ _)
    clear_value s3
    exact h4

theorem canon_dropGated (h : Canon s) (core : Nat) : Canon (dropGated s core) := h

theorem keeps_execLateTimingError (h : Canon s) (core : Nat) : Keeps (execLateTimingError core s) := by
  unfold execLateTimingError
  extract_lets c sids ctx s1 s2 s3
  have h1 : Canon s1 := canon_machineCheck (canon_dropGated (canon_bump h) _) _ _ _ _ _
  have h3 : Canon s3 := canon_foldl _ _ (canon_modCore h1 _ _) fun _ _ hs => canon_endSlice hs _ _
  refine Canon.next ?_
  split
  · exact h
  · exact canon_checkReplace ⟨h3.mem, h3.teams⟩

theorem canon_degrade (h : Canon s) (stack pch : Nat) : Canon (degrade s stack pch) := by
  grind [degrade, canon_iff, canon_modHbm, canon_machineCheck, canon_checkReplace]

theorem keeps_execStackDegraded (h : Canon s) (stack : Nat) : Keeps (execStackDegraded stack s) := by
  refine Canon.next ?_
  grind [canon_bump, canon_degrade]

/-! ## Pre-emption and restore -/

theorem canon_stackCount (h : Canon s) (x : Slice) : Canon (stackCount s x).1 := by
  grind [stackCount, canon_cpRead]

theorem canon_stackWrite (h : Canon s) (x : Slice) (i n : Nat) : Canon (stackWrite s x i n) := canon_cpWrite h _ _ _ _ _

theorem canon_topRecord (h : Canon s) (x : Slice) : Canon (topRecord s x).1 := by
  grind [topRecord, canon_cpRead, canon_stackCount]

theorem canon_pushRecord (h : Canon s) (x : Slice) (a : Nat) : Canon (pushRecord s x a) := by
  grind [pushRecord, canon_stackCount, canon_stackWrite]

theorem canon_recordWrite (h : Canon s) (x : Slice) (va : Nat) (bs : List Byte) : Canon (recordWrite s x va bs) :=
  canon_foldl _ _ h fun _ _ hs => canon_cpWrite hs _ _ _ _ _

theorem canon_writeRecord (h : Canon s) (x : Slice) (t : Team) (a : Nat) : Canon (writeRecord s x t a) := by
  refine canon_foldl _ _ ?_ fun _ _ hs => canon_recordWrite hs _ _ _
  exact h

theorem canon_saveOps (h : Canon s) (g : Group) : Canon (saveOps s g) := h

theorem canon_saveChosen (h : Canon s) (g : Group) : Canon (saveChosen s g) := h

theorem canon_saveWaits (h : Canon s) (g : Group) : Canon (saveWaits s g) := by
  grind [saveWaits, canon_saveOps, canon_saveChosen]

theorem canon_liftTeam (h : Canon s) (t : Team) (record : Nat) : Canon (liftTeam s t record) := by
  have h1 (f : Nat → Core → Core) : Canon ((t.cores.map TCore.phys).foldl (fun s c => modCore s c (f c)) s) :=
    canon_foldl _ _ h fun _ _ hs => canon_modCore hs _ _
  refine canon_modTeam ?_ _ _ fun tm ht => ?_
  · exact h1 _
  · intro c hc
    obtain ⟨x, hx, rfl⟩ := List.mem_map.1 hc
    exact ht x.1 (List.fst_mem_of_mem_zipIdx hx)

theorem canon_meetTeam (h : Canon s) (t : Team) : Canon (meetTeam s t) :=
  canon_foldl _ _ (canon_foldl _ _ h fun _ _ hs => canon_foldl _ _ hs fun _ _ hs => canon_meetPart hs _ _ _ _)
    fun _ _ hs => canon_meetRegs hs _ _

theorem canon_meetEntries (h : Canon s) (x : Slice) (t : Team) : Canon (meetEntries s x t) :=
  canon_foldl _ _ h fun _ _ hs => canon_meetArray6 hs _ _

theorem canon_saveTeam (h : Canon s) (x : Slice) (t : Team) : Canon (saveTeam s x t) := by
  grind [saveTeam, canon_stackWrite, canon_topRecord, canon_writeRecord, canon_liftTeam, canon_meetTeam]

theorem canon_settleSaved (h : Canon s) (sid : Nat) : Canon (settleSaved s sid) := by
  grind [settleSaved, canon_modSlice]

theorem keeps_execPreempt (h : Canon s) (slice : Nat) : Keeps (execPreempt slice s) := by
  refine Canon.next ?_
  split
  · exact h
  next x _ =>
  split
  · exact h
  have hc := canon_stackCount h x
  generalize stackCount s x = r at hc
  extract_lets ts
  split
  next s1 n =>
  split
  · exact canon_modSlice hc _ _
  extract_lets s2 s3 s4
  have h3 : Canon s3 := canon_foldl _ _ (canon_modSlice hc _ _) fun _ _ hs => canon_saveWaits hs _
  have h4 : Canon s4 := canon_foldl _ _ h3 fun _ _ hs => canon_meetEntries hs _ _
  split
  · split
    · exact h4
    · exact canon_settleSaved (canon_foldl _ _ h4 fun _ _ hs => canon_saveTeam hs _ _) _
  · exact h3

theorem canon_readPart (h : Canon s) (x : Slice) (va n : Nat) : Canon (readPart s x va n).1 := by
  grind [readPart, canon_cpRead]

theorem canon_loadRecord (h : Canon s) (x : Slice) (t : Team) : Canon (loadRecord s x t) := by
  refine canon_foldl _ _ (canon_foldl _ _ ?_ fun s c hs => ?_) fun s y hs => ?_
  · have hr := canon_readPart h x (t.record.toNat + 1280) 528
    split <;> rename_i heq <;> rw [heq] at hr
    · exact canon_modTeam hr _ _
    · exact hr
  · have hr := canon_readPart hs x (t.record.toNat + coreOff t c) (coreSection t - 512)
    split <;> rename_i heq <;> rw [heq] at hr
    · exact canon_modTCore hr _ _ _ fun c hc => TCore.canon_load hc _ _
    · exact hr
  · have hr := canon_readPart hs x (t.record.toNat + y.1) 96
    dsimp only
    split
    next heq _ _ =>
      rw [heq] at hr
      exact canon_modGroup hr _ _
    next heq _ =>
      rw [heq] at hr
      exact hr

theorem canon_restoreGroup (h : Canon s) (cores : List Nat) (g : Group) : Canon (restoreGroup s cores g) := h

theorem canon_resumePending (h : Canon s) (t : Team) (cores : List Nat) : Canon (resumePending s t cores) :=
  canon_foldl _ _ (canon_foldl _ _ h fun _ _ hs => canon_modCore hs _ _) fun _ _ hs => canon_modCore hs _ _

theorem canon_reloadTeam (h : Canon s) (t : Team) (cores : List Nat) : Canon (reloadTeam s t cores) := by
  refine canon_foldl _ _ h fun s x hs => ?_
  split
  · exact hs
  · exact canon_reloadLatch hs _ _ _

theorem canon_restoreOn (h : Canon s) (x : Slice) (t : Team) (cl : Nat) (ways : List (List Nat × List (List Nat))) :
    Canon (restoreOn s x t cl ways) := by
  unfold restoreOn
  extract_lets w s0 s1 put s2 s3 s4 s5
  have h1 : Canon s1 := canon_takeCores (canon_loadRecord (canon_bump (canon_meetCtx h _)) _ _) _ _
  have hp (t : Team) (ht : t.Canon) : (put t).Canon := by
    intro c hc
    obtain ⟨y, hy, rfl⟩ := List.mem_map.1 hc
    exact ht y.1 (List.of_mem_zip hy).1
  have h2 : Canon s2 := canon_ageGang (canon_modTeam h1 _ _ hp) _ _
  have h3 : Canon s3 := canon_foldl _ _ h2 fun _ _ hs => canon_restoreGroup hs _ _
  have h4 : Canon s4 := canon_dropFetch (canon_resumePending (canon_reloadTeam h3 _ _) _ _) _ _
  exact canon_performHeld (canon_modSlice (canon_pushRecord h4 _ _) _ _) _

theorem keeps_execContextRestore (h : Canon s) (team cluster : Nat) : Keeps (execContextRestore team cluster s) := by
  refine Canon.next ?_
  grind [canon_makeGang, canon_restoreOn]

/-! ## The host, resets and bring-up -/

theorem canon_modHost (h : Canon s) (f : HostIf → HostIf) : Canon (modHost s f) := h

theorem canon_takeGo (h : Canon s) : Canon (takeGo s) := by
  grind [takeGo, canon_raiseVector, canon_modHost]

theorem keeps_execHctlGo (h : Canon s) : Keeps (execHctlGo s) := by
  refine Canon.next ?_
  grind [canon_modHost, canon_takeGo]

theorem canon_giveVerdict (h : Canon s) (token : Nat) (fatal : Bool) : Canon (giveVerdict s token fatal) := h

theorem keeps_execSfqverdWrite (h : Canon s) (v : BitVec 64) : Keeps (execSfqverdWrite v s) := by
  refine Canon.next ?_
  grind [canon_giveVerdict]

theorem keeps_execSfqidxTailWrite (h : Canon s) (v : BitVec 64) : Keeps (execSfqidxTailWrite v s) := by
  refine Canon.next ?_
  grind [canon_sfqRelease, canon_modHost]

theorem keeps_execMcridxTailWrite (h : Canon s) (v : BitVec 64) : Keeps (execMcridxTailWrite v s) := by
  refine Canon.next ?_
  grind [canon_modHost]

theorem keeps_execBallstWrite (h : Canon s) (v : BitVec 64) : Keeps (execBallstWrite v s) := by
  refine Canon.next ?_
  grind [canon_modHost]

theorem canon_writeUntilGo (h : Canon s) (f : HostIf → HostIf) : Canon (writeUntilGo s f) := by
  grind [writeUntilGo, canon_modHost]

theorem canon_debugWrite (h : Canon s) (off : Nat) (v : Dword) : Canon (debugWrite s off v) := h

theorem keeps_execHostRegisterWrite (h : Canon s) (off : Nat) (v : BitVec 64) : Keeps (execHostRegisterWrite off v s) :=
    by
  refine Canon.next ?_
  grind [canon_writeUntilGo, canon_debugWrite]

theorem canon_performBarAtomic (h : Canon s) (acc : BarAccess) (a : BarAtomic) : Canon (performBarAtomic s acc a) := by
  grind [performBarAtomic, canon_iff, canon_meetKeys, canon_writeSector]

theorem canon_performBar (h : Canon s) (acc : BarAccess) : Canon (performBar s acc) := by
  unfold performBar
  extract_lets keys s1
  split
  · exact canon_foldl _ _ h fun _ _ hs => canon_writeSector hs _ _ _ _ _
  · exact canon_meetKeys h _

theorem keeps_execHostBar4Access (h : Canon s) (acc : BarAccess) : Keeps (execHostBar4Access acc s) := by
  refine Canon.next ?_
  grind [canon_modHost, canon_performBarAtomic, canon_performBar]

theorem canon_coldReset (h : Canon s) : Canon (coldReset s) := ⟨h.mem, by simp [coldReset, State.reset, ScratchOk]⟩

theorem canon_requestReset (h : Canon s) : Canon (requestReset s) := by
  grind [requestReset, canon_modHost, canon_coldReset]

theorem keeps_execHctlCrst (h : Canon s) : Keeps (execHctlCrst s) := by
  refine Canon.next ?_
  grind [canon_requestReset]

theorem keeps_execFreezeAssert (h : Canon s) : Keeps (execFreezeAssert s) := by
  refine Canon.next ?_
  grind [canon_raiseVector, canon_raiseAlert, canon_modHost]

theorem keeps_execFreezeRelease (h : Canon s) : Keeps (execFreezeRelease s) := by
  refine Canon.next ?_
  grind [canon_modHost, canon_coldReset]

theorem canon_bringIslands (h : Canon s) : Canon (bringIslands s) := h

theorem canon_bringStacks (h : Canon s) : Canon (bringStacks s) := by
  have h1 : Canon ((List.range 512).foldl (fun s i =>
      if Config.freeBool (s.fresh + i) then degrade s (i / 64) (i % 64) else s) s) := by
    refine canon_foldl _ _ h fun s i hs => ?_
    split
    · exact canon_degrade hs _ _
    · exact hs
  unfold bringStacks
  generalize List.foldl _ _ _ = u at h1 ⊢
  exact h1

theorem canon_bringRemaps (h : Canon s) : Canon (bringRemaps s) := by
  grind [bringRemaps, canon_iff, canon_checkReplace]

theorem canon_bringLinks (h : Canon s) : Canon (bringLinks s) := by
  refine canon_foldl _ _ h fun s p hs => ?_
  have h1 : Canon { s with fresh := s.fresh + 9 } := hs
  dsimp only
  split
  · exact canon_portDown h1 _ _ _
  · exact canon_linkUp h1 _ _

theorem keeps_execBringUpComplete (h : Canon s) : Keeps (execBringUpComplete s) := by
  refine Canon.next ?_
  grind [canon_iff, canon_checkReplace, canon_modHost, canon_takeGo, canon_bringIslands, canon_bringStacks,
    canon_bringRemaps, canon_bringLinks]

theorem canon_catchUp (h : Canon s) (n : Nat) : Canon (catchUp s n) := by
  cases n with
  | zero => exact h
  | succ n => exact canon_tick (s := { s with agenda := [] }) h

/-! ## Special functions -/

theorem canon_sfuOp (h : Canon s) (t : TI) (f : Sfu) : Canon (sfuOp s t f) := canon_laneOp h _ _ _

/-! ## Every instruction and every event, and the step -/

theorem keeps_exec (h : Canon s) (i : Instr) : Keeps (exec i s) := by
  cases i with
  | iadd t | isub t | imul t | imulh t | imin t | imax t | and t | or t | xor t | andn t | shl t | shr t | sar t
  | rot t | icmp t => exact (canon_lane2 h _ _ _).next
  | imad t | bfx t | bfi t | sad t | dp4 t => exact (canon_lane3 h _ _ _).next
  | iabs t | ineg t | popc t | clz t | ctz t | brev t | mov t | spmap t => exact (canon_lane1 h _ _ _).next
  | sel t | imad64 t | mov64 t | icmp64 t | ffma t | fmin t | fmax t | fcmp t | frnd t | fscale t | fclass t | upkb8 t
  | bscale t | ballot t | mpopc t | redux t | matchOp t => exact (canon_laneOp h _ _ _).next
  | iadd64 t | isub64 t => exact (canon_long2 h _ _).next
  | shl64 t | shr64 t | lea t => exact (canon_longShift h _ _).next
  | fadd t | fsub t | fmul t => exact (canon_float2 h _ _).next
  | hadd2 t | hmul2 t | hfma2 t => exact (canon_half2 h _ _).next
  | cvt t src | pkb8 t => exact (canon_laneOpSr h _ _ _ _).next
  | rcp t | rsq t | sqrt t | exp2 t | log2 t | sint t | cost t | tanh t => exact (canon_sfuOp h _ _).next
  | shflIdx t | shflUp t | shflDn t | shflXor t => exact (canon_shuffle h _ _).next
  | gadd t | gsub t | gmul t => exact (canon_groupArith h _ _).next
  | glog t | gshf t | gmov t | gcmp t | rdln t => exact (canon_groupOp h _ _).next
  | bra t | brc t | brp t | braAlw t => exact (canon_branch h _ _).next
  | call t | callr t => exact (canon_callOp h _ _ _ _).next
  | nop t => exact (canon_issueDone h _).next
  | tret t => exact (canon_returnFromTrap h _).next
  | ld t | st t | atom t | red t => exact (canon_globalAccess h _ _ _ _ _).next
  | lds t | sts t | ldsr t | stsr t | atoms t => exact (canon_scratchAccess h _ _ _ _ _ _ _).next
  | fence t | drain t => exact (canon_holdFibres h _ _).next
  | cpy t | cpyr t | cpyred t => exact (canon_copyOp h _ _).next
  | mxlw t | mxrow t | mxzero t | mxrd t | mxwr t | mxst t | mxflgRd t | mxflgClr t | mxflgOrr t =>
    exact (canon_mxIssue h _ _ _ _).next
  | ergc t | ergkIn t | ergkOut t | ergkRst t | ergkInv t | ergt t | ergmRd t | ergmWr t | ergmClr t | ergmDesc t =>
    exact (canon_ergIssue h _ _ _ _).next
  | scrbRow t | scrbQry t => exact (canon_scrbIssue h _ _).next
  | rspr t | tlbi t => exact (canon_systemHold h _ _ _ _ _).next
  | haltcHalt t | haltcResume t | haltcStep t => exact (canon_haltcIssue h _ _).next
  | cwrFstat t | cwrChecksb t => exact (canon_cwrIn h _ _).next
  | cwrSkipw t | cwrMxcad t | cwrPlane t | cwrUven t | cwrSiteal t | cwrSlew t | cwrPriced t | cwrCrwrej t
  | cwrFabstat t | cwrHealth t | cwrSpconf t => exact (canon_cwrOut h _ _).next
  | tokenRefill => exact (canon_tick h).next
  | memoryGrant op => exact (canon_memoryGrant h _).next
  | globalWritePerform op sector => exact (canon_writePerform h _ _).next
  | atomicPerform op => exact (canon_atomicPerform h _).next
  | scratchServiceCycle op => exact (canon_scratchService h _).next
  | gatherElementRead grp => exact (canon_gatherRead h _).next
  | barrierApply op => exact (canon_barrierApply h _).next
  | bwaitComplete op => exact (canon_bwaitComplete h _).next
  | bwaitBarfault op => exact (canon_bwaitBarfault h _).next
  | bwaitLimitExpire op => exact (canon_bwaitLimitExpire h _).next
  | drainEnd op => exact (canon_drainEnd h _).next
  | fenceEnd op => exact (canon_fenceEnd h _).next
  | copyLineFault line => exact (canon_copyFault h _).next
  | matrixOpStart core => exact (canon_mxStart h _).next
  | matrixRowComplete core => exact (canon_mxComplete h _).next
  | ergOpComplete core => exact (canon_ergComplete h _).next
  | mgmtAlertRead => exact (canon_modHost h _).next
  | coldReset => exact (canon_requestReset h).next
  | tbsyncPulse adjust => exact (canon_catchUp h _).next
  | powerGroupMemberListWrite members => exact (canon_modPw h _).next
  | vote t => exact keeps_execVote h t
  | gld t => exact keeps_execGld h t
  | mark t => exact keeps_execMark h t
  | join t => exact keeps_execJoin h t
  | ret t => exact keeps_execRet h t
  | exit t => exact keeps_execExit h t
  | fork t => exact keeps_execFork h t
  | yield t => exact keeps_execYield h t
  | trap t => exact keeps_execTrap h t
  | brk t => exact keeps_execBrk h t
  | pref t => exact keeps_execPref h t
  | gath t => exact keeps_execGath h t
  | qpop t => exact keeps_execQpop h t
  | binit t => exact keeps_execBinit h t
  | barvOne t => exact keeps_execBarvOne h t
  | barvEach t => exact keeps_execBarvEach h t
  | bexp t => exact keeps_execBexp h t
  | bwait t => exact keeps_execBwait h t
  | btest t => exact keeps_execBtest h t
  | brd t => exact keeps_execBrd h t
  | rbind t => exact keeps_execRbind h t
  | rfree t => exact keeps_execRfree h t
  | cpysig t => exact keeps_execCpysig h t
  | alwb t => exact keeps_execAlwb h t
  | alwr t => exact keeps_execAlwr h t
  | enq t => exact keeps_execEnq h t
  | budr t => exact keeps_execBudr h t
  | crd t => exact keeps_execCrd h t
  | cwr t => exact keeps_execCwr h t
  | crdStk t => exact keeps_execCrdStk h t
  | cwrStk t => exact keeps_execCwrStk h t
  | crdJs t => exact keeps_execCrdJs h t
  | cwrJs t => exact keeps_execCwrJs h t
  | crdTs t => exact keeps_execCrdTs h t
  | cwrTs t => exact keeps_execCwrTs h t
  | cwrSrseed t => exact keeps_execCwrSrseed h t
  | issueCycle core slot => exact keeps_execIssueCycle h core slot
  | loadDataReturn op => exact keeps_execLoadDataReturn h op
  | commitGateRelease core => exact keeps_execCommitGateRelease h core
  | copySectorLand line sector => exact keeps_execCopySectorLand h line sector
  | parkedIssueProceed grp => exact keeps_execParkedIssueProceed h grp
  | peerRequestReceive r => exact keeps_execPeerRequestReceive h r
  | portRequestDiscard r => exact keeps_execPortRequestDiscard h r
  | fabricReplyReceive r => exact keeps_execFabricReplyReceive h r
  | requestTimeout tag => exact keeps_execRequestTimeout h tag
  | unsentTimeout req => exact keeps_execUnsentTimeout h req
  | timeoutNoticeReceive fkey handle off => exact keeps_execTimeoutNoticeReceive h fkey handle off
  | tagQuarantineExpire tag => exact keeps_execTagQuarantineExpire h tag
  | flushMarkerReceive m => exact keeps_execFlushMarkerReceive h m
  | planeEntrySwitch entry => exact keeps_execPlaneEntrySwitch h entry
  | linkFlitResend port => exact keeps_execLinkFlitResend h port
  | linkRetrain port => exact keeps_execLinkRetrain h port
  | linkTrainingBeat port mine theirs => exact keeps_execLinkTrainingBeat h port mine theirs
  | laneShed port => exact keeps_execLaneShed h port
  | laneRegain port => exact keeps_execLaneRegain h port
  | governorStep => exact keeps_execGovernorStep h
  | powerIntentSend => exact keeps_execPowerIntentSend h
  | powerIntentReceive m => exact keeps_execPowerIntentReceive h m
  | leaseReceive alloc expires => exact keeps_execLeaseReceive h alloc expires
  | leaseExpire => exact keeps_execLeaseExpire h
  | pacingHintReceive slice hint => exact keeps_execPacingHintReceive h slice hint
  | pacingExpire core => exact keeps_execPacingExpire h core
  | droopAlarmRaise core => exact keeps_execDroopAlarmRaise h core
  | droopAlarmClear core => exact keeps_execDroopAlarmClear h core
  | storageAlarmRaise => exact keeps_execStorageAlarmRaise h
  | storageAlarmClear => exact keeps_execStorageAlarmClear h
  | undervoltWindowEnd core => exact keeps_execUndervoltWindowEnd h core
  | spareRowCopyStep bank => exact keeps_execSpareRowCopyStep h bank
  | timingErrorReplay core => exact keeps_execTimingErrorReplay h core
  | lateTimingError core => exact keeps_execLateTimingError h core
  | stackDegraded stack => exact keeps_execStackDegraded h stack
  | packetTakeIn ctx queue => exact keeps_execPacketTakeIn h ctx queue
  | teamPlace slice cluster => exact keeps_execTeamPlace h slice cluster
  | groupRetire grp => exact keeps_execGroupRetire h grp
  | preempt slice => exact keeps_execPreempt h slice
  | contextRestore team cluster => exact keeps_execContextRestore h team cluster
  | enqRetry op => exact keeps_execEnqRetry h op
  | ringPageRetry ctx => exact keeps_execRingPageRetry h ctx
  | hostNotifyWrite ctx queue widx => exact keeps_execHostNotifyWrite h ctx queue widx
  | hctlGo => exact keeps_execHctlGo h
  | hctlCrst => exact keeps_execHctlCrst h
  | sfqverdWrite v => exact keeps_execSfqverdWrite h v
  | sfqidxTailWrite v => exact keeps_execSfqidxTailWrite h v
  | mcridxTailWrite v => exact keeps_execMcridxTailWrite h v
  | ballstWrite v => exact keeps_execBallstWrite h v
  | hostRegisterWrite off v => exact keeps_execHostRegisterWrite h off v
  | hostBar4Access acc => exact keeps_execHostBar4Access h acc
  | bringUpComplete => exact keeps_execBringUpComplete h
  | freezeAssert => exact keeps_execFreezeAssert h
  | freezeRelease => exact keeps_execFreezeRelease h
  | thermtrip => exact (canon_raiseAlert (canon_modHost h _)).next

/-- A step runs the instruction that it fetches, or its trap; or the first event of the agenda; or the event at hand. -/
theorem keeps_step (h : Canon s) : Keeps (step s) := by
  unfold step
  split
  · split
    · exact keeps_fault _
    · split
      · exact keeps_exec h _
      · exact (canon_takeTrap h _ _).next
  · split
    next i is _ =>
      split
      · refine keeps_exec ?_ i
        exact h
      · refine Canon.next ?_
        exact h
    · exact keeps_exec (canon_bump h) _

/-- Settles O59: canonical memory is kept by every instruction and event, so by every step. -/
theorem everyStepKeepsMemoryCanonical : Obligations.EveryStepKeepsMemoryCanonical :=
  ⟨fun i _ u hm hs => keeps_exec ⟨hm, hs⟩ i u, fun _ u hm hs => keeps_step ⟨hm, hs⟩ u⟩

end Sys2Proof.Machine

/-! SUPPORT. Writes of control registers (R401) and the commit gate that those outside the group pass (R418). At the gate,
COMMIT_GATE_RELEASE first drops the records that a replay cannot reach any more; so each write is shown not to look at them
(`KeepsAlike`), and an operation that ends there ends as on the state with all its records. -/

namespace Sys2Proof.Machine

open Sys2Proof.Safety

/-! ## Entries of lists -/

/-- A change of one entry reads through a projection that commutes with it. -/
theorem map_modNth {α β : Type} (p : α → β) (f : α → α) (f' : β → β) (h : ∀ x, p (f x) = f' (p x)) :
    ∀ (xs : List α) (n : Nat), (modNth xs n f).map p = modNth (xs.map p) n f'
  | [], _ => rfl
  | x :: xs, 0 => by simp [modNth, h]
  | x :: xs, n + 1 => by simp [modNth, map_modNth p f f' h xs n]

/-- A projection that does not see a change of one entry does not see it in the list. -/
theorem map_modNth_unseen {α β : Type} (p : α → β) (f : α → α) (h : ∀ x, p (f x) = p x) :
    ∀ (xs : List α) (n : Nat), (modNth xs n f).map p = xs.map p
  | [], _ => rfl
  | x :: xs, 0 => by simp [modNth, h]
  | x :: xs, n + 1 => by simp [modNth, map_modNth_unseen p f h xs n]

/-- Reading an entry of a list that is seen through a projection. -/
theorem nth_map {α β : Type} (p : α → β) (d : α) : ∀ (xs : List α) (n : Nat), nth (p d) (xs.map p) n = p (nth d xs n)
  | [], _ => rfl
  | _ :: _, 0 => rfl
  | _ :: xs, n + 1 => nth_map p d xs n

/-- Two changes of one entry are one. -/
theorem modNth_modNth {α : Type} (f g : α → α) :
    ∀ (xs : List α) (n : Nat), modNth (modNth xs n f) n g = modNth xs n fun x => g (f x)
  | [], _ => rfl
  | _ :: _, 0 => rfl
  | x :: xs, n + 1 => by simp [modNth, modNth_modNth f g xs n]

theorem nth_eq_getD {α : Type} (d : α) : ∀ (xs : List α) (n : Nat), nth d xs n = xs.getD n d
  | [], _ => by simp [nth]
  | _ :: _, 0 => rfl
  | x :: xs, n + 1 => by simpa [nth] using nth_eq_getD d xs n

theorem setNth_eq_set {α : Type} (y : α) : ∀ (xs : List α) (n : Nat), setNth xs n y = xs.set n y
  | [], _ => rfl
  | _ :: _, 0 => rfl
  | x :: xs, n + 1 => by simp [setNth, setNth_eq_set y xs n]

/-! ## Passing the commit gate (R418) -/

/-- A core without its records for a replay. -/
def bareCore (k : Core) : Core := { k with hist := [] }

/-- Two states that differ at most in what the cores' records bring back at a replay. -/
structure AlikeButHist (s u : State) : Prop where
  rest : { u with cores := s.cores } = s
  cores : coresKept s u

theorem coresKept_iff (s u : State) : coresKept s u ↔ u.cores.map bareCore = s.cores.map bareCore := Iff.rfl

/-- States alike but for the records stay so when a core changes in a way that does not look at them. -/
theorem alikeButHist_modCore {s u : State} (h : AlikeButHist s u) (c : Nat) (f : Core → Core)
    (hf : ∀ k, bareCore (f k) = f (bareCore k)) : AlikeButHist (modCore s c f) (modCore u c f) := by
  obtain ⟨hr, hc⟩ := h
  rw [coresKept_iff] at hc
  refine ⟨congrArg (fun x : State => { x with cores := modNth s.cores c f }) hr, ?_⟩
  show (modNth u.cores c f).map bareCore = (modNth s.cores c f).map bareCore
  rw [map_modNth _ _ f hf, map_modNth _ _ f hf, hc]

/-- State `s` with core `c`'s records that are older than the gate's depth gone. -/
def gateAged (s : State) (c : Nat) : State :=
  modCore s c fun k => { k with hist := k.hist.filter fun h => decide (k.cyc < h.cyc + 4) }

theorem gateAged_alike (s : State) (c : Nat) : AlikeButHist s (gateAged s c) :=
  ⟨rfl, (coresKept_iff _ _).mpr (map_modNth_unseen bareCore _ (by intro k; rfl) s.cores c)⟩

/-- A core reads alike, its records apart. -/
theorem bareCore_getCore {s u : State} (h : coresKept s u) (c : Nat) :
    bareCore (getCore u c) = bareCore (getCore s c) := by
  unfold getCore
  rw [← nth_map bareCore, ← nth_map bareCore, (coresKept_iff s u).mp h]

@[simp] theorem gateHolds_gateAged (s : State) (c d cyc : Nat) : gateHolds (gateAged s c) d cyc = gateHolds s d cyc := by
  have hc : (getCore (gateAged s c) d).cyc = (getCore s d).cyc :=
    (congrArg Core.cyc (bareCore_getCore (gateAged_alike s c).cores d) :)
  simp only [gateHolds, hc]

@[simp] theorem getSlot_gateAged (s : State) (c d n : Nat) : getSlot (gateAged s c) d n = getSlot s d n := by
  have hs : (getCore (gateAged s c) d).slots = (getCore s d).slots :=
    (congrArg Core.slots (bareCore_getCore (gateAged_alike s c).cores d) :)
  simp only [getSlot, hs]

/-- A slot that holds no system bank has none to release. -/
theorem settleBank_of_none {s : State} {c n : Nat} (h : (getSlot s c n).bank = none) : settleBank s c n = s := by
  simp [settleBank, h]

/-- Slots that hold no system bank have none to release. -/
theorem settleBanks_of_none {s : State} {c : Nat} : ∀ ns : List Nat, (∀ n ∈ ns, (getSlot s c n).bank = none) →
    ns.foldl (fun s n => settleBank s c n) s = s
  | [], _ => rfl
  | n :: ns, h => by
    rw [List.foldl_cons, settleBank_of_none (h n (by simp))]
    exact settleBanks_of_none ns fun k hk => h k (by simp [hk])

/-- The one operation at the gate of a core passes it. -/
theorem exec_commitGateRelease_atGate {s : State} {c : Nat} {o : Op} (h : AtGate s c o) :
    exec (.commitGateRelease c) s = .next (passGate (gateAged s c) o) := by
  obtain ⟨hop, hgated, hholds, hslots⟩ := h
  have hbanks : (List.range 4).foldl (fun s n => settleBank s c n) (gateAged s c) = gateAged s c :=
    settleBanks_of_none _ fun n hn => by simpa using hslots n (by simpa using hn)
  have hpass : ((gateAged s c).ops.filter fun p =>
      p.core == c && gated p.i && !gateHolds (gateAged s c) c p.cyc) = [o] := by
    show (s.ops.filter fun p => p.core == c && gated p.i && !gateHolds (gateAged s c) c p.cyc) = [o]
    rw [show (fun p : Op => p.core == c && gated p.i && !gateHolds (gateAged s c) c p.cyc) =
      fun p => !gateHolds s c p.cyc && (p.core == c && gated p.i) from funext fun p => by
        rw [gateHolds_gateAged, Bool.and_comm], ← List.filter_filter, hgated]
    simp [hholds]
  have hget : getOp (gateAged s c) o.id = some o := hop
  show Host.Outcome.next ((fun u : State => (u.ops.filter fun p =>
    p.core == c && gated p.i && !gateHolds u c p.cyc).foldl _ u) (List.foldl _ (gateAged s c) (List.range 4))) = _
  rw [hbanks]
  show Host.Outcome.next (List.foldl _ _ (List.filter _ (gateAged s c).ops)) = _
  rw [hpass, List.foldl_cons, List.foldl_nil, hget]

/-! ## The end of a held operation -/

/-- A change of a group since an operation changes of the cores their records alone. -/
theorem modGroupSince_coresKept (s : State) (gid id : Nat) (f : Group → Group) :
    (modGroupSince s gid id f).cores.map bareCore = s.cores.map bareCore := by
  unfold modGroupSince
  split
  · rfl
  · split
    · rfl
    · exact map_modNth_unseen bareCore _ (by intro k; rfl) s.cores _

/-- State `x` with the operations, the groups and the cores of `u`. -/
def besidesOf (u x : State) : State := { x with ops := u.ops, groups := u.groups, cores := u.cores }

theorem modGroupSince_besides (u s : State) (gid id : Nat) (f : Group → Group) :
    besidesOf u (modGroupSince s gid id f) = besidesOf u s := by
  unfold modGroupSince
  split
  · rfl
  · split <;> rfl

theorem getGroup_modGroupSince (s : State) (gid id k : Nat) (f : Group → Group) :
    getGroup (modGroupSince s gid id f) k = getGroup (modGroup s gid f) k := by
  simp only [getGroup, modGroupSince_groups, modGroup]

/-- The operations but one: that one is gone, the others stand. -/
theorem opGone_filter {s u : State} {id : Nat} (h : u.ops = s.ops.filter fun o => o.id != id) : opGone s u id := by
  unfold opGone getOp
  rw [h]
  refine ⟨by simp, fun k hk => ?_⟩
  rw [List.find?_filter]
  congr 1
  funext o
  by_cases ho : o.id = k <;> simp [ho, hk]

theorem endHold_besides (u p : State) (o : Op) (ws : List Word) : besidesOf u (endHold p o ws) = besidesOf u p := by
  unfold endHold passOp landRegs
  rw [modGroupSince_besides, modGroupSince_besides]
  rfl

theorem endHold_coresKept (p : State) (o : Op) (ws : List Word) :
    (endHold p o ws).cores.map bareCore = p.cores.map bareCore := by
  unfold endHold passOp landRegs
  rw [modGroupSince_coresKept, modGroupSince_coresKept]
  rfl

theorem endHold_ops (p : State) (o : Op) (ws : List Word) :
    (endHold p o ws).ops = p.ops.filter fun x => x.id != o.id := by
  simp only [endHold, landRegs, passOp_ops, modGroupSince_ops, dropOp]

/-- Writing registers keeps the handle of the group. -/
theorem writes_id (ws : List (Dst × Word)) (g : Group) : (g.writes ws).id = g.id :=
  (congrArg Group.id (bareGroup_writes ws g) :)

theorem getGroup_endHold_other (p : State) (o : Op) (ws : List Word) (k : Nat) (hk : k ≠ o.grp) :
    getGroup (endHold p o ws) k = getGroup p k := by
  unfold endHold passOp landRegs
  rw [getGroup_modGroupSince, getGroup_modGroup_other _ _ _ _ hk (by intro x; rfl), getGroup_modGroupSince,
    getGroup_modGroup_other _ _ _ _ hk (writes_id _)]
  rfl

theorem getGroup_endHold_same (p : State) (o : Op) (ws : List Word) (g : Group) (hg : getGroup p o.grp = some g) :
    getGroup (endHold p o ws) o.grp = some (stepOn (g.writes (o.dsts.zip ws)) o.carried o.i.len) := by
  have hland : getGroup (landRegs (dropOp p o.id) o (o.dsts.zip ws)) o.grp = some (g.writes (o.dsts.zip ws)) := by
    unfold landRegs
    rw [getGroup_modGroupSince]
    exact getGroup_modGroup_same _ _ _ _ hg (writes_id _)
  unfold endHold passOp
  rw [getGroup_modGroupSince]
  exact getGroup_modGroup_same _ _ _ _ hland fun _ => rfl

/-- An operation that has acted, the gate's state then being `u1` but for the cores' records, ends there. -/
theorem endsAtGate_of_endHold {s u1 p : State} {c : Nat} {o : Op} (ws : List Word)
    (hexec : exec (.commitGateRelease c) s = .next (endHold p o ws)) (hops : p.ops = s.ops)
    (halike : AlikeButHist u1 p) : EndsAtGate s c o ws u1 := by
  obtain ⟨hrest, hcores⟩ := halike
  have hget : ∀ k, getGroup p k = getGroup u1 k := fun k => (congrArg (fun x => getGroup x k) hrest :)
  refine ⟨_, hexec, ?_, ?_, opGone_filter (by rw [endHold_ops, hops]), ?_, ?_⟩
  · calc besidesOf u1 (endHold p o ws)
      _ = besidesOf u1 p := endHold_besides u1 p o ws
      _ = u1 := (congrArg (besidesOf u1) hrest :)
  · rw [coresKept_iff, endHold_coresKept]
    exact hcores
  · intro k hk
    rw [getGroup_endHold_other _ _ _ _ hk, hget]
  · intro g hg
    exact getGroup_endHold_same p o ws g (by rw [hget, hg])

/-! ## Changes that do not look at the records for a replay -/

/-- A change of the state takes states alike but for the cores' records to such states. -/
def KeepsAlike (f : State → State) : Prop := ∀ s u, AlikeButHist s u → AlikeButHist (f s) (f u)

/-- A change that neither looks at the cores nor changes them. -/
theorem keepsAlike_of_besideCores {f : State → State} (hf : ∀ s C, f { s with cores := C } = { f s with cores := C }) :
    KeepsAlike f := by
  intro s u ⟨hrest, hcores⟩
  have hs : f s = { f s with cores := s.cores } := hf s s.cores
  have hu : f u = { f s with cores := u.cores } := by
    rw [← hf s u.cores, ← hrest]
  have hsc : (f s).cores = s.cores := (congrArg State.cores hs :)
  have huc : (f u).cores = u.cores := (congrArg State.cores hu :)
  refine ⟨?_, ?_⟩
  · rw [hu]
  · rw [coresKept_iff, hsc, huc]
    exact hcores

theorem keepsAlike_id : KeepsAlike fun s => s := fun _ _ h => h

theorem keepsAlike_modCore (c : Nat) (f : Core → Core) (hf : ∀ k, bareCore (f k) = f (bareCore k)) :
    KeepsAlike fun s => modCore s c f := fun _ _ h => alikeButHist_modCore h c f hf

theorem keepsAlike_rejectWrite (g : Group) (n : Nat) : KeepsAlike fun s => rejectWrite s g n :=
  keepsAlike_of_besideCores fun _ _ => rfl

theorem keepsAlike_expertWrite (g : Group) (n x lo hi : Nat) {f : State → State} (hf : KeepsAlike f) :
    KeepsAlike fun s => expertWrite s g n x lo hi f := by
  intro s u h
  unfold expertWrite
  split
  · exact hf s u h
  · exact keepsAlike_rejectWrite g n s u h

theorem keepsAlike_modSliceOf (g : Group) (f : Slice → Slice) : KeepsAlike fun s => modSliceOf s g f :=
  keepsAlike_of_besideCores fun s C => by
    show modSliceOf { s with cores := C } g f = _
    unfold modSliceOf
    rw [show sliceOf { s with cores := C } g = sliceOf s g from rfl]
    split <;> rfl

/-! ## The cadence of an array (R145) -/

/-- Cores with the same queues of the engines. -/
def SameQueues (s : State) (cs : List Core) : Prop :=
  ∀ d, (nth Core.reset cs d).mxq = (getCore s d).mxq ∧ (nth Core.reset cs d).ergq = (getCore s d).ergq

theorem engineRanges_sameQueues {s : State} {cs : List Core} (h : SameQueues s cs) (gid id : Nat) :
    engineRanges { s with cores := cs } gid id = engineRanges s gid id := by
  unfold engineRanges
  rw [show getGroup { s with cores := cs } gid = getGroup s gid from rfl]
  split
  · rfl
  · next g _ =>
    obtain ⟨hm, he⟩ := h g.core
    simp only [show getCore { s with cores := cs } g.core = nth Core.reset cs g.core from rfl, hm, he]

theorem engineHolds_sameQueues {s : State} {cs : List Core} (h : SameQueues s cs) (o : Op) (q : Req) :
    engineHolds { s with cores := cs } o q = engineHolds s o q := by
  unfold engineHolds
  simp only [engineRanges_sameQueues h]
  rfl

theorem engineHeld_sameQueues {s : State} {cs : List Core} (h : SameQueues s cs) (c tm id : Nat) :
    engineHeld { s with cores := cs } c tm id = engineHeld s c tm id := by
  unfold engineHeld engineWaited
  simp only [engineHolds_sameQueues h]
  rfl

theorem mxBytesFree_sameQueues {s : State} {cs : List Core} (h : SameQueues s cs) (c : Nat) (q : MxOp) :
    mxBytesFree { s with cores := cs } c q = mxBytesFree s c q := by
  unfold mxBytesFree
  rw [show (getCore { s with cores := cs } c).ergq = (getCore s c).ergq from (h c).2]
  rfl

/-- Whether a row pass goes on in an array depends on the queues of the engines alone. -/
theorem rowMoves_sameQueues {s : State} {cs : List Core} (h : SameQueues s cs) (c : Nat) :
    rowMoves { s with cores := cs } c = rowMoves s c := by
  unfold rowMoves mxReady
  rw [show (getCore { s with cores := cs } c).mxq = (getCore s c).mxq from (h c).1]
  simp only [engineHeld_sameQueues h, mxBytesFree_sameQueues h]

theorem sameQueues_modNth (s : State) (c : Nat) (f : Core → Core) (hm : ∀ k, (f k).mxq = k.mxq)
    (he : ∀ k, (f k).ergq = k.ergq) : SameQueues s (modNth s.cores c f) := by
  intro d
  by_cases hd : c = d
  · subst hd
    by_cases hl : c < s.cores.length
    · rw [nth_modNth_same _ _ _ _ hl]
      exact ⟨hm _, he _⟩
    · rw [modNth_beyond _ _ _ (by omega)]
      exact ⟨rfl, rfl⟩
  · rw [nth_modNth_other _ _ _ _ _ hd]
    exact ⟨rfl, rfl⟩

theorem rowMoves_alike {s u : State} (h : AlikeButHist s u) (c : Nat) : rowMoves u c = rowMoves s c := by
  obtain ⟨hrest, hcores⟩ := h
  have hq : SameQueues s u.cores := fun d =>
    have hb : bareCore (getCore u d) = bareCore (getCore s d) := bareCore_getCore hcores d
    ⟨(congrArg Core.mxq hb :), (congrArg Core.ergq hb :)⟩
  rw [← rowMoves_sameQueues hq, ← hrest]

/-- A core takes a cadence, at once where no row pass goes on. -/
def takeCadence (moves alarm : Bool) (x : Nat) (k : Core) : Core :=
  if moves then { k with cad := x } else { k with cad := x, cade := x, narrow := k.droop || alarm }

theorem writeMxcad_eq (s : State) (c : Nat) (x : Dword) : writeMxcad s c x =
    if 1 ≤ x.toNat % 32 ∧ x.toNat % 32 ≤ 16 then
      modCore s c (takeCadence (rowMoves s c) s.pw.storageAlarm (x.toNat % 32))
    else s := by
  unfold writeMxcad settleArray
  have hmoves : rowMoves (modCore s c fun k => { k with cad := x.toNat % 32 }) c = rowMoves s c :=
    rowMoves_sameQueues (sameQueues_modNth s c _ (by intro k; rfl) (by intro k; rfl)) c
  simp only [hmoves]
  unfold takeCadence
  cases rowMoves s c <;> simp [modCore, modNth_modNth]

theorem bareCore_takeCadence (moves alarm : Bool) (x : Nat) (k : Core) :
    bareCore (takeCadence moves alarm x k) = takeCadence moves alarm x (bareCore k) := by
  cases moves <;> rfl

theorem keepsAlike_writeMxcad (c : Nat) (x : Dword) : KeepsAlike fun s => writeMxcad s c x := by
  intro s u h
  have hp : u.pw = s.pw := (congrArg State.pw h.rest :)
  simp only [writeMxcad_eq, rowMoves_alike h, hp]
  split
  · exact alikeButHist_modCore h c _ (bareCore_takeCadence _ _ _)
  · exact h

/-! ## A write of a control register at the gate -/

theorem keepsAlike_writePlane (g : Group) (n : Nat) (x : Dword) : KeepsAlike fun s => writePlane s g n x := by
  intro s u h
  have hlive : planeLive u = planeLive s := (congrArg planeLive h.rest :)
  have hread : planeRead u = planeRead s := (congrArg planeRead h.rest :)
  simp only [writePlane, hlive, hread]
  split
  · split
    · exact h
    · exact keepsAlike_of_besideCores (f := fun s => changePlane s _ _) (fun _ _ => rfl) s u h
  · exact keepsAlike_rejectWrite g n s u h

theorem keepsAlike_cwrPlain (g : Group) (n : Nat) (x : Dword) : KeepsAlike fun s => cwrPlain s g n x := by
  unfold cwrPlain
  split
  · exact keepsAlike_modSliceOf g _
  · exact keepsAlike_modSliceOf g _
  · exact keepsAlike_modSliceOf g _
  · exact keepsAlike_expertWrite _ _ _ _ _ (keepsAlike_of_besideCores fun _ _ => rfl)
  · exact keepsAlike_of_besideCores fun _ _ => rfl
  · exact keepsAlike_of_besideCores fun _ _ => rfl
  · exact keepsAlike_expertWrite _ _ _ _ _ (keepsAlike_of_besideCores fun _ _ => rfl)
  · exact keepsAlike_expertWrite _ _ _ _ _ (keepsAlike_of_besideCores fun _ _ => rfl)
  · exact keepsAlike_modCore _ _ fun _ => rfl
  · exact keepsAlike_modCore _ _ fun _ => rfl
  · exact keepsAlike_expertWrite _ _ _ _ _ (keepsAlike_of_besideCores fun _ _ => rfl)
  · exact keepsAlike_id

theorem keepsAlike_cwrPerform (g : Group) (i : Instr) (x : Dword) : KeepsAlike fun s => cwrPerform s g i x := by
  unfold cwrPerform
  split
  · exact keepsAlike_cwrPlain _ _ _
  · exact keepsAlike_of_besideCores fun _ _ => rfl
  · exact keepsAlike_writeMxcad _ _
  · exact keepsAlike_writePlane _ _ _
  · exact keepsAlike_modCore _ _ fun _ => rfl
  · exact keepsAlike_expertWrite _ _ _ _ _ (keepsAlike_of_besideCores fun _ _ => rfl)
  · exact keepsAlike_expertWrite _ _ _ _ _ (keepsAlike_of_besideCores fun _ _ => rfl)
  · exact keepsAlike_expertWrite _ _ _ _ _ (by
      intro s u h; exact alikeButHist_modCore h _ _ fun _ => rfl)
  · split
    · exact keepsAlike_of_besideCores fun _ _ => rfl
    · exact keepsAlike_id
  · exact keepsAlike_of_besideCores fun _ _ => rfl
  · exact keepsAlike_of_besideCores fun _ _ => rfl
  · exact keepsAlike_modCore _ _ fun _ => rfl
  · exact keepsAlike_id

theorem modSliceOf_ops (s : State) (g : Group) (f : Slice → Slice) : (modSliceOf s g f).ops = s.ops := by
  unfold modSliceOf
  split <;> rfl

theorem expertWrite_ops (s : State) (g : Group) (n x lo hi : Nat) {f : State → State} (hf : (f s).ops = s.ops) :
    (expertWrite s g n x lo hi f).ops = s.ops := by
  unfold expertWrite
  split
  · exact hf
  · rfl

theorem writeMxcad_ops (s : State) (c : Nat) (x : Dword) : (writeMxcad s c x).ops = s.ops := by
  rw [writeMxcad_eq]
  split <;> rfl

theorem writePlane_ops (s : State) (g : Group) (n : Nat) (x : Dword) : (writePlane s g n x).ops = s.ops := by
  simp only [writePlane]
  split
  · split <;> rfl
  · rfl

theorem cwrPlain_ops (s : State) (g : Group) (n : Nat) (x : Dword) : (cwrPlain s g n x).ops = s.ops := by
  unfold cwrPlain
  split
  · exact modSliceOf_ops ..
  · exact modSliceOf_ops ..
  · exact modSliceOf_ops ..
  · exact expertWrite_ops _ _ _ _ _ _ rfl
  · rfl
  · rfl
  · exact expertWrite_ops _ _ _ _ _ _ rfl
  · exact expertWrite_ops _ _ _ _ _ _ rfl
  · rfl
  · rfl
  · exact expertWrite_ops _ _ _ _ _ _ rfl
  · rfl

/-- A write of a control register changes no operation. -/
theorem cwrPerform_ops (s : State) (g : Group) (i : Instr) (x : Dword) : (cwrPerform s g i x).ops = s.ops := by
  unfold cwrPerform
  split
  · exact cwrPlain_ops ..
  · rfl
  · exact writeMxcad_ops ..
  · exact writePlane_ops ..
  · rfl
  · exact expertWrite_ops _ _ _ _ _ _ rfl
  · exact expertWrite_ops _ _ _ _ _ _ rfl
  · exact expertWrite_ops _ _ _ _ _ _ rfl
  · split <;> rfl
  · rfl
  · rfl
  · rfl
  · rfl

/-- A held write of a control register passes the gate: it acts, and its fibres go on. -/
theorem passGate_of_isCwrOut {s : State} {o : Op} {g : Group} (hi : isCwrOut o.i = true)
    (hg : getGroup s o.grp = some g) : passGate s o = endHold (cwrPerform s g o.i (o.args.getD 0 0)) o [] := by
  unfold passGate
  split
  case h_8 => rw [if_pos hi, hg, nth_eq_getD]
  all_goals
    next h => rw [h] at hi; simp [isCwrOut] at hi

/-- A held write of a control register takes effect as it passes the commit gate. -/
theorem endsAtGate_cwr {s : State} {c : Nat} {o : Op} {g : Group} {i : Instr} {u : State} (h : AtGate s c o)
    (hg : getGroup s o.grp = some g) (hi : isCwrOut i = true) (hu : cwrPerform s g i (o.args.getD 0 0) = u) :
    o.i = i → EndsAtGate s c o [] u := by
  rintro rfl
  subst hu
  have hpass : passGate (gateAged s c) o = endHold (cwrPerform (gateAged s c) g o.i (o.args.getD 0 0)) o [] :=
    passGate_of_isCwrOut hi hg
  have hexec := exec_commitGateRelease_atGate h
  rw [hpass] at hexec
  exact endsAtGate_of_endHold [] hexec (cwrPerform_ops ..) (keepsAlike_cwrPerform g o.i _ s _ (gateAged_alike s c))

/-! ## What each register takes -/

theorem modSliceOf_eq (s : State) (g : Group) (f : Slice → Slice) : modSliceOf s g f =
    { s with slices := s.slices.map fun y => if (sliceOf s g).map Slice.id = some y.id then f y else y } := by
  unfold modSliceOf
  split
  · next x hx => simp only [hx, modSlice, Option.map_some, Option.some.injEq, beq_iff_eq, @eq_comm _ x.id]
  · next hx => simp [hx]

theorem modTeam_eq (s : State) (id : Nat) (f : Team → Team) : modTeam s id f =
    { s with teams := s.teams.map fun y => if y.id = id then f y else y } := by
  simp [modTeam]

theorem changePlane_eq (s : State) (e q : Nat) : changePlane s e q =
    { s with fab := { s.fab with
        pending := (e, q, s.fab.plane.getD e 0) :: s.fab.pending.filter fun y => y.1 != e } } := by
  simp only [changePlane, modFab, nth_eq_getD]

theorem writePlane_eq (s : State) (g : Group) (n : Nat) (x : Dword) : writePlane s g n x =
    if s.fab.dead.getLsbD (x.toNat % 8) then rejectWrite s g n
    else if planeRead s (n - 0x218) = x.toNat % 8 then s
    else
      { s with fab := { s.fab with
          pending := (n - 0x218, x.toNat % 8, s.fab.plane.getD (n - 0x218) 0) ::
            s.fab.pending.filter fun y => y.1 != n - 0x218 } } := by
  rw [← changePlane_eq]
  by_cases hdead : s.fab.dead.getLsbD (x.toNat % 8) = true <;> simp [writePlane, planeLive, hdead]

theorem cwrPlain_left (s : State) (g : Group) (x : Dword) {n : Nat} (hn : n = 0x004) : cwrPlain s g n x =
    modSliceOf s g fun y => { y with left := x } := by subst hn; rfl

theorem cwrPlain_deadl (s : State) (g : Group) (x : Dword) {n : Nat} (hn : n = 0x008) : cwrPlain s g n x =
    modSliceOf s g fun y => { y with deadl := x } := by subst hn; rfl

theorem cwrPlain_thand (s : State) (g : Group) (x : Dword) {n : Nat} (hn : n = 0x00E) : cwrPlain s g n x =
    modSliceOf s g fun y => { y with thand := x &&& 0x1FFFFFFFFFFFFFC } := by subst hn; rfl

theorem cwrPlain_agelim (s : State) (g : Group) (x : Dword) {n : Nat} (hn : n = 0x010) : cwrPlain s g n x =
    expertWrite s g n (x.toNat % 128) 1 64 fun s =>
      { s with agelim := s.agelim.set (g.core / 96) (x.toNat % 128) } := by
  subst hn
  simp only [← setNth_eq_set]
  rfl

theorem cwrPlain_ergta (s : State) (g : Group) (x : Dword) {n : Nat} (hn : n = 0x102) : cwrPlain s g n x =
    modTeam s g.team fun y => { y with ergta := BitVec.ofNat 32 (x.toNat % 2 ^ 31) } := by subst hn; rfl

theorem cwrPlain_ergtr (s : State) (g : Group) (x : Dword) {n : Nat} (hn : n = 0x103) : cwrPlain s g n x =
    modTeam s g.team fun y => { y with ergtr := BitVec.ofNat 32 (x.toNat % 2 ^ 31) } := by subst hn; rfl

theorem cwrPlain_rqtmo (s : State) (g : Group) (x : Dword) {n : Nat} (hn : n = 0x220) : cwrPlain s g n x =
    expertWrite s g n (x.toNat % 2 ^ 20) 1000 1000000 fun s =>
      { s with fab := { s.fab with rqtmo := x.toNat % 2 ^ 20 } } := by subst hn; rfl

theorem cwrPlain_shedt (s : State) (g : Group) (x : Dword) {n : Nat} (hn : n = 0x221) : cwrPlain s g n x =
    expertWrite s g n (x.toNat % 2 ^ 20) 5000 1000000 fun s =>
      { s with fab := { s.fab with shedt := x.toNat % 2 ^ 20 } } := by subst hn; rfl

theorem cwrPlain_priceix (s : State) (g : Group) (x : Dword) {n : Nat} (hn : n = 0x307) : cwrPlain s g n x =
    modCore s g.core fun k => { k with priceix := x.toNat % 256 } := by subst hn; rfl

theorem cwrPlain_cmpgrp (s : State) (g : Group) (x : Dword) {n : Nat} (hn : n = 0x30A) : cwrPlain s g n x =
    modCore s g.core fun k => { k with cmpgrp := x.getLsbD 0 } := by subst hn; rfl

theorem cwrPlain_errth (s : State) (g : Group) (x : Dword) {n : Nat} (hn : n = 0x401) : cwrPlain s g n x =
    expertWrite s g n (x.toNat % 16) 2 15 fun s =>
      { s with hbm := { s.hbm with errth := x.toNat % 16 } } := by subst hn; rfl

theorem cwrPerform_siteal (s : State) (g : Group) (x : Dword) {t : EI} (hn : t.h.crnum = 0x305) :
    cwrPerform s g (.cwrSiteal t) x = expertWrite s g t.h.crnum (x.toNat % 2 ^ 22) 200000 2400000 fun s =>
      { s with pw := { s.pw with siteal := x.toNat % 2 ^ 22 } } := by rw [hn]; rfl

theorem cwrPerform_slew (s : State) (g : Group) (x : Dword) {t : EI} (hn : t.h.crnum = 0x304) :
    cwrPerform s g (.cwrSlew t) x = expertWrite s g t.h.crnum (x.toNat % 2 ^ 9) 1 400 fun s =>
      { s with pw := { s.pw with slew := x.toNat % 2 ^ 9 } } := by rw [hn]; rfl

theorem cwrPerform_priced (s : State) (g : Group) (x : Dword) {t : EI} (hn : t.h.crnum = 0x308) :
    cwrPerform s g (.cwrPriced t) x = expertWrite s g t.h.crnum (x.toNat % 2 ^ 14) 0 8192 fun s =>
      modCore s g.core fun k =>
        { k with prices := (k.priceix, x.toNat % 2 ^ 14) :: k.prices.filter fun y => y.1 != k.priceix } := by
  rw [hn]; rfl

theorem cwrPerform_skipw (s : State) (g : Group) (x : Dword) (t : EI) : cwrPerform s g (.cwrSkipw t) x =
    modTeam s g.team fun y => { y with skip := y.skip.set (t.h.crnum - 0x140) x } := by
  simp only [← setNth_eq_set]
  rfl

theorem testBit_clearOnes (x : Dword) (lo k old j : Nat) :
    (clearOnes x lo k old).testBit j = (old.testBit j && !(decide (j < k) && x.getLsbD (lo + j))) := by
  simp only [clearOnes, Nat.testBit_xor, Nat.testBit_and, Nat.testBit_mod_two_pow, Nat.testBit_div_two_pow,
    BitVec.testBit_toNat, Nat.add_comm]
  cases old.testBit j <;> simp

/-! ## CWR at issue (R401) -/

/-- CWR raises its first failing check, in the order of R401, and otherwise `p` holds. -/
def CwrDoes (i : Instr) (t : EI) (s : State) (v : View) (p : Prop) : Prop :=
  (v.g.converged v.pc = false → exec i s = .next (takeTrap s 0x04 0)) ∧
  (v.g.converged v.pc = true → crAssigned t.h.crnum = false →
    exec i s = .next (takeTrap s 0x01 (fetchTval s v.g v.pc))) ∧
  (v.g.converged v.pc = true → crAssigned t.h.crnum = true → crMayWrite s v.g t.h.crnum = false →
    exec i s = .next (takeTrap s 0x09 (fetchTval s v.g v.pc))) ∧
  (v.g.converged v.pc = true → crAssigned t.h.crnum = true → crMayWrite s v.g t.h.crnum = true → p)

/-- The checks of CWR come before what it writes. -/
theorem cwrDoes_of_cwrOp {i : Instr} {t : EI} {s : State} {v : View} {p : Prop} {f : View → Dword → State}
    (hv : viewOf s = some v) (hexec : exec i s = .next (cwrOp s t f))
    (hp : exec i s = .next (f v (v.uni64 t.h t.b)) → p) : CwrDoes i t s v p := by
  rw [hexec] at hp
  simp only [CwrDoes, hexec]
  simp only [cwrOp, hv] at hp ⊢
  refine ⟨?_, ?_, ?_, ?_⟩
  · intro hc
    simp [hc]
  · intro hc ha
    simp [hc, ha]
  · intro hc ha hm
    simp [hc, ha, hm]
  · intro hc ha hm
    exact hp (by simp [hc, ha, hm])

theorem advance_eq_stepOn (g : Group) (m : Mask) (len : Nat) : g.advance m len = stepOn g m len := rfl

/-- The end of an issue that has written a register of its own group. -/
theorem issueDone_modGroup {s : State} {v : View} {f : Group → Group} (len : Nat) (hv : viewOf s = some v)
    (hf : ∀ g, (f g).id = g.id) : issueDone (modGroup s v.g.id f) len = afterWrite s v len f := by
  obtain ⟨-, hid, hcarried, -⟩ := viewOf_some hv
  have hgroup : ∀ g : Group, (if (if g.id == s.cur.grp then f g else g).id == s.cur.grp
      then (if g.id == s.cur.grp then f g else g).advance s.cur.mask len
      else if g.id == s.cur.grp then f g else g) = if g.id = s.cur.grp then stepOn (f g) s.cur.mask len else g := by
    intro g
    by_cases hg : g.id = s.cur.grp <;> simp [hg, hf, advance_eq_stepOn]
  unfold issueDone endIssue modGroup afterWrite
  simp only [List.map_map, Function.comp_def, hid, hcarried, hgroup]

/-- CWR of a register of the group itself. -/
theorem cwrDoes_cwrIn {i : Instr} {t : EI} {s : State} {v : View} {f : Dword → Group → Group}
    (hv : viewOf s = some v) (hexec : exec i s = .next (cwrIn s t f)) (hf : ∀ x g, (f x g).id = g.id) :
    CwrDoes i t s v (exec i s = .next (afterWrite s v t.h.len.bytes (f (v.uni64 t.h t.b)))) :=
  cwrDoes_of_cwrOp hv hexec fun h => by rw [h, issueDone_modGroup _ hv (hf _)]

/-- CWR of a register outside the group. -/
theorem cwrDoes_cwrOut {i : Instr} {t : EI} {s : State} {v : View} (hv : viewOf s = some v)
    (hexec : exec i s = .next (cwrOut s t i)) :
    CwrDoes i t s v (PutsInFlight i s v (opMade s v i (v.parts t.h) .active [] [v.uni64 t.h t.b] [] []) v.g) := by
  obtain ⟨hg, hid, -, -⟩ := viewOf_some hv
  refine cwrDoes_of_cwrOp hv hexec fun h => ⟨_, h, rfl, rfl, rfl, rfl, fun k _ => rfl, ?_⟩
  rw [hid]
  exact hg

/-- The registers that CWR writes at level U without the grant for experts (R29, R401). -/
theorem crMayWrite_user {s : State} {g : Group} (hs : levelS s g = false) (he : expertOf s g = false) (n : Nat) :
    crMayWrite s g n = true ↔
      n ∈ [0x000, 0x002, 0x003, 0x00E, 0x00F, 0x102, 0x103] ∨ (0x140 ≤ n ∧ n ≤ 0x17F) := by
  simp [crMayWrite, hs, he, crWriteU, or_assoc]

theorem modTrapRegs_eq (g : Group) (f : TrapSt → TrapSt) : g.modTrapRegs f =
    { g with st := f g.st, ut := if g.st.active = false ∧ g.ut.active = true then f g.ut else g.ut } := by
  simp [Group.modTrapRegs]

theorem cwrTrap_id (n : Nat) (x : Dword) (g : Group) : (cwrTrap n x g).id = g.id := by
  unfold cwrTrap
  split <;> rfl

/-- The trap registers are the group's own. -/
theorem exec_cwr_of_trap {t : EI} {s : State} (h : 0x00B ≤ t.h.crnum ∧ t.h.crnum ≤ 0x00D) :
    exec (.cwr t) s = .next (cwrIn s t (cwrTrap t.h.crnum)) := by
  show execCwr t s = _
  rw [execCwr, if_pos h]

theorem exec_cwr_of_outside {t : EI} {s : State} (h : t.h.crnum < 0x00B ∨ 0x00D < t.h.crnum) :
    exec (.cwr t) s = .next (cwrOut s t (.cwr t)) := by
  show execCwr t s = _
  rw [execCwr, if_neg (by omega)]

/-- CWR of a trap register, whose value is what `f` makes of the registers. -/
theorem cwrDoes_trap {t : EI} {s : State} {v : View} {f : TrapSt → TrapSt} (hv : viewOf s = some v)
    (h : 0x00B ≤ t.h.crnum ∧ t.h.crnum ≤ 0x00D)
    (hf : ∀ g, cwrTrap t.h.crnum (v.uni64 t.h t.b) g = g.modTrapRegs f) :
    CwrDoes (.cwr t) t s v (exec (.cwr t) s = .next (afterWrite s v t.h.len.bytes fun g =>
      { g with st := f g.st, ut := if g.st.active = false ∧ g.ut.active = true then f g.ut else g.ut })) := by
  have hdoes := cwrDoes_cwrIn hv (exec_cwr_of_trap (s := s) h) (cwrTrap_id _)
  simpa only [funext hf, modTrapRegs_eq] using hdoes

/-- CWR of SRSEED waits for a conversion of the group that has still to step (R97). -/
theorem exec_cwrSrseed_of_pending {t : EI} {s : State} {v : View} (hv : viewOf s = some v)
    (hp : srPending s v.g = true) : exec (.cwrSrseed t) s = .next { s with busy := false } := by
  show execCwrSrseed t s = _
  simp only [execCwrSrseed, hv, hp, if_true]
  rfl

/-- A group whose generators start again from a seed (R97). -/
def reseeded (v : View) (x : Dword) (g : Group) : Group :=
  { g with seed := x.lo, lanes := g.lanes.mapIdx fun i l => { l with gen := seedState x.lo v.teamNo g.grp i } }

theorem exec_cwrSrseed_of_idle {t : EI} {s : State} {v : View} (hv : viewOf s = some v)
    (hp : srPending s v.g = false) : exec (.cwrSrseed t) s = .next (cwrIn s t (reseeded v)) := by
  show execCwrSrseed t s = _
  simp only [execCwrSrseed, hv, hp]
  rfl

/-- A group whose FSTAT, that of its bank in a system handler, holds a value (R101). -/
def withFstat (x : Dword) (g : Group) : Group :=
  if g.st.active then { g with bfstat := x.setWidth 5 } else { g with fstat := x.setWidth 5 }

theorem withFstat_id (x : Dword) (g : Group) : (withFstat x g).id = g.id := by
  unfold withFstat
  split <;> rfl

/-- Settles O45: at issue each form answers as `cwrOp` does; at the gate it does what `cwrPerform` does, which does not look
at the records that COMMIT_GATE_RELEASE drops; a W1C field loses the bits written 1. -/
theorem controlRegisterWritesTakeEffectOrAreRejected : Obligations.ControlRegisterWritesTakeEffectOrAreRejected := by
  unfold Obligations.ControlRegisterWritesTakeEffectOrAreRejected
  refine ⟨fun t s v hv => ?_, fun s c o g t h hg => ?_, testBit_clearOnes⟩
  · let x : Dword := v.uni64 t.h t.b
    exact ⟨
      fun hs he => crMayWrite_user hs he _,
      fun hn => cwrDoes_cwrOut hv (exec_cwr_of_outside hn),
      fun hn => cwrDoes_trap (t := t) (f := fun r => { r with tcause := x &&& 0xFF01FF }) hv (by omega)
        fun g => by rw [hn]; rfl,
      fun hn => cwrDoes_trap (t := t) (f := fun r => { r with tepc := x &&& 0x1FFFFFFFFFFFFFF }) hv (by omega)
        fun g => by rw [hn]; rfl,
      fun hn => cwrDoes_trap (t := t) (f := fun r => { r with tval := x }) hv (by omega) fun g => by rw [hn]; rfl,
      exec_cwrSrseed_of_pending hv,
      fun hp => cwrDoes_cwrIn hv (exec_cwrSrseed_of_idle hv hp) fun _ _ => rfl,
      cwrDoes_cwrIn (f := withFstat) hv rfl withFstat_id,
      cwrDoes_cwrIn (f := fun x g => { g with checksb := x.getLsbD 0 }) hv rfl fun _ _ => rfl,
      cwrDoes_cwrOut hv rfl, cwrDoes_cwrOut hv rfl, cwrDoes_cwrOut hv rfl, cwrDoes_cwrOut hv rfl,
      cwrDoes_cwrOut hv rfl, cwrDoes_cwrOut hv rfl, cwrDoes_cwrOut hv rfl, cwrDoes_cwrOut hv rfl,
      cwrDoes_cwrOut hv rfl, cwrDoes_cwrOut hv rfl, cwrDoes_cwrOut hv rfl⟩
  · have ends {i : Instr} {u : State} (hi : isCwrOut i = true) (hu : cwrPerform s g i (o.args.getD 0 0) = u) :
        o.i = i → EndsAtGate s c o [] u := endsAtGate_cwr h hg hi hu
    exact ⟨
      fun hn => ends rfl ((cwrPlain_left s g _ hn).trans (modSliceOf_eq ..)),
      fun hn => ends rfl ((cwrPlain_deadl s g _ hn).trans (modSliceOf_eq ..)),
      fun hn => ends rfl ((cwrPlain_thand s g _ hn).trans (modSliceOf_eq ..)),
      fun hn => ends rfl (cwrPlain_agelim s g _ hn),
      fun hn => ends rfl ((cwrPlain_ergta s g _ hn).trans (modTeam_eq ..)),
      fun hn => ends rfl ((cwrPlain_ergtr s g _ hn).trans (modTeam_eq ..)),
      fun hn => ends rfl (cwrPlain_rqtmo s g _ hn),
      fun hn => ends rfl (cwrPlain_shedt s g _ hn),
      fun hn => ends rfl (cwrPlain_priceix s g _ hn),
      fun hn => ends rfl (cwrPlain_cmpgrp s g _ hn),
      fun hn => ends rfl (cwrPlain_errth s g _ hn),
      ends rfl ((cwrPerform_skipw s g _ t).trans (modTeam_eq ..)),
      ends rfl (writeMxcad_eq ..),
      ends rfl (writePlane_eq ..),
      ends rfl rfl,
      fun hn => ends rfl (cwrPerform_siteal s g _ hn),
      fun hn => ends rfl (cwrPerform_slew s g _ hn),
      fun hn => ends rfl (cwrPerform_priced s g _ hn),
      ends rfl rfl, ends rfl rfl, ends rfl rfl, ends rfl rfl⟩

end Sys2Proof.Machine

/-! SUPPORT. The shapes of groups, the registers that kernels declare, and fresh handles (R13, R17, R389, R417), and why every
step keeps them. A change of a group keeps its shape when it keeps the number of its lanes and registers; every change of a
state that this model makes goes through `modGroup`, `modGroupSince`, `modCore`, `modSlice`, `modOp` and a few lists built anew.
Each operation of the model has one lemma, `sound_` and its name, which follows from those of the operations it is made of. A
lemma proved by `h` itself says that its operation touches none of this. -/

namespace Sys2Proof.Machine

open Sys2Proof.Safety

-- One proof after the other: several hundred side by side would take more threads than memory has room for.
set_option Elab.async false

/-! ## The invariant -/

/-- A lane of the shape of R13 and R389. -/
def Lane.Shaped (l : Lane) : Prop := 64 ≤ l.rf.length ∧ l.bv.length = 64

/-- A group of the shape of R13 and R389. -/
def Group.Shaped (g : Group) : Prop :=
  g.lanes.length = 64 ∧ g.g.length = 24 ∧ g.bg.length = 24 ∧ ∀ l ∈ g.lanes, l.Shaped

/-- Every role of a kernel declares at least 64 registers (R17). -/
def Kernel.Roomy (k : Kernel) : Prop := ∀ r ∈ k.roles, 64 ≤ r.regs

/-- A slice's kernel, where it is read, is roomy. -/
def Slice.Roomy (x : Slice) : Prop := ∀ k, x.k = some k → k.Roomy

/-- Every record that a replay could go back to holds a group in shape (R417). -/
def Core.Sound (c : Core) : Prop := ∀ h ∈ c.hist, h.grp.Shaped

/-- Groups and what a replay could bring back are in shape, kernels are roomy, and every operation's handle is drawn. -/
def Sound (s : State) : Prop :=
  (∀ g ∈ s.groups, g.Shaped) ∧ (∀ c ∈ s.cores, c.Sound) ∧ (∀ x ∈ s.slices, x.Roomy) ∧ (∀ y ∈ s.rings, y.slice.Roomy) ∧
    ∀ o ∈ s.ops, o.id < s.nextId

/-- The answer, where it is a next state, is sound. -/
def KeepsSound (o : Host.Outcome State Fault Refusal) : Prop := ∀ u, o = .next u → Sound u

/-- A lane with as many registers has the shape. -/
theorem Lane.Shaped.keep {l m : Lane} (h : l.Shaped) (hr : m.rf = l.rf) (hb : m.bv = l.bv) : m.Shaped := by
  rw [Lane.Shaped, hr, hb]
  exact h

/-- A group with the lanes and registers of one in shape is in shape. -/
theorem Group.Shaped.keep {g u : Group} (h : g.Shaped) (hl : u.lanes = g.lanes) (hg : u.g = g.g) (hb : u.bg = g.bg) :
    u.Shaped := by
  rw [Group.Shaped, hl, hg, hb]
  exact h

theorem Slice.Roomy.keep {x y : Slice} (h : x.Roomy) (hk : y.k = x.k) : y.Roomy := by
  rw [Slice.Roomy, hk]
  exact h

theorem Core.Sound.keep {c d : Core} (h : c.Sound) (hh : d.hist = c.hist) : d.Sound := by
  rw [Core.Sound, hh]
  exact h

theorem Lane.shaped_iff (l : Lane) : laneShaped l = true ↔ l.Shaped := by
  simp [laneShaped, Lane.Shaped]

theorem Group.shaped_iff (g : Group) : groupShaped g = true ↔ g.Shaped := by
  simp [groupShaped, Group.Shaped, Lane.shaped_iff, and_assoc]

variable {s : State}

/-- The invariant is what the statement asks. -/
theorem sound_iff_ok : Sound s ↔ ShapesOk s ∧ KernelsOk s ∧ HandlesOk s := by
  simp only [Sound, ShapesOk, KernelsOk, HandlesOk, Core.Sound, Group.shaped_iff, Slice.Roomy, Kernel.Roomy, and_assoc]

theorem sound_iff : Sound s ↔ (∀ g ∈ s.groups, g.Shaped) ∧ (∀ c ∈ s.cores, c.Sound) ∧ (∀ x ∈ s.slices, x.Roomy) ∧
    (∀ y ∈ s.rings, y.slice.Roomy) ∧ ∀ o ∈ s.ops, o.id < s.nextId := Iff.rfl

theorem Sound.groups (h : Sound s) : ∀ g ∈ s.groups, g.Shaped := h.1
theorem Sound.cores (h : Sound s) : ∀ c ∈ s.cores, c.Sound := h.2.1
theorem Sound.slices (h : Sound s) : ∀ x ∈ s.slices, x.Roomy := h.2.2.1
theorem Sound.rings (h : Sound s) : ∀ y ∈ s.rings, y.slice.Roomy := h.2.2.2.1
theorem Sound.ops (h : Sound s) : ∀ o ∈ s.ops, o.id < s.nextId := h.2.2.2.2
theorem Sound.next (h : Sound s) : KeepsSound (.next s) := by rintro u ⟨⟩; exact h

theorem keepsSound_fault (r : Fault) : KeepsSound (.fault r) := fun _ h => nomatch h

/-- A group that a state holds is in shape. -/
theorem Sound.getGroup (h : Sound s) {id : Nat} {g : Group} (hg : getGroup s id = some g) : g.Shaped :=
  h.groups g (List.mem_of_find?_eq_some hg)

/-- The group of the issue in hand is in shape. -/
theorem Sound.viewOf (h : Sound s) {v : View} (hv : viewOf s = some v) : v.g.Shaped := by
  exact h.getGroup (viewOf_some hv).1

/-- A slice that a state holds is roomy. -/
theorem Sound.getSlice (h : Sound s) {id : Nat} {x : Slice} (hx : getSlice s id = some x) : x.Roomy :=
  h.slices x (List.mem_of_find?_eq_some hx)

/-- An operation that a state holds has a handle that was drawn. -/
theorem Sound.getOp (h : Sound s) {id : Nat} {o : Op} (ho : getOp s id = some o) : o.id < s.nextId :=
  h.ops o (List.mem_of_find?_eq_some ho)

/-! ## Lists, and operations done again and again -/

theorem sound_foldl {α : Type} (f : State → α → State) (xs : List α) (h : Sound s) (hf : ∀ s x, Sound s → Sound (f s x)) :
    Sound (xs.foldl f s) :=
  List.foldlRecOn xs f h fun s hs x _ => hf s x hs

theorem sound_foldl_fst {α β : Type} (f : State × β → α → State × β) (xs : List α) {a : State × β} (h : Sound a.1)
    (hf : ∀ a x, Sound a.1 → Sound (f a x).1) : Sound (xs.foldl f a).1 :=
  List.foldlRecOn xs f (motive := fun a => Sound a.1) h fun a ha x _ => hf a x ha

/-! ## The shape of a group -/

theorem Group.shaped_lanes {g : Group} (h : g.Shaped) {f : Nat → Lane → Lane} (hf : ∀ i l, l.Shaped → (f i l).Shaped) :
    ({ g with lanes := g.lanes.mapIdx f } : Group).Shaped := by
  obtain ⟨hl, hg, hb, ha⟩ := h
  refine ⟨by simpa using hl, hg, hb, fun l hm => ?_⟩
  obtain ⟨i, hi, rfl⟩ := List.mem_mapIdx.1 hm
  exact hf i _ (ha _ (List.getElem_mem hi))

theorem Group.shaped_modLanes {g : Group} (h : g.Shaped) (m : Mask) {f : Lane → Lane} (hf : ∀ l, l.Shaped → (f l).Shaped) :
    (g.modLanes m f).Shaped :=
  shaped_lanes h fun _ l hl => by split <;> [exact hf l hl; exact hl]

theorem Group.shaped_modLane {g : Group} (h : g.Shaped) (n : Nat) {f : Lane → Lane} (hf : ∀ l, l.Shaped → (f l).Shaped) :
    (g.modLane n f).Shaped := by
  obtain ⟨hl, hg, hb, ha⟩ := h
  exact ⟨by simpa [modLane] using hl, hg, hb, modNth_forall f hf g.lanes n ha⟩

theorem Group.shaped_advance {g : Group} (h : g.Shaped) (m : Mask) (len : Nat) : (g.advance m len).Shaped :=
  shaped_modLanes h m fun _ hl => hl.keep rfl rfl

theorem Lane.shaped_setStk {l : Lane} (h : l.Shaped) (x : Nat) (w : Word) : (l.setStk x w).Shaped := by
  simpa [Lane.Shaped, Lane.setStk] using h

theorem Group.shaped_store {g : Group} (h : g.Shaped) (d : Dst) (w : Word) : (g.store d w).Shaped := by
  have hb (l : Lane) (hl : l.Shaped) (x : Nat) :
      ({ l with bv := setNth l.bv (x - 65536) w, pois := l.pois.filter (· != x) } : Lane).Shaped := by
    simpa [Lane.Shaped] using hl
  cases d with
  | v l x =>
    dsimp only [store]
    split
    · exact shaped_modLane h l fun y hy => Lane.shaped_setStk hy x w
    · exact shaped_modLane h l fun y hy => hb y hy x
  | p l n =>
    dsimp only [store]
    split
    · exact h
    · split <;> exact shaped_modLane h l fun y hy => hy
  | g n =>
    obtain ⟨hl, hg, hb, ha⟩ := h
    dsimp only [store]
    split
    · exact ⟨hl, by simpa using hg, hb, ha⟩
    · exact ⟨hl, hg, by simpa using hb, ha⟩
  | gf b =>
    dsimp only [store]
    split <;> exact h

theorem Group.shaped_set {g : Group} (h : g.Shaped) (d : Dst) (w : Word) : (g.set d w).Shaped := by
  unfold set
  split <;> exact shaped_store h d w

theorem Group.shaped_writeFixed {g : Group} (h : g.Shaped) (cyc lat : Nat) (d : Dst) (w : Word) :
    (g.writeFixed cyc lat d w).Shaped := by
  unfold writeFixed
  split
  · exact shaped_set h d w
  · exact h

theorem Group.shaped_writesFixed {g : Group} (h : g.Shaped) (cyc lat : Nat) (ws : List (Dst × Word)) :
    (g.writesFixed cyc lat ws).Shaped := by
  induction ws generalizing g with
  | nil => exact h
  | cons x ws ih => exact ih (shaped_writeFixed h cyc lat x.1 x.2)

theorem Group.shaped_writes {g : Group} (h : g.Shaped) (ws : List (Dst × Word)) : (g.writes ws).Shaped := by
  induction ws generalizing g with
  | nil => exact h
  | cons x ws ih => exact ih (shaped_set h x.1 x.2)

theorem Group.shaped_orFstat {g : Group} (h : g.Shaped) (f : BitVec 5) : (g.orFstat f).Shaped := by
  unfold orFstat
  split <;> exact h

theorem Group.shaped_markFree {g : Group} (h : g.Shaped) (m : Mask) (pc : Dword) : (g.markFree m pc).Shaped := h

/-- The bank that a group enters has all its registers (R389). -/
theorem shaped_enterSystem {g : Group} (h : g.Shaped) (e : SysEntry) (shand : Dword) : (enterSystem g e shand).Shaped := by
  have hl := Group.shaped_lanes h (f := fun i (l : Lane) =>
    if e.set.has i then
      { l with sb := l.base, sp := l.preds, srb := none, bv := List.replicate 64 0, bp := 0, pc := shand
               pois := l.pois.filter (· < 65536) }
    else l) fun i l hl => by
      split
      · exact ⟨hl.1, List.length_replicate⟩
      · exact hl
  obtain ⟨hn, hg, -, ha⟩ := hl
  exact ⟨hn, hg, List.length_replicate, ha⟩

theorem shaped_enterUser {g : Group} (h : g.Shaped) (set : Mask) (thand : Dword) : (enterUser g set thand).Shaped :=
  Group.shaped_modLanes h _ fun _ hl => hl.keep rfl rfl

theorem shaped_recordUser {g : Group} (h : g.Shaped) (priv : Bool) (r : TrapSt) : (recordUser g priv r).Shaped := h

/-- A group at creation has the shape that its kernel asks for. -/
theorem Group.shaped_create (x : GroupSpec) (h : 64 ≤ x.regs) : (Group.create x).Shaped := by
  refine ⟨by simp [create], List.length_replicate, List.length_replicate, fun l hl => ?_⟩
  obtain ⟨i, -, rfl⟩ := List.mem_map.1 hl
  exact ⟨by simpa [Lane.create] using h, List.length_replicate⟩

/-! ## The named operations, and traps (Machine/Ops) -/

theorem sound_draw (h : Sound s) (k : Nat) : Sound { s with nextId := s.nextId + k } := by
  obtain ⟨hg, hc, hx, hr, ho⟩ := h
  exact ⟨hg, hc, hx, hr, fun o hm => Nat.lt_add_right k (ho o hm)⟩

theorem sound_modGroup (h : Sound s) (id : Nat) (f : Group → Group)
    (hf : ∀ g, g.Shaped → (f g).Shaped := by exact fun _ hg => hg.keep rfl rfl rfl) : Sound (modGroup s id f) := by
  obtain ⟨hg, hc, hx, hr, ho⟩ := h
  refine ⟨fun g hm => ?_, hc, hx, hr, ho⟩
  obtain ⟨g0, h0, rfl⟩ := List.mem_map.1 hm
  split
  · exact hf _ (hg _ h0)
  · exact hg _ h0

/-- A group replaced by one in shape. -/
theorem sound_putGroup (h : Sound s) (id : Nat) {g : Group} (hg : g.Shaped) : Sound (modGroup s id fun _ => g) :=
  sound_modGroup h id _ fun _ _ => hg

theorem sound_modCore (h : Sound s) (c : Nat) (f : Core → Core)
    (hf : ∀ k, k.Sound → (f k).Sound := by exact fun _ hk => hk.keep rfl) : Sound (modCore s c f) := by
  obtain ⟨hg, hc, hx, hr, ho⟩ := h
  exact ⟨hg, modNth_forall f hf s.cores c hc, hx, hr, ho⟩

theorem Core.sound_filter {c : Core} (h : c.Sound) (p : Hist → Bool) : ({ c with hist := c.hist.filter p } : Core).Sound :=
  fun x hx => h x (List.mem_of_mem_filter hx)

theorem sound_modGroupSince (h : Sound s) (gid id : Nat) (f : Group → Group)
    (hf : ∀ g, g.Shaped → (f g).Shaped := by exact fun _ hg => hg.keep rfl rfl rfl) : Sound (modGroupSince s gid id f) := by
  unfold modGroupSince
  split
  · exact sound_modGroup h gid f hf
  · split
    · exact h
    · refine sound_modCore (sound_modGroup h gid f hf) _ _ fun c hc y hy => ?_
      obtain ⟨y0, h0, rfl⟩ := List.mem_map.1 hy
      unfold Hist.patch
      split
      · exact hf _ (hc _ h0)
      · exact hc _ h0

theorem sound_modTeam (h : Sound s) (id : Nat) (f : Team → Team) : Sound (modTeam s id f) := h

theorem sound_modTCore (h : Sound s) (team core : Nat) (f : TCore → TCore) : Sound (modTCore s team core f) := h

theorem sound_mapSlices (h : Sound s) (f : Slice → Slice) (hf : ∀ x, x.Roomy → (f x).Roomy) :
    Sound { s with slices := s.slices.map f } := by
  obtain ⟨hg, hc, hx, hr, ho⟩ := h
  exact ⟨hg, hc, by simpa using fun x hm => hf x (hx x hm), hr, ho⟩

theorem sound_modSlice (h : Sound s) (id : Nat) (f : Slice → Slice)
    (hf : ∀ x, x.Roomy → (f x).Roomy := by exact fun _ hx => hx.keep rfl) : Sound (modSlice s id f) :=
  sound_mapSlices h _ fun x hx => by split <;> [exact hf x hx; exact hx]

theorem sound_mapOps (h : Sound s) (f : Op → Op) (hf : ∀ o, (f o).id = o.id) : Sound { s with ops := s.ops.map f } := by
  obtain ⟨hg, hc, hx, hr, ho⟩ := h
  exact ⟨hg, hc, hx, hr, by simpa [hf] using ho⟩

theorem sound_filterSlices (h : Sound s) (p : Slice → Bool) : Sound { s with slices := s.slices.filter p } := by
  obtain ⟨hg, hc, hx, hr, ho⟩ := h
  exact ⟨hg, hc, fun x hm => hx x (List.mem_of_mem_filter hm), hr, ho⟩

theorem sound_filterOps (h : Sound s) (p : Op → Bool) : Sound { s with ops := s.ops.filter p } := by
  obtain ⟨hg, hc, hx, hr, ho⟩ := h
  exact ⟨hg, hc, hx, hr, fun o hm => ho o (List.mem_of_mem_filter hm)⟩

theorem sound_modOp (h : Sound s) (id : Nat) (f : Op → Op)
    (hf : ∀ o, o.id = id → (f o).id = id := by exact fun _ ho => ho) : Sound (modOp s id f) :=
  sound_mapOps h _ fun o => by
    split
    next ho => rw [hf o (by simpa using ho), eq_comm]; simpa using ho
    · rfl

theorem sound_dropOp (h : Sound s) (id : Nat) : Sound (dropOp s id) := sound_filterOps h _

theorem sound_bump (h : Sound s) : Sound (bump s) := h

theorem sound_later (h : Sound s) (is : List Instr) : Sound (later s is) := h

theorem sound_sooner (h : Sound s) (is : List Instr) : Sound (sooner s is) := h

theorem sound_modSlot (h : Sound s) (core slot : Nat) (f : Slot → Slot) : Sound (modSlot s core slot f) :=
  sound_modCore h core _

theorem sound_modHbm (h : Sound s) (f : Hbm → Hbm) : Sound (modHbm s f) := h

theorem sound_cleanKeys (h : Sound s) (ks : List Nat) : Sound (cleanKeys s ks) := h

theorem sound_overwrite (h : Sound s) (ks : List Nat) : Sound (overwrite s ks) := by
  grind [overwrite, sound_modHbm]

theorem sound_deviceWrite (h : Sound s) (a : Nat) (bs : List Byte) : Sound (deviceWrite s a bs) := by
  have hw (ks : List Nat) (bs : List Byte) : Sound { s with mem := memSets s.mem ks bs } := h
  unfold deviceWrite
  dsimp only
  split
  · exact sound_overwrite (hw _ _) _
  · exact sound_cleanKeys (sound_overwrite (hw _ _) _) _

theorem sound_raiseVector (h : Sound s) (v : Nat) : Sound (raiseVector s v) := h

theorem sound_raiseAlert (h : Sound s) : Sound (raiseAlert s) := h

theorem sound_machineCheck (h : Sound s) (cls ctx island addr info : Nat) :
    Sound (machineCheck s cls ctx island addr info) := by
  grind [machineCheck, sound_iff, sound_deviceWrite, sound_raiseVector, sound_raiseAlert]

theorem sound_checkReplace (h : Sound s) : Sound (checkReplace s) := by
  grind [checkReplace, sound_iff, sound_raiseVector, sound_raiseAlert]

theorem sound_sfqWrite (h : Sound s) (e : List Byte) : Sound (sfqWrite s e) := by
  grind [sfqWrite, sound_iff, sound_deviceWrite, sound_raiseVector]

theorem sound_postReport (h : Sound s) (cause kind ctx flags : Nat) (asid : BitVec 16) (src : Nat) (addr : Dword) :
    Sound (postReport s cause kind ctx flags asid src addr) := by
  grind [postReport, sound_sfqWrite]

theorem sound_postWaiting (h : Sound s) (kind ctx flags : Nat) (asid : BitVec 16) (src : Nat) (addr : Dword) :
    Sound (postWaiting s kind ctx flags asid src addr).1 := by
  grind [postWaiting, sound_iff, sound_sfqWrite]

theorem sound_sfqRelease (h : Sound s) (n : Nat) : Sound (sfqRelease s n) := by
  induction n generalizing s with
  | zero => exact h
  | succ n ih =>
    unfold sfqRelease
    split
    · exact h
    · split
      · exact h
      · refine ih (sound_sfqWrite ?_ _)
        exact h

theorem sound_endIssue (h : Sound s) : Sound (endIssue s) := h

theorem sound_issueDone (h : Sound s) (len : Nat) : Sound (issueDone s len) :=
  sound_modGroup h _ _ fun _ hg => Group.shaped_advance hg _ _

theorem sound_endSlice (h : Sound s) (sid : Nat) (e : Ending) : Sound (endSlice s sid e) :=
  sound_modSlice h _ _ fun x hx => by split <;> exact hx

theorem sound_endSliceBy (h : Sound s) (sid gid since : Nat) (e : Ending) : Sound (endSliceBy s sid gid since e) :=
  sound_modSlice h _ _ fun x hx => by split <;> exact hx

theorem sound_commitGroup (h : Sound s) (g : Group) : Sound (commitGroup s g) :=
  sound_modCore h _ _ fun _ hc => Core.sound_filter hc _

theorem sound_requestBank (h : Sound s) (gid since : Nat) (e : SysEntry) : Sound (requestBank s gid since e) := by
  grind [requestBank, sound_modGroupSince, sound_modSlot, shaped_enterSystem, Group.Shaped]

theorem sound_mapCores (h : Sound s) (f : Core → Core) (hf : ∀ c, c.Sound → (f c).Sound := by exact fun _ hc => hc.keep rfl) :
    Sound { s with cores := s.cores.map f } := by
  obtain ⟨hg, hc, hx, hr, ho⟩ := h
  exact ⟨hg, by simpa using fun c hm => hf c (hc c hm), hx, hr, ho⟩

theorem sound_dropBankWrites (h : Sound s) (gid : Nat) : Sound (dropBankWrites s gid) :=
  sound_mapCores (sound_mapOps h _ fun o => by split <;> rfl) _

theorem sound_releaseBank (h : Sound s) (core slot : Nat) : Sound (releaseBank s core slot) := by
  unfold releaseBank
  dsimp only
  split
  · exact sound_modSlot h _ _ _
  · refine sound_modGroupSince (sound_modSlot h _ _ _) _ _ _ fun g hg => ?_
    split
    · exact hg
    · exact shaped_enterSystem hg _ _

theorem sound_handBack (h : Sound s) (gid core slot : Nat) : Sound (handBack s gid core slot) := by
  grind [handBack, sound_dropBankWrites, sound_releaseBank]

theorem sound_fenceLanes (h : Sound s) (gid since : Nat) (m : Mask) : Sound (fenceLanes s gid since m) :=
  sound_modGroupSince h _ _ _ fun _ hg => Group.shaped_modLanes hg _ fun _ hl => hl.keep rfl rfl

theorem sound_takeTrapSince (h : Sound s) (since gid : Nat) (set : Mask) (cause : Nat) (tepc tval : Dword)
    (paid : Bool) : Sound (takeTrapSince s since gid set cause tepc tval paid) := by
  unfold takeTrapSince
  extract_lets s0
  have h0 : Sound s0 := sound_fenceLanes h _ _ _
  split
  · exact h0
  next g _ =>
  split
  · exact h0
  next x _ =>
  split
  · exact h0
  split
  · exact sound_endSliceBy (sound_machineCheck (sound_commitGroup h0 _) _ _ _ _ _) _ _ _ _
  split
  · exact sound_requestBank h0 _ _ _
  split
  · exact sound_endSliceBy h0 _ _ _ _
  split
  · split
    · exact sound_modSlice h0 _ _
    · exact sound_endSliceBy h0 _ _ _ _
  extract_lets s1
  have h1 : Sound s1 := sound_modGroupSince h0 _ _ _ fun _ hg => Group.shaped_modLanes hg _ fun _ hl => hl.keep rfl rfl
  split
  · exact sound_requestBank (sound_modGroupSince h1 _ _ _) _ _ _
  · exact sound_modGroupSince h1 _ _ _ fun _ hg => shaped_enterUser hg _ _

theorem sound_takeTrapAt (h : Sound s) (gid : Nat) (set : Mask) (cause : Nat) (tepc tval : Dword) (paid : Bool) :
    Sound (takeTrapAt s gid set cause tepc tval paid) :=
  sound_takeTrapSince h _ _ _ _ _ _ _

theorem sound_takeTrap (h : Sound s) (cause : Nat) (tval : Dword) : Sound (takeTrap s cause tval) :=
  sound_endIssue (sound_takeTrapAt h _ _ _ _ _ _)

theorem sound_leaveSystem (h : Sound s) {g : Group} (hg : g.Shaped) (skip : Bool) : Sound (leaveSystem s g skip) := by
  unfold leaveSystem
  extract_lets pend thand st g1 g2
  have h1 : g1.Shaped := Group.shaped_lanes hg fun i l hl => by split <;> exact hl
  refine sound_handBack (sound_putGroup h _ ?_) _ _ _
  unfold g2
  split
  · exact shaped_enterUser h1 _ _
  · split <;> exact h1

theorem sound_leaveUser (h : Sound s) {g : Group} (hg : g.Shaped) (skip : Bool) : Sound (leaveUser s g skip) := by
  unfold leaveUser
  extract_lets ut g1
  have h1 : g1.Shaped := Group.shaped_lanes hg fun i l hl => by split <;> exact hl
  refine sound_putGroup h _ ?_
  split <;> exact h1

theorem sound_returnFromTrap (h : Sound s) (skip : Bool) : Sound (returnFromTrap s skip) := by
  unfold returnFromTrap
  extract_lets f
  have hf : Sound f := sound_fenceLanes h _ _ _
  split
  · exact h
  next g hg =>
  have hs : g.Shaped := hf.getGroup hg
  split
  · split
    · exact sound_endIssue (sound_leaveSystem hf hs skip)
    · exact sound_takeTrap h _ _
  · split
    · split
      · exact sound_endIssue (sound_leaveUser hf hs skip)
      · exact sound_takeTrap h _ _
    · exact sound_takeTrap h _ _

/-! ## Instructions of the lanes: integer, float, 64-bit, conversions -/

theorem Group.shaped_land {g : Group} (h : g.Shaped) (cyc lat : Nat) (rs : List LaneRes) : (g.land cyc lat rs).Shaped :=
  shaped_orFstat (shaped_writesFixed h _ _ _) _

theorem sound_laneOp (hs : Sound s) (h : Hdr) (lat : Nat) (f : View → Nat → LaneRes) : Sound (laneOp s h lat f) := by
  unfold laneOp
  split
  · exact hs
  · exact sound_issueDone (sound_modGroup hs _ _ fun _ hg => Group.shaped_land hg _ _ _) _

theorem sound_lane1 (h : Sound s) (t : TI) (lat : Nat) (f : Word → Word) : Sound (lane1 s t lat f) :=
  sound_laneOp h _ _ _

theorem sound_lane2 (h : Sound s) (t : TI) (lat : Nat) (f : Word → Word → Word) : Sound (lane2 s t lat f) :=
  sound_laneOp h _ _ _

theorem sound_lane3 (h : Sound s) (t : TI) (lat : Nat) (f : Word → Word → Word → Word) : Sound (lane3 s t lat f) :=
  sound_laneOp h _ _ _

theorem sound_float2 (h : Sound s) (t : TI) (f : FVal → FVal → FExact) : Sound (float2 s t f) := sound_laneOp h _ _ _

theorem sound_half2 (h : Sound s) (t : TI) (f : FVal → FVal → FVal → FExact) : Sound (half2 s t f) :=
  sound_laneOp h _ _ _

theorem sound_long2 (h : Sound s) (t : TI) (f : Dword → Dword → Dword) : Sound (long2 s t f) := sound_laneOp h _ _ _

theorem sound_longShift (h : Sound s) (t : TI) (f : Dword → Word → Dword) : Sound (longShift s t f) :=
  sound_laneOp h _ _ _

theorem sound_laneOpSr (hs : Sound s) (h : Hdr) (lat k : Nat) (f : View → Nat → LaneRes) :
    Sound (laneOpSr s h lat k f) := by
  unfold laneOpSr
  split
  · exact hs
  · exact sound_issueDone (sound_modGroup hs _ _ fun _ hg =>
      Group.shaped_modLanes (f := fun x => { x with gen := genSteps x.gen k }) (Group.shaped_land hg _ _ _) _
        fun _ hl => hl.keep rfl rfl) _

/-! ## Errors of cells, as reads meet them (R404 to R408) -/

theorem sound_modIsle (h : Sound s) (island : Nat) (f : Isle → Isle) : Sound (modIsle s island f) := h

theorem sound_tripIsland (h : Sound s) (island : Nat) : Sound (tripIsland s island) := by
  grind [tripIsland, sound_modCore, sound_modIsle, Core.Sound]

theorem sound_countIsland (h : Sound s) (island : Nat) : Sound (countIsland s island) := by
  grind [countIsland, sound_modCore, sound_modIsle, Core.Sound]

theorem sound_sramReport (h : Sound s) (island ctx array : Nat) : Sound (sramReport s island ctx array) := by
  grind [sramReport, sound_machineCheck, sound_tripIsland]

theorem sound_meetUnit (h : Sound s) (island array unit ctx : Nat) : Sound (meetUnit s island array unit ctx).1 := by
  grind [meetUnit, sound_iff, sound_countIsland, sound_sramReport]

theorem sound_countRow (h : Sound s) (hra n : Nat) : Sound (countRow s hra n) := by
  induction n generalizing s with
  | zero => exact h
  | succ n ih => exact ih h

theorem sound_requestRow (h : Sound s) (hra : Nat) : Sound (requestRow s hra) := h

theorem sound_poisonKeys (h : Sound s) (ks : List Nat) : Sound (poisonKeys s ks) := h

theorem sound_poisonCodeword (h : Sound s) (cw : Nat) : Sound (poisonCodeword s cw) := h

theorem sound_refillPoison (h : Sound s) (cw : Nat) : Sound (refillPoison s cw) := by
  grind [refillPoison, sound_bump, sound_poisonKeys]

theorem sound_meetCodeword (h : Sound s) (nc : Bool) (cw : Nat) : Sound (meetCodeword s nc cw) := by
  grind [meetCodeword, sound_bump, sound_machineCheck, sound_countRow, sound_requestRow, sound_poisonCodeword,
    sound_refillPoison]

theorem sound_meetL2 (h : Sound s) (secs : List (List Nat)) : Sound (meetL2 s secs) := by
  unfold meetL2
  split
  · exact h
  · refine sound_foldl _ secs h fun s sec hs => sound_foldl _ _ hs fun s e hs => ?_
    grind [sound_meetUnit, sound_poisonKeys]

theorem sound_meetCells (h : Sound s) (nc : Nat → Bool) (secs : List (List Nat)) : Sound (meetCells s nc secs) := by
  unfold meetCells
  dsimp only
  split
  · exact sound_meetL2 h secs
  · exact sound_foldl _ _ (sound_meetL2 h secs) fun s cw hs => sound_meetCodeword hs _ _

theorem sound_meetKeys (h : Sound s) (ks : List Nat) : Sound (meetKeys s ks) := sound_meetCells h _ _

theorem sound_meetAt (h : Sound s) (a n : Nat) : Sound (meetAt s a n) := by
  grind [meetAt, sound_meetKeys]

theorem sound_meetCtx (h : Sound s) (c : Nat) : Sound (meetCtx s c) := sound_meetAt h _ _

/-! ## Translation (R375 to R380): a walk sets A and D in memory -/

theorem sound_tlbAdd (h : Sound s) (asid : BitVec 16) (va L : Nat) (e : Nat) : Sound (tlbAdd s asid va L e) := h

theorem sound_ptrsAdd (h : Sound s) (asid : BitVec 16) (va : Nat) (nodes : List (Nat × Nat)) :
    Sound (ptrsAdd s asid va nodes) := h

theorem sound_walkMeet (h : Sound s) (va : Nat) (nodes : List (Nat × Nat)) : Sound (walkMeet s va nodes).1 := by
  induction nodes generalizing s with
  | nil => exact h
  | cons n nodes ih => grind [walkMeet, sound_meetAt]

theorem sound_translateWalk (h : Sound s) (asid : BitVec 16) (va : Nat) (k : Want) (L node : Nat) :
    Sound (translateWalk s asid va k L node).1 := by
  have hm := sound_walkMeet h va ((L, node) :: walkNodes s.mem va L node (5 - L))
  have hw {s : State} (hs : Sound s) (a : Nat) (bs : List Byte) : Sound { s with mem := memWrite s.mem a bs } :=
    hs
  unfold translateWalk
  grind [sound_ptrsAdd, sound_tlbAdd]

theorem sound_translate (h : Sound s) (root : Nat) (asid : BitVec 16) (lvlS : Bool) (va : Nat) (k : Want) :
    Sound (translate s root asid lvlS va k).1 := by
  grind [translate, sound_bump, sound_tlbAdd, sound_translateWalk]

theorem sound_translateRun (h : Sound s) (root : Nat) (asid : BitVec 16) (lvlS : Bool) (va : Nat) (k : Want) (n : Nat) :
    Sound (translateRun s root asid lvlS va k n).1 := by
  induction n generalizing s va with
  | zero => exact h
  | succ n ih => grind [translateRun, sound_translate]

theorem sound_readVa (h : Sound s) (root : Nat) (asid : BitVec 16) (lvlS : Bool) (va n : Nat) :
    Sound (readVa s root asid lvlS va n).1 := by
  grind [readVa, sound_meetKeys, sound_translateRun]

/-! ## Control flow (R285 to R308) -/

theorem sound_moveTo (h : Sound s) (f : View → Nat → Dword) : Sound (moveTo s f) := by
  unfold moveTo
  split
  · exact h
  · exact sound_endIssue (sound_modGroup h _ _ fun _ hg => Group.shaped_lanes hg fun i l hl => by split <;> exact hl.keep rfl rfl)

theorem sound_branch (hs : Sound s) (h : Hdr) (taken : View → Nat → Bool) : Sound (branch s h taken) :=
  sound_moveTo hs _

theorem sound_joinRefill (h : Sound s) (gid : Nat) : Sound (joinRefill s gid) := by
  unfold joinRefill
  split
  · exact h
  · split
    · exact h
    · dsimp only
      split
      · refine sound_modGroup (sound_foldl_fst _ _ h fun a i ha => ?_) _ _
        grind [sound_readVa]
      · refine sound_foldl_fst _ _ h fun a i ha => ?_
        grind [sound_readVa]

theorem Group.shaped_release {g : Group} (h : g.Shaped) (m : Mask) (t hold : Nat) : (g.release m t hold).Shaped :=
  shaped_modLanes h m fun l hl => by split <;> exact hl.keep rfl rfl

theorem sound_joinCheck (h : Sound s) (gid t hold fuel : Nat) : Sound (joinCheck s gid t hold fuel) := by
  induction fuel generalizing s with
  | zero => exact h
  | succ fuel ih =>
    unfold joinCheck
    split
    · exact h
    split
    · exact h
    next top rest _ =>
    split
    · exact h
    · have h1 : Sound (modGroup s gid fun g => { g.release top.park t hold with js := rest }) :=
        sound_modGroup h _ _ fun _ hg => Group.shaped_release hg _ _ _
      refine ih ?_
      split
      · exact sound_joinRefill h1 _
      · exact h1

theorem shaped_markOp {g u : Group} (h : g.Shaped) {m : Mask} {pc target : Dword} (hu : markOp g m pc target = .ok u) :
    u.Shaped := by
  grind [markOp, Group.Shaped]

theorem keepsSound_execMark (h : Sound s) (t : EI) : KeepsSound (execMark t s) := by
  refine Sound.next ?_
  split
  · exact h
  next v hv =>
  split
  · exact sound_takeTrap h _ _
  next g hg => exact sound_issueDone (sound_putGroup h _ (shaped_markOp (h.viewOf hv) hg)) _

theorem keepsSound_execJoin (h : Sound s) (_t : EI) : KeepsSound (execJoin _t s) := by
  refine Sound.next ?_
  split
  · exact h
  next v hv =>
  split
  · exact sound_takeTrap h _ _
  split
  · exact sound_takeTrap h _ _
  · refine sound_endIssue (sound_joinCheck (sound_putGroup h _ ?_) _ _ _ _)
    exact Group.shaped_modLanes (h.viewOf hv) _ fun _ hl => hl.keep rfl rfl

theorem sound_callOp (hs : Sound s) (h : Hdr) (k : Nat) (checks : View → List Check) (target : View → Nat → Dword) :
    Sound (callOp s h k checks target) := by
  unfold callOp
  split
  · exact hs
  dsimp only
  split
  · exact sound_takeTrap hs _ _
  · refine sound_endIssue (sound_modGroup hs _ _ fun _ hg => ?_)
    exact Group.shaped_lanes (Group.shaped_writes hg _) fun i l hl => by split <;> [skip; split] <;> exact hl.keep rfl rfl

theorem keepsSound_execRet (h : Sound s) (t : EI) : KeepsSound (execRet t s) := by
  refine Sound.next ?_
  split
  · exact h
  dsimp only
  split
  · exact sound_takeTrap h _ _
  · refine sound_endIssue (sound_modGroup h _ _ fun _ hg => ?_)
    exact Group.shaped_lanes hg fun i l hl => by split <;> [skip; split] <;> exact hl.keep rfl rfl

theorem Group.shaped_exitLanes {g : Group} (h : g.Shaped) (m : Mask) : (g.exitLanes m).Shaped :=
  shaped_modLanes (f := fun l => { l with st := .free }) h m fun _ hl => hl.keep rfl rfl

theorem sound_exitSystem (h : Sound s) (gid : Nat) (m : Mask) : Sound (exitSystem s gid m) := by
  unfold exitSystem
  split
  · exact h
  split
  · dsimp only
    split
    · exact sound_handBack (sound_modGroup h _ _) _ _ _
    · exact sound_modGroup h _ _
  · exact h

theorem keepsSound_execExit (h : Sound s) (t : EI) : KeepsSound (execExit t s) := by
  refine Sound.next ?_
  split
  · exact h
  · exact sound_joinCheck (sound_exitSystem (sound_modGroup (sound_issueDone h _) _ _
      fun _ hg => Group.shaped_exitLanes hg _) _ _) _ _ _ _

theorem shaped_forkOne {g : Group} (h : g.Shaped) (v : View) (t : EI) (parent : Nat) : (forkOne v t g parent).Shaped := by
  unfold forkOne
  split
  · exact Group.shaped_writes h _
  next c _ =>
  refine Group.shaped_writes (Group.shaped_set ?_ _ _) _
  exact Group.shaped_modLane (f := fun l => { l with
    st := .live, pc := v.target t.h, base := 0, rb := 0, preds := 0, fences := []
    readyAt := v.cyc + 2, since := v.cyc + 2 }) h c fun _ hl => hl.keep rfl rfl

theorem keepsSound_execFork (h : Sound s) (t : EI) : KeepsSound (execFork t s) := by
  refine Sound.next ?_
  split
  · exact h
  · exact sound_issueDone (sound_modGroup h _ _ fun _ hg =>
      List.foldlRecOn _ _ hg fun _ hg l _ => shaped_forkOne hg _ _ l) _

theorem sound_reloadBudget (h : Sound s) (sid : Nat) : Sound (reloadBudget s sid) := sound_modSlice h _ _

theorem keepsSound_execYield (h : Sound s) (t : EI) : KeepsSound (execYield t s) := by
  refine Sound.next ?_
  split
  · exact h
  dsimp only
  split
  · exact sound_issueDone (sound_reloadBudget (sound_modGroup h _ _) _) _
  · exact sound_issueDone (sound_modGroup h _ _) _

theorem keepsSound_execTrap (h : Sound s) (t : EI) : KeepsSound (execTrap t s) := by
  refine Sound.next ?_
  grind [sound_endIssue, sound_issueDone, sound_takeTrap]

theorem keepsSound_execBrk (h : Sound s) (t : EI) : KeepsSound (execBrk t s) := by
  refine Sound.next ?_
  split
  · exact h
  next v hv =>
  have hg : (recordBreak s v.g v.pc (t.mod.setWidth 64)).Shaped := shaped_recordUser (h.viewOf hv) _ _
  split
  · exact sound_issueDone h _
  split
  · refine sound_issueDone (sound_putGroup h _ ?_) _
    exact hg.keep rfl rfl rfl
  · exact sound_takeTrap h _ _

/-! ## Barrier words -/

theorem sound_modBar (h : Sound s) (team core off : Nat) (f : Bar → Bar) : Sound (modBar s team core off f) := by
  grind [modBar, sound_modTCore]

theorem sound_retag (h : Sound s) (team core off : Nat) : Sound (retag s team core off) := by
  grind [retag, sound_modBar]

/-! ## The fabric as a sender uses it -/

theorem sound_setPeer (h : Sound s) (p : Peer) : Sound (setPeer s p) := h

theorem sound_modFab (h : Sound s) (f : Fabric → Fabric) : Sound (modFab s f) := h

theorem sound_countRefuse (h : Sound s) : Sound (countRefuse s) := h

theorem sound_admitPeer (h : Sound s) (team : Nat) : Sound (admitPeer s team).1 := by
  grind [admitPeer, sound_bump, sound_countRefuse]

theorem sound_sendNotice (h : Sound s) (x : Notice) : Sound (sendNotice s x) := by
  grind [sendNotice, sound_modFab]

theorem sound_releaseTag (h : Sound s) (port tag : Nat) (timeout : Bool) : Sound (releaseTag s port tag timeout) := h

theorem sound_sendReq (h : Sound s) {fkey : BitVec 16} {dev k : Nat} {ref : Ref} {u : State × Nat × Nat}
    (hu : sendReq s fkey dev k ref = some u) : Sound u.1 := by
  unfold sendReq at hu
  grind [sound_modFab]

/-! ## SRAM errors of a core's arrays (R404, R405) -/

theorem sound_meetL1 (h : Sound s) (core ctx : Nat) (secs : List (List Nat)) : Sound (meetL1 s core ctx secs) := by
  unfold meetL1
  split
  · exact h
  · refine sound_foldl _ secs h fun s sec hs => sound_foldl _ _ hs fun s e hs => ?_
    grind [sound_meetUnit, sound_countIsland]

theorem sound_meetRecord (h : Sound s) (x : Slice) : Sound (meetRecord s x).1 := by
  grind [meetRecord, sound_meetUnit]

theorem sound_meetPart (h : Sound s) (team core : Nat) (w : Option Win) (n : Nat) : Sound (meetPart s team core w n) := by
  have h1 (e : Option Win × Nat × Bool) :
      Sound (modTCore s team core fun c => { c with errs := c.errs.filter (· != e) }) :=
    sound_modTCore h _ _ _
  unfold meetPart
  split
  · exact h
  · split
    · exact h
    · dsimp only
      split
      · exact sound_modTCore (sound_sramReport (h1 _) _ _ _) _ _ _
      · exact sound_countIsland (h1 _) _

theorem sound_meetScratch (h : Sound s) (team core : Nat) (w : Win) (off n : Nat) :
    Sound (meetScratch s team core w off n) := by
  unfold meetScratch
  split
  · exact h
  · exact sound_foldl _ _ h fun s g hs => sound_meetPart hs _ _ _ _

theorem sound_meetRow (h : Sound s) (team core row : Nat) : Sound (meetRow s team core row) := by
  grind [meetRow, sound_meetPart]

theorem Group.shaped_poisonReg {g : Group} (h : g.Shaped) (d : Dst) : (g.poisonReg d).Shaped := by
  unfold poisonReg
  split
  · exact shaped_modLane h _ fun _ hl => hl.keep rfl rfl
  · exact h.keep rfl rfl rfl
  · exact h

theorem sound_meetRegs (h : Sound s) (g : Group) (ds : List Dst) : Sound (meetRegs s g ds) := by
  unfold meetRegs
  split
  · exact h
  · refine sound_foldl _ ds h fun s d hs => ?_
    grind [sound_modGroup, sound_sramReport, sound_countIsland, Group.Shaped, Group.shaped_poisonReg]

/-! ## Sectors of accesses (R186 to R191) -/

theorem sound_meetSectors (h : Sound s) (root : Option Nat) (xs : List (Nat × Nat)) : Sound (meetSectors s root xs) :=
    by
  grind [meetSectors, sound_meetCells]

theorem sound_meetRun (h : Sound s) (root : Option Nat) (va : Nat) (keys : List Nat) : Sound (meetRun s root va keys) :=
    by
  grind [meetRun, sound_meetSectors]

theorem sound_rewriteSector (h : Sound s) (core : Option Nat) (sk ks : List Nat) : Sound (rewriteSector s core sk ks) :=
    by
  grind [rewriteSector, sound_iff]

theorem sound_writeSector (h : Sound s) (core root : Option Nat) (va key : Nat) (kbs : List (Nat × Byte)) :
    Sound (writeSector s core root va key kbs) := by
  have hw (ks : List Nat) (bs : List Byte) : Sound { s with mem := memSets s.mem ks bs } :=
    h
  unfold writeSector
  grind [sound_overwrite, sound_rewriteSector, sound_cleanKeys]

/-! ## Operations in flight -/

theorem sound_pushOp (h : Sound s) (v : View) (x : OpSpec) : Sound (pushOp s v x) := by
  obtain ⟨hg, hc, hx, hr, ho⟩ := h
  refine ⟨hg, hc, hx, hr, fun o hm => ?_⟩
  rcases List.mem_append.1 hm with hm | hm
  · exact Nat.lt_succ_of_lt (ho o hm)
  · rw [List.mem_singleton.1 hm]
    exact Nat.lt_succ_self _

theorem sound_modReqs (h : Sound s) (id : Nat) (f : Req → Req) : Sound (modReqs s id f) := sound_modOp h _ _

theorem sound_modReq (h : Sound s) (id lane : Nat) (f : Req → Req) : Sound (modReq s id lane f) := sound_modReqs h _ _

theorem sound_deferAt (h : Sound s) (since gid : Nat) (carried : Mask) (pc : Dword) (cause : Nat) (tval : Dword)
    (src : Option (Nat × Nat)) : Sound (deferAt s since gid carried pc cause tval src) := by
  grind [deferAt, sound_modGroupSince, sound_endSliceBy, Group.Shaped]

theorem sound_deferTrap (h : Sound s) (o : Op) (cause : Nat) (tval : Dword) (src : Option (Nat × Nat)) :
    Sound (deferTrap s o cause tval src) := by
  grind [deferTrap, sound_takeTrapSince, sound_deferAt]

theorem sound_trapOp (h : Sound s) (o : Op) (cause : Nat) (tval : Dword) : Sound (trapOp s o cause tval) := by
  grind [trapOp, sound_dropOp, sound_takeTrapSince]

theorem sound_passOp (h : Sound s) (o : Op) : Sound (passOp s o) :=
  sound_modGroupSince h _ _ _ fun _ hg => Group.shaped_advance hg _ _

theorem sound_landRegs (h : Sound s) (o : Op) (ws : List (Dst × Word)) : Sound (landRegs s o ws) :=
  sound_modGroupSince h _ _ _ fun _ hg => Group.shaped_writes hg _

theorem sound_grantReq (h : Sound s) (o : Op) (q : Req) : Sound (grantReq s o q).1 := by
  grind [grantReq, sound_postWaiting, sound_translate, sound_admitPeer]

theorem sound_grantReqs (h : Sound s) (o : Op) (qs : List Req) : Sound (grantReqs s o qs).1 := by
  induction qs generalizing s with
  | nil => exact h
  | cons q qs ih => grind [grantReqs, sound_grantReq]

theorem sound_settleWait (h : Sound s) (o : Op) : Sound (settleWait s o) := by
  grind [settleWait, sound_modTCore, sound_modOp]

theorem sound_notifyWaits (h : Sound s) (team core off : Nat) : Sound (notifyWaits s team core off) :=
  sound_foldl _ _ h fun _ o hs => sound_settleWait hs o

theorem sound_notifyBytes (h : Sound s) (team core : Nat) (w : Win) (off n : Nat) :
    Sound (notifyBytes s team core w off n) := by
  unfold notifyBytes
  split
  · exact sound_foldl _ _ h fun s x hs => sound_notifyWaits hs _ _ _
  · exact h

/-! ## Lane exchange and the group pipe -/

theorem sound_shuffle (h : Sound s) (t : TI) (src : Nat → Nat → Nat → Nat) : Sound (shuffle s t src) :=
  sound_laneOp h _ _ _

theorem keepsSound_execVote (h : Sound s) (t : TI) : KeepsSound (execVote t s) := by
  refine Sound.next ?_
  split
  · exact h
  dsimp only
  split
  · exact sound_issueDone h _
  · exact sound_issueDone (sound_modGroup h _ _ fun _ hg => Group.shaped_writesFixed hg _ _ _) _

theorem sound_groupOp (hs : Sound s) (h : Hdr) (f : View → List (Dst × Word)) : Sound (groupOp s h f) := by
  unfold groupOp
  split
  · exact hs
  split
  · exact sound_issueDone (sound_modGroup hs _ _ fun _ hg => Group.shaped_writesFixed hg _ _ _) _
  · exact sound_takeTrap hs _ _

theorem sound_groupArith (h : Sound s) (t : TI) (f : Int → Int → Int) : Sound (groupArith s t f) := sound_groupOp h _ _

/-! ## Memory instructions and how their data moves -/

theorem sound_globalAccess (h : Sound s) (i : Instr) (t : MI) (dsts : View → Nat → List Dst)
    (data cmp : View → Nat → List Byte) : Sound (globalAccess s i t dsts data cmp) := by
  grind [globalAccess, sound_endIssue, sound_issueDone, sound_takeTrap, sound_pushOp]

theorem keepsSound_execGld (h : Sound s) (t : TI) : KeepsSound (execGld t s) := by
  refine Sound.next ?_
  grind [sound_endIssue, sound_takeTrap, sound_pushOp]

theorem sound_prefLine (h : Sound s) (root va : Nat) : Sound (prefLine s root va) := by
  unfold prefLine
  split
  · exact sound_meetRun h _ _ _
  · exact h

theorem keepsSound_execPref (h : Sound s) (t : MI) : KeepsSound (execPref t s) := by
  refine Sound.next ?_
  split
  · exact h
  · refine sound_issueDone (sound_foldl _ _ h fun s l hs => ?_) _
    dsimp only
    split
    · exact sound_prefLine hs _ _
    · exact hs

theorem sound_scratchAccess (h : Sound s) (i : Instr) (t : MI) (w : Win) (core : View → Nat → Nat)
    (dsts : View → Nat → List Dst) (data cmp : View → Nat → List Byte) :
    Sound (scratchAccess s i t w core dsts data cmp) := by
  grind [scratchAccess, sound_endIssue, sound_issueDone, sound_takeTrap, sound_pushOp]

theorem keepsSound_execGath (h : Sound s) (t : MI) : KeepsSound (execGath t s) := by
  refine Sound.next ?_
  split
  · exact h
  split
  · exact h
  dsimp only
  iterate 5 split; · exact sound_takeTrap h _ _
  split
  · exact sound_issueDone h _
  · exact sound_issueDone (sound_draw (sound_modGroup h _ _) 1) _

theorem keepsSound_execQpop (h : Sound s) (t : MI) : KeepsSound (execQpop t s) := by
  refine Sound.next ?_
  grind [sound_modGroup, sound_endIssue, sound_issueDone, sound_takeTrap, Group.Shaped, Group.shaped_writes]

theorem sound_finishOp (h : Sound s) (id : Nat) : Sound (finishOp s id) := by
  grind [finishOp, sound_dropOp, sound_deferTrap, sound_landRegs]

theorem Op.dropLane_id (o : Op) (lane : Nat) : (o.dropLane lane).id = o.id := by
  unfold dropLane
  split <;> rfl

theorem shaped_lowerRemtmo {g : Group} (h : g.Shaped) (id lane : Nat) (va : Dword) : (lowerRemtmo g id lane va).Shaped :=
  h.keep rfl rfl rfl

theorem sound_timeOutLane (h : Sound s) (id lane : Nat) : Sound (timeOutLane s id lane) := by
  grind [timeOutLane, sound_modGroupSince, sound_modOp, sound_deferTrap, sound_finishOp, shaped_lowerRemtmo, Op.dropLane_id]

theorem sound_sendLane (h : Sound s) (o : Op) (q : Req) : Sound (sendLane s o q) := by
  unfold sendLane
  grind [sound_modReq, → sound_sendReq]

theorem sound_sendLanes (h : Sound s) (o : Op) : Sound (sendLanes s o) := sound_foldl _ _ h fun _ q hs => sound_sendLane hs o q

theorem sound_readReqs (h : Sound s) (root : Option Nat) (qs : List Req) : Sound (readReqs s root qs).1 :=
  sound_meetSectors h _ _

theorem sound_loadReturn (h : Sound s) (id : Nat) : Sound (loadReturn s id) := by
  grind [loadReturn, sound_modOp, sound_meetL1, sound_finishOp, sound_sendLanes, sound_readReqs]

theorem sound_writePerform (h : Sound s) (id sector : Nat) : Sound (writePerform s id sector) := by
  grind [writePerform, sound_writeSector, sound_modReqs, sound_finishOp, sound_sendLanes]

theorem sound_serveReq (h : Sound s) (o : Op) (core g : Nat) (q : Req) : Sound (serveReq s o core g q).1 := by
  grind [serveReq, sound_modTCore, sound_meetScratch, sound_notifyBytes]

theorem sound_serveReqs (h : Sound s) (o : Op) (core g : Nat) (qs : List Req) : Sound (serveReqs s o core g qs).1 := by
  induction qs generalizing s with
  | nil => exact h
  | cons q qs ih => grind [serveReqs, sound_serveReq]

theorem sound_serveGranules (h : Sound s) (o : Op) (qs : List Req) (gs : List Nat) : Sound (serveGranules s o qs gs).1 := by
  induction gs generalizing s qs with
  | nil => exact h
  | cons g gs ih => grind [serveGranules, sound_serveReqs]

theorem sound_countScratch (h : Sound s) (core : Nat) (xarb conf : Bool) : Sound (countScratch s core xarb conf) :=
  sound_modCore h _ _

theorem sound_scratchService (h : Sound s) (id : Nat) : Sound (scratchService s id) := by
  grind [scratchService, sound_modOp, sound_bump, sound_finishOp, sound_serveGranules, sound_countScratch]

theorem sound_meetIndex (h : Sound s) (g : Group) (x : GStream) : Sound (meetIndex s g x) :=
  sound_meetScratch h _ _ _ _ _

theorem sound_modStream (h : Sound s) (gid : Nat) (f : Group → GStream → Group)
    (hf : ∀ g x, g.Shaped → (f g x).Shaped := by exact fun _ _ hg => hg.keep rfl rfl rfl) : Sound (modStream s gid f) := by
  unfold modStream
  split
  · exact h
  · refine sound_modGroupSince h _ _ _ fun g hg => ?_
    split
    · exact hg
    · exact hf _ _ hg

theorem shaped_gatherPut {g : Group} (h : g.Shaped) (x : GStream) (e : GElem) : (gatherPut g x e).Shaped := by
  unfold gatherPut
  dsimp only
  split <;> exact h.keep rfl rfl rfl

theorem sound_gatherGive (h : Sound s) (gid : Nat) (e : GElem) : Sound (gatherGive s gid e) :=
  sound_modStream h _ _ fun _ _ hg => shaped_gatherPut hg _ _

theorem sound_gatherWait (h : Sound s) (gid : Nat) (f : GStream → GStream) : Sound (gatherWait s gid f) :=
  sound_modStream h _ _

theorem sound_gatherRemote (h : Sound s) (g : Group) (x : GStream) (a : Dword) (mark : Option Nat) (dev key : Nat) :
    Sound (gatherRemote s g x a mark dev key) := by
  unfold gatherRemote
  grind [sound_admitPeer, sound_gatherGive, sound_gatherWait, → sound_sendReq]

theorem sound_gatherRead (h : Sound s) (gid : Nat) : Sound (gatherRead s gid) := by
  unfold gatherRead
  split
  · exact h
  split
  · exact h
  split
  · exact h
  have hm := sound_meetIndex h
  dsimp only
  grind [sound_gatherGive, sound_translate, sound_postWaiting, sound_gatherWait, sound_gatherRemote, sound_meetSectors]

/-! ## Atomics -/

theorem sound_atomGlobal (h : Sound s) (o : Op) (op : Nat) (q : Req) : Sound (atomGlobal s o op q).1 := by
  grind [atomGlobal, sound_meetSectors, sound_writeSector]

theorem sound_atomScratch (h : Sound s) (o : Op) (op : Nat) (q : Req) (c : Nat) (w : Win) :
    Sound (atomScratch s o op q c w).1 := by
  grind [atomScratch, sound_modTCore, sound_meetScratch, sound_notifyBytes]

theorem sound_atomLane (h : Sound s) (o : Op) (op : Nat) (q : Req) : Sound (atomLane s o op q).1 := by
  grind [atomLane, sound_atomGlobal, sound_atomScratch]

theorem sound_atomicPerform (h : Sound s) (id : Nat) : Sound (atomicPerform s id) := by
  unfold atomicPerform
  split
  · exact h
  split
  · exact h
  split
  · have h1 := sound_sendLanes h
    dsimp only
    grind [sound_finishOp, sound_atomLane, sound_modReq, sound_bump]
  · exact h

/-! ## Barrier instructions and the barrier unit -/

theorem sound_barIssue (h : Sound s) (hd : Hdr) (once : Bool) (checks : View → Team → List Check)
    (act : State → View → Team → Mask → State) (ha : ∀ v tm m, Sound (act s v tm m)) :
    Sound (barIssue s hd once checks act) := by
  unfold barIssue
  grind [sound_endIssue, sound_takeTrap, sound_issueDone]

theorem sound_barSend (h : Sound s) (v : View) (t : EI) (m : Mask) (i : Instr) (args : List Dword) (dsts : List Dst) :
    Sound (barSend s v t m i args dsts) := sound_issueDone (sound_pushOp h _ _) _

theorem keepsSound_execBinit (h : Sound s) (t : EI) : KeepsSound (execBinit t s) := by
  refine Sound.next ?_
  grind [sound_barIssue, sound_barSend]

theorem keepsSound_execBarvOne (h : Sound s) (t : EI) : KeepsSound (execBarvOne t s) := by
  refine Sound.next ?_
  grind [sound_barIssue, sound_barSend]

theorem keepsSound_execBarvEach (h : Sound s) (t : EI) : KeepsSound (execBarvEach t s) := by
  refine Sound.next ?_
  grind [sound_barIssue, sound_barSend]

theorem keepsSound_execBexp (h : Sound s) (t : EI) : KeepsSound (execBexp t s) := by
  refine Sound.next ?_
  grind [sound_barIssue, sound_barSend]

theorem keepsSound_execBwait (h : Sound s) (t : EI) : KeepsSound (execBwait t s) := by
  refine Sound.next ?_
  grind [sound_endIssue, sound_pushOp, sound_barIssue]

theorem keepsSound_execBtest (h : Sound s) (t : EI) : KeepsSound (execBtest t s) := by
  refine Sound.next ?_
  grind [sound_barIssue, sound_barSend]

theorem keepsSound_execBrd (h : Sound s) (t : EI) : KeepsSound (execBrd t s) := by
  refine Sound.next ?_
  grind [sound_barIssue, sound_barSend]

theorem sound_bindRegion (h : Sound s) (team slot : Nat) (r : Option Region) : Sound (bindRegion s team slot r) := by
  have h1 : Sound (modTeam s team fun t => { t with regions := setNth t.regions slot r }) := sound_modTeam h _ _
  unfold bindRegion
  grind [sound_retag, sound_meetScratch]

theorem keepsSound_execRbind (h : Sound s) (t : EI) : KeepsSound (execRbind t s) := by
  refine Sound.next ?_
  grind [sound_barIssue, sound_barSend]

theorem keepsSound_execRfree (h : Sound s) (t : EI) : KeepsSound (execRfree t s) := by
  refine Sound.next ?_
  grind [sound_barIssue, sound_barSend]

theorem sound_holdFibres (hs : Sound s) (h : Hdr) (i : Instr) : Sound (holdFibres s h i) := by
  grind [holdFibres, sound_endIssue, sound_issueDone, sound_pushOp]

theorem sound_passBaton (h : Sound s) (o : Op) (core off : Nat) : Sound (passBaton s o core off) := by
  grind [passBaton, sound_modTCore]

theorem sound_endSignals (h : Sound s) (team core off : Nat) : Sound (endSignals s team core off) := by
  grind [endSignals, sound_modTeam, sound_modFab]

theorem sound_meetBar (h : Sound s) (team core off : Nat) : Sound (meetBar s team core off) :=
  sound_meetScratch h _ _ _ _ _

theorem sound_changeBar (h : Sound s) (team core off : Nat) (f : Bar → Bar) : Sound (changeBar s team core off f) := by
  grind [changeBar, sound_modBar, sound_notifyWaits, sound_meetBar]

theorem sound_applyBar (h : Sound s) (team core off n add landed : Nat) :
    Sound (applyBar s team core off n add landed) := by
  grind [applyBar, sound_modBar, sound_notifyWaits, sound_endSignals, sound_meetBar]

theorem sound_performBinit (h : Sound s) (o : Op) (t : EI) : Sound (performBinit s o t) := by
  grind [performBinit, sound_modTCore, sound_dropOp, sound_modBar, sound_notifyWaits]

theorem sound_barrierApply (h : Sound s) (id : Nat) : Sound (barrierApply s id) := by
  grind [barrierApply, sound_modOp, sound_dropOp, sound_landRegs, sound_bindRegion, sound_passBaton, sound_meetBar,
    sound_applyBar, sound_performBinit]

theorem sound_lookWait (h : Sound s) (o : Op) : Sound (lookWait s o) := by
  grind [lookWait, sound_modOp, sound_notifyWaits, sound_meetBar]

theorem sound_endWait (h : Sound s) (o : Op) (r : Bool) : Sound (endWait s o r) := by
  grind [endWait, sound_dropOp, sound_passOp, sound_landRegs]

theorem sound_onWait (h : Sound s) (id : Nat) (f : State → Op → State) (hf : ∀ s o, Sound s → Sound (f s o)) :
    Sound (onWait s id f) := by
  unfold onWait
  grind [sound_lookWait]

theorem sound_bwaitComplete (h : Sound s) (id : Nat) : Sound (bwaitComplete s id) := by
  grind [bwaitComplete, sound_endWait, sound_onWait]

theorem sound_bwaitBarfault (h : Sound s) (id : Nat) : Sound (bwaitBarfault s id) := by
  grind [bwaitBarfault, sound_trapOp, sound_onWait]

theorem sound_bwaitLimitExpire (h : Sound s) (id : Nat) : Sound (bwaitLimitExpire s id) := by
  grind [bwaitLimitExpire, sound_endWait, sound_onWait]

theorem sound_fenceEnd (h : Sound s) (id : Nat) : Sound (fenceEnd s id) := by
  grind [fenceEnd, sound_dropOp, sound_passOp]

theorem sound_drainEnd (h : Sound s) (id : Nat) : Sound (drainEnd s id) := by
  grind [drainEnd, sound_dropOp, sound_passOp]

/-! ## The command processors and the pool -/

theorem sound_cpReadChunks (h : Sound s) (root : Nat) (asid : BitVec 16) (lvlS : Bool) (cs : List (Nat × Nat)) :
    Sound (cpReadChunks s root asid lvlS cs).1 := by
  induction cs generalizing s with
  | nil => exact h
  | cons c cs ih => grind [cpReadChunks, sound_translateRun, sound_meetRun]

theorem sound_cpRead (h : Sound s) (ctx : Nat) (lvlS : Bool) (va n : Nat) : Sound (cpRead s ctx lvlS va n).1 :=
  sound_cpReadChunks h _ _ _ _

theorem sound_writeRun (h : Sound s) (root va : Nat) (keys : List Nat) (bs : List Byte) : Sound (writeRun s root va keys bs) :=
  sound_foldl _ _ h fun _ _ hs => sound_writeSector hs _ _ _ _ _

theorem sound_dropWrite (h : Sound s) (die ctx cause : Nat) (malformed : Bool) (va : Nat) :
    Sound (dropWrite s die ctx cause malformed va) :=
  sound_postReport h _ _ _ _ _ _ _

theorem sound_cpWrite (h : Sound s) (die ctx : Nat) (lvlS : Bool) (va : Nat) (bs : List Byte) :
    Sound (cpWrite s die ctx lvlS va bs) := by
  grind [cpWrite, sound_translateRun, sound_writeRun, sound_dropWrite]

theorem sound_cpDecrement (h : Sound s) (die ctx : Nat) (lvlS : Bool) (va : Nat) :
    Sound (cpDecrement s die ctx lvlS va) := by
  grind [cpDecrement, sound_translateRun, sound_meetRun, sound_writeRun, sound_dropWrite]

theorem sound_readEntry (h : Sound s) (x : Slice) (va n : Nat) : Sound (readEntry s x va n).1 := by
  grind [readEntry, sound_cpRead]

theorem sound_readEntries (h : Sound s) (x : Slice) (ends : Option (List Byte → Bool)) (va n : Nat) :
    Sound (readEntries s x ends va n).1 := by
  induction n generalizing s va with
  | zero => exact h
  | succ n ih => grind [readEntries, sound_readEntry]

theorem sound_holdExports (h : Sound s) (x : Slice) (cores : Nat) : Sound (holdExports s x cores) := h

theorem sound_readStructs (h : Sound s) (x : Slice) : Sound (readStructs s x).1 := by
  grind [readStructs, sound_readEntry, sound_readEntries]

theorem sound_releaseSuccessors (h : Sound s) (id : Nat) : Sound (releaseSuccessors s id) :=
  sound_draw (sound_mapSlices h _ fun x hx => by split <;> exact hx.keep rfl) 1

theorem sound_closeSlice (h : Sound s) (x : Slice) (e : Ending) : Sound (closeSlice s x e).1 := by
  unfold closeSlice
  extract_lets todo s1 s2 s3
  have h1 : Sound s1 := by
    unfold s1
    split
    · exact sound_modSlice (sound_cpWrite h _ _ _ _ _) _ _
    · exact h
  have h2 : Sound s2 := by
    unfold s2
    split
    · exact h1
    · exact sound_cpDecrement h1 _ _ _ _
  split
  · exact h
  · split
    · exact h1
    · exact sound_filterSlices (sound_releaseSuccessors h2 _) _

theorem sound_completeSlice (h : Sound s) {x : Slice} (hx : x.Roomy) (code cause : Nat) (tepc tval : Dword) :
    Sound (completeSlice s x code cause tepc tval).1 := by
  unfold completeSlice
  extract_lets e y
  exact sound_closeSlice (sound_modSlice h _ (fun _ => y) fun _ _ => hx.keep rfl) _ _

theorem sound_rejectSlice (h : Sound s) {x : Slice} (hx : x.Roomy) (cause : Nat) : Sound (rejectSlice s x cause) :=
  sound_completeSlice h hx _ _ _ _

theorem sound_addSlice (h : Sound s) {x : Slice} (hx : x.Roomy) : Sound { s with slices := s.slices ++ [x] } := by
  obtain ⟨hg, hc, hs, hr, ho⟩ := h
  refine ⟨hg, hc, fun y hy => ?_, hr, ho⟩
  rcases List.mem_append.1 hy with hy | hy
  · exact hs y hy
  · exact List.mem_singleton.1 hy ▸ hx

theorem sound_takeIn (h : Sound s) {x : Slice} (hx : x.Roomy) (privOk : Bool) (pred : Option Nat) :
    Sound (takeIn s x privOk pred) := by
  unfold takeIn
  extract_lets live p y s1 cores
  have hy : y.Roomy := hx.keep rfl
  have h1 : Sound s1 := sound_draw (sound_addSlice h hy) 1
  split
  · split
    · exact sound_rejectSlice h1 hy _
    · exact sound_modSlice h1 _ _
  · split
    · exact sound_holdExports h1 _ _
    · exact h1

theorem sound_filterRings (h : Sound s) (p : RingRec → Bool) : Sound { s with rings := s.rings.filter p } := by
  obtain ⟨hg, hc, hs, hr, ho⟩ := h
  exact ⟨hg, hc, hs, fun y hy => hr y (List.mem_of_mem_filter hy), ho⟩

theorem ringHead_mem {ctx : Nat} {r : RingRec} (h : ringHead s ctx = some r) : r ∈ s.rings := by
  unfold ringHead at h
  grind

theorem sound_takeRing (h : Sound s) {u : State} (hu : takeRing s = some u) : Sound u := by
  unfold takeRing at hu
  simp only [Option.bind_eq_some_iff, Option.map_eq_some_iff] at hu
  obtain ⟨r, hr, e, -, rfl⟩ := hu
  obtain ⟨ctx, -, hc⟩ := List.exists_of_findSome?_eq_some hr
  have hx : r.slice.Roomy := h.rings r (ringHead_mem hc)
  refine sound_takeIn ?_ ?_ _ _
  · exact sound_filterRings h _
  · exact hx.keep rfl

theorem sound_takeRings (h : Sound s) (n : Nat) : Sound (takeRings s n) := by
  induction n generalizing s with
  | zero => exact h
  | succ n ih => grind [takeRings, sound_takeRing]

theorem sound_retryBlocked (h : Sound s) : Sound (retryBlocked s) := h

theorem sound_entryFreed {r : State × Bool} (h : Sound r.1) : Sound (entryFreed r) := by
  unfold entryFreed
  grind [sound_takeRings, sound_retryBlocked]

theorem sound_endOfSlice (h : Sound s) {x : Slice} (hx : x.Roomy) (code cause : Nat) (tepc tval : Dword) :
    Sound (endOfSlice s x code cause tepc tval) :=
  sound_entryFreed (sound_completeSlice h hx _ _ _ _)

theorem sound_sliceWaits (h : Sound s) (x : Slice) (malformed : Bool) (va : Nat) :
    Sound (sliceWaits s x malformed va) := by
  grind [sliceWaits, sound_modSlice, sound_postWaiting, Slice.Roomy]

theorem sound_sliceFault (h : Sound s) (x : Slice) (cause va : Nat) (malformed : Bool) :
    Sound (sliceFault s x cause va malformed) :=
  sound_postReport h _ _ _ _ _ _ _

/-- A role of bytes that the checks of take-in pass declares at least 64 registers (R17, R318). -/
theorem roomy_of_structCause {x : Slice} {t : Structs} (hn : t.fixed = [] → t.roles = [])
    (h : structCause s x t = none) : t.kernel.Roomy := by
  intro r hr
  by_cases hf : t.fixed = []
  · simp [Structs.kernel, kernelOf, hn hf] at hr
  · have hk : t.kernel.ok (nroleOf t.fixed) = true := by
      have hkn : (!t.fixed.isEmpty) = true := by simpa using hf
      unfold structCause at h
      grind
    have hro : r.ok = true := by
      simp only [Kernel.ok, Bool.and_eq_true, List.all_eq_true] at hk
      exact hk.2 r hr
    simp only [Role.ok, Bool.and_eq_true, decide_eq_true_eq] at hro
    obtain ⟨⟨-, -, -, -, h64, -⟩, -⟩ := hro
    exact h64

/-- Where no byte of the descriptor could be read, no role is. -/
theorem readStructs_roles (x : Slice) (h : (readStructs s x).2.fixed = []) : (readStructs s x).2.roles = [] := by
  have hn : nroleOf [] = 0 := rfl
  change (readEntry s x x.pkt.kdesc.toNat 32).2.bs.headD [] = [] at h
  change (readEntries _ x none _ (min 4 (nroleOf ((readEntry s x x.pkt.kdesc.toNat 32).2.bs.headD [])))).2.bs = []
  rw [h, hn]
  rfl

theorem sound_readKernel (h : Sound s) (id : Nat) {k : Kernel} (hk : k.Roomy) (ts : List Byte) :
    Sound (modSlice s id fun x => { x with k := some k, tiles := ts }) :=
  sound_modSlice h id _ fun _ _ _ hq => Option.some.inj hq ▸ hk

theorem sound_prepareSlice (h : Sound s) {x : Slice} (hx : x.Roomy) : Sound (prepareSlice s x) := by
  unfold prepareSlice
  split
  · exact h
  have hy : x.answered.Roomy := hx.keep rfl
  have hr := sound_readStructs (sound_modSlice h x.id (fun _ => x.answered) fun _ _ => hy) x.answered
  have hn := readStructs_roles (s := modSlice s x.id fun _ => x.answered) x.answered
  dsimp only
  split
  · exact h
  · exact sound_sliceWaits hr _ _ _
  · split
    · exact sound_endOfSlice (sound_foldl _ _ hr fun s f hs => sound_sliceFault hs _ _ _ _) hy _ _ _ _
    next hc =>
    have hk := sound_readKernel hr x.id (roomy_of_structCause hn hc)
    split
    · exact sound_holdExports (hk _) _ _
    · exact hk _

/-! ## ENQ, BUDR and the host queues -/

theorem keepsSound_execEnq (h : Sound s) (t : EI) : KeepsSound (execEnq t s) := by
  refine Sound.next ?_
  grind [sound_endIssue, sound_takeTrap, sound_pushOp]

theorem sound_ringMapped (h : Sound s) (ctx va : Nat) : Sound (ringMapped s ctx va).1 := by
  grind [ringMapped, sound_translate]

theorem sound_postRingpf (h : Sound s) (die ctx va : Nat) : Sound (postRingpf s die ctx va) := by
  grind [postRingpf, sound_iff, sound_postReport]

theorem sound_addRing (h : Sound s) {r : RingRec} (hx : r.slice.Roomy) : Sound { s with rings := s.rings ++ [r] } := by
  obtain ⟨hg, hc, hs, hr, ho⟩ := h
  refine ⟨hg, hc, hs, fun y hy => ?_, ho⟩
  rcases List.mem_append.1 hy with hy | hy
  · exact hr y hy
  · exact List.mem_singleton.1 hy ▸ hx

theorem sound_placeInRing (h : Sound s) (o : Op) {child : Slice} (hx : child.Roomy) : Sound (placeInRing s o child).1 := by
  unfold placeInRing
  split
  · exact h
  split
  · exact h
  next va _ =>
  have hm := sound_ringMapped h child.ctx va
  split <;> rename_i heq <;> rw [heq] at hm
  · exact sound_postRingpf hm _ _ _
  · exact sound_draw (sound_addRing hm (hx.keep rfl)) 1

theorem sound_enterChild (h : Sound s) (parent : Slice) {child : Slice} (hx : child.Roomy) (entry : Nat) (reserved : Bool) :
    Sound (enterChild s parent child entry reserved) := by
  refine sound_takeIn (sound_draw h 1) ?_ _ _
  exact hx.keep rfl

/-- A child has no kernel before its descriptor is read. -/
theorem roomy_childOf (die : Nat) (parent : Slice) (p : Packet) : (childOf die parent p).Roomy := fun _ hk => nomatch hk

theorem sound_placeChild (h : Sound s) (o : Op) (parent : Slice) (p : Packet) : Sound (placeChild s o parent p).1 := by
  unfold placeChild
  extract_lets die base child
  have hx : child.Roomy := (roomy_childOf die parent p).keep rfl
  split
  · exact h
  split
  · exact sound_enterChild h _ hx _ _
  have hr := sound_placeInRing h o hx
  split
  next heq => rw [heq] at hr; exact hr
  next heq =>
    rw [heq] at hr
    split
    · exact sound_enterChild hr _ hx _ _
    · exact hr

theorem sound_enqEnd (h : Sound s) (o : Op) (r : Bool) : Sound (enqEnd s o r) := by
  grind [enqEnd, sound_dropOp, sound_passOp, sound_landRegs]

theorem sound_enqTry (h : Sound s) (o : Op) : Sound (enqTry s o) := by
  unfold enqTry
  split
  · exact sound_dropOp h _
  next parent _ =>
  have hp := sound_placeChild h o parent (parsePacket (o.reqs.flatMap Req.got))
  split <;> rename_i heq <;> rw [heq] at hp
  · exact sound_enqEnd hp _ _
  · split
    · exact sound_enqEnd hp _ _
    split
    · exact hp
    · exact sound_draw (sound_modOp hp _ _) 1

theorem sound_enqRead (h : Sound s) (o : Op) : Sound (enqRead s o) := by
  grind [enqRead, sound_trapOp, sound_enqTry]

theorem sound_settleOp (h : Sound s) (id : Nat) : Sound (settleOp s id) := by
  grind [settleOp, sound_finishOp, sound_enqRead]

theorem sound_enqReturn (h : Sound s) (o : Op) : Sound (enqReturn s o) := by
  grind [enqReturn, sound_modOp, sound_sendLanes, sound_readReqs, sound_settleOp]

theorem keepsSound_execEnqRetry (h : Sound s) (op : Nat) : KeepsSound (execEnqRetry op s) := by
  refine Sound.next ?_
  grind [sound_enqTry]

theorem keepsSound_execRingPageRetry (h : Sound s) (ctx : Nat) : KeepsSound (execRingPageRetry ctx s) := by
  refine Sound.next ?_
  grind [sound_iff, sound_retryBlocked, sound_ringMapped]

theorem keepsSound_execBudr (h : Sound s) (t : EI) : KeepsSound (execBudr t s) := by
  refine Sound.next ?_
  grind [sound_modGroup, sound_endIssue, sound_issueDone, sound_takeTrap, Group.shaped_writes]

theorem sound_setQueue (h : Sound s) (x : Queue) : Sound (setQueue s x) := h

theorem sound_takePacket (h : Sound s) (q : Nat) (bs : List Byte) : Sound (takePacket s q bs) := by
  unfold takePacket
  dsimp only
  split
  · exact sound_cpWrite (sound_setQueue h _) _ _ _ _ _
  split
  · exact h
  · refine sound_cpWrite (sound_takeIn (sound_setQueue (sound_draw h 1) _) ?_ _ _) _ _ _ _ _
    exact fun _ hk => nomatch hk

theorem sound_passQueue (h : Sound s) (q : Nat) : Sound (passQueue s q) := h

theorem sound_packetTakeIn (h : Sound s) (q : Nat) : Sound (packetTakeIn s q) := by
  grind [packetTakeIn, sound_postReport, sound_postWaiting, sound_cpRead, sound_setQueue, sound_takePacket,
    sound_passQueue]

theorem keepsSound_execPacketTakeIn (h : Sound s) (ctx queue : Nat) : KeepsSound (execPacketTakeIn ctx queue s) := by
  refine Sound.next ?_
  grind [sound_packetTakeIn]

theorem keepsSound_execHostNotifyWrite (h : Sound s) (ctx queue : Nat) (widx : BitVec 32) :
    KeepsSound (execHostNotifyWrite ctx queue widx s) := by
  refine Sound.next ?_
  grind [sound_meetAt, sound_setQueue]

/-! ## Events of memory operations -/

theorem sound_unchargeOp (h : Sound s) (o : Op) : Sound (unchargeOp s o) := by
  unfold unchargeOp
  split
  · exact h
  · exact sound_modCore (sound_modSlice h _ _) _ _

theorem getOp_id {id : Nat} {o : Op} (ho : getOp s id = some o) : o.id = id := by
  simpa using List.find?_some ho

theorem sound_memoryGrant (h : Sound s) (id : Nat) : Sound (memoryGrant s id) := by
  unfold memoryGrant
  split
  · exact h
  next o ho =>
  have hid : o.id = id := getOp_id ho
  split
  · have hr := sound_grantReqs h o o.reqs
    split
    next s1 qs heq =>
    rw [heq] at hr
    extract_lets o1 s2 ps s3
    have h2 : Sound s2 := sound_modOp hr id _ fun _ _ => hid
    have h3 : Sound s3 := sound_modOp h2 _ _
    split
    · exact sound_modOp h2 _ _
    split
    · extract_lets tv
      split
      · exact sound_trapOp h2 _ _ _
      · exact h2
    · split
      · split
        · exact h3
        · exact sound_passOp h3 _
      · exact sound_unchargeOp (sound_draw (sound_modOp h2 _ _) 1) _
  · exact h

theorem keepsSound_execLoadDataReturn (h : Sound s) (op : Nat) : KeepsSound (execLoadDataReturn op s) := by
  refine Sound.next ?_
  grind [sound_loadReturn, sound_enqReturn]

/-! ## Copies, signals and allowance -/

theorem sound_parkIssue (h : Sound s) (v : View) (ps : List (Nat × Nat)) : Sound (parkIssue s v ps) :=
  sound_endIssue (sound_draw (sound_modGroup h _ _) 1)

theorem sound_unpark (h : Sound s) (id : Nat) : Sound (modGroup s id fun g => { g with parked := none }) :=
  sound_modGroup h _ _

theorem sound_copyOp (h : Sound s) (i : Instr) (t : EI) : Sound (copyOp s i t) := by
  unfold copyOp
  split
  · exact h
  next v _ =>
  split
  · exact h
  have hd := sound_draw (sound_unpark h v.g.id) ((copyLines s v i t (v.parts t.h)).length + 1)
  dsimp only
  split
  · exact sound_takeTrap (sound_unpark h _) _ _
  split
  · exact h
  split
  · exact sound_issueDone hd _
  · exact sound_parkIssue h _ _

theorem keepsSound_execCpysig (h : Sound s) (t : EI) : KeepsSound (execCpysig t s) := by
  refine Sound.next ?_
  split
  · exact h
  next v _ =>
  have hc := sound_unpark h v.g.id
  dsimp only
  split
  · exact sound_takeTrap hc _ _
  split
  · exact sound_takeTrap hc _ _
  split
  · exact sound_issueDone (sound_draw hc 1) _
  · exact sound_parkIssue h _ _

theorem keepsSound_execAlwb (h : Sound s) (t : EI) : KeepsSound (execAlwb t s) :=
  Sound.next (sound_barIssue h _ _ _ _ fun _ _ _ => sound_issueDone (sound_modCore h _ _) _)

theorem keepsSound_execAlwr (h : Sound s) (t : EI) : KeepsSound (execAlwr t s) :=
  Sound.next (sound_barIssue h _ _ _ _ fun _ _ _ =>
    sound_issueDone (sound_modGroup h _ _ fun _ hg => Group.shaped_writes hg _) _)

theorem sound_modLine (h : Sound s) (id : Nat) (f : Line → Line) : Sound (modLine s id f) := h

theorem sound_dropLine (h : Sound s) (id : Nat) : Sound (dropLine s id) := h

theorem sound_markBar (h : Sound s) (l : Line) (f : Bar → Bar) : Sound (markBar s l f) := by
  grind [markBar, sound_changeBar]

theorem sound_timeoutBar (h : Sound s) (l : Line) : Sound (timeoutBar s l) := by
  grind [timeoutBar, sound_sendNotice, sound_markBar]

theorem sound_resolveSide (h : Sound s) (l : Line) (n : Nat) (write : Bool) (x : Side) :
    Sound (resolveSide s l n write x).1 := by
  unfold resolveSide
  split
  · exact h
  · exact h
  · dsimp only
    grind [sound_translate, sound_admitPeer]

theorem sound_lookSeg (h : Sound s) (l : Line) (q : Seg) : Sound (lookSeg s l q).1 := by
  grind [lookSeg, sound_resolveSide]

theorem sound_lookSegs (h : Sound s) (l : Line) (sec : Nat) (qs : List Seg) : Sound (lookSegs s l sec qs).1 := by
  induction qs generalizing s with
  | nil => exact h
  | cons q qs ih => grind [lookSegs, sound_lookSeg]

theorem sound_sendSeg (h : Sound s) (l : Line) (n dev : Nat) (x : Side) (keys : List Nat) :
    Sound (sendSeg s l n dev x keys) := by
  unfold sendSeg
  grind [sound_modLine, → sound_sendReq]

theorem sound_fetchSegs (h : Sound s) (l : Line) (sec : Nat) : Sound (fetchSegs s l sec) := by
  refine sound_foldl _ _ h fun s x hs => ?_
  split
  · exact sound_sendSeg hs _ _ _ _ _
  · exact hs

theorem sound_readSector (h : Sound s) (l : Line) (q : Seg) : Sound (readSector s l q) := by
  grind [readSector, sound_iff, sound_meetSectors]

theorem sound_readSeg (h : Sound s) (id n : Nat) : Sound (readSeg s id n) := by
  unfold readSeg
  split
  · exact h
  split
  · exact h
  split
  · split
    · have hm := sound_meetScratch h
      grind [sound_modLine]
    · exact sound_readSector h _ _
  · exact h

theorem sound_readSegs (h : Sound s) (l : Line) (sec : Nat) : Sound (readSegs s l sec) := by
  refine sound_foldl _ _ h fun s x hs => ?_
  split
  · exact sound_readSeg hs _ _
  · exact hs

theorem sound_putScratch (h : Sound s) (team c : Nat) (w : Win) (off n : Nat) (reduce pois : Bool)
    (f : List Byte → List Byte) : Sound (putScratch s team c w off n reduce pois f) := by
  have h1 : Sound (if reduce then meetScratch s team c w off n else s) := by
    split
    · exact sound_meetScratch h _ _ _ _ _
    · exact h
  exact sound_notifyBytes (sound_modTCore h1 _ _ _) _ _ _ _ _

theorem sound_landScratch (h : Sound s) (l : Line) (q : Seg) (c : Nat) (w : Win) (off : Nat) :
    Sound (landScratch s l q c w off) :=
  sound_putScratch h _ _ _ _ _ _ _ _

theorem sound_reduceMemory (h : Sound s) (l : Line) (root : Option Nat) (q : Seg) : Sound (reduceMemory s l root q) :=
    by
  grind [reduceMemory, sound_meetSectors, sound_writeSector]

theorem sound_skipLower (h : Sound s) (l : Line) (qs : List Seg) : Sound (skipLower s l qs) := h

theorem sound_landMemory (h : Sound s) (l : Line) (qs : List Seg) : Sound (landMemory s l qs) := by
  unfold landMemory
  split
  · exact h
  · dsimp only
    split
    · exact sound_poisonKeys (sound_foldl _ _ h fun s q hs => sound_reduceMemory hs _ _ _) _
    · exact sound_skipLower (sound_poisonKeys (sound_writeSector h _ _ _ _ _) _) _ _

theorem sound_landHere (h : Sound s) (l : Line) (sec : Nat) : Sound (landHere s l sec) := by
  unfold landHere
  refine sound_modLine (sound_landMemory (sound_foldl _ _ h fun s q hs => ?_) _ _) _ _
  split
  · exact sound_landScratch hs _ _ _ _ _
  · exact hs

theorem sound_sendOut (h : Sound s) (l : Line) (sec : Nat) : Sound (sendOut s l sec) := by
  refine sound_foldl _ _ h fun s x hs => ?_
  split
  · exact sound_sendSeg hs _ _ _ _ _
  · exact hs

theorem sound_closeSector (h : Sound s) (id sec : Nat) : Sound (closeSector s id sec) := by
  grind [closeSector, sound_applyBar, sound_modLine, sound_dropLine]

theorem sound_lineWaits (h : Sound s) (l : Line) (va : Dword) (write malformed : Bool) :
    Sound (lineWaits s l va write malformed) := by
  grind [lineWaits, sound_postWaiting, sound_modLine]

theorem sound_lineFatal (h : Sound s) (id cause : Nat) (va : Dword) (onDst malf : Bool) :
    Sound (lineFatal s id cause va onDst malf) := h

theorem sound_moveSector (h : Sound s) (id sec : Nat) : Sound (moveSector s id sec) := by
  grind [moveSector, sound_fetchSegs, sound_readSegs, sound_landHere, sound_sendOut, sound_closeSector]

theorem sound_copySector (h : Sound s) (id sec : Nat) : Sound (copySector s id sec) := by
  grind [copySector, sound_modLine, sound_lookSegs, sound_lineWaits, sound_lineFatal, sound_moveSector]

theorem sound_markFault (h : Sound s) (team c off copy low : Nat) : Sound (markFault s team c off copy low) := by
  grind [markFault, sound_modTeam, sound_changeBar]

theorem sound_setFault (h : Sound s) (team c off copy low : Nat) : Sound (setFault s team c off copy low) := by
  grind [setFault, sound_markFault]

theorem sound_faultBar (h : Sound s) (l : Line) : Sound (faultBar s l) := by
  grind [faultBar, sound_sendNotice, sound_setFault]

theorem sound_endLine (h : Sound s) (id : Nat) : Sound (endLine s id) := by
  grind [endLine, sound_modLine, sound_dropLine]

theorem sound_settleDead (h : Sound s) (id n : Nat) : Sound (settleDead s id n) := by
  grind [settleDead, sound_modLine, sound_endLine]

theorem sound_copyFault (h : Sound s) (id : Nat) : Sound (copyFault s id) := by
  grind [copyFault, sound_postReport, sound_faultBar, sound_endLine]

theorem sound_sendSignal (h : Sound s) (id : Nat) : Sound (sendSignal s id) := by
  unfold sendSignal
  grind [sound_iff, → sound_sendReq]

theorem keepsSound_execCopySectorLand (h : Sound s) (line sector : Nat) : KeepsSound (execCopySectorLand line sector s) := by
  refine Sound.next ?_
  grind [sound_copySector, sound_sendSignal]

/-! ## The matrix engine -/

theorem sound_mxIssue (hs : Sound s) (h : Hdr) (i : Instr) (checks : View → Team → List Check)
    (x : View → Mask → EngSpec) : Sound (mxIssue s h i checks x) := by
  unfold mxIssue
  split
  · exact hs
  split
  · exact hs
  dsimp only
  split
  · exact sound_takeTrap hs _ _
  split
  · exact sound_issueDone hs _
  split
  · exact sound_takeTrap hs _ _
  split
  · exact hs
  · exact sound_issueDone (sound_draw (sound_modCore hs _ _) 1) _

theorem sound_settleArray (h : Sound s) (core : Nat) : Sound (settleArray s core) := by
  grind [settleArray, sound_modCore, Core.Sound]

theorem sound_modMx (h : Sound s) (core id : Nat) (f : MxOp → MxOp) : Sound (modMx s core id f) := sound_modCore h _ _

theorem sound_fillBuffer (h : Sound s) (core team cn : Nat) (l : Latch) (whole : Option Nat) :
    Sound (fillBuffer s core team cn l whole) := by
  have h1 (rs : List Range) : Sound (rs.foldl (fun s r => meetScratch s team cn r.win r.off r.n) s) :=
    sound_foldl _ rs h fun s r hs => sound_meetScratch hs _ _ _ _ _
  unfold fillBuffer
  dsimp only
  split
  · exact sound_modCore (h1 _) _ _
  · exact h1 _

theorem sound_reloadLatch (h : Sound s) (core team cn : Nat) : Sound (reloadLatch s core team cn) := by
  grind [reloadLatch, sound_fillBuffer]

theorem sound_swap (h : Sound s) (core team : Nat) : Sound (modCore s core fun c => c.swap team) := sound_modCore h _ _

theorem sound_mxStart (h : Sound s) (core : Nat) : Sound (mxStart s core) := by
  unfold mxStart
  extract_lets c s0
  have h0 : Sound s0 := sound_settleArray h _
  split
  · exact h
  next m _ =>
  extract_lets cn start record other s1
  have hs {u : State} (hu : Sound u) : Sound (start u) := sound_modMx hu _ _ _
  have hr {u : State} (hu : Sound u) : Sound (record u) := by
    unfold record
    split
    · exact sound_modTCore hu _ _ _
    · exact hu
  have h1 : Sound s1 := by
    unfold s1
    split
    · exact sound_bump h0
    · exact sound_reloadLatch (sound_bump h0) _ _ _
  split
  · exact h
  split
  · split
    · exact h0
    split
    · split
      · exact sound_bump h0
      · exact hs (sound_swap h1 _ _)
    · exact hs (sound_bump h0)
  · refine hr (hs ?_)
    split
    · exact sound_reloadLatch h _ _ _
    · exact h

theorem sound_mxDone (h : Sound s) (core : Nat) (m : MxOp) : Sound (mxDone s core m) := sound_modCore h _ _

theorem sound_mxLaneDone (h : Sound s) (core : Nat) (m : MxOp) (i : Nat) : Sound (mxLaneDone s core m i) := by
  grind [mxLaneDone, sound_modMx, sound_mxDone]

theorem sound_mxPoison (h : Sound s) (core : Nat) (m : MxOp) (row : Nat) : Sound (mxPoison s core m row) := by
  grind [mxPoison, sound_deferAt, sound_mxDone]

theorem sound_mxMeet (h : Sound s) (cn : Nat) (m : MxOp) : Sound (mxMeet s cn m) :=
  sound_foldl _ _ (sound_foldl _ _ h fun _ _ hs => sound_meetScratch hs _ _ _ _ _) fun _ _ hs => sound_meetRow hs _ _ _

theorem sound_mxWork (h : Sound s) (core : Nat) (m : MxOp) : Sound (mxWork s core m) := by
  unfold mxWork
  have hm := sound_mxMeet h (coreNoOf s m.grp) m
  have hw {u : State} (hu : Sound u) (ws : List (Dst × Word)) : Sound (modGroupSince u m.grp m.id fun g => g.writes ws) :=
    sound_modGroupSince hu _ _ _ fun _ hg => Group.shaped_writes hg _
  dsimp only
  split
  · exact sound_mxDone hm _ _
  split
  · split
    · exact sound_mxDone (sound_modCore hm _ _) _ _
    · split
      · exact sound_modMx (sound_fillBuffer hm _ _ _ _ _) _ _ _
      · exact sound_mxDone hm _ _
  · exact sound_mxLaneDone (sound_modTCore hm _ _ _) _ _ _
  · exact sound_mxDone (sound_modTCore hm _ _ _) _ _
  · split
    · exact sound_mxPoison hm _ _ _
    · exact sound_mxDone (hw hm _) _ _
  · exact sound_mxDone (sound_modTCore hm _ _ _) _ _
  · split
    · exact sound_mxPoison hm _ _ _
    · refine sound_mxLaneDone ?_ _ _ _
      split
      · exact sound_modGroupSince (sound_modTCore hm _ _ _) _ _ _ fun _ hg =>
          Group.shaped_modLane (f := fun l => { l with gen := genSteps l.gen 128 }) hg _ fun _ hl => hl.keep rfl rfl
      · exact sound_modTCore hm _ _ _
  · split
    · exact sound_mxPoison hm _ _ _
    · exact sound_mxDone (hw hm _) _ _
  · exact sound_mxDone (sound_modTCore hm _ _ _) _ _
  · exact sound_mxDone (hw hm _) _ _
  · exact sound_mxDone hm _ _

theorem sound_noteRow (h : Sound s) (core : Nat) (m : MxOp) : Sound (noteRow s core m) := by
  grind [noteRow, sound_modCore, Core.Sound]

theorem sound_mxComplete (h : Sound s) (core : Nat) : Sound (mxComplete s core) := by
  grind [mxComplete, sound_bump, sound_mxWork, sound_noteRow]

/-! ## Control registers -/

theorem sound_writesDone (h : Sound s) (id : Nat) (ws : List (Dst × Word)) (len : Nat) :
    Sound (issueDone (modGroup s id fun g => g.writes ws) len) :=
  sound_issueDone (sound_modGroup h _ _ fun _ hg => Group.shaped_writes hg _) _

theorem keepsSound_execCrd (h : Sound s) (t : EI) : KeepsSound (execCrd t s) := by
  refine Sound.next ?_
  split
  · exact h
  extract_lets n once x lanes
  split
  · exact sound_takeTrap h _ _
  split
  · exact sound_takeTrap h _ _
  · exact sound_writesDone h _ _ _

theorem sound_cwrOp (h : Sound s) (t : EI) (f : View → Dword → State) (hf : ∀ v x, Sound (f v x)) : Sound (cwrOp s t f) := by
  unfold cwrOp
  grind [sound_endIssue, sound_takeTrap]

theorem sound_cwrIn (h : Sound s) (t : EI) (f : Dword → Group → Group)
    (hf : ∀ x g, g.Shaped → (f x g).Shaped := by exact fun _ _ hg => hg.keep rfl rfl rfl) : Sound (cwrIn s t f) :=
  sound_cwrOp h t _ fun _ x => sound_issueDone (sound_modGroup h _ _ fun g hg => hf x g hg) _

theorem sound_cwrOut (h : Sound s) (t : EI) (i : Instr) : Sound (cwrOut s t i) := by
  grind [cwrOut, sound_endIssue, sound_pushOp, sound_cwrOp]

theorem sound_rejectWrite (h : Sound s) (g : Group) (n : Nat) : Sound (rejectWrite s g n) := h

theorem sound_expertWrite (h : Sound s) (g : Group) (n x lo hi : Nat) (f : State → State) (hf : Sound (f s)) :
    Sound (expertWrite s g n x lo hi f) := by
  unfold expertWrite
  split
  · exact hf
  · exact sound_rejectWrite h _ _

theorem sound_modSliceOf (h : Sound s) (g : Group) (f : Slice → Slice)
    (hf : ∀ x, x.Roomy → (f x).Roomy := by exact fun _ hx => hx.keep rfl) : Sound (modSliceOf s g f) := by
  unfold modSliceOf
  split
  · exact sound_modSlice h _ f hf
  · exact h

theorem sound_cwrPlain (h : Sound s) (g : Group) (n : Nat) (x : Dword) : Sound (cwrPlain s g n x) := by
  unfold cwrPlain
  split
  · exact sound_modSliceOf h _ _
  · exact sound_modSliceOf h _ _
  · exact sound_modSliceOf h _ _
  · exact sound_expertWrite h _ _ _ _ _ _ h
  · exact sound_modTeam h _ _
  · exact sound_modTeam h _ _
  · exact sound_expertWrite h _ _ _ _ _ _ (sound_modFab h _)
  · exact sound_expertWrite h _ _ _ _ _ _ (sound_modFab h _)
  · exact sound_modCore h _ _
  · exact sound_modCore h _ _
  · exact sound_expertWrite h _ _ _ _ _ _ (sound_modHbm h _)
  · exact h

theorem shaped_cwrTrap {g : Group} (h : g.Shaped) (n : Nat) (x : Dword) : (cwrTrap n x g).Shaped := by
  unfold cwrTrap
  split <;> exact h.keep rfl rfl rfl

theorem keepsSound_execCwr (h : Sound s) (t : EI) : KeepsSound (execCwr t s) := by
  refine Sound.next ?_
  split
  · exact sound_cwrIn h _ _ fun _ _ hg => shaped_cwrTrap hg _ _
  · exact sound_cwrOut h _ _

theorem keepsSound_execCwrSrseed (h : Sound s) (t : EI) : KeepsSound (execCwrSrseed t s) := by
  refine Sound.next ?_
  split
  · exact h
  split
  · exact h
  · refine sound_cwrIn h _ _ fun x g hg => ?_
    exact Group.shaped_lanes hg fun _ _ hl => hl.keep rfl rfl

theorem keepsSound_execCwrFstat (h : Sound s) (t : EI) : KeepsSound (execCwrFstat t s) :=
  Sound.next (sound_cwrIn h _ _ fun _ _ hg => by split <;> exact hg.keep rfl rfl rfl)

theorem sound_writeMxcad (h : Sound s) (core : Nat) (x : Dword) : Sound (writeMxcad s core x) := by
  grind [writeMxcad, sound_modCore, sound_settleArray, Core.Sound]

theorem sound_changePlane (h : Sound s) (e new : Nat) : Sound (changePlane s e new) := h

theorem sound_writePlane (h : Sound s) (g : Group) (n : Nat) (x : Dword) : Sound (writePlane s g n x) := by
  grind [writePlane, sound_rejectWrite, sound_changePlane]

theorem sound_writeFabstat (h : Sound s) (x : Dword) : Sound (writeFabstat s x) := h

theorem sound_writeHealth (h : Sound s) (x : Dword) : Sound (writeHealth s x) := h

theorem sound_cwrPerform (h : Sound s) (g : Group) (i : Instr) (x : Dword) : Sound (cwrPerform s g i x) := by
  unfold cwrPerform
  split
  · exact sound_cwrPlain h _ _ _
  · exact sound_modTeam h _ _
  · exact sound_writeMxcad h _ _
  · exact sound_writePlane h _ _ _
  · exact sound_modCore h _ _
  · exact sound_expertWrite h _ _ _ _ _ _ h
  · exact sound_expertWrite h _ _ _ _ _ _ h
  · exact sound_expertWrite h _ _ _ _ _ _ (sound_modCore h _ _)
  · split <;> exact h
  · exact sound_writeFabstat h _
  · exact sound_writeHealth h _
  · exact sound_modCore h _ _
  · exact h

/-! ## The Erg sequencer -/

theorem sound_ergIssue (hs : Sound s) (h : Hdr) (i : Instr) (checks : View → Team → List Check)
    (x : View → Mask → EngSpec) : Sound (ergIssue s h i checks x) := by
  unfold ergIssue
  split
  · exact hs
  split
  · exact hs
  dsimp only
  split
  · exact sound_takeTrap hs _ _
  split
  · exact sound_issueDone hs _
  split
  · exact sound_takeTrap (sound_bump hs) _ _
  split
  · exact sound_takeTrap hs _ _
  split
  · exact hs
  · exact sound_issueDone (sound_draw (sound_modCore hs _ _) 1) _

theorem sound_modErgHead (h : Sound s) (core : Nat) (f : ErgOp → ErgOp) : Sound (modErgHead s core f) := sound_modCore h _ _

theorem sound_dropErgHead (h : Sound s) (core : Nat) : Sound (dropErgHead s core) := sound_modCore h _ _

theorem sound_ergLaneDone (h : Sound s) (core : Nat) (e : ErgOp) (i : Nat) : Sound (ergLaneDone s core e i) := by
  grind [ergLaneDone, sound_modErgHead, sound_dropErgHead]

theorem sound_ergMeet (h : Sound s) (cn : Nat) (e : ErgOp) : Sound (ergMeet s cn e) := by
  have hr (s : State) (hs : Sound s) (rs : List Range) :
      Sound (rs.foldl (fun s r => meetScratch s e.team cn r.win r.off r.n) s) :=
    sound_foldl _ rs hs fun s r hs => sound_meetScratch hs _ _ _ _ _
  have ho (s : State) (hs : Sound s) (n : Nat) (offs : List Nat) :
      Sound (offs.foldl (fun s off => meetScratch s e.team cn .erg off n) s) :=
    sound_foldl _ offs hs fun s off hs => sound_meetScratch hs _ _ _ _ _
  exact ho _ (ho _ (hr _ h _) _ _) _ _

theorem sound_ergWork (h : Sound s) (core : Nat) (e : ErgOp) : Sound (ergWork s core e) := by
  unfold ergWork
  have hm := sound_ergMeet h (coreNoOf s e.grp) e
  have hw {u : State} (hu : Sound u) (ws : List (Dst × Word)) : Sound (modGroupSince u e.grp e.id fun g => g.writes ws) :=
    sound_modGroupSince hu _ _ _ fun _ hg => Group.shaped_writes hg _
  dsimp only
  split
  · exact sound_dropErgHead hm _
  split
  · split
    · exact sound_dropErgHead hm _
    · exact sound_ergLaneDone (hw (sound_modTeam hm _ _) _) _ _ _
  · exact sound_ergLaneDone (sound_modTCore hm _ _ _) _ _ _
  · exact sound_ergLaneDone (sound_modTCore hm _ _ _) _ _ _
  · exact sound_ergLaneDone (sound_modTCore hm _ _ _) _ _ _
  · exact sound_ergLaneDone (sound_modTCore hm _ _ _) _ _ _
  · exact sound_dropErgHead (hw hm _) _
  · exact sound_dropErgHead (hw hm _) _
  · exact sound_dropErgHead (sound_modTeam hm _ _) _
  · exact sound_dropErgHead (sound_modTeam hm _ _) _
  · split
    · exact sound_dropErgHead hm _
    · exact sound_dropErgHead (hw hm _) _
  · exact sound_dropErgHead hm _

theorem sound_ergComplete (h : Sound s) (core : Nat) : Sound (ergComplete s core) := by
  grind [ergComplete, sound_modErgHead, sound_dropErgHead, sound_ergWork]

/-! ## System instructions -/

theorem sound_levelSOnly (h : Sound s) (f : View → State) (hf : ∀ v, Sound (f v)) : Sound (levelSOnly s f) := by
  unfold levelSOnly
  grind [sound_endIssue, sound_takeTrap]

theorem sound_handlerForm (h : Sound s) (f : View → State) (hf : ∀ v, Sound (f v)) : Sound (handlerForm s f) := by
  refine sound_levelSOnly h _ fun v => ?_
  split
  · exact hf v
  · exact sound_takeTrap h _ _

theorem keepsSound_execCrdStk (h : Sound s) (t : EI) : KeepsSound (execCrdStk t s) :=
  Sound.next (sound_handlerForm h _ fun _ => sound_writesDone h _ _ _)

theorem keepsSound_execCwrStk (h : Sound s) (t : EI) : KeepsSound (execCwrStk t s) :=
  Sound.next (sound_handlerForm h _ fun _ => sound_writesDone h _ _ _)

theorem keepsSound_execCrdJs (h : Sound s) (t : EI) : KeepsSound (execCrdJs t s) :=
  Sound.next (sound_handlerForm h _ fun _ => sound_writesDone h _ _ _)

theorem keepsSound_execCwrJs (h : Sound s) (t : EI) : KeepsSound (execCwrJs t s) :=
  Sound.next (sound_handlerForm h _ fun _ => sound_issueDone (sound_modGroup h _ _ fun _ hg => by
    split <;> exact hg.keep rfl rfl rfl) _)

theorem keepsSound_execCrdTs (h : Sound s) (t : EI) : KeepsSound (execCrdTs t s) := by
  refine Sound.next (sound_handlerForm h _ fun _ => ?_)
  dsimp only
  split
  · exact sound_takeTrap h _ _
  · exact sound_writesDone h _ _ _

theorem shaped_tsWrite {g : Group} (h : g.Shaped) (w i : Nat) (x : Dword) : (tsWrite g w i x).Shaped := by
  unfold tsWrite
  split
  · exact Group.shaped_modLane h _ fun l hl => by dsimp only; split <;> exact hl.keep rfl rfl
  · exact Group.shaped_modLane h _ fun l hl => by dsimp only; split <;> exact hl.keep rfl rfl
  · exact h.keep rfl rfl rfl
  · exact h.keep rfl rfl rfl

theorem keepsSound_execCwrTs (h : Sound s) (t : EI) : KeepsSound (execCwrTs t s) := by
  refine Sound.next (sound_handlerForm h _ fun _ => ?_)
  dsimp only
  split
  · exact sound_takeTrap h _ _
  · exact sound_issueDone (sound_modGroup h _ _ fun _ hg =>
      List.foldlRecOn _ _ hg fun _ hg _ _ => shaped_tsWrite hg _ _ _) _

theorem sound_systemHold (h : Sound s) (t : EI) (i : Instr) (checks : View → List Check) (args : View → List Dword)
    (dsts : View → List Dst) : Sound (systemHold s t i checks args dsts) := by
  grind [systemHold, sound_endIssue, sound_takeTrap, sound_pushOp, sound_levelSOnly]

theorem sound_endHold (h : Sound s) (o : Op) (ws : List Word) : Sound (endHold s o ws) := by
  grind [endHold, sound_dropOp, sound_passOp, sound_landRegs]

theorem sound_tlbiDiscard (h : Sound s) (var a b n : Nat) : Sound (tlbiDiscard s var a b n) := sound_mapCores h _

theorem sound_settleTlbi (h : Sound s) (id : Nat) : Sound (settleTlbi s id) := by
  grind [settleTlbi, sound_modOp, sound_endHold, sound_tlbiDiscard]

theorem sound_haltcIssue (h : Sound s) (t : EI) (i : Instr) : Sound (haltcIssue s t i) := sound_systemHold h _ _ _ _ _

theorem sound_haltcAct (h : Sound s) (o : Op) (f : Group → Group)
    (hf : ∀ g, g.Shaped → (f g).Shaped := by exact fun _ hg => hg.keep rfl rfl rfl) : Sound (haltcAct s o f) :=
  sound_foldl _ _ h fun _ _ hs => sound_modGroupSince hs _ _ _ hf

theorem sound_settleStep (h : Sound s) (id : Nat) : Sound (settleStep s id) := by
  grind [settleStep, sound_endHold]

theorem sound_startStep (h : Sound s) (o : Op) : Sound (startStep s o) := by
  unfold startStep
  split
  · exact sound_settleStep (sound_haltcAct (sound_modOp h _ _) _ _) _
  · exact h

theorem sound_stepCursor (h : Sound s) (hra : Nat) : Sound (stepCursor s hra) := by
  grind [stepCursor, sound_modHbm]

theorem sound_scrubCodeword (h : Sound s) (hra k : Nat) : Sound (scrubCodeword s hra k).1 := by
  have hp {a b : State × Bool × Bool} {p : Prop} [Decidable p] (ha : Sound a.1) (hb : Sound b.1) :
      Sound (if p then a else b).1 := by
    split <;> assumption
  exact hp h (hp (sound_machineCheck (sound_poisonCodeword h _) _ _ _ _ _) (hp (sound_modHbm h _) h))

theorem sound_endScrub (h : Sound s) (hra ce : Nat) (ue : Bool) : Sound (endScrub s hra ce ue) := by
  grind [endScrub, sound_countRow, sound_requestRow, sound_stepCursor]

theorem sound_scrbPair (h : Sound s) (o : Op) (ce : Nat) (ue : Bool) : Sound (scrbPair s o ce ue) := sound_endHold h _ _

theorem sound_scrubStep (h : Sound s) (o : Op) : Sound (scrubStep s o) := by
  unfold scrubStep
  extract_lets hra k ue
  split
  · have h1 := sound_scrubCodeword h hra k
    split
    next heq =>
      rw [heq] at h1
      exact sound_modOp h1 _ _
  · exact sound_scrbPair (sound_endScrub h _ _ _) _ _ _

theorem sound_scrbIssue (h : Sound s) (t : EI) (i : Instr) : Sound (scrbIssue s t i) := sound_systemHold h _ _ _ _ _

theorem sound_checkSpares (h : Sound s) (bank : Nat) : Sound (checkSpares s bank) := by
  grind [checkSpares, sound_iff, sound_machineCheck, sound_checkReplace]

theorem sound_settleRspr (h : Sound s) (id : Nat) : Sound (settleRspr s id) := by
  grind [settleRspr, sound_modHbm, sound_endHold, sound_checkSpares]

theorem sound_finishCopy (h : Sound s) (r : Remap) (hra : Nat) : Sound (finishCopy s r hra) := by
  grind [finishCopy, sound_modHbm, sound_endHold]

theorem keepsSound_execSpareRowCopyStep (h : Sound s) (bank : Nat) : KeepsSound (execSpareRowCopyStep bank s) := by
  refine Sound.next ?_
  grind [sound_modHbm, sound_machineCheck, sound_requestRow, sound_poisonCodeword, sound_settleRspr, sound_finishCopy]

theorem sound_passGate (h : Sound s) (o : Op) : Sound (passGate s o) := by
  unfold passGate
  grind [sound_dropOp, sound_cwrPerform, sound_endHold, sound_settleTlbi, sound_haltcAct, sound_startStep,
    sound_scrbPair, sound_scrubStep, sound_settleRspr, Group.Shaped]

theorem sound_settleHolds (h : Sound s) : Sound (settleHolds s) := by
  refine sound_foldl _ _ h fun s o hs => ?_
  split
  · exact sound_settleTlbi hs _
  · exact sound_settleStep hs _
  · exact hs

/-! ## Placement and retirement -/

theorem sound_readImageBytes (h : Sound s) (x : Slice) (ims : List (Nat × Nat × Nat × Dword)) :
    Sound (readImageBytes s x ims).1 := by
  induction ims generalizing s with
  | nil => exact h
  | cons im ims ih => grind [readImageBytes, sound_cpRead]

theorem sound_readPrologue (h : Sound s) (x : Slice) (k : Kernel) : Sound (readPrologue s x k).1 := by
  grind [readPrologue, sound_cpRead, sound_readImageBytes]

/-- A group at the end of the list, under a handle drawn. -/
theorem sound_addGroup (h : Sound s) {g : Group} (hg : g.Shaped) :
    Sound { s with groups := s.groups ++ [g], nextId := s.nextId + 1 } := by
  obtain ⟨hgs, hc, hx, hr, ho⟩ := h
  refine ⟨fun y hy => ?_, hc, hx, hr, fun o hm => Nat.lt_succ_of_lt (ho o hm)⟩
  rcases List.mem_append.1 hy with hy | hy
  · exact hgs y hy
  · exact List.mem_singleton.1 hy ▸ hg

theorem sound_startGroup (h : Sound s) (x : Slice) (team no : Nat) (cores : List Nat) (n : Nat) {r : Nat × Nat × Role}
    (hr : 64 ≤ r.2.2.regs) : Sound (startGroup s x team no cores n r) := by
  unfold startGroup
  extract_lets c core t
  split
  extract_lets g g1
  have hg : g.Shaped := Group.shaped_create _ hr
  refine sound_addGroup h ⟨by simpa [g1] using hg.1, hg.2.1, hg.2.2.1, fun l hl => ?_⟩
  obtain ⟨m, hm, rfl⟩ := List.mem_map.1 hl
  exact (hg.2.2.2 m hm).keep rfl rfl

/-- The roles that groups start in are the kernel's. -/
theorem groupRoles_regs {k : Kernel} (hk : k.Roomy) {r : Nat × Nat × Role} (hr : r ∈ groupRoles k) : 64 ≤ r.2.2.regs := by
  obtain ⟨y, hy, hr⟩ := List.mem_flatMap.1 hr
  obtain ⟨i, -, rfl⟩ := List.mem_map.1 hr
  exact hk _ (List.fst_mem_of_mem_zipIdx hy)

theorem sound_dropFetch (h : Sound s) (asid : BitVec 16) (cores : List Nat) : Sound (dropFetch s asid cores) :=
  sound_foldl _ _ h fun _ _ hs => sound_modCore hs _ _

theorem sound_ageGang (h : Sound s) (cl : Nat) (own : Nat × Nat) : Sound (ageGang s cl own) := h

theorem sound_prefetchTiles (h : Sound s) (x : Slice) : Sound (prefetchTiles s x) := by
  unfold prefetchTiles
  split
  · exact h
  · refine sound_foldl _ _ h fun s va hs => ?_
    split
    · exact sound_prefLine hs _ _
    · exact hs

theorem sound_takeCores (h : Sound s) (x : Slice) (cores : List Nat) : Sound (takeCores s x cores) :=
  sound_foldl _ _ h fun _ _ hs => sound_modCore hs _ _

theorem sound_startGroups (h : Sound s) (x : Slice) (team no : Nat) (cores : List Nat)
    (rs : List ((Nat × Nat × Role) × Nat)) (hr : ∀ r ∈ rs, 64 ≤ r.1.2.2.regs) :
    Sound (rs.foldl (fun s r => startGroup s x team no cores r.2 r.1) s) :=
  List.foldlRecOn rs _ h fun _ hs r hm => sound_startGroup hs _ _ _ _ _ (hr r hm)

theorem sound_startTeam (h : Sound s) (x : Slice) {k : Kernel} (hk : k.Roomy) (cl : Nat) (cores : List Nat)
    (pos : List (List Nat)) (bytes : List (Win × Nat × List Byte)) : Sound (startTeam s x k cl cores pos bytes) := by
  have h1 : Sound (takeCores (meetCtx s x.ctx) x cores) := sound_takeCores (sound_meetCtx h x.ctx) x cores
  refine sound_dropFetch (sound_modSlice (sound_modFab (sound_startGroups (sound_ageGang ?_ _ _) _ _ _ _ _ fun r hr => ?_) _) _
    _) _ _
  · exact sound_draw h1 1
  · exact groupRoles_regs hk (List.fst_mem_of_mem_zipIdx hr)

theorem sound_sliceOver (h : Sound s) (sid : Nat) : Sound (sliceOver s sid) := by
  unfold sliceOver
  split
  · exact h
  next x hx =>
  dsimp only
  split
  · exact h
  · split <;> exact sound_endOfSlice h (h.getSlice hx) _ _ _ _

theorem sound_prologueFault (h : Sound s) {x : Slice} (hx : x.Roomy) (cause va : Nat) (malformed : Bool) :
    Sound (prologueFault s x cause va malformed) := by
  have h1 := sound_sliceFault h x cause va malformed
  unfold prologueFault
  dsimp only
  split
  · exact sound_sliceOver (sound_endSlice (sound_modSlice h1 _ _) _ _) _
  · exact sound_endOfSlice h1 hx _ _ _ _

theorem sound_placeTeam (h : Sound s) {x : Slice} (hx : x.Roomy) {k : Kernel} (hk : k.Roomy) (cl : Nat)
    (ways : List (List Nat × List (List Nat))) : Sound (placeTeam s x k cl ways) := by
  unfold placeTeam
  extract_lets a s0
  have h0 : Sound s0 := sound_bump (sound_modSlice h _ _)
  split
  · exact sound_prologueFault h hx _ _ _
  split
  · exact h
  have hp := sound_readPrologue h0 x k
  split <;> rename_i he <;> rw [he] at hp
  · exact sound_sliceWaits hp _ _ _
  · exact sound_prologueFault hp hx _ _ _
  · exact h
  · exact sound_startTeam (sound_prefetchTiles hp x) x hk _ _ _ _

theorem sound_makeGang (h : Sound s) (own : Nat × Nat) (k : Kernel) (cl : Nat) : Sound (makeGang s own k cl) := by
  grind [makeGang, sound_iff]

theorem keepsSound_execTeamPlace (h : Sound s) (slice cluster : Nat) : KeepsSound (execTeamPlace slice cluster s) := by
  refine Sound.next ?_
  split
  · exact h
  next x hx =>
  have hr : x.Roomy := h.getSlice hx
  split
  · exact sound_entryFreed (sound_closeSlice h _ _)
  have hm := sound_meetRecord h x
  split <;> rename_i he <;> rw [he] at hm
  · exact sound_sliceOver (sound_endSlice hm _ _) _
  split
  · exact sound_endOfSlice hm hr _ _ _ _
  split
  · split
    · exact sound_prepareSlice hm hr
    · exact hm
  next k hk =>
  split
  · exact hm
  split
  · split
    · exact hm
    · exact sound_makeGang hm _ _ _
  · exact sound_placeTeam hm hr (hr k hk) _ _

theorem sound_dropPending (h : Sound s) (gid : Nat) : Sound (dropPending s gid) :=
  sound_filterOps (sound_mapCores h _) _

theorem sound_releaseBaton (h : Sound s) (g : Group) : Sound (releaseBaton s g) := by
  unfold releaseBaton
  split
  · exact h
  · refine sound_foldl _ _ h fun s x hs => ?_
    split
    · split
      · exact sound_applyBar (sound_modTCore hs _ _ _) _ _ _ _ _ _
      · exact hs
    · exact hs

theorem sound_retireTeam (h : Sound s) (tm : Team) : Sound (retireTeam s tm) :=
  sound_mapCores h _ fun c hc => by split <;> exact hc.keep rfl

theorem sound_filterGroups (h : Sound s) (p : Group → Bool) : Sound { s with groups := s.groups.filter p } := by
  obtain ⟨hg, hc, hx, hr, ho⟩ := h
  exact ⟨fun g hm => hg g (List.mem_of_mem_filter hm), hc, hx, hr, ho⟩

theorem sound_removeGroup (h : Sound s) (g : Group) : Sound (removeGroup s g) := by
  unfold removeGroup
  extract_lets s0 s1 sl s2 s3 s4
  have h2 : Sound s2 := sound_modSlot (sound_filterGroups (sound_releaseBaton h g) _) _ _ _
  have h3 : Sound s3 := by unfold s3; split <;> [exact sound_releaseBank h2 _ _; exact h2]
  have h4 : Sound s4 := by
    unfold s4
    split
    · exact sound_modCore h3 _ _ fun c hc => (Core.sound_filter hc _).keep rfl
    · exact h3
  split
  · exact h4
  · split
    · exact sound_sliceOver (sound_retireTeam h4 _) _
    · exact h4

theorem keepsSound_execGroupRetire (h : Sound s) (grp : Nat) : KeepsSound (execGroupRetire grp s) := by
  refine Sound.next ?_
  grind [sound_dropPending, sound_removeGroup]

/-! ## Issues, tokens and the commit gate -/

theorem sound_clearFetch (h : Sound s) (gid : Nat) : Sound (clearFetch s gid) := sound_modGroup h _ _

theorem sound_fetchWindow (h : Sound s) (g : Group) (mask : Mask) (pc : Dword) : Sound (fetchWindow s g mask pc) := by
  unfold fetchWindow
  extract_lets trap s0 a
  split
  · exact h
  split
  next root asid _ =>
  have ht := sound_translate (sound_clearFetch h g.id) root asid (levelS s0 g) pc.toNat .fetch
  split <;> rename_i he <;> rw [he] at ht
  · exact sound_takeTrapAt ht _ _ _ _ _ _
  · exact sound_modGroup (sound_postWaiting ht _ _ _ _ _ _) _ _
  · exact sound_modCore (sound_meetRun ht _ _ _) _ _

theorem sound_dropChosen (h : Sound s) (gid core : Nat) : Sound (dropChosen s gid core) :=
  sound_modCore (sound_modGroup h _ _) _ _

theorem sound_raiseDeferred (h : Sound s) (g : Group) (d : Deferred) : Sound (raiseDeferred s g d) := by
  unfold raiseDeferred
  extract_lets s1 set
  have h1 : Sound s1 := sound_dropChosen (sound_modGroup h _ _) _ _
  split
  · split <;> [exact sound_endSlice h1 _ _; exact h1]
  · exact sound_takeTrapAt h1 _ _ _ _ _ _

theorem sound_resolveSkip (h : Sound s) (g : Group) : Sound (resolveSkip s g) := by
  have hc {s : State} (h : Sound s) : Sound (modGroup s g.id fun g => { g with skipMask := 0 }) := sound_modGroup h _ _
  unfold resolveSkip
  extract_lets set pc clear trap
  have ht (c : Nat) (tv : Dword) : Sound (trap c tv) := sound_takeTrapAt (hc h) _ _ _ _ _ _
  split
  · exact hc h
  iterate 3
    split
    · exact ht _ _
  have hf := sound_fetchWindow h g set pc
  split
  · split
    · split <;> [exact hc hf; exact hf]
    · exact hf
  split
  · exact ht _ _
  split
  · exact ht _ _
  · exact sound_modGroup (hc h) _ _ fun _ hg => Group.shaped_advance hg _ _

theorem sound_fetchFatal (h : Sound s) (g : Group) : Sound (fetchFatal s g) := by
  grind [fetchFatal, sound_takeTrapAt, sound_clearFetch, sound_dropChosen]

theorem sound_parkGroup (h : Sound s) (gid core : Nat) (mask : Mask) (pc : Dword) (peers : List (Nat × Nat)) :
    Sound (parkGroup s gid core mask pc peers) :=
  sound_draw (sound_modGroup (sound_dropChosen h gid core) _ _) 1

theorem sound_boundaryIssue (h : Sound s) (g : Group) (x : Slice) : Sound (boundaryIssue s g x) := by
  grind [boundaryIssue, sound_takeTrapAt, sound_fetchWindow, sound_dropChosen, sound_parkGroup]

theorem sound_boundary (h : Sound s) (gid : Nat) : Sound (boundary s gid) := by
  grind [boundary, sound_raiseDeferred, sound_resolveSkip, sound_fetchFatal, sound_boundaryIssue]

theorem sound_mapGroups (h : Sound s) (f : Group → Group) (hf : ∀ g, g.Shaped → (f g).Shaped) :
    Sound { s with groups := s.groups.map f } := by
  obtain ⟨hg, hc, hx, hr, ho⟩ := h
  exact ⟨by simpa using fun g hm => hf g (hg g hm), hc, hx, hr, ho⟩

theorem sound_passOver (h : Sound s) (cyc : Nat) (chosen : Nat) (os : List Offer) : Sound (passOver s cyc chosen os) :=
  sound_mapGroups h _ fun g hg => by split <;> [exact hg.keep rfl rfl rfl; exact hg]

theorem sound_meetArray6 (h : Sound s) (g : Group) (x : Slice) : Sound (meetArray6 s g x) := by
  grind [meetArray6, sound_endSlice, sound_meetUnit]

theorem sound_meetGroupState (h : Sound s) (g : Group) (x : Slice) (i : Instr) : Sound (meetGroupState s g x i) := by
  grind [meetGroupState, sound_meetArray6]

theorem Group.shaped_issueAt {g : Group} (h : g.Shaped) (cyc : Nat) (o : Offer) : (g.issueAt cyc o).Shaped :=
  (shaped_lanes h fun i l hl => by split <;> [exact hl.keep rfl rfl; exact hl]).keep rfl rfl rfl

theorem Core.sound_account {c : Core} (h : c.Sound) (slot : Nat) (o : Offer) {r : Hist} (hr : r.grp.Shaped) (row : Nat) :
    (c.account slot o r row).Sound := by
  intro y hy
  rcases List.mem_append.1 hy with hy | hy
  · exact h y hy
  · exact List.mem_singleton.1 hy ▸ hr

theorem sound_issueNow (h : Sound s) (core slot : Nat) {o : Offer} (ho : o.g.Shaped) : Sound (issueNow s core slot o) := by
  unfold issueNow
  extract_lets c again counted r unyield
  split
  · extract_lets s1 s2 s3 reads s4
    have h2 : Sound s2 := sound_modCore (sound_modSlice h _ _) _ _ fun c hc => Core.sound_account hc _ _ ho _
    have h3 : Sound s3 := sound_mapGroups h2 _ fun g hg => by
      have hu : (unyield g).Shaped := hg.keep rfl rfl rfl
      split
      · exact Group.shaped_issueAt hu _ _
      · split <;> [exact hu; exact hg]
    have h4 : Sound s4 := sound_meetGroupState (sound_meetRegs h3 _ _) _ _ _
    split
    · exact sound_takeTrapAt h4 _ _ _ _ _ _
    · exact h4
  · exact h

theorem sound_issueOrTrap (h : Sound s) (core slot : Nat) {o : Offer} (ho : o.g.Shaped) : Sound (issueOrTrap s core slot o) := by
  unfold issueOrTrap
  split
  · exact sound_takeTrapAt (sound_dropChosen h _ _) _ _ _ _ _ _
  · exact sound_issueNow h core slot ho

theorem sound_lineUp (h : Sound s) (core gid : Nat) : Sound (lineUp s core gid) := sound_modCore h _ _

theorem sound_waitTokens (h : Sound s) (core gid : Nat) (mask : Mask) (pc : Dword) (price : Nat) :
    Sound (waitTokens s core gid mask pc price) :=
  sound_lineUp (sound_draw (sound_modGroup h _ _) 1) _ _

theorem sound_slotChoice (h : Sound s) (core slot : Nat) : Sound (slotChoice s core slot) := by
  unfold slotChoice
  extract_lets c ready may
  split
  · exact h
  extract_lets s1
  have h1 : Sound s1 := sound_modSlot (sound_passOver h _ _ _) _ _ _
  split
  · split
    next g hg => exact sound_issueOrTrap h1 _ _ (h1.getGroup hg)
    · exact h1
  · exact sound_waitTokens h1 _ _ _ _ _

/-- An offer names the group it was made for. -/
theorem offerAt_g {g : Group} {mask : Mask} {pc : Dword} {o : Offer} (h : offerAt s g mask pc = some o) : o.g = g := by
  unfold offerAt at h
  split at h
  · dsimp only at h
    split at h
    · cases h
    · cases h; rfl
  · cases h

/-- The offer that waits for tokens is that of a group of the state. -/
theorem takeWaiting_shaped (h : Sound s) {core slot : Nat} {ahead rest : List Nat} {o : Offer}
    (ho : takeWaiting s core slot ahead rest = some o) : o.g.Shaped := by
  induction rest generalizing ahead with
  | nil => cases ho
  | cons gid rest ih =>
    unfold takeWaiting at ho
    split at ho
    next q hq =>
      split at ho
      · cases ho
        obtain ⟨g, hg, hb⟩ := Option.bind_eq_some_iff.1 hq
        obtain ⟨c, -, hc⟩ := Option.bind_eq_some_iff.1 hb
        exact offerAt_g hc ▸ h.getGroup hg
      · exact ih ho
    · exact ih ho

theorem sound_tidyLine (h : Sound s) (core : Nat) : Sound (tidyLine s core) := by
  refine sound_foldl _ _ (sound_foldl _ _ h fun s gid hs => ?_) fun _ _ hs => sound_lineUp hs _ _
  split
  · split
    · exact sound_dropChosen hs _ _
    · split <;> [exact sound_modCore hs _ _; exact hs]
  · exact sound_dropChosen hs _ _

theorem sound_noteReady (h : Sound s) (gid : Nat) : Sound (noteReady s gid) := by
  unfold noteReady
  split
  · exact h
  split
  · exact h
  dsimp only
  split
  · exact h
  · exact sound_modGroup h _ _ fun g hg =>
      Group.shaped_modLanes (hg.keep rfl rfl rfl) _ fun l hl => hl.keep rfl rfl

theorem sound_slotCycle (h : Sound s) (core slot : Nat) : Sound (slotCycle s core slot) := by
  have h0 : Sound ((slotGroups s core slot).foldl (fun s g => noteReady s g.id) (settleHolds s)) :=
    sound_foldl _ _ (sound_settleHolds h) fun _ _ hs => sound_noteReady hs _
  have h1 := sound_foldl (fun s g => boundary s g.id) (slotGroups s core slot) (sound_tidyLine h0 core)
    fun _ _ hs => sound_boundary hs _
  unfold slotCycle
  extract_lets gs s0 s1 c
  split
  · exact h1
  split
  next o ho => exact sound_issueOrTrap h1 _ _ (takeWaiting_shaped h1 ho)
  · exact sound_slotChoice h1 _ _

theorem keepsSound_execIssueCycle (h : Sound s) (core slot : Nat) : KeepsSound (execIssueCycle core slot s) := by
  refine Sound.next ?_
  dsimp only
  split
  · exact h
  · refine sound_modCore (sound_slotCycle h _ _) _ _ fun c hc => ?_
    unfold nextSlotOf
    split <;> exact hc.keep rfl

theorem sound_mapIdxCores (h : Sound s) (f : Nat → Core → Core) (hf : ∀ i c, c.Sound → (f i c).Sound) :
    Sound { s with cores := s.cores.mapIdx f } := by
  obtain ⟨hg, hc, hx, hr, ho⟩ := h
  refine ⟨hg, fun c hm => ?_, hx, hr, ho⟩
  obtain ⟨i, hi, rfl⟩ := List.mem_mapIdx.1 hm
  exact hf i _ (hc _ (List.getElem_mem hi))

theorem sound_tick (h : Sound s) : Sound (tick s) := by
  unfold tick
  extract_lets s1 
  split
  · refine sound_sooner (sound_mapIdxCores (s := s1) h _ fun i c hc => ?_) _
    unfold Core.refill
    split <;> exact hc.keep rfl
  · exact h

theorem sound_settleBank (h : Sound s) (core slot : Nat) : Sound (settleBank s core slot) := by
  grind [settleBank, sound_dropBankWrites, sound_releaseBank]

theorem keepsSound_execCommitGateRelease (h : Sound s) (core : Nat) : KeepsSound (execCommitGateRelease core s) := by
  have h2 : Sound ((List.range 4).foldl (fun s slot => settleBank s core slot)
      (modCore s core fun c => { c with hist := c.hist.filter fun h => decide (c.cyc < h.cyc + 4) })) :=
    sound_foldl _ _ (sound_modCore h _ _ fun _ hc => Core.sound_filter hc _) fun _ _ hs => sound_settleBank hs _ _
  refine Sound.next (sound_foldl _ _ h2 fun s o hs => ?_)
  split
  · exact sound_passGate hs _
  · exact hs

theorem sound_chargeOp (h : Sound s) (o : Op) : Sound (chargeOp s o) := by
  unfold chargeOp
  split
  · exact h
  split
  · exact h
  · exact sound_modCore (sound_modSlice h _ _) _ _

theorem sound_opProceeds (h : Sound s) (g : Group) (o : Op) : Sound (opProceeds s g o) := by
  grind [opProceeds, sound_modOp, sound_dropOp, sound_passOp, sound_chargeOp]

theorem sound_parkedProceeds (h : Sound s) {g : Group} (hg : g.Shaped) (p : Chosen) : Sound (parkedProceeds s g p) := by
  unfold parkedProceeds
  extract_lets c
  split
  · exact h
  split
  · exact sound_unpark h _
  split
  · exact h
  next o ho =>
  extract_lets s1
  have hu : ({ o.g with parked := none } : Group).Shaped := by
    rw [offerAt_g ho]
    exact hg.keep rfl rfl rfl
  split
  · exact sound_issueOrTrap (sound_unpark h _) _ _ hu
  · exact sound_waitTokens (sound_unpark h _) _ _ _ _ _

theorem keepsSound_execParkedIssueProceed (h : Sound s) (grp : Nat) : KeepsSound (execParkedIssueProceed grp s) := by
  refine Sound.next ?_
  split
  · exact h
  next g hg =>
  split
  · exact sound_parkedProceeds h (h.getGroup hg) _
  · split <;> [exact sound_opProceeds h _ _; exact h]

/-! ## Events of the fabric -/

theorem sound_countAt (h : Sound s) (tm : Team) (core off n : Nat) : Sound (countAt s tm core off n) := by
  grind [countAt, sound_applyBar]

theorem sound_faultAt (h : Sound s) (tm : Team) (core off : Nat) (r : PeerReq) (low : Nat) :
    Sound (faultAt s tm core off r low) := by
  grind [faultAt, sound_setFault]

theorem sound_landPart (h : Sound s) (tm : Team) (core : Nat) (r : PeerReq) : Sound (landPart tm core s r) := by
  grind [landPart, sound_putScratch]

theorem sound_landParts (h : Sound s) (tm : Team) (core : Nat) (rs : List PeerReq) : Sound (landParts s tm core rs) := by
  unfold landParts
  split
  · exact h
  split
  · exact h
  split
  · exact sound_countAt (sound_foldl _ _ h fun _ _ hs => sound_landPart hs _ _ _) _ _ _ _
  · exact sound_faultAt h _ _ _ _ _

theorem sound_receivePart (h : Sound s) (tm : Team) (core : Nat) (r : PeerReq) : Sound (receivePart s tm core r) := by
  grind [receivePart, sound_modFab, sound_landParts]

theorem sound_performScratch (h : Sound s) (tm : Team) (core : Nat) (r : PeerReq) :
    Sound (performScratch s tm core r) := by
  grind [performScratch, sound_meetScratch, sound_faultAt, sound_receivePart]

theorem sound_performMemory (h : Sound s) (r : PeerReq) : Sound (performMemory s r) := by
  grind [performMemory, sound_poisonKeys, sound_meetKeys, sound_writeSector]

theorem sound_receiveScratch (h : Sound s) (r : PeerReq) : Sound (receiveScratch s r) := by
  grind [receiveScratch, sound_modTeam, sound_countRefuse, sound_performScratch]

theorem keepsSound_execPortRequestDiscard (h : Sound s) (r : PeerReq) : KeepsSound (execPortRequestDiscard r s) := by
  refine Sound.next ?_
  split <;> exact h

theorem sound_dropMarkers (h : Sound s) (m : Marker) : Sound (dropMarkers s m) := h

theorem sound_performSignal (h : Sound s) (tm : Team) (core : Nat) (m : Marker) : Sound (performSignal s tm core m) :=
    by
  grind [performSignal, sound_modTeam, sound_applyBar]

theorem sound_settleSignal (h : Sound s) (m : Marker) : Sound (settleSignal s m) := by
  grind [settleSignal, sound_modTeam, sound_countRefuse, sound_dropMarkers, sound_performSignal]

theorem keepsSound_execFlushMarkerReceive (h : Sound s) (m : Marker) : KeepsSound (execFlushMarkerReceive m s) := by
  refine Sound.next ?_
  grind [sound_modFab, sound_settleSignal]

theorem sound_performMarkers (h : Sound s) : Sound (performMarkers s) := by
  refine sound_foldl _ _ h fun s m hs => ?_
  split
  · exact sound_settleSignal hs _
  · exact hs

theorem sound_receiveMemory (h : Sound s) (r : PeerReq) : Sound (receiveMemory s r) := by
  grind [receiveMemory, sound_modFab, sound_performMemory, sound_performMarkers]

theorem keepsSound_execPeerRequestReceive (h : Sound s) (r : PeerReq) : KeepsSound (execPeerRequestReceive r s) := by
  refine Sound.next ?_
  grind [sound_countRefuse, sound_receiveScratch, sound_receiveMemory]

theorem sound_releaseReq (h : Sound s) (team : Nat) (r : PeerReq) : Sound (releaseReq team s r) := by
  grind [releaseReq, sound_performScratch]

theorem sound_releaseSigs (h : Sound s) (sigs : List (Nat × Marker)) (k : Nat) : Sound (releaseSigs sigs s k) :=
  sound_foldl _ _ h fun _ _ hs => sound_settleSignal hs _

theorem sound_performHeld (h : Sound s) (team : Nat) : Sound (performHeld s team) := by
  unfold performHeld
  split
  · exact h
  · exact sound_releaseSigs (sound_foldl _ _ (sound_modTeam h _ _)
      fun _ _ hs => sound_releaseReq (sound_releaseSigs hs _ _) _ _) _ _

theorem keepsSound_execTimeoutNoticeReceive (h : Sound s) (fkey : BitVec 16) (handle off : Nat) :
    KeepsSound (execTimeoutNoticeReceive fkey handle off s) := by
  refine Sound.next ?_
  grind [sound_modBar, sound_notifyWaits]

theorem sound_reportGone (h : Sound s) (team port : Nat) (handle : Dword) : Sound (reportGone s team port handle) :=
  sound_postReport h _ _ _ _ _ _ _

theorem sound_replyLine (h : Sound s) (r : Reply) (refused : Bool) (id n : Nat) : Sound (replyLine s r refused id n) :=
    by
  grind [replyLine, sound_countRefuse, sound_modLine, sound_markBar, sound_closeSector, sound_lineFatal,
    sound_settleDead, sound_reportGone]

theorem sound_replyOp (h : Sound s) (r : Reply) (id lane : Nat) : Sound (replyOp s r id lane) := by
  grind [replyOp, sound_modReq, sound_settleOp]

theorem sound_replySignal (h : Sound s) (r : Reply) (refused : Bool) (id : Nat) : Sound (replySignal s r refused id) :=
    by
  grind [replySignal, sound_iff, sound_countRefuse, sound_reportGone]

theorem sound_replyGather (h : Sound s) (r : Reply) (gid stream : Nat) : Sound (replyGather s r gid stream) := by
  grind [replyGather, sound_gatherGive]

theorem sound_deliver (h : Sound s) (r : Reply) (refused : Bool) (ref : Ref) : Sound (deliver s r refused ref) := by
  cases ref with
  | line id n => exact sound_replyLine h _ _ _ _
  | op id lane => exact sound_replyOp h _ _ _
  | sig id => exact sound_replySignal h _ _ _
  | gath gid stream => exact sound_replyGather h _ _ _

theorem keepsSound_execFabricReplyReceive (h : Sound s) (r : Reply) : KeepsSound (execFabricReplyReceive r s) := by
  refine Sound.next ?_
  grind [sound_setPeer, sound_modFab, sound_releaseTag, sound_deliver]

theorem sound_countTmo (h : Sound s) (sig : Bool) : Sound (countTmo s sig) := h

theorem sound_timeOutRef (h : Sound s) (ref : Ref) : Sound (timeOutRef s ref) := by
  have hc (b : Bool) := sound_countTmo h b
  cases ref with
  | line id n =>
    unfold timeOutRef
    grind [sound_timeoutBar, sound_modLine, sound_settleDead, sound_closeSector]
  | op id lane =>
    unfold timeOutRef
    grind [sound_settleOp, sound_modReq, sound_timeOutLane]
  | sig id =>
    unfold timeOutRef
    dsimp only
    split
    · refine sound_sendNotice ?_ _
      exact hc true
    · exact h
  | gath gid stream =>
    unfold timeOutRef
    dsimp only
    split
    · exact h
    · exact sound_gatherGive (sound_bump (hc false)) _ _

theorem keepsSound_execRequestTimeout (h : Sound s) (tag : Nat) : KeepsSound (execRequestTimeout tag s) := by
  refine Sound.next ?_
  grind [sound_releaseTag, sound_timeOutRef]

theorem keepsSound_execUnsentTimeout (h : Sound s) (req : Nat) : KeepsSound (execUnsentTimeout req s) := by
  refine Sound.next ?_
  split
  · exact h
  split
  · have h1 := sound_timeoutBar (sound_countTmo h false)
    grind [sound_dropLine, sound_modLine]
  split
  · exact sound_timeOutRef h _
  split
  · exact sound_foldl _ _ h fun _ _ hs => sound_timeOutRef hs _
  · exact h

theorem keepsSound_execTagQuarantineExpire (h : Sound s) (tag : Nat) : KeepsSound (execTagQuarantineExpire tag s) := by
  refine Sound.next ?_
  grind [sound_modFab]

theorem keepsSound_execPlaneEntrySwitch (h : Sound s) (entry : Nat) : KeepsSound (execPlaneEntrySwitch entry s) := by
  refine Sound.next ?_
  grind [sound_modFab]

theorem sound_rewriteEntries (h : Sound s) (q : Nat) : Sound (rewriteEntries s q) := by
  unfold rewriteEntries
  split
  · exact h
  · refine sound_foldl _ _ h fun s e hs => ?_
    split
    · exact sound_changePlane hs _ _
    · exact hs

theorem sound_modPort (h : Sound s) (p : Nat) (f : Port → Port) : Sound (modPort s p f) := h

theorem sound_startTraining (h : Sound s) (p attempt : Nat) (lanes : BitVec 4) : Sound (startTraining s p attempt lanes)
    := h

theorem keepsSound_execLinkFlitResend (h : Sound s) (port : Nat) : KeepsSound (execLinkFlitResend port s) := by
  refine Sound.next ?_
  grind [sound_bump, sound_modPort, sound_startTraining]

theorem keepsSound_execLinkRetrain (h : Sound s) (port : Nat) : KeepsSound (execLinkRetrain port s) := by
  refine Sound.next ?_
  grind [sound_startTraining]

theorem sound_portDown (h : Sound s) (p : Nat) (mine theirs : TrainResult) : Sound (portDown s p mine theirs) := by
  grind [portDown, sound_iff, sound_machineCheck, sound_checkReplace, sound_rewriteEntries, sound_modPort]

theorem sound_linkUp (h : Sound s) (p : Nat) (r : TrainResult) : Sound (linkUp s p r) := by
  grind [linkUp, sound_modFab, sound_modPort]

theorem keepsSound_execLinkTrainingBeat (h : Sound s) (port : Nat) (mine theirs : TrainResult) :
    KeepsSound (execLinkTrainingBeat port mine theirs s) := by
  refine Sound.next ?_
  grind [sound_startTraining, sound_portDown, sound_linkUp]

theorem keepsSound_execLaneShed (h : Sound s) (port : Nat) : KeepsSound (execLaneShed port s) := by
  refine Sound.next ?_
  grind [sound_modPort]

theorem keepsSound_execLaneRegain (h : Sound s) (port : Nat) : KeepsSound (execLaneRegain port s) := by
  refine Sound.next ?_
  grind [sound_modPort]

/-! ## The governor and the alarms -/

theorem sound_modPw (h : Sound s) (f : Power → Power) : Sound (modPw s f) := h

theorem sound_settleArrays (h : Sound s) : Sound (settleArrays s) :=
  sound_mapIdxCores h _ fun i c hc => by split <;> [exact hc; exact hc.keep rfl]

theorem sound_meetBallast (h : Sound s) : Sound (meetBallast s) := sound_foldl _ _ h fun _ _ hs => sound_meetAt hs _ _

/-- A slice that was not read yet has no kernel. -/
theorem Slice.roomy_of_none {x : Slice} (h : x.k = none) : x.Roomy := fun k hk => by simp [h] at hk

theorem sound_launchBallast (h : Sound s) : Sound (launchBallast s) := by
  unfold launchBallast
  split
  · exact h
  extract_lets s0
  have h0 : Sound s0 := sound_meetBallast h
  split
  · exact h0
  extract_lets p s1 y
  split
  · exact h0
  split
  · exact h0
  · exact sound_takeIn (sound_draw (s := s1) h0 1) (Slice.roomy_of_none rfl) _ _

theorem sound_stopBallast (h : Sound s) : Sound (stopBallast s) :=
  sound_mapSlices h _ fun x hx => by split <;> [exact hx.keep rfl; exact hx]

theorem sound_lend (h : Sound s) (k : Nat) : Sound (lend s k) := by
  grind [lend, sound_modPw]

/-- Cores rebuilt from those of the state, each with its records, in a state that is otherwise the same in what counts. -/
theorem Sound.rebuildCores {α : Type} {u : State} (h : Sound s) {rates : List α} {f : (Core × α) × Nat → Core}
    (hc : u.cores = (s.cores.zip rates).zipIdx.map f) (hf : ∀ x, (f x).hist = x.1.1.hist) (hg : u.groups = s.groups)
    (hx : u.slices = s.slices) (hr : u.rings = s.rings) (ho : u.ops = s.ops) (hn : u.nextId = s.nextId) : Sound u := by
  obtain ⟨ag, ac, ax, ar, ao⟩ := h
  refine ⟨hg ▸ ag, fun c hm => ?_, hx ▸ ax, hr ▸ ar, hn ▸ ho ▸ ao⟩
  obtain ⟨⟨⟨b, r⟩, i⟩, hz, rfl⟩ := List.mem_map.1 (hc ▸ hm)
  exact (ac b (List.of_mem_zip (List.fst_mem_of_mem_zipIdx hz)).1).keep (hf _)

theorem Core.cadence_hist (c : Core) (k : Nat) : (c.cadence k).hist = c.hist := by
  unfold cadence
  split <;> rfl

theorem sound_meetCtxs (h : Sound s) (cs : List Nat) : Sound (cs.foldl meetCtx s) :=
  sound_foldl _ _ h fun _ c hs => sound_meetCtx hs c

theorem sound_governorStep (h : Sound s) : Sound (governorStep s) := by
  unfold governorStep
  extract_lets s0 k hostNow sA ceil nonCore ended input static want pr surplus store back s1 rates s2 s3 s4
  have h0 : Sound s0 := sound_meetCtxs h _
  clear_value s0
  have h2 : Sound s2 := h0.rebuildCores rfl (fun _ => Core.cadence_hist _ _) rfl rfl rfl rfl rfl
  clear_value s2 surplus k
  clear rates s1 back store pr want static input ended nonCore ceil sA hostNow h0 s0
  have h3 : Sound s3 := sound_lend (sound_settleArrays h2) _
  refine sound_later ?_ _
  unfold s4
  split
  · exact sound_launchBallast h3
  · exact sound_stopBallast h3

theorem keepsSound_execGovernorStep (h : Sound s) : KeepsSound (execGovernorStep s) := by
  refine Sound.next ?_
  grind [sound_governorStep]

theorem keepsSound_execPowerIntentSend (h : Sound s) : KeepsSound (execPowerIntentSend s) := by
  refine Sound.next ?_
  grind [sound_iff, sound_modPw]

theorem keepsSound_execPowerIntentReceive (h : Sound s) (m : Intent) : KeepsSound (execPowerIntentReceive m s) := by
  refine Sound.next ?_
  grind [sound_modPw]

theorem keepsSound_execLeaseReceive (h : Sound s) (alloc expires : BitVec 64) : KeepsSound (execLeaseReceive alloc expires s) :=
    by
  refine Sound.next ?_
  grind [sound_modPw]

theorem keepsSound_execLeaseExpire (h : Sound s) : KeepsSound (execLeaseExpire s) := by
  refine Sound.next ?_
  grind [sound_modPw]

theorem keepsSound_execPacingHintReceive (hs : Sound s) (slice : Nat) (h : BitVec 64) :
    KeepsSound (execPacingHintReceive slice h s) := by
  refine Sound.next ?_
  split
  · exact sound_mapIdxCores (sound_modSlice hs slice _) _ fun i c hc => by split <;> [exact hc.keep rfl; exact hc]
  · exact hs

theorem keepsSound_execPacingExpire (h : Sound s) (core : Nat) : KeepsSound (execPacingExpire core s) := by
  refine Sound.next ?_
  grind [sound_modCore, Core.Sound]

theorem keepsSound_execDroopAlarmRaise (h : Sound s) (core : Nat) : KeepsSound (execDroopAlarmRaise core s) := by
  refine Sound.next ?_
  grind [sound_modCore, sound_settleArrays, Core.Sound]

theorem keepsSound_execDroopAlarmClear (h : Sound s) (core : Nat) : KeepsSound (execDroopAlarmClear core s) := by
  refine Sound.next ?_
  grind [sound_modCore, sound_settleArrays, Core.Sound]

theorem keepsSound_execStorageAlarmRaise (h : Sound s) : KeepsSound (execStorageAlarmRaise s) := by
  refine Sound.next ?_
  grind [sound_modPw, sound_settleArrays]

theorem keepsSound_execStorageAlarmClear (h : Sound s) : KeepsSound (execStorageAlarmClear s) := by
  refine Sound.next ?_
  grind [sound_modPw, sound_settleArrays]

theorem keepsSound_execUndervoltWindowEnd (h : Sound s) (core : Nat) : KeepsSound (execUndervoltWindowEnd core s) := by
  refine Sound.next ?_
  grind [sound_modCore, sound_modIsle, Core.Sound]

/-! ## Replay and degraded stacks -/

theorem sound_dropIssued (h : Sound s) (core gid first : Nat) : Sound (dropIssued s core gid first) :=
  sound_modCore (sound_filterOps h _) _ _

theorem sound_leaveBankQ (h : Sound s) (core gid : Nat) : Sound (leaveBankQ s core gid) := by
  grind [leaveBankQ, sound_modSlot]

/-- A record that is discarded is one of the core's. -/
theorem discarded_shaped {c : Core} (hc : c.Sound) {named gid : Nat} {r : Hist} (hr : r ∈ discarded c named gid) :
    r.grp.Shaped :=
  hc r (List.mem_of_mem_filter hr)

/-- A replay goes back to the group of the oldest record that it discards (R417). -/
theorem shaped_replayGroup (now : Group) (r : Hist) (rs : List Hist) (hr : r.grp.Shaped) : (replayGroup now (r :: rs)).Shaped :=
  List.foldlRecOn (r :: rs) _ (motive := Group.Shaped) (hr.keep rfl rfl rfl) fun _ hg _ _ => Group.shaped_markFree hg _ _

theorem getCore_sound (h : Sound s) (core : Nat) : (getCore s core).Sound := by
  rw [getCore, nth_eq_getD, List.getD_eq_getElem?_getD]
  cases hc : s.cores[core]? with
  | none => exact fun x hx => nomatch hx
  | some c => exact h.cores c (List.mem_of_getElem? hc)

theorem Slice.resumed_k (x : Slice) (gid first : Nat) : (x.resumed gid first).k = x.k := by
  unfold resumed
  split
  · split <;> rfl
  · rfl

theorem sound_replayOne (h : Sound s) (core named gid : Nat) : Sound (replayOne s core named gid) := by
  unfold replayOne
  split
  · exact h
  next r rs heq =>
  have hr : r.grp.Shaped := discarded_shaped (getCore_sound h core) (heq ▸ List.mem_cons_self)
  exact sound_leaveBankQ (sound_mapSlices
    (sound_modGroup (sound_dropIssued h core gid r.nextId) gid _ fun g _ => shaped_replayGroup g r rs hr) _
    fun x hx => hx.keep (Slice.resumed_k x _ _)) _ _

theorem keepsSound_execTimingErrorReplay (h : Sound s) (core : Nat) : KeepsSound (execTimingErrorReplay core s) := by
  have h1 (gids : List Nat) (named : Nat) : Sound (gids.foldl (fun s gid => replayOne s core named gid) (bump s)) :=
    sound_foldl _ _ (sound_bump h) fun _ _ hs => sound_replayOne hs _ _ _
  have h3 {s : State} (hs : Sound s) : Sound ((List.range 4).foldl (fun s slot => settleBank s core slot) s) :=
    sound_foldl _ _ hs fun _ _ hs => sound_settleBank hs _ _
  refine Sound.next ?_
  extract_lets c named gids s1 s2 s3
  split
  · exact h
  · have h4 : Sound s3 := h3 (sound_modCore (h1 _ _) _ _ fun _ hc => Core.sound_filter hc _)
    clear_value s3
    exact h4

theorem sound_dropGated (h : Sound s) (core : Nat) : Sound (dropGated s core) :=
  sound_modCore (sound_filterOps h _) _ _

theorem keepsSound_execLateTimingError (h : Sound s) (core : Nat) : KeepsSound (execLateTimingError core s) := by
  unfold execLateTimingError
  extract_lets c sids ctx s1 s2 s3
  have h1 : Sound s1 := sound_machineCheck (sound_dropGated (sound_bump h) _) _ _ _ _ _
  have h2 : Sound s2 := sound_modCore h1 _ _ fun c _ x hx => nomatch hx
  have h3 : Sound s3 := sound_foldl _ _ h2 fun _ _ hs => sound_endSlice hs _ _
  refine Sound.next ?_
  split
  · exact h
  · exact sound_checkReplace h3

theorem sound_degrade (h : Sound s) (stack pch : Nat) : Sound (degrade s stack pch) := by
  grind [degrade, sound_iff, sound_modHbm, sound_machineCheck, sound_checkReplace]

theorem keepsSound_execStackDegraded (h : Sound s) (stack : Nat) : KeepsSound (execStackDegraded stack s) := by
  refine Sound.next ?_
  grind [sound_bump, sound_degrade]

/-! ## Pre-emption and restore -/

theorem sound_stackCount (h : Sound s) (x : Slice) : Sound (stackCount s x).1 := by
  grind [stackCount, sound_cpRead]

theorem sound_stackWrite (h : Sound s) (x : Slice) (i n : Nat) : Sound (stackWrite s x i n) := sound_cpWrite h _ _ _ _ _

theorem sound_topRecord (h : Sound s) (x : Slice) : Sound (topRecord s x).1 := by
  grind [topRecord, sound_cpRead, sound_stackCount]

theorem sound_pushRecord (h : Sound s) (x : Slice) (a : Nat) : Sound (pushRecord s x a) := by
  grind [pushRecord, sound_stackCount, sound_stackWrite]

theorem sound_recordWrite (h : Sound s) (x : Slice) (va : Nat) (bs : List Byte) : Sound (recordWrite s x va bs) :=
  sound_foldl _ _ h fun _ _ hs => sound_cpWrite hs _ _ _ _ _

theorem sound_writeRecord (h : Sound s) (x : Slice) (t : Team) (a : Nat) : Sound (writeRecord s x t a) := by
  refine sound_foldl _ _ ?_ fun _ _ hs => sound_recordWrite hs _ _ _
  exact h

theorem sound_saveOps (h : Sound s) (g : Group) : Sound (saveOps s g) :=
  sound_modGroup (sound_filterOps h _) _ _ fun _ hg =>
    (List.foldlRecOn _ (fun g (o : Op) => g.markFree o.carried o.pc) (motive := Group.Shaped) hg
      fun _ hg o _ => Group.shaped_markFree hg o.carried o.pc).keep rfl rfl rfl

theorem sound_saveChosen (h : Sound s) (g : Group) : Sound (saveChosen s g) :=
  sound_modGroup (sound_dropChosen h _ _) _ _

theorem sound_saveWaits (h : Sound s) (g : Group) : Sound (saveWaits s g) := by
  grind [saveWaits, sound_saveOps, sound_saveChosen]

theorem sound_liftTeam (h : Sound s) (t : Team) (record : Nat) : Sound (liftTeam s t record) := by
  unfold liftTeam
  extract_lets mx erg phys s1 off
  have h1 : Sound s1 := sound_foldl _ _ h fun _ _ hs => sound_modCore hs _ _
  refine sound_modTeam (sound_mapGroups h1 off fun g hg => ?_) _ _
  unfold off
  split <;> [exact hg.keep rfl rfl rfl; exact hg]

theorem sound_meetTeam (h : Sound s) (t : Team) : Sound (meetTeam s t) :=
  sound_foldl _ _ (sound_foldl _ _ h fun _ _ hs => sound_foldl _ _ hs fun _ _ hs => sound_meetPart hs _ _ _ _)
    fun _ _ hs => sound_meetRegs hs _ _

theorem sound_meetEntries (h : Sound s) (x : Slice) (t : Team) : Sound (meetEntries s x t) :=
  sound_foldl _ _ h fun _ _ hs => sound_meetArray6 hs _ _

theorem sound_saveTeam (h : Sound s) (x : Slice) (t : Team) : Sound (saveTeam s x t) := by
  grind [saveTeam, sound_stackWrite, sound_topRecord, sound_writeRecord, sound_liftTeam, sound_meetTeam]

theorem sound_settleSaved (h : Sound s) (sid : Nat) : Sound (settleSaved s sid) := by
  grind [settleSaved, sound_modSlice, Slice.Roomy]

theorem keepsSound_execPreempt (h : Sound s) (slice : Nat) : KeepsSound (execPreempt slice s) := by
  refine Sound.next ?_
  split
  · exact h
  next x _ =>
  split
  · exact h
  have hc := sound_stackCount h x
  generalize stackCount s x = r at hc
  extract_lets ts
  split
  next s1 n =>
  split
  · exact sound_modSlice hc _ _
  extract_lets s2 s3 s4
  have h3 : Sound s3 := sound_foldl _ _ (sound_modSlice hc _ _) fun _ _ hs => sound_saveWaits hs _
  have h4 : Sound s4 := sound_foldl _ _ h3 fun _ _ hs => sound_meetEntries hs _ _
  split
  · split
    · exact h4
    · exact sound_settleSaved (sound_foldl _ _ h4 fun _ _ hs => sound_saveTeam hs _ _) _
  · exact h3

theorem sound_readPart (h : Sound s) (x : Slice) (va n : Nat) : Sound (readPart s x va n).1 := by
  grind [readPart, sound_cpRead]

theorem Lane.shaped_setStks {l : Lane} (h : l.Shaped) (js : List Nat) (w : Nat → Word) :
    (js.foldl (fun l j => l.setStk (l.rb + j) (w j)) l).Shaped :=
  List.foldlRecOn js _ (motive := Lane.Shaped) h fun _ hl _ _ => Lane.shaped_setStk hl _ _

/-- A group read back from its record has its shape again (R397). -/
theorem Group.shaped_load {g : Group} (h : g.Shaped) (gs js res : List Byte) : (g.load gs js res).Shaped := by
  obtain ⟨hn, hg, hb, ha⟩ := h
  refine ⟨by simpa [load] using hn, by simp [load, chunksOf], hb, fun l hl => ?_⟩
  obtain ⟨⟨m, i⟩, hm, rfl⟩ := List.mem_map.1 hl
  exact (Lane.shaped_setStks (ha m (List.fst_mem_of_mem_zipIdx hm)) _ _).keep rfl rfl

theorem sound_loadRecord (h : Sound s) (x : Slice) (t : Team) : Sound (loadRecord s x t) := by
  refine sound_foldl _ _ (sound_foldl _ _ ?_ fun s c hs => ?_) fun s y hs => ?_
  · have hr := sound_readPart h x (t.record.toNat + 1280) 528
    split <;> rename_i heq <;> rw [heq] at hr
    · exact sound_modTeam hr _ _
    · exact hr
  · have hr := sound_readPart hs x (t.record.toNat + coreOff t c) (coreSection t - 512)
    split <;> rename_i heq <;> rw [heq] at hr
    · exact sound_modTCore hr _ _ _
    · exact hr
  · have hr := sound_readPart hs x (t.record.toNat + y.1) 96
    dsimp only
    split
    next heq _ _ =>
      rw [heq] at hr
      exact sound_modGroup hr _ _ fun _ hg => Group.shaped_load hg _ _ _
    next heq _ =>
      rw [heq] at hr
      exact hr

theorem sound_restoreGroup (h : Sound s) (cores : List Nat) (g : Group) : Sound (restoreGroup s cores g) := by
  unfold restoreGroup
  extract_lets core cyc
  split
  refine sound_modGroup h _ _ fun g hg => (Group.shaped_lanes hg ?_).keep rfl rfl rfl
  exact fun i l hl => hl.keep rfl rfl

theorem sound_resumePending (h : Sound s) (t : Team) (cores : List Nat) : Sound (resumePending s t cores) :=
  sound_foldl _ _ (sound_foldl _ _ h fun _ _ hs => sound_modCore hs _ _) fun _ _ hs => sound_modCore hs _ _

theorem sound_reloadTeam (h : Sound s) (t : Team) (cores : List Nat) : Sound (reloadTeam s t cores) := by
  refine sound_foldl _ _ h fun s x hs => ?_
  split
  · exact hs
  · exact sound_reloadLatch hs _ _ _

theorem sound_restoreOn (h : Sound s) (x : Slice) (t : Team) (cl : Nat) (ways : List (List Nat × List (List Nat))) :
    Sound (restoreOn s x t cl ways) := by
  unfold restoreOn
  extract_lets w s0 s1 put s2 s3 s4 s5
  have h1 : Sound s1 := sound_takeCores (sound_loadRecord (sound_bump (sound_meetCtx h _)) _ _) _ _
  have h2 : Sound s2 := sound_ageGang (sound_modTeam h1 _ _) _ _
  have h3 : Sound s3 := sound_foldl _ _ h2 fun _ _ hs => sound_restoreGroup hs _ _
  have h4 : Sound s4 := sound_dropFetch (sound_resumePending (sound_reloadTeam h3 _ _) _ _) _ _
  exact sound_performHeld (sound_modSlice (sound_pushRecord h4 _ _) _ _) _

theorem keepsSound_execContextRestore (h : Sound s) (team cluster : Nat) : KeepsSound (execContextRestore team cluster s) := by
  refine Sound.next ?_
  grind [sound_makeGang, sound_restoreOn]

/-! ## The host, resets and bring-up -/

theorem sound_modHost (h : Sound s) (f : HostIf → HostIf) : Sound (modHost s f) := h

theorem sound_takeGo (h : Sound s) : Sound (takeGo s) := by
  grind [takeGo, sound_raiseVector, sound_modHost]

theorem keepsSound_execHctlGo (h : Sound s) : KeepsSound (execHctlGo s) := by
  refine Sound.next ?_
  grind [sound_modHost, sound_takeGo]

theorem sound_giveVerdict (h : Sound s) (token : Nat) (fatal : Bool) : Sound (giveVerdict s token fatal) := by
  unfold giveVerdict
  extract_lets req hit group
  have hgr (g : Group) (hg : g.Shaped) : (group g).Shaped := hg.keep rfl rfl rfl
  obtain ⟨hg, hc, hx, hr, ho⟩ := h
  refine ⟨fun g hm => ?_, fun c hm => ?_, fun x hm => ?_, hr, fun o hm => ?_⟩ <;> obtain ⟨y, hy, rfl⟩ := List.mem_map.1 hm
  · exact hgr y (hg y hy)
  · intro z hz
    obtain ⟨r, hr, rfl⟩ := List.mem_map.1 hz
    exact hgr _ (hc y hy r hr)
  · exact (hx y hy).keep rfl
  · exact ho y hy

theorem keepsSound_execSfqverdWrite (h : Sound s) (v : BitVec 64) : KeepsSound (execSfqverdWrite v s) := by
  refine Sound.next ?_
  grind [sound_giveVerdict]

theorem keepsSound_execSfqidxTailWrite (h : Sound s) (v : BitVec 64) : KeepsSound (execSfqidxTailWrite v s) := by
  refine Sound.next ?_
  grind [sound_sfqRelease, sound_modHost]

theorem keepsSound_execMcridxTailWrite (h : Sound s) (v : BitVec 64) : KeepsSound (execMcridxTailWrite v s) := by
  refine Sound.next ?_
  grind [sound_modHost]

theorem keepsSound_execBallstWrite (h : Sound s) (v : BitVec 64) : KeepsSound (execBallstWrite v s) := by
  refine Sound.next ?_
  grind [sound_modHost]

theorem sound_writeUntilGo (h : Sound s) (f : HostIf → HostIf) : Sound (writeUntilGo s f) := by
  grind [writeUntilGo, sound_modHost]

theorem sound_debugWrite (h : Sound s) (off : Nat) (v : Dword) : Sound (debugWrite s off v) := h

theorem keepsSound_execHostRegisterWrite (h : Sound s) (off : Nat) (v : BitVec 64) : KeepsSound (execHostRegisterWrite off v s) :=
    by
  refine Sound.next ?_
  grind [sound_writeUntilGo, sound_debugWrite]

theorem sound_performBarAtomic (h : Sound s) (acc : BarAccess) (a : BarAtomic) : Sound (performBarAtomic s acc a) := by
  grind [performBarAtomic, sound_iff, sound_meetKeys, sound_writeSector]

theorem sound_performBar (h : Sound s) (acc : BarAccess) : Sound (performBar s acc) := by
  unfold performBar
  extract_lets keys s1
  split
  · exact sound_foldl _ _ h fun _ _ hs => sound_writeSector hs _ _ _ _ _
  · exact sound_meetKeys h _

theorem keepsSound_execHostBar4Access (h : Sound s) (acc : BarAccess) : KeepsSound (execHostBar4Access acc s) := by
  refine Sound.next ?_
  grind [sound_modHost, sound_performBarAtomic, sound_performBar]

theorem sound_coldReset (s : State) : Sound (coldReset s) := by
  have none_mem {α : Type} {p : α → Prop} : ∀ x ∈ ([] : List α), p x := fun _ h => absurd h List.not_mem_nil
  refine ⟨none_mem, fun c hc => ?_, none_mem, none_mem, none_mem⟩
  rw [List.eq_of_mem_replicate hc]
  exact none_mem

theorem sound_requestReset (h : Sound s) : Sound (requestReset s) := by
  grind [requestReset, sound_modHost, sound_coldReset]

theorem keepsSound_execHctlCrst (h : Sound s) : KeepsSound (execHctlCrst s) := by
  refine Sound.next ?_
  grind [sound_requestReset]

theorem keepsSound_execFreezeAssert (h : Sound s) : KeepsSound (execFreezeAssert s) := by
  refine Sound.next ?_
  grind [sound_raiseVector, sound_raiseAlert, sound_modHost]

theorem keepsSound_execFreezeRelease (h : Sound s) : KeepsSound (execFreezeRelease s) := by
  refine Sound.next ?_
  grind [sound_modHost, sound_coldReset]

theorem sound_bringIslands (h : Sound s) : Sound (bringIslands s) := by
  obtain ⟨hg, hc, hx, hr, ho⟩ := h
  refine ⟨hg, fun c hm => ?_, hx, hr, ho⟩
  obtain ⟨⟨b, i⟩, hz, rfl⟩ := List.mem_map.1 hm
  exact (hc b (List.fst_mem_of_mem_zipIdx hz)).keep rfl

theorem sound_bringStacks (h : Sound s) : Sound (bringStacks s) := by
  have h1 : Sound ((List.range 512).foldl (fun s i =>
      if Config.freeBool (s.fresh + i) then degrade s (i / 64) (i % 64) else s) s) := by
    refine sound_foldl _ _ h fun s i hs => ?_
    split
    · exact sound_degrade hs _ _
    · exact hs
  unfold bringStacks
  generalize List.foldl _ _ _ = u at h1 ⊢
  exact h1

theorem sound_bringRemaps (h : Sound s) : Sound (bringRemaps s) := by
  grind [bringRemaps, sound_iff, sound_checkReplace]

theorem sound_bringLinks (h : Sound s) : Sound (bringLinks s) := by
  refine sound_foldl _ _ h fun s p hs => ?_
  have h1 : Sound { s with fresh := s.fresh + 9 } := hs
  dsimp only
  split
  · exact sound_portDown h1 _ _ _
  · exact sound_linkUp h1 _ _

theorem keepsSound_execBringUpComplete (h : Sound s) : KeepsSound (execBringUpComplete s) := by
  refine Sound.next ?_
  grind [sound_iff, sound_checkReplace, sound_modHost, sound_takeGo, sound_bringIslands, sound_bringStacks,
    sound_bringRemaps, sound_bringLinks]

theorem sound_catchUp (h : Sound s) (n : Nat) : Sound (catchUp s n) := by
  cases n with
  | zero => exact h
  | succ n => exact sound_tick (s := { s with agenda := [] }) h

/-! ## Special functions -/

theorem sound_sfuOp (h : Sound s) (t : TI) (f : Sfu) : Sound (sfuOp s t f) := sound_laneOp h _ _ _

/-! ## Every instruction and every event, and the step -/

theorem keepsSound_exec (h : Sound s) (i : Instr) : KeepsSound (exec i s) := by
  cases i with
  | iadd t | isub t | imul t | imulh t | imin t | imax t | and t | or t | xor t | andn t | shl t | shr t | sar t
  | rot t | icmp t => exact (sound_lane2 h _ _ _).next
  | imad t | bfx t | bfi t | sad t | dp4 t => exact (sound_lane3 h _ _ _).next
  | iabs t | ineg t | popc t | clz t | ctz t | brev t | mov t | spmap t => exact (sound_lane1 h _ _ _).next
  | sel t | imad64 t | mov64 t | icmp64 t | ffma t | fmin t | fmax t | fcmp t | frnd t | fscale t | fclass t | upkb8 t
  | bscale t | ballot t | mpopc t | redux t | matchOp t => exact (sound_laneOp h _ _ _).next
  | iadd64 t | isub64 t => exact (sound_long2 h _ _).next
  | shl64 t | shr64 t | lea t => exact (sound_longShift h _ _).next
  | fadd t | fsub t | fmul t => exact (sound_float2 h _ _).next
  | hadd2 t | hmul2 t | hfma2 t => exact (sound_half2 h _ _).next
  | cvt t src | pkb8 t => exact (sound_laneOpSr h _ _ _ _).next
  | rcp t | rsq t | sqrt t | exp2 t | log2 t | sint t | cost t | tanh t => exact (sound_sfuOp h _ _).next
  | shflIdx t | shflUp t | shflDn t | shflXor t => exact (sound_shuffle h _ _).next
  | gadd t | gsub t | gmul t => exact (sound_groupArith h _ _).next
  | glog t | gshf t | gmov t | gcmp t | rdln t => exact (sound_groupOp h _ _).next
  | bra t | brc t | brp t | braAlw t => exact (sound_branch h _ _).next
  | call t | callr t => exact (sound_callOp h _ _ _ _).next
  | nop t => exact (sound_issueDone h _).next
  | tret t => exact (sound_returnFromTrap h _).next
  | ld t | st t | atom t | red t => exact (sound_globalAccess h _ _ _ _ _).next
  | lds t | sts t | ldsr t | stsr t | atoms t => exact (sound_scratchAccess h _ _ _ _ _ _ _).next
  | fence t | drain t => exact (sound_holdFibres h _ _).next
  | cpy t | cpyr t | cpyred t => exact (sound_copyOp h _ _).next
  | mxlw t | mxrow t | mxzero t | mxrd t | mxwr t | mxst t | mxflgRd t | mxflgClr t | mxflgOrr t =>
    exact (sound_mxIssue h _ _ _ _).next
  | ergc t | ergkIn t | ergkOut t | ergkRst t | ergkInv t | ergt t | ergmRd t | ergmWr t | ergmClr t | ergmDesc t =>
    exact (sound_ergIssue h _ _ _ _).next
  | scrbRow t | scrbQry t => exact (sound_scrbIssue h _ _).next
  | rspr t | tlbi t => exact (sound_systemHold h _ _ _ _ _).next
  | haltcHalt t | haltcResume t | haltcStep t => exact (sound_haltcIssue h _ _).next
  | cwrFstat t => exact keepsSound_execCwrFstat h t
  | cwrChecksb t => exact (sound_cwrIn h _ _).next
  | cwrSkipw t | cwrMxcad t | cwrPlane t | cwrUven t | cwrSiteal t | cwrSlew t | cwrPriced t | cwrCrwrej t
  | cwrFabstat t | cwrHealth t | cwrSpconf t => exact (sound_cwrOut h _ _).next
  | tokenRefill => exact (sound_tick h).next
  | memoryGrant op => exact (sound_memoryGrant h _).next
  | globalWritePerform op sector => exact (sound_writePerform h _ _).next
  | atomicPerform op => exact (sound_atomicPerform h _).next
  | scratchServiceCycle op => exact (sound_scratchService h _).next
  | gatherElementRead grp => exact (sound_gatherRead h _).next
  | barrierApply op => exact (sound_barrierApply h _).next
  | bwaitComplete op => exact (sound_bwaitComplete h _).next
  | bwaitBarfault op => exact (sound_bwaitBarfault h _).next
  | bwaitLimitExpire op => exact (sound_bwaitLimitExpire h _).next
  | drainEnd op => exact (sound_drainEnd h _).next
  | fenceEnd op => exact (sound_fenceEnd h _).next
  | copyLineFault line => exact (sound_copyFault h _).next
  | matrixOpStart core => exact (sound_mxStart h _).next
  | matrixRowComplete core => exact (sound_mxComplete h _).next
  | ergOpComplete core => exact (sound_ergComplete h _).next
  | mgmtAlertRead => exact (sound_modHost h _).next
  | coldReset => exact (sound_requestReset h).next
  | tbsyncPulse adjust => exact (sound_catchUp h _).next
  | powerGroupMemberListWrite members => exact (sound_modPw h _).next
  | vote t => exact keepsSound_execVote h t
  | gld t => exact keepsSound_execGld h t
  | mark t => exact keepsSound_execMark h t
  | join t => exact keepsSound_execJoin h t
  | ret t => exact keepsSound_execRet h t
  | exit t => exact keepsSound_execExit h t
  | fork t => exact keepsSound_execFork h t
  | yield t => exact keepsSound_execYield h t
  | trap t => exact keepsSound_execTrap h t
  | brk t => exact keepsSound_execBrk h t
  | pref t => exact keepsSound_execPref h t
  | gath t => exact keepsSound_execGath h t
  | qpop t => exact keepsSound_execQpop h t
  | binit t => exact keepsSound_execBinit h t
  | barvOne t => exact keepsSound_execBarvOne h t
  | barvEach t => exact keepsSound_execBarvEach h t
  | bexp t => exact keepsSound_execBexp h t
  | bwait t => exact keepsSound_execBwait h t
  | btest t => exact keepsSound_execBtest h t
  | brd t => exact keepsSound_execBrd h t
  | rbind t => exact keepsSound_execRbind h t
  | rfree t => exact keepsSound_execRfree h t
  | cpysig t => exact keepsSound_execCpysig h t
  | alwb t => exact keepsSound_execAlwb h t
  | alwr t => exact keepsSound_execAlwr h t
  | enq t => exact keepsSound_execEnq h t
  | budr t => exact keepsSound_execBudr h t
  | crd t => exact keepsSound_execCrd h t
  | cwr t => exact keepsSound_execCwr h t
  | crdStk t => exact keepsSound_execCrdStk h t
  | cwrStk t => exact keepsSound_execCwrStk h t
  | crdJs t => exact keepsSound_execCrdJs h t
  | cwrJs t => exact keepsSound_execCwrJs h t
  | crdTs t => exact keepsSound_execCrdTs h t
  | cwrTs t => exact keepsSound_execCwrTs h t
  | cwrSrseed t => exact keepsSound_execCwrSrseed h t
  | issueCycle core slot => exact keepsSound_execIssueCycle h core slot
  | loadDataReturn op => exact keepsSound_execLoadDataReturn h op
  | commitGateRelease core => exact keepsSound_execCommitGateRelease h core
  | copySectorLand line sector => exact keepsSound_execCopySectorLand h line sector
  | parkedIssueProceed grp => exact keepsSound_execParkedIssueProceed h grp
  | peerRequestReceive r => exact keepsSound_execPeerRequestReceive h r
  | portRequestDiscard r => exact keepsSound_execPortRequestDiscard h r
  | fabricReplyReceive r => exact keepsSound_execFabricReplyReceive h r
  | requestTimeout tag => exact keepsSound_execRequestTimeout h tag
  | unsentTimeout req => exact keepsSound_execUnsentTimeout h req
  | timeoutNoticeReceive fkey handle off => exact keepsSound_execTimeoutNoticeReceive h fkey handle off
  | tagQuarantineExpire tag => exact keepsSound_execTagQuarantineExpire h tag
  | flushMarkerReceive m => exact keepsSound_execFlushMarkerReceive h m
  | planeEntrySwitch entry => exact keepsSound_execPlaneEntrySwitch h entry
  | linkFlitResend port => exact keepsSound_execLinkFlitResend h port
  | linkRetrain port => exact keepsSound_execLinkRetrain h port
  | linkTrainingBeat port mine theirs => exact keepsSound_execLinkTrainingBeat h port mine theirs
  | laneShed port => exact keepsSound_execLaneShed h port
  | laneRegain port => exact keepsSound_execLaneRegain h port
  | governorStep => exact keepsSound_execGovernorStep h
  | powerIntentSend => exact keepsSound_execPowerIntentSend h
  | powerIntentReceive m => exact keepsSound_execPowerIntentReceive h m
  | leaseReceive alloc expires => exact keepsSound_execLeaseReceive h alloc expires
  | leaseExpire => exact keepsSound_execLeaseExpire h
  | pacingHintReceive slice hint => exact keepsSound_execPacingHintReceive h slice hint
  | pacingExpire core => exact keepsSound_execPacingExpire h core
  | droopAlarmRaise core => exact keepsSound_execDroopAlarmRaise h core
  | droopAlarmClear core => exact keepsSound_execDroopAlarmClear h core
  | storageAlarmRaise => exact keepsSound_execStorageAlarmRaise h
  | storageAlarmClear => exact keepsSound_execStorageAlarmClear h
  | undervoltWindowEnd core => exact keepsSound_execUndervoltWindowEnd h core
  | spareRowCopyStep bank => exact keepsSound_execSpareRowCopyStep h bank
  | timingErrorReplay core => exact keepsSound_execTimingErrorReplay h core
  | lateTimingError core => exact keepsSound_execLateTimingError h core
  | stackDegraded stack => exact keepsSound_execStackDegraded h stack
  | packetTakeIn ctx queue => exact keepsSound_execPacketTakeIn h ctx queue
  | teamPlace slice cluster => exact keepsSound_execTeamPlace h slice cluster
  | groupRetire grp => exact keepsSound_execGroupRetire h grp
  | preempt slice => exact keepsSound_execPreempt h slice
  | contextRestore team cluster => exact keepsSound_execContextRestore h team cluster
  | enqRetry op => exact keepsSound_execEnqRetry h op
  | ringPageRetry ctx => exact keepsSound_execRingPageRetry h ctx
  | hostNotifyWrite ctx queue widx => exact keepsSound_execHostNotifyWrite h ctx queue widx
  | hctlGo => exact keepsSound_execHctlGo h
  | hctlCrst => exact keepsSound_execHctlCrst h
  | sfqverdWrite v => exact keepsSound_execSfqverdWrite h v
  | sfqidxTailWrite v => exact keepsSound_execSfqidxTailWrite h v
  | mcridxTailWrite v => exact keepsSound_execMcridxTailWrite h v
  | ballstWrite v => exact keepsSound_execBallstWrite h v
  | hostRegisterWrite off v => exact keepsSound_execHostRegisterWrite h off v
  | hostBar4Access acc => exact keepsSound_execHostBar4Access h acc
  | bringUpComplete => exact keepsSound_execBringUpComplete h
  | freezeAssert => exact keepsSound_execFreezeAssert h
  | freezeRelease => exact keepsSound_execFreezeRelease h
  | thermtrip => exact (sound_raiseAlert (sound_modHost h _)).next

/-- A step runs the instruction that it fetches, or its trap; or the first event of the agenda; or the event at hand. -/
theorem keepsSound_step (h : Sound s) : KeepsSound (step s) := by
  unfold step
  split
  · split
    · exact keepsSound_fault _
    · split
      · exact keepsSound_exec h _
      · exact (sound_takeTrap h _ _).next
  · split
    next i is _ =>
      split
      · refine keepsSound_exec ?_ i
        exact h
      · refine Sound.next ?_
        exact h
    · exact keepsSound_exec (sound_bump h) _
/-- Every instruction and every event answers a next state. -/
theorem exec_total (i : Instr) (s : State) : ∃ u, exec i s = .next u := by
  cases i <;> exact ⟨_, rfl⟩

/-- A step stops only where an issue in hand names no group. -/
theorem step_total (hb : s.busy = true → ∃ g, curGroup s = some g) : ∃ u, step s = .next u := by
  unfold step
  split
  next h =>
    obtain ⟨g, hg⟩ := hb h
    split
    next hn => simp [hg] at hn
    · split
      · exact exec_total _ _
      · exact ⟨_, rfl⟩
  · split
    · split
      · exact exec_total _ _
      · exact ⟨_, rfl⟩
    · exact exec_total _ _

/-- Settles O60: shapes, kernels and handles are one invariant, `Sound`, which every instruction, every event and every step
keeps; and a step gets stuck only in an issue of no group. -/
theorem everyStepKeepsShapesAndHandles : Obligations.EveryStepKeepsShapesAndHandles := by
  refine ⟨fun i s u hs hk hh hu => ?_, fun s u hs hk hh hu => ?_, fun s => step_total⟩
  · exact sound_iff_ok.1 (keepsSound_exec (sound_iff_ok.2 ⟨hs, hk, hh⟩) i u hu)
  · exact sound_iff_ok.1 (keepsSound_step (sound_iff_ok.2 ⟨hs, hk, hh⟩) u hu)

end Sys2Proof.Machine

/-! SUPPORT. What a step fetches and checks (R42, R48, R54, R58, R62, R288, R381), what comes next when no issue is in
hand, and the state after reset (R31, R429). -/

namespace Sys2Proof.Machine

open Sys2Proof.Safety

set_option Elab.async false

/-! ## Fetch and decode -/

theorem decodeBytes_wf {bs : List Byte} {i : Instr} (h : decodeBytes bs = .ok i) : i.wf = true := by
  unfold decodeBytes decode at h
  split at h
  · cases h
  · split at h
    · cases h
    · split at h
      next hw => cases h; exact hw
      · cases h

theorem fetchInstr_of_bytes {s : State} {g : Group} {pc : Dword} {bs : List Byte} {i : Instr}
    (hb : fetchBytes s g pc = some bs) (hi : decodeBytes bs = .ok i) : fetchInstr s g pc = some i := by
  simp [fetchInstr, hb, hi]

/-- An instruction that the checks let through is the one that the held bytes decode to. -/
theorem fetchRes_ok {s : State} {g : Group} {pc : Dword} {i : Instr} (h : fetchRes s g pc = .ok i) :
    ∃ bs, fetchBytes s g pc = some bs ∧ decodeBytes bs = .ok i := by
  unfold fetchRes at h
  iterate 3
    split at h
    · cases h
  split at h
  · cases h
  next bs hb =>
  split at h
  · cases h
  split at h
  · cases h
  split at h
  · cases h
  dsimp only at h
  split at h
  next j hj =>
    refine ⟨bs, hb, ?_⟩
    unfold legalHere at h
    split at h
    · cases h
    split at h
    · cases h
    · cases h; exact hj
  · cases h

/-- A step with an issue in hand runs the instruction that stands at its address. -/
theorem step_busy {s : State} {g : Group} {i : Instr} (hb : s.busy = true) (hg : curGroup s = some g)
    (hi : fetchInstr s g s.cur.pc = some i) : step s = exec i s := by
  simp [step, hb, hg, hi]

/-- What the bytes at an address give, once the address itself passes (R58, checks 3 to 5). -/
theorem fetchRes_held {s : State} {g : Group} {pc : Dword} (ha : pc.toNat % 4 = 0) (hl : pc.toNat < 2 ^ 57)
    (hs : pc.toNat < 2 ^ 56 ∨ levelS s g = true) {bs : List Byte} (hb : fetchBytes s g pc = some bs) :
    fetchRes s g pc =
      if fetchPoisoned s g pc ((parcelLen bs).getD 4) then .trap 0x0B pc
      else match parcelLen bs with
        | none => .trap 0x01 (BitVec.ofNat 64 (bitsOfBytes (bs.take 4)))
        | some n =>
          if bs.length < n then .trap 0x02 (BitVec.ofNat 64 ((pc.toNat / 32 + 1) * 32))
          else match decodeBytes bs with
            | .ok i => legalHere s g i (BitVec.ofNat 64 (bitsOfBytes (bs.take 8)))
            | .error _ => .trap 0x01 (BitVec.ofNat 64 (bitsOfBytes (bs.take 8))) := by
  have h2 : ¬ pc.toNat ≥ 2 ^ 57 := by omega
  have h3 : ¬ (pc.toNat ≥ 2 ^ 56 ∧ (!levelS s g) = true) := by
    rcases hs with hs | hs
    · omega
    · simp [hs]
  rw [fetchRes, if_neg (not_not.2 ha), if_neg h2, if_neg h3, hb] <;> rfl

/-- A step's checks of the address (R58, checks 1 and 2). -/
theorem fetchRes_of_address (s : State) (g : Group) (pc : Dword) :
    (pc.toNat % 4 ≠ 0 → fetchRes s g pc = .trap 0x02 pc) ∧
    (pc.toNat % 4 = 0 → 2 ^ 57 ≤ pc.toNat → fetchRes s g pc = .trap 0x08 pc) ∧
    (pc.toNat % 4 = 0 → 2 ^ 56 ≤ pc.toNat → pc.toNat < 2 ^ 57 → levelS s g = false → fetchRes s g pc = .trap 0x09 pc) := by
  refine ⟨fun h => if_pos h, fun h hl => ?_, fun h hl hu hs => ?_⟩
  · rw [fetchRes, if_neg (not_not.2 h), if_pos hl]
  · rw [fetchRes, if_neg (not_not.2 h), if_neg (by omega), if_pos ⟨hl, by simp [hs]⟩]

theorem parcelLen_eq (bs : List Byte) :
    parcelLen bs = if (bs.headD 0).toNat % 4 = 3 then none else some (8 + 4 * ((bs.headD 0).toNat % 4)) := rfl

theorem parcelLen_getD (bs : List Byte) :
    (parcelLen bs).getD 4 = if (bs.headD 0).toNat % 4 = 3 then 4 else 8 + 4 * ((bs.headD 0).toNat % 4) := by
  rw [parcelLen_eq]
  split <;> rfl

/-- The last part of check 5: the level, then the mode (R27, R288, R400). -/
theorem legalHere_cases (s : State) (g : Group) (i : Instr) (word : Dword) :
    let mode : Prop := (i.sysForm = true → g.st.active = true) ∧ i.modeOk (maskMode s g) = true
    (i.levelS = true → levelS s g = false → legalHere s g i word = .trap 0x09 word) ∧
    (i.levelS = false ∨ levelS s g = true → ¬ mode → legalHere s g i word = .trap 0x01 word) ∧
    (i.levelS = false ∨ levelS s g = true → mode → legalHere s g i word = .ok i) := by
  intro mode
  have hm : ((i.sysForm && !g.st.active) || !i.modeOk (maskMode s g)) = true ↔ ¬ mode := by
    cases hf : i.sysForm <;> cases ha : g.st.active <;> simp [mode, hf, ha]
  have hl (h : i.levelS = false ∨ levelS s g = true) : ¬ (i.levelS && !levelS s g) = true := by
    rcases h with h | h <;> simp [h]
  refine ⟨fun h1 h2 => if_pos (by simp [h1, h2]), fun h1 h2 => ?_, fun h1 h2 => ?_⟩
  · rw [legalHere, if_neg (hl h1), if_pos (hm.2 h2)]
  · rw [legalHere, if_neg (hl h1), if_neg fun h => hm.1 h h2]

/-- Checks 6 and 7 (R54, R62, R58). -/
theorem lateCheck_cases (v : View) (i : Instr) :
    let conv : Prop := (∃ t, sig i = some t ∧ t.conv = true) ∧ classOf i ≠ some 12 ∧ classOf i ≠ some 13
    let reads : Prop := (∃ h, hdrOf i = some h ∧ v.parts h ≠ 0) ∧ readsG v i = true
    let diverged : Prop := (conv ∨ reads) ∧ v.g.converged v.pc = false
    let early : Prop := v.g.checksb = true ∧ ∃ d ∈ readPlaces v i, ∃ e ∈ v.g.early, e.dst = d ∧ v.cyc < e.untl
    (diverged → lateCheck v i = some 0x04) ∧
    (¬ diverged → early → lateCheck v i = some 0x03) ∧
    (¬ diverged → ¬ early → lateCheck v i = none) := by
  intro conv reads diverged early
  have hc : (((sig i).map Sig.conv).getD false && classOf i != some 12 && classOf i != some 13) = true ↔ conv := by
    cases hs : sig i <;> simp [conv, hs, and_assoc]
  have hr : (((hdrOf i).map fun h => v.parts h).getD 0 != 0 && readsG v i) = true ↔ reads := by
    cases hh : hdrOf i <;> simp [reads, hh]
  have hd : (((((sig i).map Sig.conv).getD false && classOf i != some 12 && classOf i != some 13) ||
      (((hdrOf i).map fun h => v.parts h).getD 0 != 0 && readsG v i)) && !v.g.converged v.pc) = true ↔ diverged := by
    rw [Bool.and_eq_true, Bool.or_eq_true, hc, hr, Bool.not_eq_true']
  have he : (v.g.checksb && (readPlaces v i).any (earlyAt v.g v.cyc)) = true ↔ early := by
    simp [early, earlyAt]
  unfold lateCheck
  refine ⟨fun h => if_pos (hd.2 h), fun h1 h2 => ?_, fun h1 h2 => ?_⟩
  · rw [if_neg fun h => h1 (hd.1 h), if_pos (he.2 h2)]
  · rw [if_neg fun h => h1 (hd.1 h), if_neg fun h => h2 (he.1 h)]

theorem nth_mem_or {α : Type} (d : α) (xs : List α) (n : Nat) : nth d xs n ∈ xs ∨ nth d xs n = d := by
  rw [nth_eq_getD, List.getD_eq_getElem?_getD]
  cases h : xs[n]? with
  | none => exact .inr rfl
  | some x => exact .inl (List.mem_of_getElem? h)

/-- What comes next of itself is a tick, or an event that the running device may take. -/
theorem autonomous_cases (s : State) : autonomous s = .tokenRefill ∨ live s = true ∧ autonomous s ∈ enabled s := by
  unfold autonomous
  dsimp only
  split
  next hl =>
    rcases nth_mem_or .tokenRefill (Instr.tokenRefill :: enabled s)
      (Config.choice s.fresh % (Instr.tokenRefill :: enabled s).length) with h | h
    · exact (List.mem_cons.1 h).imp_right fun h => ⟨hl, h⟩
    · exact .inl h
  · exact .inl rfl

/-! ## The bytes of a word -/

theorem bitsOfBytes_toBytes (n k : Nat) : bitsOfBytes (toBytes n k) = n % 256 ^ k := by
  induction k generalizing n with
  | zero => simp [toBytes, bitsOfBytes, Nat.mod_one]
  | succ k ih =>
    rw [toBytes, bitsOfBytes, ih, BitVec.toNat_ofNat, Nat.pow_succ 256, Nat.mul_comm _ 256, Nat.mod_mul]

theorem take_toBytes (n j k : Nat) : (toBytes n (j + k)).take j = toBytes n j := by
  induction j generalizing n with
  | zero => simp [toBytes]
  | succ j ih => simp [Nat.add_right_comm, toBytes, ih]

/-- The bytes of a word decode as the word does. -/
theorem decodeBytes_toBytes {nbits w : Nat} {i : Instr} (h : decodeTableWord nbits w = some i) :
    decodeBytes (toBytes (w % 2 ^ nbits) 32) = .ok i := by
  have hw : BitVec.ofNat 128 (bitsOfBytes ((toBytes (w % 2 ^ nbits) 32).take 16)) = BitVec.ofNat 128 (w % 2 ^ nbits) := by
    rw [take_toBytes _ 16 16, bitsOfBytes_toBytes]
    apply BitVec.eq_of_toNat_eq
    simp
  rw [decodeBytes, hw]
  unfold decodeTableWord at h
  split at h
  next hd => cases h; exact hd
  · cases h

/-- The word placed by `withFetchWord` is what the step fetches. -/
theorem fetchBytes_withFetchWord (s : State) (nbits w : Nat) (hc : s.cores ≠ []) :
    fetchBytes (s.withFetchWord nbits w) probeGroup 0x1000 = some (toBytes (w % 2 ^ nbits) 32) := by
  obtain ⟨c, cs, hs⟩ := List.exists_cons_of_ne_nil hc
  have ha : asidOf (s.withFetchWord nbits w) probeGroup = 1 := rfl
  have hf : (getCore (s.withFetchWord nbits w) probeGroup.core).fetch =
      { asid := 1, va := 0x1000, bytes := toBytes (w % 2 ^ nbits) 32 } :: c.fetch := by
    simp [State.withFetchWord, getCore, hs, modNth, nth, probeGroup, Group.create]
  simp [fetchBytes, fetchWin, ha, hf]

/-! ## The statement -/

/-- Settles O57: each check has its lemma above; a word that is placed is fetched as the bytes that it consists of. -/
theorem aStepRunsTheInstructionThatStandsAtItsAddress : Obligations.AStepRunsTheInstructionThatStandsAtItsAddress := by
  refine ⟨fun s g tm w hb hg ht hw => ?_, fun s g pc => ?_, lateCheck_cases, fun s i rest hb ha => ?_, fun s hb ha => ?_,
    fun s nbits w i _ hc hi => ?_⟩
  · have hwin : fetchBytes s g s.cur.pc = some (w.bytes.drop (s.cur.pc.toNat % 32)) := by
      simp [fetchBytes, fetchWin, asidOf, ht, hw]
    refine ⟨fun i hi => ⟨step_busy hb hg (fetchInstr_of_bytes hwin hi), decodeBytes_wf hi⟩, fun i hi => ?_⟩
    obtain ⟨bs, hbs, hd⟩ := fetchRes_ok hi
    exact ⟨step_busy hb hg (fetchInstr_of_bytes hbs hd), decodeBytes_wf hd⟩
  · obtain ⟨h1, h2, h3⟩ := fetchRes_of_address s g pc
    refine ⟨h1, h2, h3, fun ha hl hs => ⟨fun hn => ?_, fun w hw => ?_⟩⟩
    · rw [fetchRes, if_neg (not_not.2 ha), if_neg (by omega), if_neg, fetchBytes, hn]
      · rfl
      · rintro ⟨hge, hls⟩
        rcases hs with hs | hs
        · omega
        · simp [hs] at hls
    · intro bytes len n word bad
      have hbad : fetchPoisoned s g pc ((parcelLen bytes).getD 4) = true ↔ bad := by
        simp [fetchPoisoned, hw, bad, n, len, parcelLen_getD]
      have hlen (h : len ≠ 3) : parcelLen bytes = some n := by
        simp only [parcelLen_eq, n, len, if_neg h]
      have hf := fetchRes_held ha hl hs (bs := bytes) (by simp [fetchBytes, hw, bytes])
      refine ⟨fun hb => hf.trans (if_pos (hbad.2 hb)), fun hb h3 => ?_, fun hb h3 hn => ?_, fun hb h3 hn => ?_⟩ <;>
        rw [if_neg fun h => hb (hbad.1 h)] at hf
      · rw [hf, parcelLen_eq, if_pos h3]
      · rw [hf, hlen h3]
        exact if_pos hn
      · rw [hf, hlen h3]
        dsimp only
        rw [if_neg (Nat.not_lt.2 hn)]
        refine ⟨fun e he => by rw [he], fun i hi => ?_⟩
        rw [hi]
        exact legalHere_cases s g i word
  · simp only [step, hb, ha]
    exact ⟨fun h => by simp [h], fun h => by simp [h]⟩
  · refine ⟨autonomous s, autonomous_cases s, ?_⟩
    simp [step, hb, ha, bump]
  · exact step_busy rfl rfl (fetchInstr_of_bytes (fetchBytes_withFetchWord s nbits w hc) (decodeBytes_toBytes hi))

/-! ## Reset -/

/-- Nothing has been written, placed or put in flight at reset, and no replay could bring anything back. -/
theorem reset_sound : Sound State.reset := by
  have none_mem {α : Type} {p : α → Prop} : ∀ x ∈ ([] : List α), p x := fun _ h => absurd h List.not_mem_nil
  refine ⟨none_mem, fun c hc => ?_, none_mem, none_mem, none_mem⟩
  rw [List.eq_of_mem_replicate hc]
  exact none_mem

/-- Settles O58: each register stands as `State.reset` writes it, every core, island and context alike, and the invariants hold
since there is no group, slice or operation. -/
theorem resetLeavesTheSpecsValues : Obligations.ResetLeavesTheSpecsValues := by
  obtain ⟨hs, hk, hh⟩ := sound_iff_ok.1 reset_sound
  refine ⟨by decide, by decide, ⟨rfl, rfl, rfl, rfl, rfl, rfl, rfl, rfl, List.length_replicate⟩, by decide, by decide,
    ⟨List.length_replicate, List.length_replicate, List.length_replicate, fun y hy => ?_, fun c hc => ?_, fun x hx => ?_⟩,
    rfl, ?_, ?_, hs, hk, hh⟩
  · rw [List.eq_of_mem_replicate hy]
    exact ⟨rfl, rfl, rfl⟩
  · rw [List.eq_of_mem_replicate hc]
    refine ⟨rfl, rfl, rfl, rfl, rfl, rfl, rfl, rfl, List.length_replicate, fun a ha => ?_⟩
    rw [List.eq_of_mem_replicate ha]
  · rw [List.eq_of_mem_replicate hx]
    exact ⟨rfl, rfl⟩
  · exact (rfl : memWf [] = true)
  · exact fun t ht => absurd ht List.not_mem_nil

end Sys2Proof.Machine

/-! SUPPORT. Reads of control registers (R28 to R40, R401) and the forms of the system handlers (R400, R402). -/

namespace Sys2Proof.Machine

open Sys2Proof.Safety

set_option Elab.async false

/-! ## Issues that change their own group alone -/

/-- An instruction that ends as a change of its own group, its carried fibres going on. -/
theorem ownGroup_of_done {i : Instr} {s : State} {v : View} (f : Group → Group) (len : Nat) (hv : viewOf s = some v)
    (hf : ∀ g, (f g).id = g.id) (h : exec i s = .next (issueDone (modGroup s v.g.id f) len)) :
    OwnGroup i s v (stepOn (f v.g) v.carried len) :=
  ⟨_, h, onlyGroup_done s v f len hv hf⟩

theorem levelS_of_active {s : State} {g : Group} (h : g.st.active = true) : levelS s g = true := by
  simp [levelS, h]

/-- A form of the system handlers: its level and its handler come before what it does. -/
theorem handlerForm_of {i : Instr} {s : State} {v : View} {f : View → State} {g' : Group} (hv : viewOf s = some v)
    (hexec : exec i s = .next (handlerForm s f)) (hown : exec i s = .next (f v) → OwnGroup i s v g') :
    HandlerForm i s v g' := by
  simp only [handlerForm, levelSOnly, hv] at hexec
  refine ⟨fun h => ?_, fun h ha => ?_, fun ha => hown ?_⟩ <;> rw [hexec]
  · simp [h]
  · simp [h, ha]
  · simp [levelS_of_active ha, ha]

/-- A handler's form that writes registers of its group. -/
theorem handlerForm_of_writes {i : Instr} {s : State} {v : View} {ws : View → List (Dst × Word)} {len : Nat}
    (hv : viewOf s = some v)
    (hexec : exec i s = .next (handlerForm s fun v => issueDone (modGroup s v.g.id fun g => g.writes (ws v)) len)) :
    HandlerForm i s v (stepOn (v.g.writes (ws v)) v.carried len) :=
  handlerForm_of hv hexec fun h => ownGroup_of_done _ _ hv (writes_id _) h

/-- The numbers that R31 assigns. -/
theorem crAssigned_iff (n : Nat) : crAssigned n = true ↔ n ≤ 0x010 ∨ (0x100 ≤ n ∧ n ≤ 0x103) ∨ (0x140 ≤ n ∧ n ≤ 0x17F) ∨
    (0x200 ≤ n ∧ n ≤ 0x210) ∨ (0x218 ≤ n ∧ n ≤ 0x221) ∨ (0x300 ≤ n ∧ n ≤ 0x30A) ∨ n = 0x400 ∨ n = 0x401 ∨
    (0xF00 ≤ n ∧ n ≤ 0xF02) := by
  simp only [crAssigned, Bool.or_eq_true, Bool.and_eq_true, decide_eq_true_eq, beq_iff_eq]
  omega

theorem holds_iff (l : Lane) (x : Nat) : l.holds x = true ↔ l.rb ≤ x ∧ x < l.rb + l.rf.length ∧ x < 65536 := by
  exact decide_eq_true_iff

/-! ## The forms of the system handlers (R402) -/

theorem handlerForm_crdStk {t : EI} {s : State} {v : View} (hv : viewOf s = some v) :
    HandlerForm (.crdStk t) s v (stepOn (v.g.writes ((lanesOf (v.parts t.h)).flatMap fun l =>
      let x := (v.src32 t.h l t.a).toNat
      let k := v.g.lane l
      v.g.put32 l t.d (if k.rb ≤ x ∧ x < k.rb + k.rf.length ∧ x < 65536 then k.stk x else 0))) v.carried t.h.len.bytes) := by
  have h := handlerForm_of_writes (i := .crdStk t) (s := s) (ws := fun v => (lanesOf (v.parts t.h)).flatMap fun l =>
    let x := (v.src32 t.h l t.a).toNat
    let k := v.g.lane l
    v.g.put32 l t.d (if k.holds x then k.stk x else 0)) hv rfl
  simpa only [holds_iff] using h

theorem handlerForm_cwrStk {t : EI} {s : State} {v : View} (hv : viewOf s = some v) :
    HandlerForm (.cwrStk t) s v (stepOn (v.g.writes ((lanesOf (v.parts t.h)).filterMap fun l =>
      let x := (v.src32 t.h l t.a).toNat
      let k := v.g.lane l
      if k.rb ≤ x ∧ x < k.rb + k.rf.length ∧ x < 65536 then some (.v l x, v.src32 t.h l t.b) else none)) v.carried
        t.h.len.bytes) := by
  have h := handlerForm_of_writes (i := .cwrStk t) (s := s) (ws := fun v => (lanesOf (v.parts t.h)).filterMap fun l =>
    let x := (v.src32 t.h l t.a).toNat
    if (v.g.lane l).holds x then some (.v l x, v.src32 t.h l t.b) else none) hv rfl
  simpa only [holds_iff] using h

theorem handlerForm_crdJs {t : EI} {s : State} {v : View} (hv : viewOf s = some v) :
    HandlerForm (.crdJs t) s v (stepOn (v.g.writes ((lanesOf (v.parts t.h)).flatMap fun l =>
      v.g.put32 l t.d (match v.g.js.reverse[(v.uni t.h t.a).toNat]? with
        | some e => BitVec.ofNat 32 (ofBytes (((jentBytes e).drop (4 * (l % 8))).take 4))
        | none => 0))) v.carried t.h.len.bytes) :=
  handlerForm_of_writes (ws := fun v => (lanesOf (v.parts t.h)).flatMap fun l =>
    v.g.put32 l t.d (jsWord v.g (v.uniN t t.a) (l % 8))) hv rfl

theorem handlerForm_cwrJs {t : EI} {s : State} {v : View} (hv : viewOf s = some v) :
    HandlerForm (.cwrJs t) s v (stepOn (if v.g.js.length < 16 then v.g
      else { v.g with js := v.g.js.take (v.g.js.length - 16), jsd := v.g.jsd + 16, sjsd := v.g.sjsd.map (· + 16) })
        v.carried t.h.len.bytes) :=
  handlerForm_of hv rfl fun h => ownGroup_of_done (fun g => if g.js.length < 16 then g
    else { g with js := g.js.take (g.js.length - 16), jsd := g.jsd + 16, sjsd := g.sjsd.map (· + 16) }) _ hv
      (fun g => by split <;> rfl) h

/-- The trap state has four words. -/
theorem exec_ts_beyond {t : EI} {s : State} {v : View} (hv : viewOf s = some v) (hw : 3 < t.h.imm32.toNat)
    (ha : v.g.st.active = true) :
    exec (.crdTs t) s = .next (takeTrap s 0x01 (fetchTval s v.g v.pc)) ∧
      exec (.cwrTs t) s = .next (takeTrap s 0x01 (fetchTval s v.g v.pc)) := by
  constructor
  · show execCrdTs t s = _
    simp [execCrdTs, handlerForm, levelSOnly, hv, levelS_of_active ha, ha, hw]
  · show execCwrTs t s = _
    simp [execCwrTs, handlerForm, levelSOnly, hv, levelS_of_active ha, ha, hw]

/-- What CRD.TS writes in a lane: word 3 is a pair. -/
theorem tsRead_eq (g : Group) (d : Opd) (w l : Nat) (hw : w ≤ 3) :
    (if w = 3 then g.put64 l d (tsWord g w (g.lane l)) else g.put32 l d (tsWord g w (g.lane l)).lo) =
      let k := g.lane l
      match (generalizing := false) w with
      | 0 => g.put32 l d (BitVec.ofNat 32 (k.sb % 2 ^ 16 + k.sp.toNat * 2 ^ 16))
      | 1 => g.put32 l d (BitVec.ofNat 32 (k.srb.getD k.rb % 2 ^ 16))
      | 2 => g.put32 l d (BitVec.ofNat 32 (g.sjsd.getD g.jsd))
      | _ => g.put64 l d (g.sjspa.getD g.jspa) := by
  have hlo (n : Nat) : Dword.lo (BitVec.ofNat 64 n) = BitVec.ofNat 32 n := by
    simp [Dword.lo, BitVec.setWidth_ofNat_of_le]
  match w, hw with
  | 0, _ | 1, _ | 2, _ => simp [tsWord, hlo]
  | 3, _ => rfl

theorem handlerForm_crdTs {t : EI} {s : State} {v : View} (hv : viewOf s = some v) (hw : t.h.imm32.toNat ≤ 3) :
    HandlerForm (.crdTs t) s v (stepOn (v.g.writes ((lanesOf (v.parts t.h)).flatMap fun l =>
      let k := v.g.lane l
      match t.h.imm32.toNat with
      | 0 => v.g.put32 l t.d (BitVec.ofNat 32 (k.sb % 2 ^ 16 + k.sp.toNat * 2 ^ 16))
      | 1 => v.g.put32 l t.d (BitVec.ofNat 32 (k.srb.getD k.rb % 2 ^ 16))
      | 2 => v.g.put32 l t.d (BitVec.ofNat 32 (v.g.sjsd.getD v.g.jsd))
      | _ => v.g.put64 l t.d (v.g.sjspa.getD v.g.jspa))) v.carried t.h.len.bytes) := by
  refine handlerForm_of hv rfl fun h => ?_
  simp only [gt_iff_lt, Nat.not_lt.2 hw, if_false, tsRead_eq _ _ _ _ hw] at h
  exact ownGroup_of_done _ _ hv (writes_id _) h

/-- Writing a word of the trap state keeps the handle of the group. -/
theorem tsWrite_id (g : Group) (w i : Nat) (x : Dword) : (tsWrite g w i x).id = g.id := by
  unfold tsWrite
  split <;> rfl

theorem foldl_id {α : Type} (f : Group → α → Group) (hf : ∀ g a, (f g a).id = g.id) (xs : List α) (g : Group) :
    (xs.foldl f g).id = g.id :=
  List.foldlRecOn xs f (motive := fun u => u.id = g.id) rfl fun u hu a _ => (hf u a).trans hu

theorem windowIn_iff (b rb rz : Nat) : windowIn b rb rz = true ↔ rb ≤ b ∧ b + 64 ≤ rb + rz := decide_eq_true_iff

/-- What CWR.TS writes in a lane: word 3 from a pair. -/
theorem tsWrite_eq (g : Group) (w l : Nat) (x : Word) (y : Dword) (hw : w ≤ 3) :
    tsWrite g w l (if w = 3 then y else x.setWidth 64) = match (generalizing := false) w with
      | 0 => g.modLane l fun k =>
          let rb := k.srb.getD k.rb
          if rb ≤ x.toNat % 2 ^ 16 ∧ x.toNat % 2 ^ 16 + 64 ≤ rb + k.rf.length then
            { k with sb := x.toNat % 2 ^ 16, sp := x.extractLsb' 16 7 } else k
      | 1 => g.modLane l fun k =>
          if x.toNat % 16 = 0 ∧ x.toNat % 2 ^ 16 ≤ k.sb ∧ k.sb + 64 ≤ x.toNat % 2 ^ 16 + k.rf.length then
            { k with srb := some (x.toNat % 2 ^ 16) } else k
      | 2 => { g with sjsd := some (min 992 x.toNat) }
      | _ => { g with sjspa := some (y &&& 0x1FFFFFFFFFFFFE0) } := by
  have hx : (x.setWidth 64).toNat = x.toNat := BitVec.toNat_setWidth_of_le (by decide)
  match w, hw with
  | 0, _ =>
    have hp : (x.setWidth 64).extractLsb' 16 7 = x.extractLsb' 16 7 := by
      apply BitVec.eq_of_toNat_eq
      rw [BitVec.extractLsb'_toNat, BitVec.extractLsb'_toNat, hx]
    simp [tsWrite, hp, windowIn_iff, Lane.rz]
  | 1, _ => simp [tsWrite, windowIn_iff, Lane.rz]
  | 2, _ => simp [tsWrite]
  | 3, _ => rfl

theorem handlerForm_cwrTs {t : EI} {s : State} {v : View} (hv : viewOf s = some v) (hw : t.h.imm32.toNat ≤ 3) :
    HandlerForm (.cwrTs t) s v (stepOn ((lanesOf (v.parts t.h)).foldl (fun g l =>
      let w : Word := v.src32 t.h l t.b
      match t.h.imm32.toNat with
      | 0 => g.modLane l fun k =>
          let rb := k.srb.getD k.rb
          if rb ≤ w.toNat % 2 ^ 16 ∧ w.toNat % 2 ^ 16 + 64 ≤ rb + k.rf.length then
            { k with sb := w.toNat % 2 ^ 16, sp := w.extractLsb' 16 7 } else k
      | 1 => g.modLane l fun k =>
          if w.toNat % 16 = 0 ∧ w.toNat % 2 ^ 16 ≤ k.sb ∧ k.sb + 64 ≤ w.toNat % 2 ^ 16 + k.rf.length then
            { k with srb := some (w.toNat % 2 ^ 16) } else k
      | 2 => { g with sjsd := some (min 992 w.toNat) }
      | _ => { g with sjspa := some (v.src64 t.h l false t.b &&& 0x1FFFFFFFFFFFFE0) }) v.g) v.carried t.h.len.bytes) := by
  refine handlerForm_of hv rfl fun h => ?_
  simp only [gt_iff_lt, Nat.not_lt.2 hw, if_false] at h
  have hown := ownGroup_of_done _ _ hv (fun g => foldl_id _ (fun g a => tsWrite_id _ _ _ _) _ _) h
  simp only [tsWrite_eq _ _ _ _ _ hw] at hown
  exact hown
/-! ## CRD (R401) -/

/-- CRD of a converged group, into a pair of its own. -/
theorem crd_group {t : EI} {s : State} {v : View} (hv : viewOf s = some v) {k : Fin 24} (hd : t.d = .g k) :
    (v.g.converged v.pc = false → exec (.crd t) s = .next (takeTrap s 0x04 0)) ∧
    (v.g.converged v.pc = true → crAssigned t.h.crnum = false →
      exec (.crd t) s = .next (takeTrap s 0x01 (fetchTval s v.g v.pc))) ∧
    (v.g.converged v.pc = true → crAssigned t.h.crnum = true → OwnGroup (.crd t) s v
      (stepOn (v.g.writes (v.g.put64 0 t.d (crValue s v.g t.h.crnum))) v.carried t.h.len.bytes)) := by
  have hexec : exec (.crd t) s = execCrd t s := rfl
  simp only [execCrd, hv, hd] at hexec
  refine ⟨fun hc => ?_, fun hc ha => ?_, fun hc ha => ownGroup_of_done _ _ hv (writes_id _) ?_⟩ <;> rw [hexec]
  · simp [hc]
  · simp [hc, ha]
  · simp [hc, ha, hd]

/-- CRD into a pair of each participant. -/
theorem crd_lanes {t : EI} {s : State} {v : View} (hv : viewOf s = some v) {k : BitVec 6} (hd : t.d = .v k) :
    (crAssigned t.h.crnum = false → exec (.crd t) s = .next (takeTrap s 0x01 (fetchTval s v.g v.pc))) ∧
    (crAssigned t.h.crnum = true → OwnGroup (.crd t) s v (stepOn (v.g.writes ((lanesOf (v.parts t.h)).flatMap fun l =>
      v.g.put64 l t.d (crValue s v.g t.h.crnum))) v.carried t.h.len.bytes)) := by
  have hexec : exec (.crd t) s = execCrd t s := rfl
  simp only [execCrd, hv, hd] at hexec
  refine ⟨fun ha => ?_, fun ha => ownGroup_of_done _ _ hv (writes_id _) ?_⟩ <;> rw [hexec]
  · simp [ha]
  · simp [ha, hd]

/-! ## What each number reads (R31) -/

/-- The numbers of a slice's registers. -/
def sliceNumbers : List Nat := [0x001, 0x004, 0x005, 0x008, 0x009, 0x00A, 0x00E, 0x300]

theorem crSlice_none (s : State) (g : Group) {n : Nat} (hn : n ∉ sliceNumbers) : crSlice s g n = none := by
  unfold crSlice
  cases sliceOf s g with
  | none => rfl
  | some x =>
    rw [Option.bind_some]
    split <;> simp_all [sliceNumbers]

/-- A register of the slice reads what the slice holds. -/
theorem crValue_slice {s : State} {g : Group} {n : Nat} {w : Dword} (h : crSlice s g n = some w) : crValue s g n = w := by
  rw [crValue, h]

/-- A register of the group, the context, the team or the core reads what they hold. -/
theorem crValue_own {s : State} {g : Group} {n : Nat} {w : Dword} (hn : n ∉ sliceNumbers) (h : crOwn s g n = some w) :
    crValue s g n = w := by
  rw [crValue, crSlice_none s g hn, h]
  rfl

/-- Any other register is the device's. -/
theorem crValue_device {s : State} {g : Group} {n : Nat} (hn : n ∉ sliceNumbers) (h : crOwn s g n = none) :
    crValue s g n = crDevice s n := by
  rw [crValue, crSlice_none s g hn, h]
  rfl

/-- The numbers of the registers of the group, the context, the team and the core that stand alone. -/
def ownNumbers : List Nat := [0x000, 0x002, 0x003, 0x006, 0x007, 0x00B, 0x00C, 0x00D, 0x00F, 0x010, 0x100, 0x101, 0x102, 0x103,
  0x302, 0x307, 0x308, 0x309, 0x30A, 0x400, 0xF01]

theorem crOwn_range (s : State) (g : Group) {n : Nat} (hn : n ∉ ownNumbers) : crOwn s g n =
    if 0x140 ≤ n ∧ n ≤ 0x17F then some (((getTeam s g.team).map fun t => nth 0 t.skip (n - 0x140)).getD 0)
    else if 0x200 ≤ n ∧ n ≤ 0x20F then some (alwWord (readAlw s g.core (n - 0x200) (ctxOf s g)))
    else none := by
  unfold crOwn
  split <;> simp_all [ownNumbers]

/-- The numbers of the registers of the device that stand alone. -/
def deviceNumbers : List Nat := [0x210, 0x220, 0x221, 0x301, 0x303, 0x304, 0x305, 0x306, 0x401, 0xF00, 0xF02]

theorem crDevice_range (s : State) {n : Nat} (hn : n ∉ deviceNumbers) :
    crDevice s n = if 0x218 ≤ n ∧ n ≤ 0x21F then reg64 (planeRead s (n - 0x218)) else 0 := by
  unfold crDevice
  split <;> simp_all [deviceNumbers]

/-- A word of the Skip map. -/
theorem crValue_skip {s : State} {g : Group} {tm : Team} (ht : getTeam s g.team = some tm) {k : Nat} (hk : k < 64) :
    crValue s g (0x140 + k) = tm.skip.getD k 0 := by
  refine crValue_own (by simp [sliceNumbers]; omega) ?_
  rw [crOwn_range _ _ (by simp [ownNumbers]; omega), if_pos (by omega), ht]
  simp [nth_eq_getD]

/-- A slot of the core's allowances. -/
theorem crValue_alw (s : State) (g : Group) {k : Nat} (hk : k < 16) :
    crValue s g (0x200 + k) = alwWord (readAlw s g.core k (ctxOfTeam s g.team)) := by
  refine crValue_own (by simp [sliceNumbers]; omega) ?_
  rw [crOwn_range _ _ (by simp [ownNumbers]; omega), if_neg (by omega), if_pos (by omega), Nat.add_sub_cancel_left]
  rfl

/-- An entry of the plane table: a change still pending counts. -/
theorem crValue_plane (s : State) (g : Group) {k : Nat} (hk : k < 8) :
    crValue s g (0x218 + k) = BitVec.ofNat 64 (match s.fab.pending.find? fun z => z.1 == k with
      | some z => z.2.1
      | none => s.fab.plane.getD k 0) := by
  have hd : crDevice s (0x218 + k) = reg64 (planeRead s k) := by
    rw [crDevice_range s (by simp [deviceNumbers]; omega), if_pos (by omega), Nat.add_sub_cancel_left]
  have ho : crOwn s g (0x218 + k) = none := by
    rw [crOwn_range _ _ (by simp [ownNumbers]; omega), if_neg (by omega), if_neg (by omega)]
  rw [crValue_device (by simp [sliceNumbers]; omega) ho, hd, planeRead, reg64, planeOf, nth_eq_getD] <;> rfl

/-- A row pass that goes on keeps its cadence; an idle array takes MXCAD's and is as narrow as the alarms make it (R446). -/
theorem getCore_settleArray (s : State) {c : Nat} (hc : c < s.cores.length) : getCore (settleArray s c) c =
    { getCore s c with
      cade := if rowMoves s c then (getCore s c).cade else (getCore s c).cad
      narrow := if rowMoves s c then (getCore s c).narrow else (getCore s c).droop || s.pw.storageAlarm } := by
  unfold settleArray
  split
  · rfl
  · exact nth_modNth_same _ _ _ _ hc

theorem crValue_mxstat {s : State} {g : Group} {tc : TCore} (htc : getTCore s g.team g.coreNo = some tc)
    (hc : g.core < s.cores.length) :
    crValue s g 0x101 = BitVec.ofNat 64 ((min (getCore s g.core).mxq.length 16) * 2 ^ 32 + bitNat tc.held 31 +
      bitNat tc.baton.isSome 30 + (if tc.held then tc.holder % 2 ^ 6 * 2 ^ 24 else 0) + bitNat tc.latch.isSome 15 +
      (match tc.latch with
        | some l => (l.k / 16 - 1) % 2 ^ 3 * 2 ^ 12 + l.ty.code.toNat * 2 ^ 6
        | none => 0) +
      (if rowMoves s g.core then (getCore s g.core).cade else (getCore s g.core).cad) % 2 ^ 5 * 2 +
      bitNat (if rowMoves s g.core then (getCore s g.core).narrow else (getCore s g.core).droop || s.pw.storageAlarm) 0) := by
  have h : crOwn s g 0x101 = some (reg64 (mxstat s g.core (some tc))) := by
    rw [← htc]
    rfl
  rw [crValue_own (by decide) h, mxstat, getCore_settleArray s hc] <;> rfl

theorem reg64_bit (b : Bool) : reg64 (bitNat b 0) = if b then 1 else 0 := by
  cases b <;> rfl

/-- A control register of the slice. -/
theorem crSlice_of {s : State} {g : Group} {x : Slice} (hx : sliceOf s g = some x) (n : Nat) : crSlice s g n =
    match n with
    | 0x001 => some (reg64 (bitNat ((x.k.map Kernel.mask).getD false) 0))
    | 0x004 => some x.left
    | 0x005 => some (reg64 x.sliceId)
    | 0x008 => some x.deadl
    | 0x009 => some (reg64 (x.depth % 16))
    | 0x00A => some (reg64 (grpInfo x.k g))
    | 0x00E => some x.thand
    | 0x300 => some x.engy
    | _ => none := by
  rw [crSlice, hx, Option.bind_some] <;> rfl

/-- PRIV holds the level and the grant for experts alone. -/
theorem crValue_priv (s : State) (g : Group) :
    crValue s g 0x007 = reg64 (bitNat (expertOf s g) 1 + bitNat (levelS s g) 0) := crValue_own (by decide) rfl

theorem priv_bits (e l : Bool) :
    (reg64 (bitNat e 1 + bitNat l 0)).getLsbD 0 = l ∧ (reg64 (bitNat e 1 + bitNat l 0)).getLsbD 1 = e ∧
      (reg64 (bitNat e 1 + bitNat l 0)).toNat < 4 := by
  cases e <;> cases l <;> decide

theorem expertOf_of {s : State} {g : Group} {tm : Team} (ht : getTeam s g.team = some tm) : expertOf s g = tm.desc.expert := by
  rw [expertOf, ht]
  rfl

/-- Settles O44: each form is its checks and then a change of its own group (`ownGroup_of_done`, `handlerForm_of`); each number
reads by `crValue_slice`, `crValue_own` or `crValue_device`, which say whose register it is. -/
theorem controlRegisterReadsGiveWhatTheyHold : Obligations.ControlRegisterReadsGiveWhatTheyHold := by
  refine ⟨fun t s v hv => ?_, fun s g x tm tc y hx ht htc hy hc => ?_⟩
  · intro n next assigned
    have hno (h : ¬ assigned) : crAssigned t.h.crnum = false := by
      rw [← Bool.not_eq_true, crAssigned_iff]
      exact h
    have hyes (h : assigned) : crAssigned t.h.crnum = true := (crAssigned_iff _).2 h
    refine ⟨fun ⟨k, hd⟩ => ?_, fun ⟨k, hd⟩ => ?_, handlerForm_crdStk hv, handlerForm_cwrStk hv, handlerForm_crdJs hv,
      handlerForm_cwrJs hv, exec_ts_beyond hv, handlerForm_crdTs hv, handlerForm_cwrTs hv⟩
    · obtain ⟨h1, h2, h3⟩ := crd_group hv hd
      exact ⟨h1, fun hc ha => h2 hc (hno ha), fun hc ha => h3 hc (hyes ha)⟩
    · obtain ⟨h1, h2⟩ := crd_lanes hv hd
      exact ⟨fun ha => h1 (hno ha), fun ha => h2 (hyes ha)⟩
  · have own {n : Nat} {w : Dword} (hn : n ∉ sliceNumbers) (h : crOwn s g n = some w) : crValue s g n = w := crValue_own hn h
    have slice {n : Nat} {w : Dword} (h : crSlice s g n = some w) : crValue s g n = w := crValue_slice h
    have dev {n : Nat} (hn : n ∉ sliceNumbers) (h : crOwn s g n = none) : crValue s g n = crDevice s n := crValue_device hn h
    obtain ⟨p0, p1, p2⟩ := priv_bits (expertOf s g) (levelS s g)
    rw [← crValue_priv] at p0 p1 p2
    rw [expertOf_of ht] at p1
    have hctx : nth CtxSt.reset s.ctxs (ctxOfTeam s g.team) = y := by
      rw [nth_eq_getD, List.getD_eq_getElem?_getD, hy]
      rfl
    refine ⟨?asid, slice (crSlice_of hx _), ?rej, ?age, crValue_mxstat htc hc, dev (by decide) rfl,
      fun k hk => crValue_plane s g hk, dev (by decide) rfl, own (by decide) rfl, dev (by decide) rfl, dev (by decide) rfl,
      own (by decide) rfl, own (by decide) rfl, own (by decide) rfl, own (by decide) rfl, ?topo, ?checksb, ?mask,
      own (by decide) rfl, own (by decide) rfl, slice (crSlice_of hx _), slice (crSlice_of hx _), p0, p1, p2,
      slice (crSlice_of hx _), slice (crSlice_of hx _), ?tcause, ?tepc, ?tval, slice (crSlice_of hx _), own (by decide) rfl,
      ?ergta, ?ergtr, fun k hk => crValue_skip ht hk, fun k hk => crValue_alw s g hk, dev (by decide) rfl,
      dev (by decide) rfl, slice (crSlice_of hx _), dev (by decide) rfl, dev (by decide) rfl, own (by decide) rfl,
      dev (by decide) rfl, dev (by decide) rfl, dev (by decide) rfl⟩
    case asid =>
      have h : crValue s g 0x006 = _ := own (by decide) rfl
      refine h.trans ?_
      have hc : (if ctxOf s g = 64 then 64 else ctxOf s g) = ctxOf s g := by
        split
        next h64 => exact h64.symm
        · rfl
      rw [hc, asidOf, ht] <;> rfl
    case rej =>
      have h : crValue s g 0x00F = _ := own (by decide) rfl
      refine h.trans ?_
      rw [ctxOf, hctx]
      rfl
    case age =>
      have h : crValue s g 0x010 = _ := own (by decide) rfl
      refine h.trans ?_
      rw [nth_eq_getD]
      rfl
    case topo =>
      have h : crValue s g 0xF01 = _ := own (by decide) rfl
      have hcl : g.core / 4 % 24 % 2 ^ 5 = g.core / 4 % 24 := Nat.mod_eq_of_lt (by omega)
      refine h.trans ?_
      simp only [topo, dieOf, reg64, hcl] <;> rfl
    case checksb => exact (own (n := 0x000) (by decide) rfl).trans (reg64_bit _)
    case mask => exact (slice (n := 0x001) (crSlice_of hx _)).trans (reg64_bit _)
    case tcause =>
      have h : crValue s g 0x00B = _ := own (by decide) rfl
      refine h.trans ?_
      rw [trapRegs]
      split <;> rfl
    case tepc =>
      have h : crValue s g 0x00C = _ := own (by decide) rfl
      refine h.trans ?_
      rw [trapRegs]
      split <;> rfl
    case tval =>
      have h : crValue s g 0x00D = _ := own (by decide) rfl
      refine h.trans ?_
      rw [trapRegs]
      split <;> rfl
    case ergta =>
      have h : crValue s g 0x102 = _ := own (by decide) rfl
      refine h.trans ?_
      rw [ht]
      rfl
    case ergtr =>
      have h : crValue s g 0x103 = _ := own (by decide) rfl
      refine h.trans ?_
      rw [ht]
      rfl

end Sys2Proof.Machine

/-! SUPPORT. The system instructions that wait at the commit gate (R399, R403, R408 to R416, R418): their issue, what each does as it passes the gate, and the copy of a spare row codeword by codeword. -/

namespace Sys2Proof.Machine

open Sys2Proof.Safety

set_option Elab.async false

/-! ## Checks, and the issue of an instruction that holds its fibres -/

/-- A check as the model writes it. -/
def asCheck (x : (Nat → Bool) × Nat × (Nat → Dword)) : Check := fun l => if x.1 l then some (x.2.1, x.2.2 l) else none

theorem lanesOf_ascending (m : Mask) : (lanesOf m).Pairwise (· < ·) := List.pairwise_lt_range.filter _

theorem findSome_of_passes {m : Mask} {x : (Nat → Bool) × Nat × (Nat → Dword)} (h : passes m fun k => x.1 k = true) :
    (lanesOf m).findSome? (asCheck x) = none := by
  rw [List.findSome?_eq_none_iff]
  intro l hl
  exact if_neg (h l hl)

theorem findSome_of_firstOf {m : Mask} {x : (Nat → Bool) × Nat × (Nat → Dword)} {l : Nat}
    (h : firstOf m (fun k => x.1 k = true) l) : (lanesOf m).findSome? (asCheck x) = some (x.2.1, x.2.2 l) := by
  obtain ⟨hl, hf, hno⟩ := h
  obtain ⟨as, bs, hs⟩ := List.append_of_mem hl
  refine List.findSome?_eq_some_iff.2 ⟨as, l, bs, hs, if_pos hf, fun k hk => if_neg (hno k ?_ ?_)⟩
  · exact hs ▸ List.mem_append_left _ hk
  · have hp := hs ▸ lanesOf_ascending m
    exact (List.pairwise_append.1 hp).2.2 k hk l List.mem_cons_self

/-- The first failing check of a statement is the one that the model finds. -/
theorem firstFail_of_firstFailure {m : Mask} {cs : List ((Nat → Bool) × Nat × (Nat → Dword))} {r : Option (Nat × Dword)}
    (h : FirstFailure m cs r) : firstFail (lanesOf m) (cs.map asCheck) = r := by
  induction cs with
  | nil => exact h.symm
  | cons x cs ih =>
    obtain ⟨f, c, tv⟩ := x
    rw [List.map_cons, firstFail]
    rcases h with ⟨l, hl, rfl⟩ | ⟨hp, hr⟩
    · rw [findSome_of_firstOf (x := (f, c, tv)) hl]
    · rw [findSome_of_passes (x := (f, c, tv)) hp]
      exact ih hr

theorem lanesOf_one : lanesOf 1 = [0] := by decide

/-- What the statements ask of a system instruction at issue: its traps, and then an operation in flight. -/
def SystemIssue (i : Instr) (s : State) (v : View) (cs : List ((Nat → Bool) × Nat × (Nat → Dword))) (o : Op) : Prop :=
  PrivilegedOnce i s v cs ∧
    (levelS s v.g = true ∧ v.g.converged v.pc = true → FirstFailure 1 cs none → PutsInFlight i s v o v.g)

/-- A system instruction checks its level, that its group is converged, and its operands; then it is in flight. -/
theorem systemIssue_of_hold {i : Instr} {t : EI} {s : State} {v : View} {checks : View → List Check}
    {args : View → List Dword} {dsts : View → List Dst} {cs : List ((Nat → Bool) × Nat × (Nat → Dword))}
    (hv : viewOf s = some v) (hexec : exec i s = .next (systemHold s t i checks args dsts)) (hcs : checks v = cs.map asCheck) :
    SystemIssue i s v cs (opMade s v i (v.parts t.h) .active [] (args v) (dsts v) []) := by
  obtain ⟨hg, hid, -, -⟩ := viewOf_some hv
  simp only [systemHold, levelSOnly, hv, hcs] at hexec
  rw [← lanesOf_one] at hexec
  refine ⟨⟨fun hl => ?_, fun hl hc => ?_, fun hl hc cause tv hf => ?_⟩, fun ⟨hl, hc⟩ hf => ?_⟩
  · rw [hexec]
    simp [hl]
  · rw [hexec]
    simp [hl, hc]
  · rw [hexec, firstFail_of_firstFailure hf]
    simp [hl, hc]
  · rw [firstFail_of_firstFailure hf] at hexec
    simp only [hl, hc, if_true, Bool.not_true, Bool.false_eq_true, if_false] at hexec
    refine ⟨_, hexec, rfl, rfl, rfl, rfl, fun k _ => rfl, ?_⟩
    rw [hid]
    exact hg

theorem systemIssue_tlbi {t : EI} {s : State} {v : View} (hv : viewOf s = some v) :
    let a := (v.uni t.h t.a).toNat
    let vb : Dword := v.uni64 t.h t.b
    SystemIssue (.tlbi t) s v
      [ (fun _ => t.var != 0 && decide (2 ^ 16 ≤ a), 0x12, fun _ => BitVec.ofNat 64 a),
        (fun _ => t.var.getLsbD 1 && decide (2 ^ 57 ≤ vb.toNat), 0x12, fun _ => vb),
        (fun _ => t.var == 3 && decide (vb.toNat % 65536 ≠ 0), 0x07, fun _ => vb) ]
      (opMade s v (.tlbi t) (v.parts t.h) .active []
        [BitVec.ofNat 64 a, vb, BitVec.ofNat 64 (v.uni t.h t.c).toNat, 0] [] []) := by
  intro a vb
  have hvar : (t.var = 2 ∨ t.var = 3) ↔ t.var.getLsbD 1 = true := by
    generalize t.var = x
    revert x
    decide
  have h16 : a / 2 ^ 16 ≠ 0 ↔ 2 ^ 16 ≤ a := by omega
  have h57 : vb.toNat / 2 ^ 57 ≠ 0 ↔ 2 ^ 57 ≤ vb.toNat := by omega
  refine systemIssue_of_hold (t := t) (args := fun v => [arg (v.uniN t t.a), v.uni64 t.h t.b, arg (v.uniN t t.c), 0])
    (dsts := fun _ => []) hv rfl (congrArg₂ List.cons (funext fun l => ?_) (congrArg₂ List.cons (funext fun l => ?_)
      (congrArg₂ List.cons (funext fun l => ?_) rfl))) <;> refine if_congr ?_ rfl rfl
  · simp only [Bool.and_eq_true, bne_iff_ne, decide_eq_true_eq, ← h16]
    rfl
  · simp only [Bool.and_eq_true, decide_eq_true_eq, ← h57, hvar]
    rfl
  · simp only [Bool.and_eq_true, beq_iff_eq, decide_eq_true_eq]
    rfl

theorem systemIssue_row {t : EI} {s : State} {v : View} (hv : viewOf s = some v) {i : Instr} {args : View → List Dword}
    {dsts : View → List Dst}
    (hexec : exec i s = .next (systemHold s t i (fun v => [hraCheck (v.uniN t t.a)]) args dsts)) :
    let a := (v.uni t.h t.a).toNat
    SystemIssue i s v
      [(fun _ => decide (11 < a / 2 ^ 19 % 16) || decide (a / 2 ^ 16 % 8 ≠ 0), 0x12, fun _ => BitVec.ofNat 64 a)]
      (opMade s v i (v.parts t.h) .active [] (args v) (dsts v) []) := by
  intro a
  refine systemIssue_of_hold hv hexec ?_
  have h : hraCheck a = asCheck (fun _ => decide (11 < a / 2 ^ 19 % 16) || decide (a / 2 ^ 16 % 8 ≠ 0), 0x12,
      fun _ => BitVec.ofNat 64 a) := by
    funext l
    simp [hraCheck, asCheck, arg]
  exact congrArg (· :: []) h

/-- The operands of HALTC (R399), as a statement lists their checks. -/
def haltChecksOf (s : State) (t : EI) (v : View) : List ((Nat → Bool) × Nat × (Nat → Dword)) :=
  let a := (v.uni t.h t.a).toNat
  let b := (v.uni t.h t.b).toNat
  let c := (v.uni t.h t.c).toNat
  if t.mod.getLsbD 9 then
    [(fun _ => decide (512 ≤ a) || decide (23 < a / 4 % 32), 0x12, fun _ => BitVec.ofNat 64 a)]
  else
    [ (fun _ => decide (2 ^ 15 ≤ a), 0x12, fun _ => BitVec.ofNat 64 a),
      (fun _ => decide (16 ≤ b), 0x12, fun _ => BitVec.ofNat 64 b),
      (fun _ => decide (65536 ≤ c) && c != 0xFFFFFFFF, 0x12, fun _ => BitVec.ofNat 64 c),
      (fun _ => !(s.slices.find? fun x => x.sliceId == a).any fun x => x.st == .running || x.st == .saved, 0x12,
        fun _ => BitVec.ofNat 64 a) ]

theorem haltcChecks_eq (s : State) (t : EI) (v : View) : haltcChecks s t v = (haltChecksOf s t v).map asCheck := by
  have hc : haltcCore t = t.mod.getLsbD 9 := rfl
  unfold haltcChecks haltChecksOf
  rw [hc]
  dsimp only
  split
  · refine congrArg₂ List.cons (funext fun l => if_congr ?_ rfl rfl) rfl
    simp only [Bool.or_eq_true, decide_eq_true_eq]
    rfl
  · refine congrArg₂ List.cons (funext fun l => if_congr ?_ rfl rfl) (congrArg₂ List.cons (funext fun l => if_congr ?_ rfl rfl)
      (congrArg₂ List.cons (funext fun l => if_congr ?_ rfl rfl) (congrArg₂ List.cons (funext fun l => ?_) rfl)))
    · exact decide_eq_true_iff.symm
    · exact decide_eq_true_iff.symm
    · simp only [Bool.and_eq_true, decide_eq_true_eq, bne_iff_ne]
      rfl
    · unfold sliceById asCheck View.uniN
      cases s.slices.find? fun x => x.sliceId == (v.uni t.h t.a).toNat with
      | none => rfl
      | some x =>
        by_cases h1 : x.st = .running <;> by_cases h2 : x.st = .saved <;> simp [h1, h2, arg]

/-- The targets of a HALTC: the groups of a core, or those that match a slice, roles and a team. -/
theorem mem_haltcTargets (s : State) (t : EI) (v : View) (k : Nat) :
    let a := (v.uni t.h t.a).toNat
    let b := (v.uni t.h t.b).toNat
    let c := (v.uni t.h t.c).toNat
    let named := s.slices.find? fun x => x.sliceId == a
    let target (g : Group) : Prop := g.id ≠ v.g.id ∧
      if t.mod.getLsbD 9 then g.resident = true ∧ g.core = a % 4 * 96 + a / 4 % 32 * 4 + a / 128 % 4
      else ∃ x tm, named = some x ∧ getTeam s g.team = some tm ∧ tm.slice = x.id ∧ b.testBit g.role = true ∧
        (c = 0xFFFFFFFF ∨ tm.no = c)
    k ∈ haltcTargets s t v ↔ ∃ g ∈ s.groups, g.id = k ∧ target g := by
  intro a b c named target
  have hc : haltcCore t = t.mod.getLsbD 9 := rfl
  have hp (g : Group) : (g.id != v.g.id &&
      if haltcCore t then g.resident && g.core == haltcPhys (v.uniN t t.a)
      else match getTeam s g.team with
        | some tm => ((sliceById s (v.uniN t t.a)).map Slice.id) == some tm.slice && (v.uniN t t.b).testBit g.role &&
            (v.uniN t t.c == 0xFFFFFFFF || tm.no == v.uniN t t.c)
        | none => false) = true ↔ target g := by
    rw [hc, Bool.and_eq_true, bne_iff_ne]
    refine and_congr_right fun _ => ?_
    split
    · simp only [Bool.and_eq_true, beq_iff_eq]
      rfl
    · cases ht : getTeam s g.team with
      | none => simp
      | some tm =>
        have hn : named = sliceById s (v.uniN t t.a) := rfl
        rw [hn]
        cases hs : sliceById s (v.uniN t t.a) with
        | none => simp
        | some x =>
          simp only [Option.map_some, Option.some_beq_some, Bool.and_eq_true, Bool.or_eq_true, beq_iff_eq, and_assoc,
            Option.some.injEq, exists_eq_left', exists_and_left]
          exact and_congr eq_comm Iff.rfl
  unfold haltcTargets
  simp only [List.mem_map, List.mem_filter]
  constructor
  · rintro ⟨g, ⟨hg, ht⟩, hk⟩
    exact ⟨g, hg, hk, (hp g).1 ht⟩
  · rintro ⟨g, hg, hk, ht⟩
    exact ⟨g, ⟨hg, (hp g).2 ht⟩, hk⟩

theorem systemIssue_haltc {i : Instr} {t : EI} {s : State} {v : View} (hv : viewOf s = some v)
    (hexec : exec i s = .next (haltcIssue s t i)) :
    SystemIssue i s v (haltChecksOf s t v)
      (opMade s v i (v.parts t.h) .active [] (0 :: (haltcTargets s t v).map (BitVec.ofNat 64)) [] []) :=
  systemIssue_of_hold hv hexec (haltcChecks_eq s t v)

/-! ## At the commit gate -/

/-- The operation at a gate is one of that gate's core. -/
theorem atGate_core {s : State} {c : Nat} {o : Op} (h : AtGate s c o) : o ∈ s.ops ∧ o.core = c := by
  obtain ⟨-, hf, -, -⟩ := h
  have hm : o ∈ s.ops.filter fun p => p.core == c && gated p.i := hf ▸ List.mem_singleton.2 rfl
  obtain ⟨hm, hc⟩ := List.mem_filter.1 hm
  simp only [Bool.and_eq_true, beq_iff_eq] at hc
  exact ⟨hm, hc.1⟩

theorem not_gateHolds_atGate {s : State} {c : Nat} {o : Op} (h : AtGate s c o) :
    gateHolds (gateAged s c) o.core o.cyc = false := by
  have hc := (atGate_core h).2
  obtain ⟨-, -, hh, -⟩ := h
  rw [gateHolds_gateAged, hc, hh]

theorem getOp_of_ops {s p : State} (h : p.ops = s.ops) (k : Nat) : getOp p k = getOp s k := by
  unfold getOp
  rw [h]

theorem getOp_modOp_same {s : State} {o : Op} (h : getOp s o.id = some o) {f : Op → Op} (hf : ∀ x, (f x).id = x.id) :
    getOp (modOp s o.id f) o.id = some (f o) := by
  unfold getOp modOp at *
  rw [List.find?_map, show ((fun x : Op => x.id == o.id) ∘ fun x => if x.id == o.id then f x else x) =
    fun x => x.id == o.id from funext fun x => by dsimp only [Function.comp]; split <;> simp [hf], h]
  simp

theorem getOp_modOp_other {s : State} {id k : Nat} (hk : k ≠ id) {f : Op → Op} (hf : ∀ x, (f x).id = x.id) :
    getOp (modOp s id f) k = getOp s k := by
  unfold getOp modOp
  rw [List.find?_map, show ((fun x : Op => x.id == k) ∘ fun x => if x.id == id then f x else x) = fun x => x.id == k from
    funext fun x => by dsimp only [Function.comp]; split <;> simp [hf]]
  cases h : s.ops.find? fun x => x.id == k with
  | none => rfl
  | some x =>
    have hx : x.id = k := by simpa using List.find?_some h
    simp [hx, hk]

/-- What the statements ask of an operation that stays at the gate: the state is `u`, in which it is `o'`. -/
def StaysAtGate (s : State) (n : Nat) (o : Op) (u : State) (o' : Op) : Prop :=
  exec (.commitGateRelease n) s = .next u ∧ coresKept s u ∧ getOp u o.id = some o' ∧ ∀ k, k ≠ o.id → getOp u k = getOp s k

/-- An operation that the gate leaves with other arguments. -/
theorem staysAtGate_of_modOp {s p : State} {n : Nat} {o : Op} {f : Op → Op} (h : AtGate s n o)
    (hpass : passGate (gateAged s n) o = modOp p o.id f) (hf : ∀ x, (f x).id = x.id) (hops : p.ops = s.ops)
    (hcores : p.cores = (gateAged s n).cores) : StaysAtGate s n o (modOp p o.id f) (f o) := by
  have hget := getOp_of_ops hops
  refine ⟨by rw [exec_commitGateRelease_atGate h, hpass], ?_, getOp_modOp_same ((hget _).trans h.1) hf, fun k hk => ?_⟩
  · have hc : (modOp p o.id f).cores = (gateAged s n).cores := hcores
    rw [coresKept, hc]
    exact (gateAged_alike s n).cores
  · exact (getOp_modOp_other hk hf).trans (hget k)

/-- An operation that the gate leaves as it stands. -/
theorem staysAtGate_same {s p : State} {n : Nat} {o : Op} (h : AtGate s n o) (hpass : passGate (gateAged s n) o = p)
    (hops : p.ops = s.ops) (hcores : p.cores = (gateAged s n).cores) : StaysAtGate s n o p o := by
  have hget := getOp_of_ops hops
  refine ⟨by rw [exec_commitGateRelease_atGate h, hpass], ?_, (hget _).trans h.1, fun k _ => hget k⟩
  rw [coresKept, hcores]
  exact (gateAged_alike s n).cores

/-! ## HALTC (R399) -/

/-- Changing the groups of a list one by one is changing them all, where a second change adds nothing. -/
theorem foldl_modGroupSince_groups {f : Group → Group} (hid : ∀ g, (f g).id = g.id) (hff : ∀ g, f (f g) = f g)
    (as : List Dword) (p : State) :
    (as.foldl (fun s a => modGroupSince s a.toNat 0 f) p).groups =
      p.groups.map fun g => if g.id ∈ as.map BitVec.toNat then f g else g := by
  induction as generalizing p with
  | nil => simp
  | cons a as ih =>
    rw [List.foldl_cons, ih, modGroupSince_groups, List.map_map]
    refine List.map_congr_left fun g _ => ?_
    by_cases ha : g.id = a.toNat <;> by_cases hm : ∃ b ∈ as, b.toNat = g.id <;> simp_all

theorem haltcAct_besides (u p : State) (o : Op) (f : Group → Group) : besidesOf u (haltcAct p o f) = besidesOf u p :=
  List.foldlRecOn (o.args.drop 1) _ (motive := fun q => besidesOf u q = besidesOf u p) rfl
    fun q hq _ _ => (modGroupSince_besides u q _ _ f).trans hq

theorem haltcAct_coresKept (p : State) (o : Op) (f : Group → Group) :
    (haltcAct p o f).cores.map bareCore = p.cores.map bareCore :=
  List.foldlRecOn (o.args.drop 1) _ (motive := fun q => q.cores.map bareCore = p.cores.map bareCore) rfl
    fun q hq _ _ => (modGroupSince_coresKept q _ _ f).trans hq

theorem haltcAct_ops (p : State) (o : Op) (f : Group → Group) : (haltcAct p o f).ops = p.ops :=
  List.foldlRecOn (o.args.drop 1) _ (motive := fun q => q.ops = p.ops) rfl fun q hq _ _ => (modGroupSince_ops q _ _ f).trans hq

/-- A HALTC that has acted on its targets, on the gate's state, is one that has acted on the state itself. -/
theorem haltcAct_alike (s : State) (n : Nat) (o : Op) {f : Group → Group} (hid : ∀ g, (f g).id = g.id)
    (hff : ∀ g, f (f g) = f g) :
    AlikeButHist { s with groups := s.groups.map fun g => if g.id ∈ (o.args.drop 1).map BitVec.toNat then f g else g }
      (haltcAct (gateAged s n) o f) := by
  have hg : (haltcAct (gateAged s n) o f).groups = _ := foldl_modGroupSince_groups hid hff _ _
  have ho : (haltcAct (gateAged s n) o f).ops = s.ops := haltcAct_ops _ _ _
  have hb : besidesOf s (haltcAct (gateAged s n) o f) = s := haltcAct_besides s _ o f
  have hc := haltcAct_coresKept (gateAged s n) o f
  generalize haltcAct (gateAged s n) o f = p at hg ho hb hc ⊢
  refine ⟨?_, hc.trans (gateAged_alike s n).cores⟩
  calc { p with cores := s.cores }
    _ = { besidesOf s p with ops := p.ops, groups := p.groups } := rfl
    _ = { s with ops := s.ops, groups := _ } := by rw [hb, ho, hg]; rfl

/-- HALT and RESUME act on every target as they pass the gate, and go on. -/
theorem endsAtGate_halt {s : State} {n : Nat} {o : Op} {f : Group → Group} (h : AtGate s n o)
    (hpass : passGate (gateAged s n) o = endHold (haltcAct (gateAged s n) o f) o []) (hid : ∀ g, (f g).id = g.id)
    (hff : ∀ g, f (f g) = f g) :
    EndsAtGate s n o []
      { s with groups := s.groups.map fun g => if g.id ∈ (o.args.drop 1).map BitVec.toNat then f g else g } :=
  endsAtGate_of_endHold [] ((exec_commitGateRelease_atGate h).trans (congrArg _ hpass)) (haltcAct_ops _ _ _)
    (haltcAct_alike s n o hid hff)

theorem passGate_haltcHalt {p : State} {o : Op} {t : EI} (hi : o.i = .haltcHalt t) :
    passGate p o = endHold (haltcAct p o fun g => { g with halted := true, stepping := false }) o [] := by
  rw [passGate, hi]

theorem passGate_haltcResume {p : State} {o : Op} {t : EI} (hi : o.i = .haltcResume t) :
    passGate p o = endHold (haltcAct p o fun g => { g with halted := false, stepping := false }) o [] := by
  rw [passGate, hi]

/-! ## HALTC.STEP (R399) -/

theorem dropOp_modOp (p : State) (id : Nat) {f : Op → Op} (hf : ∀ x, (f x).id = x.id) :
    dropOp (modOp p id f) id = dropOp p id := by
  unfold dropOp modOp
  congr 1
  rw [List.filter_map]
  rw [show ((fun o : Op => o.id != id) ∘ fun o => if o.id == id then f o else o) = fun o => o.id != id from
    funext fun o => by dsimp only [Function.comp]; split <;> simp [hf]]
  refine (List.map_congr_left fun o ho => ?_).trans (List.map_id _)
  rw [List.mem_filter, bne_iff_ne] at ho
  simp [ho.2]

/-- An operation that ends takes with it what had changed of it. -/
theorem endHold_modOp (p : State) (o : Op) {f : Op → Op} (hf : ∀ x, (f x).id = x.id) (ws : List Word) :
    endHold (modOp p o.id f) o ws = endHold p o ws := by
  unfold endHold
  rw [dropOp_modOp p o.id hf]

/-- A HALTC.STEP that has acted ends when all its targets have issued or are Held. -/
theorem settleStep_eq {s : State} {o : Op} (h : getOp s o.id = some o) : settleStep s o.id =
    if o.arg 0 = 1 ∧ ((o.args.drop 1).all fun a => match getGroup s a.toNat with
      | some g => !g.stepping || groupHeld s g || !g.resident
      | none => true) = true then endHold s o [] else s := by
  unfold settleStep
  rw [h] <;> rfl

theorem settleStep_one {s : State} {o : Op} {g : Group} (h : getOp s o.id = some o)
    (ha : o.args = [1, BitVec.ofNat 64 g.id]) (hlt : g.id < 2 ^ 64) (hg : getGroup s g.id = some g) :
    settleStep s o.id = if !g.stepping || groupHeld s g || !g.resident then endHold s o [] else s := by
  have h1 : o.arg 0 = 1 := by rw [Op.arg, ha]; rfl
  have hid : (BitVec.ofNat 64 g.id).toNat = g.id := by simpa using Nat.mod_eq_of_lt hlt
  rw [settleStep_eq h, h1, ha]
  simp [hid, hg]

/-- An operation as a HALTC.STEP that has acted on its targets. -/
def acted (o : Op) : Op := { o with args := setNth o.args 0 1 }

theorem startStep_eq {s : State} {o : Op} (h : o.arg 0 = 0) : startStep s o =
    settleStep (haltcAct (modOp s o.id acted) o fun g => { g with stepping := g.stepping || g.halted }) o.id :=
  if_pos h

/-- Without a target HALTC.STEP goes on. -/
theorem endsAtGate_step_alone {s : State} {n : Nat} {o : Op} {t : EI} (h : AtGate s n o) (hi : o.i = .haltcStep t)
    (ha : o.args = [0]) : EndsAtGate s n o [] s := by
  have hpass : passGate (gateAged s n) o = startStep (gateAged s n) o := by rw [passGate, hi]
  have h0 : o.arg 0 = 0 := by rw [Op.arg, ha]; rfl
  have hget : getOp (modOp (gateAged s n) o.id acted) o.id = some (acted o) := getOp_modOp_same h.1 fun _ => rfl
  have hact (p : State) (f : Group → Group) : haltcAct p o f = p := by rw [haltcAct, ha]; rfl
  have hend : startStep (gateAged s n) o = endHold (gateAged s n) o [] := by
    rw [startStep_eq h0, hact, show o.id = (acted o).id from rfl, settleStep_eq hget]
    rw [show (acted o).args = [1] by rw [acted, ha]; rfl, show (acted o).arg 0 = 1 by rw [Op.arg, acted, ha]; rfl]
    simp only [List.drop_one, List.tail_cons, List.all_nil, and_self, if_true]
    exact endHold_modOp (gateAged s n) o (f := acted) (fun _ => rfl) []
  exact endsAtGate_of_endHold [] ((exec_commitGateRelease_atGate h).trans (congrArg _ (hpass.trans hend))) rfl
    (gateAged_alike s n)

theorem heldMask_of_ops {s u : State} (k : Nat) (h : u.ops.map (fun o => (o.grp, o.holds, o.carried)) =
    s.ops.map fun o => (o.grp, o.holds, o.carried)) : heldMask u k = heldMask s k := by
  have hf (os : List Op) (m : Mask) : os.foldl (fun m o => if o.grp == k && o.holds then m ||| o.carried else m) m =
      (os.map fun o => (o.grp, o.holds, o.carried)).foldl (fun m x => if x.1 == k && x.2.1 then m ||| x.2.2 else m) m := by
    rw [List.foldl_map]
  unfold heldMask
  rw [hf, hf, h]

/-- A halted target lets one issue form, and HALTC.STEP waits for it. -/
theorem staysAtGate_step {s : State} {n : Nat} {o : Op} {t : EI} {g : Group} (h : AtGate s n o) (hi : o.i = .haltcStep t)
    (ha : o.args = [0, BitVec.ofNat 64 g.id]) (hlt : g.id < 2 ^ 64) (hg : getGroup s g.id = some g)
    (hh : g.halted = true) (hr : g.resident = true) (hheld : groupHeld s g = false) :
    ∃ u, StaysAtGate s n o u { o with args := [1, BitVec.ofNat 64 g.id] } ∧
      { u with ops := s.ops, groups := s.groups, cores := s.cores } = s ∧ (∀ k, k ≠ g.id → getGroup u k = getGroup s k) ∧
      getGroup u g.id = some { g with stepping := true } := by
  have hpass : passGate (gateAged s n) o = startStep (gateAged s n) o := by rw [passGate, hi]
  have h0 : o.arg 0 = 0 := by rw [Op.arg, ha]; rfl
  have hid : (BitVec.ofNat 64 g.id).toNat = g.id := by simpa using Nat.mod_eq_of_lt hlt
  have hacted : acted o = { o with args := [1, BitVec.ofNat 64 g.id] } := by rw [acted, ha]; rfl
  generalize hf : (fun g : Group => { g with stepping := g.stepping || g.halted }) = f
  have hfid (x : Group) : (f x).id = x.id := by rw [← hf]
  have hfg : f g = { g with stepping := true } := by simp [← hf, hh]
  have hp : haltcAct (modOp (gateAged s n) o.id acted) o f = modGroupSince (modOp (gateAged s n) o.id acted) g.id 0 f := by
    rw [haltcAct, ha]
    simp [hid]
  generalize hu : modGroupSince (modOp (gateAged s n) o.id acted) g.id 0 f = u at hp
  have huops : u.ops = (modOp (gateAged s n) o.id acted).ops := by rw [← hu, modGroupSince_ops]
  have hget (k : Nat) := getOp_of_ops huops k
  have huo : getOp u o.id = some (acted o) := (hget _).trans (getOp_modOp_same h.1 fun _ => rfl)
  have hug : getGroup u g.id = some (f g) := by
    rw [← hu, getGroup_modGroupSince]
    exact getGroup_modGroup_same _ _ _ _ hg hfid
  have hother (k : Nat) (hk : k ≠ g.id) : getGroup u k = getGroup s k := by
    rw [← hu, getGroup_modGroupSince]
    exact getGroup_modGroup_other _ _ _ _ hk hfid
  have hmask : heldMask u g.id = heldMask s g.id := heldMask_of_ops _ (by
    rw [huops]
    show (s.ops.map fun x => if x.id == o.id then acted x else x).map _ = _
    rw [List.map_map]
    refine List.map_congr_left fun x _ => ?_
    dsimp only [Function.comp]
    split <;> rfl)
  have huheld : groupHeld u (f g) = false := by
    rw [← hheld, hfg]
    unfold groupHeld
    rw [show ({ g with stepping := true } : Group).id = g.id from rfl, hmask]
    rfl
  have hsettle : settleStep u o.id = u := by
    rw [show o.id = (acted o).id from rfl, settleStep_one (g := f g) huo (by rw [hacted, hfid]) (by rwa [hfid])
      (by rw [hfid, hug]), huheld, hfg]
    simp [hr]
  have hexec : exec (.commitGateRelease n) s = .next u := by
    rw [exec_commitGateRelease_atGate h, hpass, startStep_eq h0, hf, hp, hsettle]
  refine ⟨u, ⟨hexec, ?_, huo.trans (congrArg some hacted), fun k hk => (hget k).trans (getOp_modOp_other hk fun _ => rfl)⟩, ?_,
    hother, hug.trans (congrArg some hfg)⟩
  · rw [coresKept_iff, ← hu, modGroupSince_coresKept]
    exact (gateAged_alike s n).cores
  · show besidesOf s u = s
    rw [← hu, modGroupSince_besides]
    rfl

/-! ## TLBI (R403) -/

/-- A core whose instruction windows that a TLBI covers are gone. -/
def unfetched (var a b n : Nat) (k : Core) : Core :=
  { k with fetch := k.fetch.filter fun w => !tlbiCovers var a b n w.asid w.va.toNat }

theorem tlbiDiscard_alike {s u : State} (h : AlikeButHist s u) (var a b n : Nat) :
    AlikeButHist (tlbiDiscard s var a b n) (tlbiDiscard u var a b n) := by
  obtain ⟨hr, hc⟩ := h
  rw [coresKept_iff] at hc
  refine ⟨congrArg (fun x : State => tlbiDiscard x var a b n) hr, ?_⟩
  have hmap (cs : List Core) : (cs.map (unfetched var a b n)).map bareCore = (cs.map bareCore).map (unfetched var a b n) := by
    rw [List.map_map, List.map_map]
    rfl
  exact (hmap u.cores).trans ((congrArg (List.map _) hc).trans (hmap s.cores).symm)

/-- What has been discarded is not there to be discarded again. -/
theorem tlbiDiscard_twice (s : State) (var a b n : Nat) :
    tlbiDiscard (tlbiDiscard s var a b n) var a b n = tlbiDiscard s var a b n := by
  simp [tlbiDiscard, List.filter_filter, Function.comp_def]

theorem tlbiBusy_of_idle {s : State} {o : Op} (hops : s.ops = [o]) (hreqs : o.reqs = []) (hlines : s.lines = [])
    (hgs : ∀ g ∈ s.groups, ∀ z ∈ g.gs, z.sent = false) (hit : BitVec 16 → Nat → Bool) (k : Nat) : tlbiBusy s hit k = false := by
  have hg : (s.groups.any fun g => g.gs.any fun x =>
      x.sent && decide (x.id < k) && hit (teamSpace s g.team).2 (gatherAddr s g x).toNat) = false := by
    rw [List.any_eq_false]
    intro g hg
    rw [Bool.not_eq_true, List.any_eq_false]
    intro z hz
    simp [hgs g hg z hz]
  unfold tlbiBusy
  rw [hg, hops, hlines]
  simp [hreqs]

/-- A TLBI that has discarded what it covers: from then on it waits for what was granted before handle `k`. -/
def tlbiDone (k : Nat) (pages : List Dword) (o : Op) : Op :=
  { o with args := setNth o.args 3 (BitVec.ofNat 64 k) ++ pages }

theorem endHold_tlbiDone (p : State) (k : Nat) (pages : List Dword) (o : Op) (ws : List Word) :
    endHold p (tlbiDone k pages o) ws = endHold p o ws := rfl

theorem tlbiDone_since {o : Op} (h : o.args.length = 4) (k : Nat) (pages : List Dword) :
    (tlbiDone k pages o).args.getD 3 0 = BitVec.ofNat 64 k := by
  match hw : o.args, h with
  | [w, x, y, z], _ => simp [tlbiDone, hw, setNth]

/-- With nothing else in flight TLBI ends as it passes the gate. -/
theorem settleTlbi_alone {s : State} {o : Op} {t : EI} (hi : o.i = .tlbi t) (hgate : gateHolds s o.core o.cyc = false)
    (hops : s.ops = [o]) (hreqs : o.reqs = []) (hlines : s.lines = []) (hgs : ∀ g ∈ s.groups, ∀ z ∈ g.gs, z.sent = false)
    (hlen : o.args.length = 4) (h3 : o.args.getD 3 0 = 0) (hpos : 0 < s.nextId) (hlt : s.nextId < 2 ^ 64) :
    settleTlbi s o.id = endHold
      (tlbiDiscard s t.var.toNat (o.args.getD 0 0).toNat (o.args.getD 1 0).toNat (o.args.getD 2 0).toNat) o [] := by
  have hget : getOp s o.id = some o := by simp [getOp, hops]
  have hearly : earlierOps s o = [] := by simp [earlierOps, hops]
  have hne : (BitVec.ofNat 64 s.nextId).toNat ≠ 0 := by
    rw [BitVec.toNat_ofNat, Nat.mod_eq_of_lt hlt]
    omega
  unfold settleTlbi
  simp only [nth_eq_getD, hget, hi, h3, hgate, hearly]
  generalize (o.args.getD 0 0).toNat = a
  generalize (o.args.getD 1 0).toNat = b
  generalize (o.args.getD 2 0).toNat = c
  generalize hu : tlbiDiscard s t.var.toNat a b c = u
  have huops : u.ops = s.ops := by rw [← hu]; rfl
  have hugroups : u.groups = s.groups := by rw [← hu]; rfl
  have hulines : u.lines = [] := by rw [← hlines, ← hu]; rfl
  have hacts (f : Op → Op) : (if BitVec.toNat (0 : Dword) ≠ 0 ∨ False ∨
      (([] : List Op).any fun p => isWrite p.i && p.pending o.mask) = true then s else modOp u o.id f) = modOp u o.id f :=
    if_neg (by simp)
  simp only [Bool.false_eq_true, hacts]
  generalize tlbiPages s t.var.toNat a b c = pages
  have hget1 : getOp (modOp u o.id (tlbiDone s.nextId pages)) o.id = some (tlbiDone s.nextId pages o) :=
    getOp_modOp_same ((getOp_of_ops huops _).trans hget) fun _ => rfl
  have hidle (hit : BitVec 16 → Nat → Bool) (k : Nat) : tlbiBusy (modOp u o.id (tlbiDone s.nextId pages)) hit k = false :=
    tlbiBusy_of_idle (s := modOp u o.id (tlbiDone s.nextId pages)) (o := tlbiDone s.nextId pages o)
      (by simp [modOp, huops, hops]) hreqs hulines (fun g hg => hgs g (hugroups ▸ hg)) hit k
  unfold tlbiDone at hget1 hidle
  simp only [hget1, hidle]
  rw [show setNth o.args 3 (BitVec.ofNat 64 s.nextId) ++ pages = (tlbiDone s.nextId pages o).args from rfl,
    tlbiDone_since hlen, if_pos ⟨hne, rfl⟩]
  calc endHold (tlbiDiscard (modOp u o.id (tlbiDone s.nextId pages)) t.var.toNat a b c) (tlbiDone s.nextId pages o) []
    _ = endHold (modOp (tlbiDiscard u t.var.toNat a b c) o.id (tlbiDone s.nextId pages)) o [] :=
        endHold_tlbiDone ..
    _ = endHold (tlbiDiscard u t.var.toNat a b c) o [] := endHold_modOp _ o (f := tlbiDone _ _) (fun _ => rfl) _
    _ = endHold u o [] := by rw [← hu, tlbiDiscard_twice]

theorem endsAtGate_tlbi {s : State} {n : Nat} {o : Op} {t : EI} (h : AtGate s n o) (hi : o.i = .tlbi t)
    (hops : s.ops = [o]) (hreqs : o.reqs = []) (hlines : s.lines = []) (hgs : ∀ g ∈ s.groups, ∀ z ∈ g.gs, z.sent = false)
    (hlen : o.args.length = 4) (h3 : o.args.getD 3 0 = 0) (hpos : 0 < s.nextId) (hlt : s.nextId < 2 ^ 64) :
    EndsAtGate s n o []
      (tlbiDiscard s t.var.toNat (o.args.getD 0 0).toNat (o.args.getD 1 0).toNat (o.args.getD 2 0).toNat) := by
  have hpass : passGate (gateAged s n) o = settleTlbi (gateAged s n) o.id := by rw [passGate, hi]
  have hend := settleTlbi_alone (s := gateAged s n) hi (not_gateHolds_atGate h) hops hreqs hlines hgs hlen h3 hpos hlt
  exact endsAtGate_of_endHold [] ((exec_commitGateRelease_atGate h).trans (congrArg _ (hpass.trans hend))) rfl
    (tlbiDiscard_alike (gateAged_alike s n) ..)

/-! ## What a report leaves unchanged (R406, R407, R426) -/

/-- State `x` with the memory, the HBM, the host registers and the health of `s`. -/
def unreported (s x : State) : State := { x with mem := s.mem, hbm := s.hbm, host := s.host, health := s.health }

/-- From `s` to `u` at most memory, the HBM's errors, the host registers and the health have changed; no codeword has come into
error, and no byte that `off` holds of has lost its poison. -/
structure Reported (off : Nat → Prop) (s u : State) : Prop where
  rest : unreported s u = s
  remaps : u.hbm.remaps = s.hbm.remaps
  ue : ∀ c ∈ u.hbm.ue, c ∈ s.hbm.ue
  pois : ∀ k ∈ s.hbm.pois, off k → k ∈ u.hbm.pois
  spr75 : u.health.spr75 = s.health.spr75

theorem reported_refl (off : Nat → Prop) (s : State) : Reported off s s :=
  ⟨rfl, rfl, fun _ h => h, fun _ h _ => h, rfl⟩

theorem reported_trans {off : Nat → Prop} {s u w : State} (h1 : Reported off s u) (h2 : Reported off u w) :
    Reported off s w := by
  obtain ⟨r1, m1, u1, p1, s1⟩ := h1
  obtain ⟨r2, m2, u2, p2, s2⟩ := h2
  refine ⟨?_, m2.trans m1, fun c hc => u1 c (u2 c hc), fun k hk ho => p2 k (p1 k hk ho) ho, s2.trans s1⟩
  calc unreported s w
    _ = unreported s (unreported u w) := rfl
    _ = unreported s u := by rw [r2]
    _ = s := r1

theorem reported_overwrite (off : Nat → Prop) (s : State) (ks : List Nat) : Reported off s (overwrite s ks) := by
  unfold overwrite
  dsimp only
  split
  · exact reported_refl off s
  · exact ⟨rfl, rfl, fun c hc => (List.mem_filter.1 hc).1, fun k hk _ => hk, rfl⟩

theorem reported_cleanKeys {off : Nat → Prop} (s : State) {ks : List Nat} (h : ∀ k ∈ ks, ¬ off k) :
    Reported off s (cleanKeys s ks) :=
  ⟨rfl, rfl, fun _ hc => hc, fun k hk ho => List.mem_filter.2 ⟨hk, by simpa using fun hm => h k hm ho⟩, rfl⟩

theorem reported_deviceWrite {off : Nat → Prop} (s : State) (a : Nat) (bs : List Byte)
    (h : ∀ i < bs.length, ¬ off (a + i)) : Reported off s (deviceWrite s a bs) := by
  unfold deviceWrite
  dsimp only
  generalize hk : (((List.range bs.length).map (a + ·)).zip bs).filter (fun x => !failedKey s x.1) = kbs
  have hkeys : ∀ k ∈ kbs.map Prod.fst, ¬ off k := by
    intro k hmem
    rw [List.mem_map] at hmem
    obtain ⟨x, hx, rfl⟩ := hmem
    rw [← hk, List.mem_filter] at hx
    obtain ⟨i, hi, ha⟩ := List.mem_map.1 (List.of_mem_zip (a := x.1) (b := x.2) hx.1).1
    exact ha ▸ h i (List.mem_range.1 hi)
  have hmem (m : Mem) : Reported off s { s with mem := m } := ⟨rfl, rfl, fun _ h => h, fun _ h _ => h, rfl⟩
  have hover := reported_trans (hmem (memSets s.mem (kbs.map Prod.fst) (kbs.map Prod.snd)))
    (reported_overwrite off _ (kbs.map Prod.fst))
  split
  · exact hover
  · exact reported_trans hover (reported_cleanKeys _ fun k hk => hkeys k (List.mem_filter.1 hk).1)

theorem length_record (cls ctx island addr info tb : Nat) : (toBytes cls 1 ++ toBytes ctx 1 ++ toBytes island 2 ++
    toBytes 0 4 ++ toBytes tb 8 ++ toBytes addr 8 ++ toBytes info 8 ++ toBytes 0 32).length = 64 := by
  simp [toBytes]

theorem reported_machineCheck {off : Nat → Prop} (s : State) (cls ctx island addr info : Nat)
    (h : ∀ i < 64, ¬ off (s.host.mcrbase.toNat % 2 ^ 52 / 4096 * 4096 +
      64 * (s.host.mcrHead.toNat % 2 ^ (s.host.mcrbase.toNat % 32)) + i)) :
    Reported off s (machineCheck s cls ctx island addr info) := by
  unfold machineCheck
  dsimp only
  split
  · exact ⟨rfl, rfl, fun _ h => h, fun _ h _ => h, rfl⟩
  · have hlen := length_record cls ctx island addr info s.tb
    generalize toBytes cls 1 ++ toBytes ctx 1 ++ toBytes island 2 ++ toBytes 0 4 ++ toBytes s.tb 8 ++ toBytes addr 8 ++
      toBytes info 8 ++ toBytes 0 32 = bs at hlen
    have hw := reported_deviceWrite s _ bs fun i hi => h i (hlen ▸ hi)
    generalize deviceWrite s _ bs = w at hw ⊢
    obtain ⟨hr, hm, hu, hp, -⟩ := hw
    exact ⟨hr, hm, hu, hp, rfl⟩

theorem reported_checkReplace (off : Nat → Prop) (s : State) : Reported off s (checkReplace s) := by
  unfold checkReplace
  dsimp only
  split
  · exact ⟨rfl, rfl, fun _ h => h, fun _ h _ => h, rfl⟩
  · exact reported_refl off s

/-- A codeword that the next machine-check record does not touch. -/
theorem offRing_keys {s : State} {cw : Nat} (h : offRing s cw) : ∀ i < 64, ¬ (s.host.mcrbase.toNat % 2 ^ 52 / 4096 * 4096 +
    64 * (s.host.mcrHead.toNat % 2 ^ (s.host.mcrbase.toNat % 32)) + i) / 64 = cw := by
  intro i hi he
  refine h ?_
  omega

/-- An uncorrectable codeword that has been found: poisoned and reported (R406, R407). -/
theorem reportCodeword {s : State} {cw : Nat} (hoff : offRing s cw) (cls ctx island addr info : Nat) :
    let u := machineCheck (poisonCodeword s cw) cls ctx island addr info
    unreported s u = s ∧ u.hbm.remaps = s.hbm.remaps ∧ cw ∉ u.hbm.ue ∧ ∀ k < 64, 64 * cw + k ∈ u.hbm.pois := by
  intro u
  obtain ⟨hr, hm, hu, hp, -⟩ := reported_machineCheck (off := fun k => k / 64 = cw) (poisonCodeword s cw) cls ctx island addr
    info (offRing_keys hoff)
  refine ⟨?_, hm, fun hc => ?_, fun k hk => hp _ ?_ (by omega)⟩
  · calc unreported s u
      _ = unreported s (unreported (poisonCodeword s cw) u) := rfl
      _ = s := by rw [hr]; rfl
  · have := (List.mem_filter.1 (hu cw hc)).2
    simp at this
  · show _ ∈ (cwKeys cw).filter _ ++ _
    by_cases hk' : 64 * cw + k ∈ s.hbm.pois
    · exact List.mem_append_right _ hk'
    · refine List.mem_append_left _ (List.mem_filter.2 ⟨List.mem_map.2 ⟨k, List.mem_range.2 hk, rfl⟩, ?_⟩)
      simpa [modHbm] using hk'

/-! ## SCRB (R413 to R415) -/

theorem endsAtGate_scrbQry {s : State} {n : Nat} {o : Op} {t : EI} (h : AtGate s n o) (hi : o.i = .scrbQry t) :
    EndsAtGate s n o [rowStatus s (o.args.getD 0 0).toNat false 0, lowestReq s ((o.args.getD 0 0).toNat / 2 ^ 19)] s := by
  have hpass : passGate (gateAged s n) o = endHold (gateAged s n) o
      [rowStatus s (o.args.getD 0 0).toNat false 0, lowestReq s ((o.args.getD 0 0).toNat / 2 ^ 19)] := by
    rw [passGate, hi, ← nth_eq_getD]
    rfl
  exact endsAtGate_of_endHold _ ((exec_commitGateRelease_atGate h).trans (congrArg _ hpass)) rfl (gateAged_alike s n)

/-- The arguments of a SCRB.ROW after a codeword. -/
def scrubbed (hra k : Nat) (ce ue : Bool) (o : Op) : Op :=
  { o with args := [arg hra, arg (k + 1), arg (o.arg 2 + bitNat ce 0), arg (if ue then 1 else o.arg 3)] }

theorem scrubStep_codeword {s : State} {o : Op} (h : o.arg 1 < 16) : scrubStep s o =
    modOp (scrubCodeword s (o.arg 0) (o.arg 1)).1 o.id (scrubbed (o.arg 0) (o.arg 1)
      (scrubCodeword s (o.arg 0) (o.arg 1)).2.1 (scrubCodeword s (o.arg 0) (o.arg 1)).2.2) := by
  rw [scrubStep, if_pos h]
  obtain ⟨u, ce, ue⟩ := scrubCodeword s (o.arg 0) (o.arg 1)
  rfl

theorem scrubStep_end {s : State} {o : Op} (h : 16 ≤ o.arg 1) : scrubStep s o =
    scrbPair (endScrub s (o.arg 0) (o.arg 2) (o.arg 3 == 1)) o (o.arg 2) (o.arg 3 == 1) := by
  rw [scrubStep, if_neg (by omega)]

/-- What a codeword of a row answers when it is scrubbed. -/
theorem scrubCodeword_sound {s : State} {hra k : Nat}
    (h : failedKey s (cwAddr hra k) = true ∨ (cwAddr hra k / 64 ∉ s.hbm.ue ∧ correctable s (cwAddr hra k / 64) = false)) :
    scrubCodeword s hra k = (s, false, false) := by
  unfold scrubCodeword
  rcases h with h | ⟨h1, h2⟩
  · simp [h]
  · simp [h1, h2]

theorem scrubCodeword_corrected {s : State} {hra k : Nat} (hf : failedKey s (cwAddr hra k) = false)
    (hu : cwAddr hra k / 64 ∉ s.hbm.ue) (hc : correctable s (cwAddr hra k / 64) = true) :
    scrubCodeword s hra k =
      (modHbm s fun h => { h with ce := h.ce.filter (· != cwAddr hra k / 64) }, true, false) := by
  simp [scrubCodeword, hf, hu, hc]

theorem scrubCodeword_uncorrectable {s : State} {hra k : Nat} (hf : failedKey s (cwAddr hra k) = false)
    (hu : cwAddr hra k / 64 ∈ s.hbm.ue) :
    scrubCodeword s hra k = (machineCheck (poisonCodeword s (cwAddr hra k / 64)) 0x02 0x80
      (islandOfStack (cwAddr hra k / 2 ^ 36 % 8)) (64 * (cwAddr hra k / 64)) hra, false, true) := by
  simp [scrubCodeword, hf, hu]

/-- A SCRB.ROW after a codeword, as the statements write it. -/
theorem scrubbed_eq (o : Op) (ce ue : Bool) : scrubbed (o.arg 0) (o.arg 1) ce ue o =
    { o with args := [o.args.getD 0 0, BitVec.ofNat 64 ((o.args.getD 1 0).toNat + 1),
        BitVec.ofNat 64 ((o.args.getD 2 0).toNat + bitNat ce 0),
        BitVec.ofNat 64 (if ue then 1 else (o.args.getD 3 0).toNat)] } := by
  unfold scrubbed arg Op.arg
  simp only [nth_eq_getD, BitVec.ofNat_toNat, BitVec.setWidth_eq]

/-- A codeword of a row, scrubbed at the gate: the SCRB.ROW stays for the next. -/
theorem staysAtGate_scrub {s p : State} {n : Nat} {o : Op} {t : EI} {ce ue : Bool} (h : AtGate s n o) (hi : o.i = .scrbRow t)
    (hk : o.arg 1 < 16) (hscrub : scrubCodeword (gateAged s n) (o.arg 0) (o.arg 1) = (p, ce, ue)) (hops : p.ops = s.ops)
    (hcores : p.cores = (gateAged s n).cores) :
    StaysAtGate s n o (modOp p o.id (scrubbed (o.arg 0) (o.arg 1) ce ue))
      { o with args := [o.args.getD 0 0, BitVec.ofNat 64 ((o.args.getD 1 0).toNat + 1),
          BitVec.ofNat 64 ((o.args.getD 2 0).toNat + bitNat ce 0),
          BitVec.ofNat 64 (if ue then 1 else (o.args.getD 3 0).toNat)] } := by
  have hpass : passGate (gateAged s n) o = modOp p o.id (scrubbed (o.arg 0) (o.arg 1) ce ue) := by
    have hp : passGate (gateAged s n) o = scrubStep (gateAged s n) o := by rw [passGate, hi]
    rw [hp, scrubStep_codeword hk, hscrub]
  rw [← scrubbed_eq]
  exact staysAtGate_of_modOp h hpass (fun _ => rfl) hops hcores

/-- One codeword of a SCRB.ROW at the gate (R415). -/
theorem scrubsCodeword {s : State} {n : Nat} {o : Op} {t : EI} (h : AtGate s n o) (hi : o.i = .scrbRow t)
    (hk : (o.args.getD 1 0).toNat < 16) :
    let x (k : Nat) : Dword := o.args.getD k 0
    let a := (x 0).toNat
    let vb := (x 1).toNat
    let c := (x 2).toNat
    let cw := cwAddr a vb / 64
    let next (ce ue : Nat) : Op := { o with args := [x 0, BitVec.ofNat 64 (vb + 1), BitVec.ofNat 64 ce, BitVec.ofNat 64 ue] }
    let ue := (x 3).toNat
    (failedKey s (cwAddr a vb) = true ∨ (cw ∉ s.hbm.ue ∧ correctable s cw = false) →
      ∃ u, StaysAtGate s n o u (next c ue) ∧ { u with ops := s.ops, cores := s.cores } = s) ∧
    (failedKey s (cwAddr a vb) = false → cw ∉ s.hbm.ue → correctable s cw = true →
      ∃ u, StaysAtGate s n o u (next (c + 1) ue) ∧
        { u with ops := s.ops, cores := s.cores } =
          { s with hbm := { s.hbm with ce := s.hbm.ce.filter fun k => k != cw } }) ∧
    (failedKey s (cwAddr a vb) = false → cw ∈ s.hbm.ue → offRing s cw →
      ∃ u, StaysAtGate s n o u (next c 1) ∧ u.groups = s.groups ∧ cw ∉ u.hbm.ue ∧ ∀ k < 64, 64 * cw + k ∈ u.hbm.pois) := by
  intro x a vb c cw next ue
  have ha : a = o.arg 0 := congrArg BitVec.toNat (nth_eq_getD 0 o.args 0).symm
  have hvb : vb = o.arg 1 := congrArg BitVec.toNat (nth_eq_getD 0 o.args 1).symm
  have hk1 : o.arg 1 < 16 := hvb ▸ hk
  refine ⟨fun hf => ?_, fun hf hu hc => ?_, fun hf hu hoff => ?_⟩ <;> simp only [cw, ha, hvb] at *
  · have hs : scrubCodeword (gateAged s n) (o.arg 0) (o.arg 1) = (gateAged s n, false, false) := scrubCodeword_sound hf
    refine ⟨_, staysAtGate_scrub h hi hk1 hs rfl rfl, rfl⟩
  · have hs := scrubCodeword_corrected (s := gateAged s n) hf hu hc
    exact ⟨_, staysAtGate_scrub h hi hk1 hs rfl rfl, rfl⟩
  · have hs := scrubCodeword_uncorrectable (s := gateAged s n) hf hu
    obtain ⟨hr, -, hue, hpois⟩ := reportCodeword (s := gateAged s n) hoff 0x02 0x80
      (islandOfStack (cwAddr (o.arg 0) (o.arg 1) / 2 ^ 36 % 8)) (64 * (cwAddr (o.arg 0) (o.arg 1) / 64)) (o.arg 0)
    generalize machineCheck _ _ _ _ _ _ = p at hs hr hue hpois
    have hops : p.ops = s.ops := (congrArg State.ops hr :)
    have hcores : p.cores = (gateAged s n).cores := (congrArg State.cores hr :)
    have hgroups : p.groups = s.groups := (congrArg State.groups hr :)
    exact ⟨_, staysAtGate_scrub h hi hk1 hs hops hcores, hgroups, hue, hpois⟩

/-! ## The end of a scrub (R408, R415) -/

/-- A row's entry with one correction more; from the threshold `th` on it asks for repair (R408). -/
def countedOnce (th : Nat) (e : RowErr) : RowErr :=
  { e with cnt := min 15 (e.cnt + 1), req := e.req || decide (min 15 (e.cnt + 1) ≥ th) }

/-- One correction counted in a row. -/
def countOne (s : State) (hra : Nat) : State :=
  modHbm s fun h => { h with errs := keepRow h.errs (countedOnce s.hbm.errth (rowErr s hra)) }

theorem countRow_succ (s : State) (hra n : Nat) : countRow s hra (n + 1) = countRow (countOne s hra) hra n := rfl

theorem countRow_besideCores (hra n : Nat) (s : State) (C : List Core) :
    countRow { s with cores := C } hra n = { countRow s hra n with cores := C } := by
  induction n generalizing s with
  | zero => rfl
  | succ n ih =>
    rw [countRow_succ, countRow_succ]
    exact ih (countOne s hra)

theorem countRow_ops (hra n : Nat) (s : State) : (countRow s hra n).ops = s.ops := by
  induction n generalizing s with
  | zero => rfl
  | succ n ih =>
    rw [countRow_succ]
    exact ih _

theorem stepCursor_besideCores (s : State) (hra : Nat) (C : List Core) :
    stepCursor { s with cores := C } hra = { stepCursor s hra with cores := C } := by
  unfold stepCursor cursorOf
  dsimp only
  split <;> rfl

theorem stepCursor_ops (s : State) (hra : Nat) : (stepCursor s hra).ops = s.ops := by
  unfold stepCursor
  dsimp only
  split <;> rfl

theorem keepsAlike_endScrub (hra ce : Nat) (ue : Bool) : KeepsAlike fun s => endScrub s hra ce ue :=
  keepsAlike_of_besideCores fun s C => by
    dsimp only [endScrub]
    rw [show rowCopies { s with cores := C } hra = rowCopies s hra from rfl, countRow_besideCores]
    generalize countRow s hra _ = u
    cases ue
    · exact stepCursor_besideCores u hra C
    · exact stepCursor_besideCores (requestRow u hra) hra C

theorem endScrub_ops (s : State) (hra ce : Nat) (ue : Bool) : (endScrub s hra ce ue).ops = s.ops := by
  unfold endScrub
  dsimp only
  rw [stepCursor_ops]
  split <;> exact countRow_ops _ _ s

theorem endsAtGate_scrbRow {s : State} {n : Nat} {o : Op} {t : EI} (h : AtGate s n o) (hi : o.i = .scrbRow t)
    (hk : 16 ≤ (o.args.getD 1 0).toNat) :
    let x (k : Nat) : Dword := o.args.getD k 0
    let a := (x 0).toNat
    let c := (x 2).toNat
    let s1 := countRow s a (if rowCopies s a then 0 else c)
    let u1 := stepCursor (if x 3 = 1 then requestRow s1 a else s1) a
    EndsAtGate s n o [rowStatus u1 a (x 3 == 1) c, lowestReq u1 (a / 2 ^ 19)] u1 := by
  intro x a c s1 u1
  have hx (k : Nat) : o.arg k = (x k).toNat := congrArg BitVec.toNat (nth_eq_getD 0 o.args k)
  have h1 : (o.arg 3 == 1) = (x 3 == 1) := by
    rw [hx, Bool.eq_iff_iff, beq_iff_eq, beq_iff_eq, ← BitVec.toNat_inj]
    rfl
  have hu : endScrub s a c (x 3 == 1) = u1 := by
    unfold endScrub
    simp only [beq_iff_eq]
    rfl
  have halike : AlikeButHist u1 (endScrub (gateAged s n) a c (x 3 == 1)) :=
    hu ▸ keepsAlike_endScrub a c (x 3 == 1) s _ (gateAged_alike s n)
  have hpass : passGate (gateAged s n) o = endHold (endScrub (gateAged s n) a c (x 3 == 1)) o
      [rowStatus u1 a (x 3 == 1) c, lowestReq u1 (a / 2 ^ 19)] := by
    have hp : passGate (gateAged s n) o = scrubStep (gateAged s n) o := by rw [passGate, hi]
    rw [hp, scrubStep_end (by rw [hx]; exact hk), h1, hx, hx, scrbPair, hx]
    rw [← congrArg (fun u => rowStatus u a (x 3 == 1) c) halike.rest, ← congrArg (fun u => lowestReq u (a / 2 ^ 19)) halike.rest]
    rfl
  exact endsAtGate_of_endHold _ ((exec_commitGateRelease_atGate h).trans (congrArg _ hpass)) (endScrub_ops ..) halike

/-! ## The counters of rows (R408) -/

/-- The error table with the entry of a row first. -/
def rowSet (s : State) (e : RowErr) : State :=
  modHbm s fun h => { h with errs := e :: h.errs.filter fun x => x.hra != e.hra }

/-- The other entries of a row's stack leave room for it. -/
def rowRoom (s : State) (hra : Nat) : Prop :=
  (s.hbm.errs.filter fun e => e.hra != hra && e.hra / 2 ^ 29 == hra / 2 ^ 29).length < 4096

theorem keepRow_of_room {s : State} {e : RowErr} (h : rowRoom s e.hra) :
    keepRow s.hbm.errs e = e :: s.hbm.errs.filter fun x => x.hra != e.hra := by
  have hl : ((s.hbm.errs.filter fun x => x.hra != e.hra).filter fun x => x.hra / 2 ^ 29 == e.hra / 2 ^ 29).length < 4096 := by
    rw [List.filter_filter]
    unfold rowRoom at h
    simpa only [Bool.and_comm] using h
  rw [keepRow, if_pos hl]

theorem rowErr_hra (s : State) (hra : Nat) : (rowErr s hra).hra = hra := by
  unfold rowErr
  cases h : s.hbm.errs.find? fun e => e.hra == hra with
  | none => rfl
  | some e => simpa using List.find?_some h

theorem rowErr_rowSet_same (s : State) (e : RowErr) : rowErr (rowSet s e) e.hra = e := by
  simp [rowErr, rowSet, modHbm]

theorem rowErr_rowSet_other (s : State) (e : RowErr) {k : Nat} (h : k ≠ e.hra) : rowErr (rowSet s e) k = rowErr s k := by
  have hf : (fun x : RowErr => decide ((x.hra != e.hra) = true ∧ (x.hra == k) = true)) = fun x => x.hra == k := funext fun x => by
    by_cases hx : x.hra = k <;> simp [hx, h]
  have hne : (e.hra == k) = false := by simpa using h.symm
  unfold rowErr rowSet modHbm
  dsimp only
  rw [List.find?_cons, hne, List.find?_filter, hf]

theorem rowSet_rowSet (s : State) {e e' : RowErr} (h : e'.hra = e.hra) : rowSet (rowSet s e) e' = rowSet s e' := by
  simp [rowSet, modHbm, h, List.filter_filter]

theorem rowRoom_rowSet {s : State} {e : RowErr} (h : rowRoom s e.hra) : rowRoom (rowSet s e) e.hra := by
  have hf : (fun x : RowErr => (x.hra != e.hra && x.hra / 2 ^ 29 == e.hra / 2 ^ 29) && x.hra != e.hra) =
      fun x => x.hra != e.hra && x.hra / 2 ^ 29 == e.hra / 2 ^ 29 := funext fun x => by
    by_cases hx : x.hra = e.hra <;> simp [hx]
  have hp : (e.hra != e.hra && e.hra / 2 ^ 29 == e.hra / 2 ^ 29) = false := by simp
  unfold rowRoom rowSet modHbm
  dsimp only
  rw [List.filter_cons, hp, if_neg Bool.false_ne_true, List.filter_filter, hf]
  exact h

theorem countOne_of_room {s : State} {hra : Nat} (h : rowRoom s hra) :
    countOne s hra = rowSet s (countedOnce s.hbm.errth (rowErr s hra)) := by
  have he : (countedOnce s.hbm.errth (rowErr s hra)).hra = hra := rowErr_hra s hra
  exact congrArg (fun es => modHbm s fun h => { h with errs := es }) (keepRow_of_room (he.symm ▸ h))

/-- A row's entry with `n` corrections more, of which there is one at least. -/
def countedTimes (th n : Nat) (e : RowErr) : RowErr :=
  { e with cnt := min 15 (e.cnt + n), req := e.req || decide (th ≤ min 15 (e.cnt + n)) }

theorem countedTimes_countedOnce (th n : Nat) (e : RowErr) :
    countedTimes th (n + 1) (countedOnce th e) = countedTimes th (n + 2) e := by
  have h1 : min 15 (min 15 (e.cnt + 1) + (n + 1)) = min 15 (e.cnt + (n + 2)) := by omega
  have h2 : th ≤ min 15 (e.cnt + 1) → th ≤ min 15 (e.cnt + (n + 2)) := by omega
  unfold countedTimes countedOnce
  rw [h1]
  by_cases hr : th ≤ min 15 (e.cnt + 1)
  · simp [hr, h2 hr]
  · simp [hr]

theorem countRow_of_room {s : State} {hra : Nat} (h : rowRoom s hra) (n : Nat) :
    countRow s hra (n + 1) = rowSet s (countedTimes s.hbm.errth (n + 1) (rowErr s hra)) := by
  induction n generalizing s with
  | zero => exact countOne_of_room h
  | succ n ih =>
    have he : (countedOnce s.hbm.errth (rowErr s hra)).hra = hra := rowErr_hra s hra
    have hroom := rowRoom_rowSet (s := s) (e := countedOnce s.hbm.errth (rowErr s hra)) (he.symm ▸ h)
    have hrow := rowErr_rowSet_same s (countedOnce s.hbm.errth (rowErr s hra))
    rw [he] at hroom hrow
    rw [countRow_succ, countOne_of_room h, ih hroom, hrow]
    generalize rowErr s hra = e
    have hset := rowSet_rowSet (e := countedOnce s.hbm.errth e) (e' := countedTimes s.hbm.errth (n + 1) (countedOnce s.hbm.errth e))
      s rfl
    exact hset.trans (congrArg (rowSet s) (countedTimes_countedOnce s.hbm.errth n e))

theorem requestRow_of_room {s : State} {hra : Nat} (h : rowRoom s hra) :
    requestRow s hra = rowSet s { rowErr s hra with req := true } := by
  have he : ({ rowErr s hra with req := true } : RowErr).hra = hra := rowErr_hra s hra
  exact congrArg (fun es => modHbm s fun h => { h with errs := es }) (keepRow_of_room (he.symm ▸ h))

/-- A row whose entry is `e`: nothing else has changed. -/
theorem counts_rowSet (s : State) {e : RowErr} {hra : Nat} (he : e.hra = hra) :
    { rowSet s e with hbm := { (rowSet s e).hbm with errs := s.hbm.errs } } = s ∧ rowErr (rowSet s e) hra = e ∧
      ∀ k, k ≠ hra → rowErr (rowSet s e) k = rowErr s k :=
  ⟨rfl, he ▸ rowErr_rowSet_same s e, fun _ hk => rowErr_rowSet_other s e (he ▸ hk)⟩

/-! ## RSPR (R410, R413, R416) -/

/-- The copy that an RSPR starts: of row `a` into spare `k` of its bank. -/
def copyStarted (s : State) (a k id : Nat) : Remap :=
  { bank := a / 2 ^ 19, spare := k, row := a % 65536, v := false, busy := true, copied := 0, fixed := 0, bad := false
    old := ((bankRemaps s (a / 2 ^ 19)).find? fun r => r.v && r.row == a % 65536).map Remap.spare
    op := some id }

theorem settleRspr_busy {s : State} {o : Op} (h : getOp s o.id = some o)
    (hb : (bankRemaps s (o.arg 0 / 2 ^ 19)).any Remap.busy = true) : settleRspr s o.id = s := by
  unfold settleRspr
  rw [h]
  exact if_pos (Or.inr hb)

theorem settleRspr_none {s : State} {o : Op} (h : getOp s o.id = some o) (hg : gateHolds s o.core o.cyc = false)
    (hb : (bankRemaps s (o.arg 0 / 2 ^ 19)).any Remap.busy = false) (hf : freeSpare s (o.arg 0 / 2 ^ 19) = none) :
    settleRspr s o.id = endHold s o [rowStatus s (o.arg 0) false 0, 0xFFFFFFFF] := by
  have hno : ¬ (gateHolds s o.core o.cyc = true ∨ (bankRemaps s (o.arg 0 / 2 ^ 19)).any Remap.busy = true) := by
    rw [hg, hb]
    decide
  unfold settleRspr
  rw [h]
  refine (if_neg hno).trans ?_
  rw [show bankOfHra (nth 0 o.args 0).toNat = o.arg 0 / 2 ^ 19 from rfl, hf] <;> rfl

theorem settleRspr_some {s : State} {o : Op} {k : Nat} (h : getOp s o.id = some o) (hg : gateHolds s o.core o.cyc = false)
    (hb : (bankRemaps s (o.arg 0 / 2 ^ 19)).any Remap.busy = false) (hf : freeSpare s (o.arg 0 / 2 ^ 19) = some k) :
    settleRspr s o.id = checkSpares (modHbm s fun h => { h with remaps := h.remaps ++ [copyStarted s (o.arg 0) k o.id] })
      (o.arg 0 / 2 ^ 19) := by
  have hno : ¬ (gateHolds s o.core o.cyc = true ∨ (bankRemaps s (o.arg 0 / 2 ^ 19)).any Remap.busy = true) := by
    rw [hg, hb]
    decide
  unfold settleRspr
  rw [h]
  refine (if_neg hno).trans ?_
  rw [show bankOfHra (nth 0 o.args 0).toNat = o.arg 0 / 2 ^ 19 from rfl, hf] <;> rfl

theorem checkSpares_few {s : State} {bank : Nat} (h : (bankRemaps s bank).length ≠ 49) : checkSpares s bank = s :=
  if_neg h

theorem replace_checkReplace {s : State} (h : s.health.spr75 ≠ 0) : (checkReplace s).health.replace = true := by
  unfold checkReplace
  dsimp only
  split
  · rfl
  · next hn =>
    by_contra hr
    refine hn ?_
    rw [Bool.eq_false_iff.2 hr, bne_iff_ne.2 h, Bool.or_true]
    rfl

/-- The 49th spare of a bank comes into use. -/
theorem checkSpares_many {s : State} {bank : Nat} (h : (bankRemaps s bank).length = 49) :
    unreported s (checkSpares s bank) = s ∧ (checkSpares s bank).hbm.remaps = s.hbm.remaps ∧
      (checkSpares s bank).health.spr75 = s.health.spr75 ||| BitVec.ofNat 8 (2 ^ (bank / 2 ^ 10 % 8)) ∧
      (checkSpares s bank).health.replace = true := by
  unfold checkSpares
  dsimp only
  rw [if_pos h]
  generalize hw : ({ s with health := { s.health with
    spr75 := s.health.spr75 ||| BitVec.ofNat 8 (2 ^ (bank / 2 ^ 10 % 8)) } } : State) = w
  have hspr : w.health.spr75 = s.health.spr75 ||| BitVec.ofNat 8 (2 ^ (bank / 2 ^ 10 % 8)) := by rw [← hw]
  have hbit : BitVec.ofNat 8 (2 ^ (bank / 2 ^ 10 % 8)) ≠ 0 := by
    have hlt : bank / 2 ^ 10 % 8 < 8 := Nat.mod_lt _ (by decide)
    generalize bank / 2 ^ 10 % 8 = x at hlt
    revert x
    decide
  have hne : w.health.spr75 ≠ 0 := by
    rw [hspr]
    exact fun h0 => hbit (BitVec.or_eq_zero_iff.1 h0).2
  have hcheck := reported_machineCheck (off := fun _ => False) w 0x08 0x80 (islandOfStack (bank / 2 ^ 10 % 8)) (bank * 2 ^ 19)
    (bankRemaps s bank).length fun _ _ h => h
  generalize machineCheck w _ _ _ _ _ = c at hcheck
  obtain ⟨hr, hm, -, -, hs⟩ := reported_trans hcheck (reported_checkReplace _ c)
  refine ⟨?_, hm.trans (by rw [← hw]), hs.trans hspr, replace_checkReplace ?_⟩
  · calc unreported s (checkReplace c)
      _ = unreported s (unreported w (checkReplace c)) := rfl
      _ = s := by rw [hr, ← hw]; rfl
  · rw [hcheck.spr75]
    exact hne

/-- RSPR at the gate (R416). -/
theorem rsprAtGate {s : State} {n : Nat} {o : Op} {t : EI} (h : AtGate s n o) (hi : o.i = .rspr t) :
    let a := (o.args.getD 0 0).toNat
    let bank := a / 2 ^ 19
    let quiet (u : State) : Prop := u.host = s.host ∧ u.health = s.health ∧ u.mem = s.mem
    let same (u : State) : Prop :=
      { u with hbm := s.hbm, cores := s.cores, host := s.host, health := s.health, mem := s.mem } = s
    ((∃ r ∈ s.hbm.remaps, r.bank = bank ∧ r.busy = true) → ∃ u, StaysAtGate s n o u o ∧ same u ∧ quiet u ∧ u.hbm = s.hbm) ∧
    ((∀ r ∈ s.hbm.remaps, r.bank = bank → r.busy = false) →
      (∀ k, freeSpare s bank = some k →
        ∃ u, StaysAtGate s n o u o ∧ same u ∧ ((bankRemaps s bank).length ≠ 48 → quiet u) ∧
        ((bankRemaps s bank).length = 48 →
          u.health.spr75 = s.health.spr75 ||| BitVec.ofNat 8 (2 ^ (bank / 2 ^ 10 % 8)) ∧ u.health.replace = true) ∧
        u.hbm.remaps = s.hbm.remaps ++ [copyStarted s a k o.id] ∧
        ((bankRemaps s bank).length ≠ 48 → u.hbm = { s.hbm with remaps := u.hbm.remaps })) ∧
      (freeSpare s bank = none → EndsAtGate s n o [rowStatus s a false 0, 0xFFFFFFFF] s)) := by
  intro a bank quiet same
  have ha : a = o.arg 0 := congrArg BitVec.toNat (nth_eq_getD 0 o.args 0).symm
  have hpass : passGate (gateAged s n) o = settleRspr (gateAged s n) o.id := by rw [passGate, hi]
  have hbank : bank = o.arg 0 / 2 ^ 19 := congrArg (· / 2 ^ 19) ha
  have hget : getOp (gateAged s n) o.id = some o := h.1
  have hgate := not_gateHolds_atGate h
  have hany : (bankRemaps s bank).any Remap.busy = true ↔ ∃ r ∈ s.hbm.remaps, r.bank = bank ∧ r.busy = true := by
    simp [bankRemaps]
  refine ⟨fun hb => ?_, fun hb => ?_⟩
  · have hs : passGate (gateAged s n) o = gateAged s n := hpass.trans (settleRspr_busy hget (hbank ▸ hany.2 hb))
    exact ⟨_, staysAtGate_same h hs rfl rfl, rfl, ⟨rfl, rfl, rfl⟩, rfl⟩
  · have hidle : (bankRemaps (gateAged s n) (o.arg 0 / 2 ^ 19)).any Remap.busy = false := by
      rw [← Bool.not_eq_true, ← ha]
      exact fun hx => by
        obtain ⟨r, hr, hbank, hbusy⟩ := hany.1 hx
        exact absurd (hb r hr hbank) (by simp [hbusy])
    refine ⟨fun k hk => ?_, fun hk => ?_⟩
    · have hs := hpass.trans (settleRspr_some hget hgate hidle (hbank ▸ hk))
      rw [← ha] at hs
      generalize hq : modHbm (gateAged s n) _ = q at hs
      have hqr : q.hbm.remaps = s.hbm.remaps ++ [copyStarted s a k o.id] := by rw [← hq]; rfl
      have hqlen : (bankRemaps q bank).length = (bankRemaps s bank).length + 1 := by
        simp [bankRemaps, hqr, copyStarted, bank]
      by_cases h48 : (bankRemaps s bank).length = 48
      · obtain ⟨hr, hm, hspr, hrep⟩ := checkSpares_many (s := q) (bank := bank) (by omega)
        rw [show a / 2 ^ 19 = bank from rfl] at hs
        generalize checkSpares q bank = u at hs hr hm hspr hrep
        have hops : u.ops = s.ops := (congrArg State.ops hr :).trans (by rw [← hq]; rfl)
        have hcores : u.cores = (gateAged s n).cores := (congrArg State.cores hr :).trans (by rw [← hq]; rfl)
        refine ⟨u, staysAtGate_same h hs hops hcores, ?_, fun hne => absurd h48 hne, fun _ => ⟨?_, hrep⟩, hm.trans hqr,
          fun hne => absurd h48 hne⟩
        · calc { u with hbm := s.hbm, cores := s.cores, host := s.host, health := s.health, mem := s.mem }
            _ = { unreported q u with hbm := s.hbm, cores := s.cores, host := s.host, health := s.health, mem := s.mem } := rfl
            _ = s := by rw [hr, ← hq]; rfl
        · rw [hspr, ← hq]
          rfl
      · have hs' := hs.trans (checkSpares_few (by show (bankRemaps q bank).length ≠ 49; omega))
        subst hq
        exact ⟨_, staysAtGate_same h hs' rfl rfl, rfl, fun _ => ⟨rfl, rfl, rfl⟩, fun he => absurd he h48, hqr, fun _ => rfl⟩
    · have hs := hpass.trans (settleRspr_none hget hgate hidle (hbank ▸ hk))
      rw [← ha] at hs
      exact endsAtGate_of_endHold _ ((exec_commitGateRelease_atGate h).trans (congrArg _ hs)) rfl (gateAged_alike s n)

/-! ## The copy into a spare row (R411, R416) -/

/-- The codeword that a copy takes next. -/
def copyWord (r : Remap) : Nat := cwAddr (r.bank * 2 ^ 19 + r.row) r.copied / 64

/-- A copy that has met its next codeword: one that is uncorrectable is poisoned and reported, and asks for repair. -/
def copyMet (s : State) (r : Remap) : State :=
  if s.hbm.ue.contains (copyWord r) then
    requestRow (machineCheck (poisonCodeword s (copyWord r)) 0x02 0x80 (islandOfStack (r.bank / 2 ^ 10 % 8))
      (64 * copyWord r) (r.bank * 2 ^ 19 + r.row)) (r.bank * 2 ^ 19 + r.row)
  else s

/-- The entry of a copy that has taken a codeword. -/
def copyNext (s : State) (r : Remap) : Remap :=
  { r with
    copied := r.copied + 1
    fixed := r.fixed + if !s.hbm.ue.contains (copyWord r) && correctable s (copyWord r) then 1 else 0
    bad := r.bad || s.hbm.ue.contains (copyWord r) }

/-- The remap entries with that of one spare replaced. -/
def advanced (s : State) (r next : Remap) : State :=
  modHbm s fun h => { h with remaps := h.remaps.map fun q => if q.bank == r.bank && q.spare == r.spare then next else q }

/-- The entry of a row that is served from its spare. -/
def servedFrom (r : Remap) : Remap := { r with v := true, busy := false, fixed := 0, bad := false, op := none, old := none }

/-- A copy is over: its row is served from the spare. -/
def copyOver (s : State) (r : Remap) (hra : Nat) : State :=
  modHbm s fun h => { h with
    oldStuck := h.oldStuck ++ ((List.range 16).filter fun k => s.hbm.stuck.contains (cwAddr hra k / 64)).map
      fun k => (hra, r.old, k)
    remaps := h.remaps.map fun q =>
      if q.bank == r.bank && q.spare == r.spare then servedFrom r
      else if q.bank == r.bank && some q.spare == r.old then { q with v := false, row := 0 } else q
    errs := h.errs.filter fun e => e.hra != hra
    ce := h.ce.filter fun c => !((List.range 16).map fun k => cwAddr hra k / 64).contains c
    stuck := h.stuck.filter fun c => !((List.range 16).map fun k => cwAddr hra k / 64).contains c }

theorem finishCopy_alone {s : State} {r : Remap} (hra : Nat) (h : r.op = none) : finishCopy s r hra = copyOver s r hra := by
  unfold finishCopy
  rw [h] <;> rfl

theorem finishCopy_for {s : State} {r : Remap} (hra : Nat) {o : Op} (h : r.op = some o.id) (ho : getOp s o.id = some o) :
    finishCopy s r hra = endHold (copyOver s r hra) o
      [rowStatus (copyOver s r hra) hra r.bad r.fixed, remapWord (servedFrom r)] := by
  have hget : getOp (copyOver s r hra) o.id = some o := ho
  have hfind : r.op.bind (getOp (copyOver s r hra)) = some o := by rw [h]; exact hget
  unfold finishCopy
  dsimp only
  generalize hu : modHbm s _ = u
  have hu' : u = copyOver s r hra := hu.symm
  rw [hu', hfind] <;> rfl

theorem waitingRspr_of_none {s : State} (bank : Nat) (h : ∀ o ∈ s.ops, ∀ t, o.i ≠ .rspr t) : waitingRspr s bank = none := by
  unfold waitingRspr
  rw [Option.map_eq_none_iff, List.find?_eq_none]
  intro o ho
  split
  · next t hi => exact absurd hi (h o ho t)
  · exact Bool.false_ne_true

/-- The one copy of a bank is the one that its step finds. -/
theorem busyRemap {s : State} {r : Remap} (hr : r ∈ s.hbm.remaps) (hb : r.busy = true)
    (hone : ∀ q ∈ s.hbm.remaps, q.bank = r.bank → q.busy = true → q = r) :
    (bankRemaps s r.bank).find? Remap.busy = some r := by
  cases hf : (bankRemaps s r.bank).find? Remap.busy with
  | none =>
    have hno := List.find?_eq_none.1 hf r (List.mem_filter.2 ⟨hr, by simp⟩)
    exact absurd hb hno
  | some q =>
    obtain ⟨hq, hbank⟩ := List.mem_filter.1 (List.mem_of_find?_eq_some hf)
    rw [hone q hq (by simpa using hbank) (List.find?_some hf)]

theorem execSpareRowCopyStep_idle {s : State} {bank : Nat} (h : ∀ r ∈ s.hbm.remaps, r.bank = bank → r.busy = false) :
    exec (.spareRowCopyStep bank) s = .next s := by
  have hf : (bankRemaps s bank).find? Remap.busy = none := by
    rw [List.find?_eq_none]
    intro r hr
    obtain ⟨hr, hbank⟩ := List.mem_filter.1 hr
    simp [h r hr (by simpa using hbank)]
  show execSpareRowCopyStep bank s = _
  unfold execSpareRowCopyStep
  rw [hf]

theorem execSpareRowCopyStep_more {s : State} {r : Remap} (h : (bankRemaps s r.bank).find? Remap.busy = some r)
    (hc : r.copied < 15) : exec (.spareRowCopyStep r.bank) s = .next (advanced (copyMet s r) r (copyNext s r)) := by
  have hlt : r.copied + 1 < 16 := by omega
  show execSpareRowCopyStep r.bank s = _
  unfold execSpareRowCopyStep
  rw [h]
  exact congrArg Host.Outcome.next (if_pos hlt)

theorem execSpareRowCopyStep_last {s : State} {r : Remap} (h : (bankRemaps s r.bank).find? Remap.busy = some r)
    (hc : r.copied = 15)
    (hw : waitingRspr (finishCopy (advanced (copyMet s r) r (copyNext s r)) (copyNext s r) (r.bank * 2 ^ 19 + r.row)) r.bank = none) :
    exec (.spareRowCopyStep r.bank) s =
      .next (finishCopy (advanced (copyMet s r) r (copyNext s r)) (copyNext s r) (r.bank * 2 ^ 19 + r.row)) := by
  have hge : ¬ r.copied + 1 < 16 := by omega
  show execSpareRowCopyStep r.bank s = _
  unfold execSpareRowCopyStep
  rw [h]
  refine congrArg Host.Outcome.next ((if_neg hge).trans ?_)
  show (match waitingRspr (finishCopy (advanced (copyMet s r) r (copyNext s r)) (copyNext s r) (r.bank * 2 ^ 19 + r.row)) r.bank with
    | some id => _
    | none => _) = _
  rw [hw] <;> rfl

theorem copyMet_good {s : State} {r : Remap} (h : copyWord r ∉ s.hbm.ue) : copyMet s r = s := by
  simp [copyMet, h]

theorem copyMet_bad {s : State} {r : Remap} (h : copyWord r ∈ s.hbm.ue) (hoff : offRing s (copyWord r)) :
    unreported s (copyMet s r) = s ∧ (copyMet s r).hbm.remaps = s.hbm.remaps ∧ copyWord r ∉ (copyMet s r).hbm.ue ∧
      ∀ k < 64, 64 * copyWord r + k ∈ (copyMet s r).hbm.pois := by
  have hw := reportCodeword hoff 0x02 0x80 (islandOfStack (r.bank / 2 ^ 10 % 8)) (64 * copyWord r) (r.bank * 2 ^ 19 + r.row)
  rw [copyMet, if_pos (List.contains_iff_mem.2 h)]
  exact hw

theorem copyNext_good {s : State} {r : Remap} (h : copyWord r ∉ s.hbm.ue) : copyNext s r =
    { r with copied := r.copied + 1, fixed := r.fixed + if correctable s (copyWord r) then 1 else 0 } := by
  simp [copyNext, h]

theorem copyNext_bad {s : State} {r : Remap} (h : copyWord r ∈ s.hbm.ue) :
    copyNext s r = { r with copied := r.copied + 1, bad := true } := by
  simp [copyNext, h]

section

variable {s : State} {r : Remap} (hone : ∀ q ∈ s.hbm.remaps, q.bank = r.bank → q.spare = r.spare → q = r)

include hone

/-- A spare is in use once: its entry is the one that a change meets. -/
theorem sameSpare_iff {q : Remap} (hq : q ∈ s.hbm.remaps) : (q.bank == r.bank && q.spare == r.spare) = true ↔ q = r := by
  rw [Bool.and_eq_true, beq_iff_eq, beq_iff_eq]
  exact ⟨fun h => hone q hq h.1 h.2, fun h => h ▸ ⟨rfl, rfl⟩⟩

theorem advanced_remaps {w : State} (hw : w.hbm.remaps = s.hbm.remaps) (next : Remap) :
    (advanced w r next).hbm.remaps = s.hbm.remaps.map fun q => if q = r then next else q := by
  show w.hbm.remaps.map _ = _
  rw [hw]
  exact List.map_congr_left fun q hq => if_congr (sameSpare_iff hone hq) rfl rfl

theorem copyOver_remaps {w : State} (hw : w.hbm.remaps = s.hbm.remaps) {next : Remap} (hb : next.bank = r.bank)
    (hs : next.spare = r.spare) (ho : next.old = r.old) (hra : Nat) :
    (copyOver (advanced w r next) next hra).hbm.remaps = s.hbm.remaps.map fun q =>
      if q = r then servedFrom next
      else if q.bank = r.bank ∧ some q.spare = r.old then { q with v := false, row := 0 } else q := by
  show (advanced w r next).hbm.remaps.map _ = _
  rw [advanced_remaps hone hw, List.map_map]
  refine List.map_congr_left fun q hq => ?_
  by_cases hqr : q = r
  · simp [hqr, hb, hs]
  · have hne : ¬ (q.bank == r.bank && q.spare == r.spare) = true := mt (sameSpare_iff hone hq).1 hqr
    simp only [Function.comp, if_neg hqr, hb, hs, ho, if_neg hne]
    simp

end

/-- The entry of a row when its copy is over. -/
theorem servedFrom_last {r : Remap} (hc : r.copied = 15) (fixed : Nat) (bad : Bool) :
    servedFrom { r with copied := r.copied + 1, fixed := fixed, bad := bad } =
      { r with copied := 16, v := true, busy := false, fixed := 0, bad := false, op := none, old := none } := by
  simp [servedFrom, hc]

/-- The state in which a copy is over, as the statements write it: `done` is the entry of the row, `w` the state that the last
codeword left. -/
def repairedFrom (w : State) (r done : Remap) : State :=
  let hra := r.bank * 2 ^ 19 + r.row
  let cws := (List.range 16).map fun k => cwAddr hra k / 64
  { w with hbm := { w.hbm with
    remaps := w.hbm.remaps.map fun q =>
      if q = r then done
      else if q.bank = r.bank ∧ some q.spare = r.old then { q with v := false, row := 0 } else q
    oldStuck := w.hbm.oldStuck ++ ((List.range 16).filter fun k => w.hbm.stuck.contains (cwAddr hra k / 64)).map
      fun k => (hra, r.old, k)
    errs := w.hbm.errs.filter fun e => e.hra != hra
    ce := w.hbm.ce.filter fun k => !cws.contains k
    stuck := w.hbm.stuck.filter fun k => !cws.contains k } }

theorem copyOver_eq {s w : State} {r next : Remap}
    (hone : ∀ q ∈ s.hbm.remaps, q.bank = r.bank → q.spare = r.spare → q = r) (hw : w.hbm.remaps = s.hbm.remaps)
    (hb : next.bank = r.bank) (hs : next.spare = r.spare) (ho : next.old = r.old) :
    copyOver (advanced w r next) next (r.bank * 2 ^ 19 + r.row) = repairedFrom w r (servedFrom next) := by
  have hr := copyOver_remaps hone hw hb hs ho (r.bank * 2 ^ 19 + r.row)
  rw [← hw] at hr
  generalize hu : copyOver (advanced w r next) next (r.bank * 2 ^ 19 + r.row) = u at hr
  have e : u = { u with hbm := { u.hbm with remaps := u.hbm.remaps } } := rfl
  rw [e, hr, ← hu]
  unfold copyOver
  rw [ho]
  rfl

/-- A copy that no RSPR waits for ends. -/
theorem execSpareRowCopyStep_alone {s w : State} {r next : Remap} (hr : (bankRemaps s r.bank).find? Remap.busy = some r)
    (hone : ∀ q ∈ s.hbm.remaps, q.bank = r.bank → q.spare = r.spare → q = r) (hc : r.copied = 15)
    (hmet : copyMet s r = w) (hnext : copyNext s r = next) (hw : w.hbm.remaps = s.hbm.remaps) (hops : w.ops = s.ops)
    (hop : r.op = none) (hno : ∀ o ∈ s.ops, ∀ t, o.i ≠ .rspr t) :
    exec (.spareRowCopyStep r.bank) s = .next (repairedFrom w r (servedFrom next)) := by
  subst hmet
  subst hnext
  have hfin := (finishCopy_alone (s := advanced (copyMet s r) r (copyNext s r)) (r := copyNext s r) (r.bank * 2 ^ 19 + r.row) hop).trans
    (copyOver_eq hone hw rfl rfl rfl)
  rw [execSpareRowCopyStep_last hr hc, hfin]
  rw [hfin]
  exact waitingRspr_of_none _ fun o ho => hno o (hops ▸ ho)

/-- A copy that an RSPR waits for ends, and the RSPR goes on with its pair. -/
theorem execSpareRowCopyStep_for {s w : State} {r next : Remap} {o : Op}
    (hr : (bankRemaps s r.bank).find? Remap.busy = some r)
    (hone : ∀ q ∈ s.hbm.remaps, q.bank = r.bank → q.spare = r.spare → q = r) (hc : r.copied = 15)
    (hmet : copyMet s r = w) (hnext : copyNext s r = next) (hw : w.hbm.remaps = s.hbm.remaps) (hops : w.ops = s.ops)
    (hop : r.op = some o.id) (ho : getOp s o.id = some o) (hno : ∀ p ∈ s.ops, p.id ≠ o.id → ∀ t, p.i ≠ .rspr t) :
    exec (.spareRowCopyStep r.bank) s = .next (endHold (repairedFrom w r (servedFrom next)) o
      [rowStatus (repairedFrom w r (servedFrom next)) (r.bank * 2 ^ 19 + r.row) next.bad next.fixed,
        remapWord (servedFrom next)]) := by
  subst hmet
  subst hnext
  have hget : getOp (advanced (copyMet s r) r (copyNext s r)) o.id = some o := (getOp_of_ops hops _).trans ho
  have hfin := finishCopy_for (s := advanced (copyMet s r) r (copyNext s r)) (r := copyNext s r) (r.bank * 2 ^ 19 + r.row) hop hget
  rw [copyOver_eq (next := copyNext s r) hone hw rfl rfl rfl] at hfin
  rw [execSpareRowCopyStep_last hr hc, hfin]
  rw [hfin]
  refine waitingRspr_of_none _ fun p hp => ?_
  rw [endHold_ops, List.mem_filter, bne_iff_ne] at hp
  exact hno p (hops ▸ hp.1) hp.2

/-- What the end of a copy does for the RSPR that asked for it. -/
theorem endHold_repaired {s q : State} {o : Op} {t : EI} (ws : List Word) (hi : o.i = .rspr t) (hops : q.ops = s.ops)
    (hgroups : q.groups = s.groups) (hcores : q.cores = s.cores) :
    coresKept s (endHold q o ws) ∧ opGone s (endHold q o ws) o.id ∧
      (∀ k, k ≠ o.grp → getGroup (endHold q o ws) k = getGroup s k) ∧
      ∀ g, getGroup s o.grp = some g →
        getGroup (endHold q o ws) o.grp = some (stepOn (g.writes (o.dsts.zip ws)) o.carried t.h.len.bytes) := by
  have hget (k : Nat) : getGroup q k = getGroup s k := by
    unfold getGroup
    rw [hgroups]
  refine ⟨?_, opGone_filter (by rw [endHold_ops, hops]), fun k hk => (getGroup_endHold_other _ _ _ _ hk).trans (hget k),
    fun g hg => ?_⟩
  · rw [coresKept_iff, endHold_coresKept, hcores]
  · have hend := getGroup_endHold_same q o ws g ((hget _).trans hg)
    rw [hi] at hend
    exact hend

theorem endHold_hbm (p : State) (o : Op) (ws : List Word) : (endHold p o ws).hbm = p.hbm :=
  (congrArg State.hbm (endHold_besides p p o ws) :)

theorem rowStatus_of_hbm {s u : State} (h : u.hbm = s.hbm) : rowStatus u = rowStatus s := by
  funext hra ue ce
  unfold rowStatus rowErr bankRemaps
  rw [h]

/-- SPARE_ROW_COPY_STEP (R411, R416). -/
theorem spareRowCopyStep_takes {s : State} {r : Remap} (hr : r ∈ s.hbm.remaps) (hb : r.busy = true)
    (hcopy : ∀ q ∈ s.hbm.remaps, q.bank = r.bank → q.busy = true → q = r)
    (hone : ∀ q ∈ s.hbm.remaps, q.bank = r.bank → q.spare = r.spare → q = r) :
    let cw := copyWord r
    let fixed := r.fixed + (if correctable s cw then 1 else 0)
    let served : Remap :=
      { r with copied := 16, v := true, busy := false, fixed := 0, bad := false, op := none, old := none }
    let remapped := (repairedFrom s r served).hbm.remaps
    let repaired := (repairedFrom s r served).hbm
    let hra := r.bank * 2 ^ 19 + r.row
    (cw ∈ s.hbm.ue → offRing s cw → r.copied < 15 → ∃ u, exec (.spareRowCopyStep r.bank) s = .next u ∧ u.groups = s.groups ∧
      cw ∉ u.hbm.ue ∧ (∀ n < 64, 64 * cw + n ∈ u.hbm.pois) ∧
      u.hbm.remaps = s.hbm.remaps.map fun q => if q = r then { r with copied := r.copied + 1, bad := true } else q) ∧
    (cw ∉ s.hbm.ue → r.copied < 15 →
      exec (.spareRowCopyStep r.bank) s = .next { s with hbm := { s.hbm with
        remaps := s.hbm.remaps.map fun q => if q = r then { r with copied := r.copied + 1, fixed := fixed } else q } }) ∧
    (cw ∉ s.hbm.ue → r.copied = 15 → r.op = none → (∀ o ∈ s.ops, ∀ t, o.i ≠ .rspr t) →
      exec (.spareRowCopyStep r.bank) s = .next { s with hbm := repaired }) ∧
    (∀ o t, cw ∉ s.hbm.ue → r.copied = 15 → r.op = some o.id → getOp s o.id = some o → o.i = .rspr t →
      (∀ p ∈ s.ops, p.id ≠ o.id → ∀ t', p.i ≠ .rspr t') →
      ∃ u, exec (.spareRowCopyStep r.bank) s = .next u ∧
        { u with hbm := s.hbm, ops := s.ops, groups := s.groups, cores := s.cores } = s ∧ coresKept s u ∧ u.hbm = repaired ∧
        opGone s u o.id ∧ (∀ k, k ≠ o.grp → getGroup u k = getGroup s k) ∧
        ∀ g, getGroup s o.grp = some g → getGroup u o.grp = some (stepOn (g.writes (o.dsts.zip
          [rowStatus u hra r.bad fixed, remapWord served])) o.carried t.h.len.bytes)) ∧
    (∀ o t, cw ∈ s.hbm.ue → offRing s cw → r.copied = 15 → r.op = some o.id → getOp s o.id = some o → o.i = .rspr t →
      (∀ p ∈ s.ops, p.id ≠ o.id → ∀ t', p.i ≠ .rspr t') →
      ∃ u, exec (.spareRowCopyStep r.bank) s = .next u ∧ coresKept s u ∧ opGone s u o.id ∧ cw ∉ u.hbm.ue ∧
        (∀ n < 64, 64 * cw + n ∈ u.hbm.pois) ∧ u.hbm.remaps = remapped ∧
        (∀ k, k ≠ o.grp → getGroup u k = getGroup s k) ∧
        ∀ g, getGroup s o.grp = some g → getGroup u o.grp = some (stepOn (g.writes (o.dsts.zip
          [rowStatus u hra true r.fixed, remapWord served])) o.carried t.h.len.bytes)) := by
  intro cw fixed served remapped repaired hra
  have hfind := busyRemap hr hb hcopy
  refine ⟨fun hu hoff hc => ?_, fun hu hc => ?_, fun hu hc hop hno => ?_, fun o t hu hc hop ho hi hno => ?_,
    fun o t hu hoff hc hop ho hi hno => ?_⟩
  · obtain ⟨hrest, hm, hue, hpois⟩ := copyMet_bad hu hoff
    refine ⟨_, execSpareRowCopyStep_more hfind hc, (congrArg State.groups hrest :), hue, hpois, ?_⟩
    rw [advanced_remaps hone hm, copyNext_bad hu]
  · have hadv := advanced_remaps hone (w := s) rfl (copyNext s r)
    rw [execSpareRowCopyStep_more hfind hc, copyMet_good hu]
    calc Host.Outcome.next (advanced s r (copyNext s r))
      _ = .next { s with hbm := { s.hbm with remaps := (advanced s r (copyNext s r)).hbm.remaps } } := rfl
      _ = _ := by rw [hadv, copyNext_good hu]
  · have hend := execSpareRowCopyStep_alone hfind hone hc (copyMet_good hu) (copyNext_good hu) rfl rfl hop hno
    rw [servedFrom_last hc] at hend
    exact hend
  · have hend := execSpareRowCopyStep_for hfind hone hc (copyMet_good hu) (copyNext_good hu) rfl rfl hop ho hno
    rw [servedFrom_last hc] at hend
    obtain ⟨hcores, hgone, hother, hsame⟩ := endHold_repaired (s := s) (q := repairedFrom s r served)
      [rowStatus (repairedFrom s r served) hra r.bad fixed, remapWord served] hi rfl rfl rfl
    refine ⟨_, hend, ?_, hcores, endHold_hbm .., hgone, hother, fun g hg => ?_⟩
    · exact congrArg (fun x : State => { x with hbm := s.hbm }) (endHold_besides s (repairedFrom s r served) o _)
    · exact (hsame g hg).trans (congrArg (fun f => some (stepOn (g.writes (o.dsts.zip
        [f hra r.bad fixed, remapWord served])) o.carried t.h.len.bytes)) (rowStatus_of_hbm (endHold_hbm ..)).symm)
  · obtain ⟨hrest, hm, hue, hpois⟩ := copyMet_bad hu hoff
    have hops : (copyMet s r).ops = s.ops := (congrArg State.ops hrest :)
    have hend := execSpareRowCopyStep_for hfind hone hc rfl (copyNext_bad hu) hm hops hop ho hno
    rw [servedFrom_last hc] at hend
    obtain ⟨hcores, hgone, hother, hsame⟩ := endHold_repaired (s := s) (q := repairedFrom (copyMet s r) r served)
      [rowStatus (repairedFrom (copyMet s r) r served) hra true r.fixed, remapWord served] hi hops
      (congrArg State.groups hrest :) (congrArg State.cores hrest :)
    have hhbm := endHold_hbm (repairedFrom (copyMet s r) r served) o
      [rowStatus (repairedFrom (copyMet s r) r served) hra true r.fixed, remapWord served]
    refine ⟨_, hend, hcores, hgone, ?_, ?_, ?_, hother, fun g hg => ?_⟩
    · rw [hhbm]
      exact hue
    · rw [hhbm]
      exact hpois
    · rw [hhbm]
      show (copyMet s r).hbm.remaps.map _ = s.hbm.remaps.map _
      rw [hm]
    · exact (hsame g hg).trans (congrArg (fun f => some (stepOn (g.writes (o.dsts.zip
        [f hra true r.fixed, remapWord served])) o.carried t.h.len.bytes)) (rowStatus_of_hbm (endHold_hbm ..)).symm)

/-- Settles O46: each instruction is shown at its issue (`SystemIssue`) and then at the commit gate, the copy of a spare row
codeword by codeword. -/
theorem systemInstructionsCheckTheirLevelThenAct : Obligations.SystemInstructionsCheckTheirLevelThenAct := by
  refine ⟨fun t s v hv => ⟨systemIssue_tlbi hv, mem_haltcTargets s t v, systemIssue_haltc hv rfl, systemIssue_haltc hv rfl,
      systemIssue_haltc hv rfl, ?_, ?_, ?_⟩,
    fun s n o t h => ⟨?_, ?_, ?_, ?_, ?_, ?_, ?_, ?_, ?_, ?_⟩, fun s hra n hroom => ⟨rfl, fun hn => ?_, ?_⟩,
    fun s bank h => execSpareRowCopyStep_idle h, fun s r hr hb hcopy hone => spareRowCopyStep_takes hr hb hcopy hone⟩
  · exact systemIssue_row (args := fun v => [arg (v.uniN t t.a), 0, 0, 0]) (dsts := fun v => v.g.dsts 0 2 t.d) hv rfl
  · exact systemIssue_row (args := fun v => [arg (v.uniN t t.a), 0, 0, 0]) (dsts := fun v => v.g.dsts 0 2 t.d) hv rfl
  · exact systemIssue_row (args := fun v => [arg (v.uniN t t.a)]) (dsts := fun v => v.g.dsts 0 2 t.d) hv rfl
  · exact fun hi hops hreqs hlines hgs hlen h3 hpos hlt => endsAtGate_tlbi h hi hops hreqs hlines hgs hlen h3 hpos hlt
  · exact fun hi => endsAtGate_halt h (passGate_haltcHalt hi) (fun _ => rfl) fun _ => rfl
  · exact fun hi => endsAtGate_halt h (passGate_haltcResume hi) (fun _ => rfl) fun _ => rfl
  · exact fun hi ha => endsAtGate_step_alone h hi ha
  · exact fun g hi ha hlt hg hh hr hheld => staysAtGate_step h hi ha hlt hg hh hr hheld
  · exact fun g _ ha hlt hg => settleStep_one h.1 ha hlt hg
  · exact fun hi => endsAtGate_scrbQry h hi
  · exact fun hi hk _ => scrubsCodeword h hi hk
  · exact fun hi hk => endsAtGate_scrbRow h hi hk
  · exact fun hi => rsprAtGate h hi
  · obtain ⟨n, rfl⟩ : ∃ m, n = m + 1 := ⟨n - 1, by omega⟩
    have he : countedTimes s.hbm.errth (n + 1) (rowErr s hra) =
        { hra := hra, cnt := min 15 ((rowErr s hra).cnt + (n + 1)),
          req := (rowErr s hra).req || decide (s.hbm.errth ≤ min 15 ((rowErr s hra).cnt + (n + 1))) } := by
      rw [countedTimes, rowErr_hra]
    rw [countRow_of_room hroom, he]
    exact counts_rowSet s rfl
  · rw [requestRow_of_room hroom]
    exact counts_rowSet s (rowErr_hra s hra)

end Sys2Proof.Machine

/-! SUPPORT. O47 is refuted: a state that meets its premises, with a second group of the same handle on another core. -/

namespace Sys2Proof.Machine

open Sys2Proof.Safety

set_option Elab.async false

/-! ## A slot's issue that takes a second group of the same handle out of its line

`dropChosen`, which precedes the trap of check 6 or 7, clears what every group of the handle had chosen. The statement's
premises keep the groups of the core from having chosen, and leave open that a group of another core has the same handle. -/

section

set_option maxRecDepth 20000

/-- RFREE, which wants its group converged (R111). -/
def twinInstr : Instr := .rfree
  { h := fetchHdr .two 0, mod := 0, d := .v 0, a := .g 0, b := .v 0, c := .v 0 }

/-- The group on core 0: fibre 5 stands elsewhere, every fibre is Ready. -/
def twinGroup : Group :=
  { probeGroup with lanes := modNth probeGroup.lanes 5 fun l => { l with pc := 0x2000 }, rdy := BitVec.allOnes 64 }

/-- The group of the same handle on core 1, which has an issue that waits. -/
def twinOther : Group := { twinGroup with core := 1, chosen := some { mask := 0, pc := 0, seq := 0, peers := [] } }

/-- A core that holds RFREE at 0x1000, with the two groups. -/
def twinState : State :=
  { State.reset.withFetchWord 64 17180330524 with groups := [twinGroup, twinOther], busy := false }

/-- The fibres that form the issue: all but fibre 5. -/
def twinMask : Mask := 0xFFFFFFFFFFFFFFDF

theorem twinState_forms : formed twinState twinGroup = some (twinMask, 0x1000) := by decide +kernel

theorem twinState_fetches : fetchRes twinState twinGroup 0x1000 = .ok twinInstr := by decide +kernel

theorem twinState_fails : ∃ v, viewAt twinState twinGroup twinMask 0x1000 = some v ∧ lateCheck v twinInstr = some 0x04 := by
  have h : ((viewAt twinState twinGroup twinMask 0x1000).any fun v => lateCheck v twinInstr == some 0x04) = true := by
    decide +kernel
  obtain ⟨hs, hlate⟩ := (Option.any_eq_true_iff_get _ _).1 h
  exact ⟨_, (Option.some_get hs).symm, by simpa using hlate⟩

/-- Which groups of an answered state have an issue that waits. -/
def whoWaits : Host.Outcome State Fault Refusal → List Bool
  | .next u => u.groups.map fun g => g.chosen.isSome
  | _ => []

theorem whoWaits_issueCycle : whoWaits (exec (.issueCycle 0 0) twinState) = [false, false] := by decide +kernel

theorem whoWaits_trapped : (takeTrapAt (modSlot twinState 0 0 fun sl => { sl with last := twinGroup.place }) twinGroup.id
    twinMask 0x04 0x1000 0 false).groups.map (fun g => g.chosen.isSome) = [false, true] := by decide +kernel

theorem twinState_slice : sliceOf twinState twinGroup = some probeSlice := by decide +kernel

/-- Core 0 takes its first slot next, which is free; no issue waits on it. -/
theorem twinState_core : (getCore twinState 0).nextSlot = 0 ∧ 0 < (getCore twinState 0).slots.length ∧
    (getCore twinState 0).stopped = false ∧ (getCore twinState 0).retired = false ∧
    (getSlot twinState 0 0).freeAt ≤ (getCore twinState 0).cyc ∧ (getCore twinState 0).tokQ = [] := by decide +kernel

/-- The device runs, nothing is in flight or in error, and the slot has one group. -/
theorem twinState_runs : live twinState = true ∧ 0 < twinState.cores.length ∧ sramClean twinState = true ∧
    slotGroups twinState 0 0 = [twinGroup] ∧ getGroup twinState twinGroup.id = some twinGroup ∧
    (∀ h ∈ twinState.groups, h.core = 0 → h.chosen = none) ∧ sliceHalted twinState probeSlice.id = false := by
  decide +kernel

/-- The group may issue. -/
theorem twinGroup_ready : readyMask twinState twinGroup = twinGroup.rdy ∧ mayForm twinState twinGroup = true ∧
    outOfBudget twinState twinGroup probeSlice = false ∧ twinGroup.fetchVerdict ≠ some true ∧
    twinGroup.id ∉ twinGroup.yieldFor ∧ (∀ k ∈ twinGroup.lanes, k.pois = []) := by decide +kernel

/-- Refutes O47: with a second group of the same handle on another core, which has an issue that waits, the trap of check 6
leaves that group without it, where the statement says that only the trap is taken. -/
theorem not_readyIssuesAreMadeAndTimePasses : ¬ Obligations.ReadyIssuesAreMadeAndTimePasses := by
  intro h
  obtain ⟨v, hv, hlate⟩ := twinState_fails
  obtain ⟨-, hissue, -⟩ := h
  obtain ⟨hslot, hslots, hstop, hret, hfree, htok⟩ := twinState_core
  obtain ⟨hlive, hcores, hclean, hgroups, hget, hchosen, hhalted⟩ := twinState_runs
  obtain ⟨hready, hform, hbudget, hverdict, hyield, hpois⟩ := twinGroup_ready
  have htrap := (hissue twinState 0 0 twinGroup probeSlice twinMask 0x1000 twinInstr v hlive (by decide) hcores hslot hslots
    hstop hret rfl hclean rfl hgroups hget rfl rfl twinState_slice rfl rfl rfl rfl rfl hchosen hyield rfl hpois rfl hready
    hverdict hform twinState_forms (by decide) hbudget hhalted twinState_fetches hv hfree htok).1 0x04 hlate
  have hwaits := (congrArg whoWaits htrap).symm.trans whoWaits_issueCycle
  exact absurd (whoWaits_trapped.symm.trans hwaits) (by decide)

end

end Sys2Proof.Machine

/-! SUPPORT. The dispatcher of packets, teams and groups, pre-emption and restore: what each event does, and the layout of a save record (O53). -/

namespace Sys2Proof.Machine

open Sys2Proof.Safety

set_option Elab.async false

/-! ## What the storage of the device leaves unchanged

Reads and writes of the command processor, and what they meet in the cells, change memory, its errors, the caches of translations
and the islands' counts alone. -/

/-- Slices, teams, groups, queues, rings, lines and the fabric stand in `u` as they stand in `s`. -/
def Kept (s u : State) : Prop :=
  u.slices = s.slices ∧ u.teams = s.teams ∧ u.groups = s.groups ∧ u.queues = s.queues ∧ u.rings = s.rings ∧
    u.lines = s.lines ∧ u.fab = s.fab

section

variable {s0 s : State}

theorem kept_refl (s : State) : Kept s s := ⟨rfl, rfl, rfl, rfl, rfl, rfl, rfl⟩

theorem kept_iff : Kept s0 s ↔ s.slices = s0.slices ∧ s.teams = s0.teams ∧ s.groups = s0.groups ∧ s.queues = s0.queues ∧
    s.rings = s0.rings ∧ s.lines = s0.lines ∧ s.fab = s0.fab := Iff.rfl

theorem kept_foldl {α : Type} (f : State → α → State) (xs : List α) (h : Kept s0 s)
    (hf : ∀ s x, Kept s0 s → Kept s0 (f s x)) : Kept s0 (xs.foldl f s) :=
  List.foldlRecOn xs f h fun s hs x _ => hf s x hs

theorem kept_modCore (h : Kept s0 s) (c : Nat) (f : Core → Core) : Kept s0 (modCore s c f) := h

theorem kept_modHbm (h : Kept s0 s) (f : Hbm → Hbm) : Kept s0 (modHbm s f) := h

theorem kept_bump (h : Kept s0 s) : Kept s0 (bump s) := h

theorem kept_cleanKeys (h : Kept s0 s) (ks : List Nat) : Kept s0 (cleanKeys s ks) := h

theorem kept_overwrite (h : Kept s0 s) (ks : List Nat) : Kept s0 (overwrite s ks) := by
  grind [overwrite, kept_modHbm]

theorem kept_deviceWrite (h : Kept s0 s) (a : Nat) (bs : List Byte) : Kept s0 (deviceWrite s a bs) := by
  have hw (ks : List Nat) (bs : List Byte) : Kept s0 { s with mem := memSets s.mem ks bs } := h
  unfold deviceWrite
  dsimp only
  split
  · exact kept_overwrite (hw _ _) _
  · exact kept_cleanKeys (kept_overwrite (hw _ _) _) _

theorem kept_raiseVector (h : Kept s0 s) (v : Nat) : Kept s0 (raiseVector s v) := h

theorem kept_raiseAlert (h : Kept s0 s) : Kept s0 (raiseAlert s) := h

theorem kept_machineCheck (h : Kept s0 s) (cls ctx island addr info : Nat) :
    Kept s0 (machineCheck s cls ctx island addr info) := by
  unfold machineCheck
  dsimp only
  split
  · exact h
  · have hw := kept_deviceWrite h (s.host.mcrbase.toNat % 2 ^ 52 / 4096 * 4096 +
      64 * (s.host.mcrHead.toNat % 2 ^ (s.host.mcrbase.toNat % 32))) (toBytes cls 1 ++ toBytes ctx 1 ++ toBytes island 2 ++
        toBytes 0 4 ++ toBytes s.tb 8 ++ toBytes addr 8 ++ toBytes info 8 ++ toBytes 0 32)
    generalize deviceWrite s _ _ = w at hw ⊢
    exact hw

theorem kept_sfqWrite (h : Kept s0 s) (e : List Byte) : Kept s0 (sfqWrite s e) := by
  have hw := kept_deviceWrite h (s.host.sfqbase.toNat % 2 ^ 52 / 4096 * 4096 +
    32 * (s.host.sfqHead.toNat % 2 ^ (s.host.sfqbase.toNat % 32))) e
  unfold sfqWrite
  dsimp only
  generalize deviceWrite s _ _ = w at hw ⊢
  exact hw

theorem kept_postReport (h : Kept s0 s) (cause kind ctx flags : Nat) (asid : BitVec 16) (src : Nat) (addr : Dword) :
    Kept s0 (postReport s cause kind ctx flags asid src addr) := by
  grind [postReport, kept_sfqWrite]

/-! ### Errors of cells, as reads meet them (R404 to R408) -/

theorem kept_tripIsland (h : Kept s0 s) (island : Nat) : Kept s0 (tripIsland s island) := by
  unfold tripIsland
  split <;> exact h

theorem kept_countIsland (h : Kept s0 s) (island : Nat) : Kept s0 (countIsland s island) := by
  unfold countIsland
  split <;> exact h

theorem kept_sramReport (h : Kept s0 s) (island ctx array : Nat) : Kept s0 (sramReport s island ctx array) := by
  grind [sramReport, kept_machineCheck, kept_tripIsland]

theorem kept_meetUnit (h : Kept s0 s) (island array unit ctx : Nat) : Kept s0 (meetUnit s island array unit ctx).1 := by
  grind [meetUnit, kept_iff, kept_countIsland, kept_sramReport]

theorem kept_countRow (h : Kept s0 s) (hra n : Nat) : Kept s0 (countRow s hra n) := by
  induction n generalizing s with
  | zero => exact h
  | succ n ih => exact ih h

theorem kept_requestRow (h : Kept s0 s) (hra : Nat) : Kept s0 (requestRow s hra) := h

theorem kept_poisonKeys (h : Kept s0 s) (ks : List Nat) : Kept s0 (poisonKeys s ks) := h

theorem kept_poisonCodeword (h : Kept s0 s) (cw : Nat) : Kept s0 (poisonCodeword s cw) := h

theorem kept_refillPoison (h : Kept s0 s) (cw : Nat) : Kept s0 (refillPoison s cw) := by
  grind [refillPoison, kept_bump, kept_poisonKeys]

theorem kept_meetCodeword (h : Kept s0 s) (nc : Bool) (cw : Nat) : Kept s0 (meetCodeword s nc cw) := by
  grind [meetCodeword, kept_bump, kept_machineCheck, kept_countRow, kept_requestRow, kept_poisonCodeword,
    kept_refillPoison]

theorem kept_meetL2 (h : Kept s0 s) (secs : List (List Nat)) : Kept s0 (meetL2 s secs) := by
  unfold meetL2
  split
  · exact h
  · refine kept_foldl _ secs h fun s sec hs => kept_foldl _ _ hs fun s e hs => ?_
    grind [kept_meetUnit, kept_poisonKeys]

theorem kept_meetCells (h : Kept s0 s) (nc : Nat → Bool) (secs : List (List Nat)) : Kept s0 (meetCells s nc secs) := by
  unfold meetCells
  dsimp only
  split
  · exact kept_meetL2 h secs
  · exact kept_foldl _ _ (kept_meetL2 h secs) fun s cw hs => kept_meetCodeword hs _ _

theorem kept_meetKeys (h : Kept s0 s) (ks : List Nat) : Kept s0 (meetKeys s ks) := kept_meetCells h _ _

theorem kept_meetAt (h : Kept s0 s) (a n : Nat) : Kept s0 (meetAt s a n) := by
  grind [meetAt, kept_meetKeys]

theorem kept_meetCtx (h : Kept s0 s) (c : Nat) : Kept s0 (meetCtx s c) := kept_meetAt h _ _

theorem kept_meetSectors (h : Kept s0 s) (root : Option Nat) (xs : List (Nat × Nat)) : Kept s0 (meetSectors s root xs) := by
  grind [meetSectors, kept_meetCells]

theorem kept_meetRun (h : Kept s0 s) (root : Option Nat) (va : Nat) (keys : List Nat) : Kept s0 (meetRun s root va keys) := by
  grind [meetRun, kept_meetSectors]

/-! ### Translation (R375 to R380) -/

theorem kept_tlbAdd (h : Kept s0 s) (asid : BitVec 16) (va L e : Nat) : Kept s0 (tlbAdd s asid va L e) := h

theorem kept_ptrsAdd (h : Kept s0 s) (asid : BitVec 16) (va : Nat) (nodes : List (Nat × Nat)) :
    Kept s0 (ptrsAdd s asid va nodes) := h

theorem kept_walkMeet (h : Kept s0 s) (va : Nat) (nodes : List (Nat × Nat)) : Kept s0 (walkMeet s va nodes).1 := by
  induction nodes generalizing s with
  | nil => exact h
  | cons n nodes ih => grind [walkMeet, kept_meetAt]

theorem kept_translateWalk (h : Kept s0 s) (asid : BitVec 16) (va : Nat) (k : Want) (L node : Nat) :
    Kept s0 (translateWalk s asid va k L node).1 := by
  have hm := kept_walkMeet h va ((L, node) :: walkNodes s.mem va L node (5 - L))
  have hw {s : State} (hs : Kept s0 s) (a : Nat) (bs : List Byte) : Kept s0 { s with mem := memWrite s.mem a bs } := hs
  unfold translateWalk
  grind [kept_ptrsAdd, kept_tlbAdd]

theorem kept_translate (h : Kept s0 s) (root : Nat) (asid : BitVec 16) (lvlS : Bool) (va : Nat) (k : Want) :
    Kept s0 (translate s root asid lvlS va k).1 := by
  grind [translate, kept_bump, kept_tlbAdd, kept_translateWalk]

theorem kept_translateRun (h : Kept s0 s) (root : Nat) (asid : BitVec 16) (lvlS : Bool) (va : Nat) (k : Want) (n : Nat) :
    Kept s0 (translateRun s root asid lvlS va k n).1 := by
  induction n generalizing s va with
  | zero => exact h
  | succ n ih => grind [translateRun, kept_translate]

/-! ### Reads and writes of the command processor (R384) -/

theorem kept_rewriteSector (h : Kept s0 s) (core : Option Nat) (sk ks : List Nat) :
    Kept s0 (rewriteSector s core sk ks) := by
  grind [rewriteSector, kept_iff]

theorem kept_writeSector (h : Kept s0 s) (core root : Option Nat) (va key : Nat) (kbs : List (Nat × Byte)) :
    Kept s0 (writeSector s core root va key kbs) := by
  have hw (ks : List Nat) (bs : List Byte) : Kept s0 { s with mem := memSets s.mem ks bs } := h
  unfold writeSector
  grind [kept_overwrite, kept_rewriteSector, kept_cleanKeys]

theorem kept_cpReadChunks (h : Kept s0 s) (root : Nat) (asid : BitVec 16) (lvlS : Bool) (cs : List (Nat × Nat)) :
    Kept s0 (cpReadChunks s root asid lvlS cs).1 := by
  induction cs generalizing s with
  | nil => exact h
  | cons c cs ih => grind [cpReadChunks, kept_translateRun, kept_meetRun]

theorem kept_cpRead (h : Kept s0 s) (ctx : Nat) (lvlS : Bool) (va n : Nat) : Kept s0 (cpRead s ctx lvlS va n).1 :=
  kept_cpReadChunks h _ _ _ _

theorem kept_writeRun (h : Kept s0 s) (root va : Nat) (keys : List Nat) (bs : List Byte) :
    Kept s0 (writeRun s root va keys bs) :=
  kept_foldl _ _ h fun _ _ hs => kept_writeSector hs _ _ _ _ _

theorem kept_dropWrite (h : Kept s0 s) (die ctx cause : Nat) (malformed : Bool) (va : Nat) :
    Kept s0 (dropWrite s die ctx cause malformed va) :=
  kept_postReport h _ _ _ _ _ _ _

theorem kept_cpWrite (h : Kept s0 s) (die ctx : Nat) (lvlS : Bool) (va : Nat) (bs : List Byte) :
    Kept s0 (cpWrite s die ctx lvlS va bs) := by
  grind [cpWrite, kept_translateRun, kept_writeRun, kept_dropWrite]

theorem kept_cpDecrement (h : Kept s0 s) (die ctx : Nat) (lvlS : Bool) (va : Nat) :
    Kept s0 (cpDecrement s die ctx lvlS va) := by
  grind [cpDecrement, kept_translateRun, kept_meetRun, kept_writeRun, kept_dropWrite]

theorem kept_stackCount (h : Kept s0 s) (x : Slice) : Kept s0 (stackCount s x).1 := by
  grind [stackCount, kept_cpRead]

theorem kept_stackWrite (h : Kept s0 s) (x : Slice) (i n : Nat) : Kept s0 (stackWrite s x i n) := kept_cpWrite h _ _ _ _ _

theorem kept_topRecord (h : Kept s0 s) (x : Slice) : Kept s0 (topRecord s x).1 := by
  grind [topRecord, kept_cpRead, kept_stackCount]

theorem kept_pushRecord (h : Kept s0 s) (x : Slice) (a : Nat) : Kept s0 (pushRecord s x a) := by
  grind [pushRecord, kept_stackCount, kept_stackWrite]

theorem kept_recordWrite (h : Kept s0 s) (x : Slice) (va : Nat) (bs : List Byte) : Kept s0 (recordWrite s x va bs) :=
  kept_foldl _ _ h fun _ _ hs => kept_cpWrite hs _ _ _ _ _

theorem kept_writeRecord (h : Kept s0 s) (x : Slice) (t : Team) (a : Nat) : Kept s0 (writeRecord s x t a) := by
  refine kept_foldl _ _ ?_ fun _ _ hs => kept_recordWrite hs _ _ _
  exact h

theorem kept_readPart (h : Kept s0 s) (x : Slice) (va n : Nat) : Kept s0 (readPart s x va n).1 := by
  grind [readPart, kept_cpRead]

end

/-! ## Queues and their packets (R309 to R312) -/

theorem getQueue_q (s : State) (q : Nat) : (getQueue s q).q = q := by
  unfold getQueue
  cases h : s.queues.find? fun x => x.q == q with
  | none => rfl
  | some x => simpa using List.find?_some h

theorem getQueue_setQueue (s : State) {x : Queue} {q : Nat} (h : x.q = q) : getQueue (setQueue s x) q = x := by
  simp [getQueue, setQueue, h]

theorem getQueue_of_queues {s u : State} (h : u.queues = s.queues) (q : Nat) : getQueue u q = getQueue s q := by
  unfold getQueue
  rw [h]

/-- A queue that is stopped with a report: slices and groups stand. -/
theorem stops_postReport (s : State) {x : Queue} {q : Nat} (h : x.q = q) (cause kind ctx flags : Nat)
    (asid : BitVec 16) (src : Nat) (addr : Dword) :
    let u := postReport (setQueue s { x with stopped := true, token := none, verdict := none }) cause kind ctx flags asid src addr
    (getQueue u q).stopped = true ∧ u.slices = s.slices ∧ u.groups = s.groups := by
  obtain ⟨hslices, -, hgroups, hqueues, -⟩ := kept_postReport
    (kept_refl (setQueue s { x with stopped := true, token := none, verdict := none })) cause kind ctx flags asid src addr
  refine ⟨?_, hslices, hgroups⟩
  rw [getQueue_of_queues hqueues]
  exact congrArg Queue.stopped (getQueue_setQueue s (x := { x with stopped := true, token := none, verdict := none }) h)

section

variable {s : State} {ctx q : Nat}

/-- The state in which it is the queue's turn. -/
def queueTurn (s : State) (q : Nat) : State := { s with served := setNth s.served (queueDie q) q }

/-- The queue's turn, what its last read waited for being over. -/
def queueLook (s : State) (q : Nat) : State :=
  setQueue (queueTurn s q) { getQueue s q with token := none, verdict := none, malf := false }

theorem execPacketTakeIn_other (h : (getQueue s q).desc.ctx ≠ ctx ∨ packetDue s q = false) :
    exec (.packetTakeIn ctx q) s = .next s := by
  show execPacketTakeIn ctx q s = _
  unfold execPacketTakeIn
  by_cases hc : (getQueue s q).desc.ctx = ctx
  · have hd : packetDue s q = false := h.resolve_left (not_not_intro hc)
    rw [if_pos hc, packetTakeIn, hd]
    rfl
  · rw [if_neg hc]

theorem execPacketTakeIn_due (hc : (getQueue s q).desc.ctx = ctx) : exec (.packetTakeIn ctx q) s = .next (packetTakeIn s q) :=
  congrArg Host.Outcome.next (if_pos hc)

variable (hc : (getQueue s q).desc.ctx = ctx) (hd : packetDue s q = true)

include hc hd

theorem packetTakeIn_refused (hv : (getQueue s q).verdict = some true) :
    ∃ u, exec (.packetTakeIn ctx q) s = .next u ∧ (getQueue u q).stopped = true ∧ u.slices = s.slices ∧ u.groups = s.groups := by
  have hq : getQueue (passQueue s q) q = getQueue s q := rfl
  refine ⟨_, execPacketTakeIn_due hc, ?_⟩
  unfold packetTakeIn
  rw [if_pos hd]
  dsimp only
  rw [hq, if_pos hv]
  exact stops_postReport (passQueue s q) (getQueue_q s q) ..

theorem packetTakeIn_held (hv : (getQueue s q).verdict ≠ some true)
    (hh : cpHeld (queueTurn s q) ctx true (slotVa (getQueue s q).desc (getQueue s q)) 4 = true) :
    exec (.packetTakeIn ctx q) s = .next (queueTurn s q) := by
  have hq : getQueue (passQueue s q) q = getQueue s q := rfl
  have hp : passQueue s q = queueTurn s q := rfl
  rw [execPacketTakeIn_due hc]
  unfold packetTakeIn
  rw [if_pos hd]
  dsimp only
  rw [hq, if_neg hv, hc, hp, if_pos hh]

/-- A queue's slot that is looked at: what the read of its header gives. -/
theorem packetTakeIn_looks (hv : (getQueue s q).verdict ≠ some true)
    (hh : cpHeld (queueTurn s q) ctx true (slotVa (getQueue s q).desc (getQueue s q)) 4 = false) :
    let va := slotVa (getQueue s q).desc (getQueue s q)
    (∀ s1 hdr, cpRead (queueLook s q) ctx true va 4 = (s1, .ok hdr) → (parsePacket hdr).valid = false →
      packetTakeIn s q = s1) ∧
    (∀ s1 c a, cpRead (queueLook s q) ctx true va 4 = (s1, .fatal c a) →
      (getQueue (packetTakeIn s q) q).stopped = true ∧ (packetTakeIn s q).slices = s1.slices ∧
        (packetTakeIn s q).groups = s1.groups) ∧
    (∀ s1 s2 hdr rest, cpRead (queueLook s q) ctx true va 4 = (s1, .ok hdr) → (parsePacket hdr).valid = true →
      cpRead s1 ctx true (va + 4) 60 = (s2, .ok rest) → packetTakeIn s q = takePacket s2 q (hdr ++ rest)) := by
  intro va
  have hq : getQueue (passQueue s q) q = getQueue s q := rfl
  have hp : passQueue s q = queueTurn s q := rfl
  have hl : setQueue (queueTurn s q) { getQueue s q with token := none, verdict := none, malf := false } = queueLook s q := rfl
  have hno : ¬ cpHeld (queueTurn s q) ctx true (slotVa (getQueue s q).desc (getQueue s q)) 4 = true := by simp [hh]
  unfold packetTakeIn
  rw [if_pos hd]
  dsimp only
  rw [hq, if_neg hv, hc, hp, if_neg hno, hl]
  refine ⟨fun s1 hdr h1 hvalid => ?_, fun s1 c a h1 => ?_, fun s1 s2 hdr rest h1 hvalid h2 => ?_⟩
  · rw [h1]
    dsimp only
    rw [if_neg (by simp [hvalid])]
    rfl
  · rw [h1]
    dsimp only
    exact stops_postReport s1 (getQueue_q s q) ..
  · rw [h1]
    dsimp only
    rw [if_pos hvalid, h2]
    have hne : (hdr ++ rest).isEmpty = false := by
      cases hdr with
      | nil => simp [parsePacket, Packet.valid, fieldAt, ofBytes] at hvalid
      | cons => rfl
    dsimp only
    rw [hne]
    rfl

end

/-! ## What the reading of a descriptor rests on (R372, R373) -/

theorem ctxDesc_congr {s u : State} (hmem : u.mem = s.mem) (hhbm : u.hbm = s.hbm) (hhost : u.host = s.host) (c : Nat) :
    ctxDesc u c = ctxDesc s c := by
  unfold ctxDesc ctxDescAt deadBytes poisonedKey failedKey
  rw [hmem, hhbm, hhost]

theorem descOf_congr {s u : State} (hslices : u.slices = s.slices) (hmem : u.mem = s.mem) (hhbm : u.hbm = s.hbm)
    (hhost : u.host = s.host) (c : Nat) : descOf u c = descOf s c := by
  unfold descOf
  rw [hslices, ctxDesc_congr hmem hhbm hhost]

theorem peekRun_congr {s u : State} (hmem : u.mem = s.mem) (root va n : Nat) : peekRun u root va n = peekRun s root va n := by
  unfold peekRun peekKeys
  rw [hmem]

theorem coresAtTakeIn_congr {s u : State} {x y : Slice} (hmem : u.mem = s.mem) (hdesc : descOf u x.ctx = descOf s y.ctx)
    (hpkt : x.pkt = y.pkt) (hpriv : x.priv = y.priv) : coresAtTakeIn u x = coresAtTakeIn s y := by
  unfold coresAtTakeIn
  rw [peekRun_congr hmem, hmem, hdesc, hpkt, hpriv]

/-! ## A packet that is taken in (R311, R317, R321) -/

section

variable {s : State} {q : Nat} {bs : List Byte}

/-- What takes the place of a packet's header word when it has been taken: VALID is 0. -/
def clearedHdr (p : Packet) : List Byte := toBytes (p.hdr.toNat - p.hdr.toNat % 2) 4

theorem takePacket_nop (h : (parsePacket bs).kind = 0) :
    takePacket s q bs = cpWrite (setQueue s { getQueue s q with ridx := (getQueue s q).ridx + 1 }) (queueDie q)
      (getQueue s q).desc.ctx true (slotVa (getQueue s q).desc (getQueue s q)) (clearedHdr (parsePacket bs)) := by
  unfold takePacket
  dsimp only
  rw [if_pos h]
  rfl

/-- The slice of a packet, in its entry. -/
def packetSlice (s : State) (q : Nat) (p : Packet) (n : Nat) : Slice :=
  { newSlice (queueDie q) (getQueue s q).desc.ctx p with
    id := s.nextId, entry := n, quant := (getQueue s q).desc.quant, queue := some q }

/-- The state in which the queue has gone past the packet. -/
def packetPassed (s : State) (q : Nat) : State :=
  setQueue { s with nextId := s.nextId + 1 }
    { getQueue s q with ridx := (getQueue s q).ridx + 1, lastSlice := some s.nextId }

theorem takePacket_slice {n : Nat} (h : (parsePacket bs).kind ≠ 0) (hf : freeGeneral s (queueDie q) = some n) :
    takePacket s q bs = cpWrite (takeIn (packetPassed s q) (packetSlice s q (parsePacket bs) n) (getQueue s q).desc.priv
      (getQueue s q).lastSlice) (queueDie q) (getQueue s q).desc.ctx true (slotVa (getQueue s q).desc (getQueue s q))
        (clearedHdr (parsePacket bs)) := by
  unfold takePacket
  dsimp only
  rw [if_neg h, hf] <;> rfl

/-- What a slice waits for when it is taken in. -/
def takenBehind (s : State) (x : Slice) (last : Option Nat) : Option Nat :=
  if x.pkt.after then last.bind fun p => if s.slices.any fun y => y.id == p then some p else none else none

/-- A slice in its pool entry. -/
def pooled (s : State) (x : Slice) (last : Option Nat) : Slice :=
  { x with
    pred := takenBehind s x last, st := if (takenBehind s x last).isSome then .waiting else .ready
    readyAt := s.nextId, expLive := liveSlots s x.ctx }

/-- The state with a slice in its pool entry. -/
def pooledState (s : State) (x : Slice) (last : Option Nat) : State :=
  { s with slices := s.slices ++ [pooled s x last], nextId := s.nextId + 1 }

theorem takeIn_accepted {x : Slice} {privOk : Bool} {last cores : Option Nat}
    (hcores : (if x.pkt.exports then coresAtTakeIn s x else none) = cores)
    (hc : takeInCause x.pkt privOk (cores.all fun n => exportsOk x.pkt n (liveSlots s x.ctx)) = none) :
    takeIn s x privOk last = if x.pkt.exports then holdExports (pooledState s x last) (pooled s x last) (cores.getD 4)
      else pooledState s x last := by
  unfold takeIn
  dsimp only
  rw [hcores, hc] <;> rfl

/-- The slots that a slice's exports hold from its take-in on (R317). -/
theorem holdExports_exports (s : State) {x : Slice} {c : Nat} (hfit : x.pkt.nteam * c ≤ 256)
    (hnew : ∀ z ∈ s.fab.exports, z.slice ≠ x.id) :
    (holdExports s x c).fab.exports = s.fab.exports ++ (List.range (x.pkt.nteam * c)).map fun i =>
      { ctx := x.ctx, slot := x.pkt.expb + i, team := 0, core := i % c, live := false, slice := x.id } := by
  have hfilter : (s.fab.exports.filter fun e => e.slice != x.id) = s.fab.exports :=
    List.filter_eq_self.2 fun z hz => bne_iff_ne.2 (hnew z hz)
  show (s.fab.exports.filter _) ++ _ = _
  rw [hfilter, Nat.min_eq_right hfit]
  congr 1
  refine List.ext_getElem (by simp) fun i h1 h2 => ?_
  simp

theorem takenBehind_eq {x : Slice} {last pred : Option Nat}
    (hnone : pred = none ↔ x.pkt.after = false ∨ ∀ k, last = some k → ∀ y ∈ s.slices, y.id ≠ k)
    (hsome : ∀ k, pred = some k → last = some k) : takenBehind s x last = pred := by
  unfold takenBehind
  cases hp : pred with
  | none =>
    rcases hnone.1 hp with h | h
    · simp [h]
    · cases hl : last with
      | none => simp
      | some k =>
        have hno : (s.slices.any fun y => y.id == k) = false := by
          simpa using h k hl
        rw [Option.bind_some, hno]
        simp
  | some k =>
    have hl := hsome k hp
    have hn : ¬ (x.pkt.after = false ∨ ∀ k, last = some k → ∀ y ∈ s.slices, y.id ≠ k) := fun h => by
      rw [hnone.2 h] at hp
      cases hp
    rw [not_or] at hn
    obtain ⟨ha, hany⟩ := hn
    have hlive : (s.slices.any fun y => y.id == k) = true := by
      by_contra hno
      exact hany fun j hj y hy => by
        rw [hl, Option.some.injEq] at hj
        subst hj
        simp only [List.any_eq_true, beq_iff_eq, not_exists, not_and] at hno
        exact hno y hy
    rw [hl, Option.bind_some, hlive, Bool.eq_true_of_not_eq_false ha]
    rfl

/-- What a queue's packet makes of a state: the state `w` in which its slice has its entry, but for the write that clears
VALID. -/
theorem takePacket_accepted {w : State} {n : Nat}
    (hw : takeIn (packetPassed s q) (packetSlice s q (parsePacket bs) n) (getQueue s q).desc.priv (getQueue s q).lastSlice = w)
    (hk : (parsePacket bs).kind ≠ 0) (hf : freeGeneral s (queueDie q) = some n) : Kept w (takePacket s q bs) := by
  rw [takePacket_slice hk hf, hw]
  exact kept_cpWrite (kept_refl w) _ _ _ _ _

/-- What the statements say of a packet that is taken in. -/
theorem takePacket_takes (s : State) (q : Nat) (bs : List Byte) :
    let p := parsePacket bs
    let x := getQueue s q
    let d := x.desc
    (p.kind = 0 → takePacket s q bs = cpWrite (setQueue s { x with ridx := x.ridx + 1 }) (queueDie q) d.ctx true
      (slotVa d x) (clearedHdr p)) ∧
    (∀ n pred, p.kind ≠ 0 → freeGeneral s (queueDie q) = some n →
      (pred = none ↔ p.after = false ∨ ∀ k, x.lastSlice = some k → ∀ y ∈ s.slices, y.id ≠ k) →
      (∀ k, pred = some k → x.lastSlice = some k) →
      let y : Slice := { newSlice (queueDie q) d.ctx p with
        id := s.nextId
        entry := n
        quant := d.quant
        queue := some q
        pred := pred
        st := if pred.isSome then .waiting else .ready
        readyAt := s.nextId + 1
        expLive := liveSlots s d.ctx }
      (p.exp = false ∨ p.kind = 2 → takeInCause p d.priv true = none →
        ∃ u, takePacket s q bs = u ∧ u.groups = s.groups ∧ u.teams = s.teams ∧
          (getQueue u q).ridx = x.ridx + 1 ∧ (getQueue u q).lastSlice = some s.nextId ∧
          u.slices = s.slices ++ [y] ∧ u.fab.exports = s.fab.exports) ∧
      (∀ c, p.exp = true → p.kind ≠ 2 → coresAtTakeIn s y = some c → p.expb + p.nteam * c ≤ 256 →
        (∀ i < p.nteam * c, p.expb + i ∉ liveSlots s d.ctx) → takeInCause p d.priv true = none →
        (∀ z ∈ s.fab.exports, z.slice ≠ s.nextId) →
        ∃ u, takePacket s q bs = u ∧ u.slices = s.slices ++ [y] ∧
          u.fab.exports = s.fab.exports ++ (List.range (p.nteam * c)).map fun i =>
            { ctx := d.ctx, slot := p.expb + i, team := 0, core := i % c, live := false, slice := s.nextId })) := by
  intro p x d
  refine ⟨takePacket_nop, fun n pred hk hf hnone hsome => ?_⟩
  intro y
  have hbehind : takenBehind (packetPassed s q) (packetSlice s q p n) x.lastSlice = pred := takenBehind_eq hnone hsome
  have hpooled : pooled (packetPassed s q) (packetSlice s q p n) x.lastSlice = y := by
    unfold pooled
    rw [hbehind]
    rfl
  refine ⟨fun hexp hcause => ?_, fun c hexp hk2 hcores hfit hfree hcause hnew => ?_⟩
  · have he : (packetSlice s q p n).pkt.exports = false := by
      show (p.exp && !(p.kind == 2)) = false
      rcases hexp with h | h <;> simp [h]
    have hw := takeIn_accepted (s := packetPassed s q) (x := packetSlice s q p n) (last := x.lastSlice) (cores := none)
      (by rw [he]; rfl) (privOk := d.priv) hcause
    rw [he, if_neg Bool.false_ne_true] at hw
    obtain ⟨hslices, hteams, hgroups, hqueues, -, -, hfab⟩ := takePacket_accepted hw hk hf
    have hqueue : getQueue (takePacket s q bs) q = { x with ridx := x.ridx + 1, lastSlice := some s.nextId } :=
      (getQueue_of_queues hqueues q).trans
        (getQueue_setQueue _ (x := { x with ridx := x.ridx + 1, lastSlice := some s.nextId }) (getQueue_q s q))
    refine ⟨_, rfl, hgroups, hteams, congrArg Queue.ridx hqueue, congrArg Queue.lastSlice hqueue, ?_,
      congrArg Fabric.exports hfab⟩
    rw [hslices]
    exact congrArg (fun z => s.slices ++ [z]) hpooled
  · have he : (packetSlice s q p n).pkt.exports = true := by
      show (p.exp && !(p.kind == 2)) = true
      simp [hexp, hk2]
    have hsame : coresAtTakeIn (packetPassed s q) (packetSlice s q p n) = coresAtTakeIn s y := by
      exact coresAtTakeIn_congr rfl (descOf_congr rfl rfl rfl rfl _) rfl rfl
    have hok : exportsOk p c (liveSlots s d.ctx) = true := by
      have he' : p.exports = true := he
      simp only [exportsOk, exportSlots, he', if_true, Bool.not_true, Bool.false_or, Bool.and_eq_true, decide_eq_true_eq]
      refine ⟨hfit, List.all_eq_true.2 fun m hm => ?_⟩
      obtain ⟨i, hi, rfl⟩ := List.mem_map.1 hm
      simpa using hfree i (List.mem_range.1 hi)
    have hw := takeIn_accepted (s := packetPassed s q) (x := packetSlice s q p n) (last := x.lastSlice) (cores := some c)
      (by rw [he, if_pos rfl, hsame, hcores]) (privOk := d.priv) (by
        rw [Option.all_some]
        show takeInCause p d.priv (exportsOk p c (liveSlots s d.ctx)) = none
        rw [hok]
        exact hcause)
    rw [he, if_pos rfl, hpooled] at hw
    obtain ⟨hslices, -, -, -, -, -, hfab⟩ := takePacket_accepted hw hk hf
    refine ⟨_, rfl, ?_, ?_⟩
    · rw [hslices]
      exact congrArg (fun z => s.slices ++ [z]) hpooled
    · rw [hfab]
      exact holdExports_exports (pooledState (packetPassed s q) (packetSlice s q p n) x.lastSlice) (x := y) (c := c)
        (Nat.le_trans (Nat.le_add_left ..) hfit) hnew

end

/-! ## The groups of a team that starts (R13, R14, R24) -/

/-- A group of a team as it starts: `r` its role, index and sizes, and its number in the team. -/
def Started (g : Group) (team : Nat) (r : (Nat × Nat × Role) × Nat) : Prop :=
  g.grp = r.2 ∧ g.role = r.1.1 ∧ g.idx = r.1.2.1 ∧ g.team = team ∧ g.resident = true ∧ g.lanes.length = 64 ∧
    ∀ l < 64, (g.lane l).pc = r.1.2.2.entry ∧ (g.lane l).base = 0 ∧
      (g.lane l).st = if l < r.1.2.2.fibres then .live else .free

theorem startGroup_starts (s : State) (x : Slice) (team no : Nat) (cores : List Nat) (n : Nat) (r : Nat × Nat × Role) :
    ∃ g, startGroup s x team no cores n r = { s with groups := s.groups ++ [g], nextId := s.nextId + 1 } ∧
      Started g team (r, n) := by
  refine ⟨_, rfl, rfl, rfl, rfl, rfl, rfl, by simp [Group.create], fun l hl => ?_⟩
  have hlane (t : Nat) (g : Group) (h : l < g.lanes.length) :
      ({ g with lanes := g.lanes.map fun k => { k with readyAt := t, since := t } } : Group).lane l =
        { g.lane l with readyAt := t, since := t } := by
    simp [Group.lane, nth_eq_getD, h]
  rw [hlane _ _ (by simpa [Group.create] using hl)]
  simp [Group.create, Group.lane, nth_eq_getD, hl, Lane.create, Lane.none]

theorem startGroups_start (x : Slice) (team no : Nat) (cores : List Nat) (rs : List ((Nat × Nat × Role) × Nat)) (s : State) :
    ∃ (gs : List Group) (id : Nat),
      rs.foldl (fun s r => startGroup s x team no cores r.2 r.1) s = { s with groups := s.groups ++ gs, nextId := id } ∧
      gs.length = rs.length ∧ ∀ (j : Nat) r, rs[j]? = some r → ∃ g, gs[j]? = some g ∧ Started g team r := by
  induction rs generalizing s with
  | nil => exact ⟨[], s.nextId, by simp, rfl, fun j r h => by simp at h⟩
  | cons r rs ih =>
    obtain ⟨g, hg, hstart⟩ := startGroup_starts s x team no cores r.2 r.1
    obtain ⟨gs, id, hgs, hlen, hall⟩ := ih (startGroup s x team no cores r.2 r.1)
    refine ⟨g :: gs, id, ?_, by simp [hlen], fun j r' h => ?_⟩
    · rw [List.foldl_cons, hgs, hg]
      simp
    · cases j with
      | zero =>
        simp only [List.getElem?_cons_zero, Option.some.injEq] at h
        exact ⟨g, rfl, h ▸ hstart⟩
      | succ j => simpa using hall j r' (by simpa using h)

/-! ## The start of a team (R315, R317, R325) -/

theorem meetAt_clean {s : State} (hh : hbmClean s = true) (hs : s.sram = []) (a n : Nat) : meetAt s a n = s := by
  rw [meetAt, hh, hs]
  rfl

theorem meetCtx_clean {s : State} (hh : hbmClean s = true) (hs : s.sram = []) (c : Nat) : meetCtx s c = s :=
  meetAt_clean hh hs _ _

theorem modCores_cores (f : State → Core → Core) (cores : List Nat) (s : State) :
    ∃ cs, cores.foldl (fun s c => modCore s c (f s)) s = { s with cores := cs } := by
  induction cores generalizing s with
  | nil => exact ⟨s.cores, rfl⟩
  | cons c cores ih => exact ih (modCore s c (f s))

/-- The team that starts. -/
def teamStarted (s : State) (x : Slice) (k : Kernel) (cl : Nat) (cores : List Nat) (pos : List (List Nat))
    (bytes : List (Win × Nat × List Byte)) : Team :=
  { id := s.nextId, no := x.nextTeam, slice := x.id, cluster := cl, st := .running
    cores := (cores.zip pos).map fun y => TCore.start k y.1 y.2 bytes (x.pkt.arglen != 0)
    k := k, desc := ctxDesc s x.ctx, regions := List.replicate k.nregion none, skip := List.replicate 64 0
    ergta := k.ergta, ergtr := k.ergtr, record := 0, heldReqs := [], signals := [], ffo := [], mxPend := [], ergPend := [] }

/-- What the team that starts exports is live, and names it. -/
def exportOpened (x : Slice) (k : Kernel) (team : Nat) (e : Export) : Export :=
  if e.slice == x.id && decide (x.pkt.expb + x.nextTeam * k.cores ≤ e.slot ∧ e.slot < x.pkt.expb + x.nextTeam * k.cores + k.cores)
  then { e with live := true, team := team } else e

/-- The exports of the team that starts are live, and its slice runs. -/
def teamOpened (w : State) (x : Slice) (k : Kernel) (team : Nat) (d : CtxDesc) : State :=
  modSlice (modFab w fun f => { f with exports := f.exports.map (exportOpened x k team) }) x.id fun x =>
    { x with st := .running, started := true, nextTeam := x.nextTeam + 1
             quantCount := if x.started then x.quantCount else 0, desc := some d }

theorem startTeam_starts {s : State} (hh : hbmClean s = true) (hs : s.sram = []) (x : Slice) (k : Kernel) (cl : Nat)
    (cores : List Nat) (pos : List (List Nat)) (bytes : List (Win × Nat × List Byte)) :
    let u := startTeam s x k cl cores pos bytes
    let tm := teamStarted s x k cl cores pos bytes
    u.mem = s.mem ∧ u.teams = s.teams ++ [tm] ∧ u.fab.exports = s.fab.exports.map (exportOpened x k tm.id) ∧
      ∃ gs : List Group, u.groups = s.groups ++ gs ∧ gs.length = (groupRoles k).length ∧
        ∀ (n : Nat) r, (groupRoles k)[n]? = some r → ∃ g, gs[n]? = some g ∧ Started g tm.id (r, n) := by
  intro u tm
  obtain ⟨cs, hcs⟩ : ∃ cs, takeCores s x cores = { s with cores := cs } :=
    modCores_cores (fun s c =>
      { c with selfTest := false
               pacing := match x.pacing with
                 | some p => if s.tb < p.1 then some p else c.pacing
                 | none => c.pacing }) cores s
  have hd : ctxDesc { s with cores := cs } x.ctx = ctxDesc s x.ctx := ctxDesc_congr rfl rfl rfl x.ctx
  obtain ⟨gs, id, hgs, hlen, hall⟩ := startGroups_start x s.nextId x.nextTeam cores (groupRoles k).zipIdx
    (ageGang { s with cores := cs, teams := s.teams ++ [tm], nextId := s.nextId + 1 } cl (x.id, x.nextTeam))
  obtain ⟨cs', hdrop⟩ := modCores_cores (fun _ c => { c with fetch := c.fetch.filter fun w => w.asid != (ctxDesc s x.ctx).asid })
    cores (teamOpened { ageGang { s with cores := cs, teams := s.teams ++ [tm], nextId := s.nextId + 1 } cl
      (x.id, x.nextTeam) with groups := s.groups ++ gs, nextId := id } x k tm.id (ctxDesc s x.ctx))
  generalize hv : ({ teamOpened _ x k tm.id (ctxDesc s x.ctx) with cores := cs' } : State) = v at hdrop
  have hu : u = v := by
    show startTeam s x k cl cores pos bytes = _
    unfold startTeam
    rw [meetCtx_clean hh hs, hcs]
    dsimp only
    rw [hd]
    refine Eq.trans ?_ hdrop
    exact congrArg (fun w => dropFetch (teamOpened w x k tm.id (ctxDesc s x.ctx)) (ctxDesc s x.ctx).asid cores) hgs
  rw [hu, ← hv]
  clear hv hu hdrop
  refine ⟨rfl, rfl, rfl, gs, rfl, by simpa using hlen, fun n r h => hall n (r, n) (by simpa [List.getElem?_zipIdx] using h)⟩

/-! ## The dispatcher (R318, R320, R324, R325) -/

section

variable {s : State} {x : Slice} {cl : Nat}

theorem meetRecord_clean (hs : s.sram = []) (x : Slice) : meetRecord s x = (s, false) := by
  rw [meetRecord, hs]
  rfl

theorem modSlice_same {f : Slice → Slice} (hf : ∀ y ∈ s.slices, y.id = x.id → f y = y) : modSlice s x.id f = s := by
  have hmap : (s.slices.map fun y => if y.id == x.id then f y else y) = s.slices := by
    refine (List.map_congr_left fun y hy => ?_).trans (List.map_id _)
    split
    · next h => exact hf y hy (beq_iff_eq.1 h)
    · rfl
  rw [modSlice, hmap]

variable (hget : getSlice s x.id = some x)

include hget

theorem teamPlace_fin {f : Ending} (hf : x.fin = some f) :
    exec (.teamPlace x.id cl) s = .next (entryFreed (closeSlice s x f)) := by
  show execTeamPlace x.id cl s = _
  rw [execTeamPlace, hget]
  dsimp only
  rw [hf]

variable (hs : s.sram = []) (hfin : x.fin = none)

include hs hfin

theorem teamPlace_marker (hst : x.st = .ready) (hm : x.pkt.marker = true) :
    exec (.teamPlace x.id cl) s = .next (endOfSlice s x 0 0 0 0) := by
  show execTeamPlace x.id cl s = _
  rw [execTeamPlace, hget]
  dsimp only
  rw [hfin]
  dsimp only
  rw [meetRecord_clean hs]
  dsimp only
  rw [if_pos ⟨hst, hm⟩]

variable (hm : ¬ (x.st = .ready ∧ x.pkt.marker = true))

include hm

/-- What TEAM_PLACE does with a slice that is no marker and has not ended. -/
theorem teamPlace_goes : exec (.teamPlace x.id cl) s = .next (match x.k with
    | none => if x.st = .ready then prepareSlice s x else s
    | some k =>
      if !hasUnplaced x || cl ≥ 96 || !dispatchTurn s x then s
      else
        match fitsIn s (x.id, x.nextTeam) k cl with
        | [] => if fitsAnywhere s (x.id, x.nextTeam) k then s else makeGang s (x.id, x.nextTeam) k cl
        | ways => placeTeam s x k cl ways) := by
  show execTeamPlace x.id cl s = _
  rw [execTeamPlace, hget]
  dsimp only
  rw [hfin]
  dsimp only
  rw [meetRecord_clean hs]
  dsimp only
  rw [if_neg hm] <;> rfl

theorem teamPlace_unread (hk : x.k = none) :
    exec (.teamPlace x.id cl) s = .next (if x.st = .ready then prepareSlice s x else s) := by
  rw [teamPlace_goes hget hs hfin hm, hk]

theorem teamPlace_waits {k : Kernel} (hk : x.k = some k) (h : hasUnplaced x = false ∨ 96 ≤ cl ∨ dispatchTurn s x = false) :
    exec (.teamPlace x.id cl) s = .next s := by
  rw [teamPlace_goes hget hs hfin hm, hk]
  dsimp only
  have hwait : (!hasUnplaced x || cl ≥ 96 || !dispatchTurn s x) = true := by
    rcases h with h | h | h <;> simp [h]
  rw [if_pos hwait]

variable {k : Kernel} (hk : x.k = some k) (hu : hasUnplaced x = true) (hcl : cl < 96) (ht : dispatchTurn s x = true)

include hk hu hcl ht

theorem teamPlace_gang (hfits : fitsIn s (x.id, x.nextTeam) k cl = []) :
    exec (.teamPlace x.id cl) s =
      .next (if fitsAnywhere s (x.id, x.nextTeam) k then s else makeGang s (x.id, x.nextTeam) k cl) := by
  rw [teamPlace_goes hget hs hfin hm, hk]
  dsimp only
  have hgo : (!hasUnplaced x || cl ≥ 96 || !dispatchTurn s x) = false := by simp [hu, ht, hcl]
  rw [hgo, hfits]
  rfl

theorem teamPlace_placeTeam {way : List Nat × List (List Nat)} {ways : List (List Nat × List (List Nat))}
    (hfits : fitsIn s (x.id, x.nextTeam) k cl = way :: ways) :
    exec (.teamPlace x.id cl) s = .next (placeTeam s x k cl (way :: ways)) := by
  rw [teamPlace_goes hget hs hfin hm, hk]
  dsimp only
  have hgo : (!hasUnplaced x || cl ≥ 96 || !dispatchTurn s x) = false := by simp [hu, ht, hcl]
  rw [hgo, hfits]
  rfl

omit hget hs hfin hm hk hu hcl ht

theorem placeTeam_starts {ways : List (List Nat × List (List Nat))} {bytes : List (Win × Nat × List Byte)} {s1 : State}
    (htok : x.token = none) (hver : x.verdict = none) (htiles : x.tiles = []) (hwait : x.waitFor = none)
    (huniq : ∀ y ∈ s.slices, y.id = x.id → y = x)
    (hread : readPrologue { s with fresh := s.fresh + 1 } x k = (s1, .ok bytes)) :
    let w := nth ([], []) ways (Config.choice s.fresh % ways.length)
    placeTeam s x k cl ways = startTeam s1 x k cl w.1 w.2 bytes := by
  intro w
  have hsame : (modSlice s x.id fun x => { x with token := none, verdict := none, waitFor := none }) = s :=
    modSlice_same fun y hy hid => by
      rw [huniq y hy hid]
      cases x
      simp_all
  have hpre : prefetchTiles s1 x = s1 := by
    rw [prefetchTiles, htiles]
    split <;> rfl
  unfold placeTeam
  dsimp only
  rw [if_neg (by simp [hver]), if_neg (by simp [htok]), hsame]
  rw [show bump s = { s with fresh := s.fresh + 1 } from rfl, hread]
  dsimp only
  rw [hpre]

end

/-- What the statements say of a team that TEAM_PLACE starts. -/
theorem startTeam_state {s : State} (hh : hbmClean s = true) (hs : s.sram = []) (x : Slice) (k : Kernel) (cl : Nat)
    {way : List Nat × List (List Nat)} {ways : List (List Nat × List (List Nat))} (hway : way ∈ ways)
    (bytes : List (Win × Nat × List Byte)) :
    ∃ tm, (startTeam s x k cl way.1 way.2 bytes).mem = s.mem ∧
      (startTeam s x k cl way.1 way.2 bytes).teams = s.teams ++ [tm] ∧ tm.desc = ctxDesc s x.ctx ∧
      (∀ z ∈ (startTeam s x k cl way.1 way.2 bytes).fab.exports, z.slice = x.id → x.pkt.expb + x.nextTeam * k.cores ≤ z.slot →
        z.slot < x.pkt.expb + x.nextTeam * k.cores + k.cores → z.live = true ∧ z.team = tm.id) ∧
      tm.no = x.nextTeam ∧ tm.slice = x.id ∧ tm.st = .running ∧ tm.cluster = cl ∧
      tm.regions = List.replicate k.nregion none ∧
      tm.skip = List.replicate 64 0 ∧ tm.ergta = k.ergta ∧ tm.ergtr = k.ergtr ∧
      (∃ w ∈ ways, tm.cores = (w.1.zip w.2).map fun y => TCore.start k y.1 y.2 bytes (x.pkt.arglen != 0)) ∧
      (startTeam s x k cl way.1 way.2 bytes).groups.length = s.groups.length + (groupRoles k).length ∧
      (∀ n < (groupRoles k).length, ∃ g r, (startTeam s x k cl way.1 way.2 bytes).groups[s.groups.length + n]? = some g ∧
        (groupRoles k)[n]? = some r ∧
        g.grp = n ∧ g.role = r.1 ∧ g.idx = r.2.1 ∧ g.team = tm.id ∧ g.resident = true ∧ g.lanes.length = 64 ∧
        ∀ l < 64, (g.lane l).pc = r.2.2.entry ∧ (g.lane l).base = 0 ∧
          (g.lane l).st = if l < r.2.2.fibres then .live else .free) := by
  obtain ⟨hmem, hteams, hexp, gs, hgroups, hlen, hall⟩ := startTeam_starts hh hs x k cl way.1 way.2 bytes
  refine ⟨teamStarted s x k cl way.1 way.2 bytes, hmem, hteams, rfl, fun z hz hslice hlo hhi => ?_, rfl, rfl, rfl, rfl, rfl, rfl,
    rfl, rfl, ⟨way, hway, rfl⟩, ?_, fun n hn => ?_⟩
  · rw [hexp] at hz
    obtain ⟨e, -, rfl⟩ := List.mem_map.1 hz
    have hkeeps : (exportOpened x k (teamStarted s x k cl way.1 way.2 bytes).id e).slice = e.slice ∧
        (exportOpened x k (teamStarted s x k cl way.1 way.2 bytes).id e).slot = e.slot := by
      unfold exportOpened
      split <;> exact ⟨rfl, rfl⟩
    rw [hkeeps.1] at hslice
    rw [hkeeps.2] at hlo hhi
    have hmine : (e.slice == x.id && decide (x.pkt.expb + x.nextTeam * k.cores ≤ e.slot ∧
        e.slot < x.pkt.expb + x.nextTeam * k.cores + k.cores)) = true := by
      simp [hslice, hlo, hhi]
    rw [exportOpened, if_pos hmine]
    exact ⟨rfl, rfl⟩
  · rw [hgroups, List.length_append, hlen]
  · obtain ⟨g, hg, hstart⟩ := hall n _ (List.getElem?_eq_getElem hn)
    refine ⟨g, _, ?_, List.getElem?_eq_getElem hn, hstart⟩
    rw [hgroups, List.getElem?_append_right (Nat.le_add_right ..), Nat.add_sub_cancel_left, hg]

/-! ## The end of a slice leaves groups and teams (R320, R323) -/

/-- Groups and teams stand in `u` as they stand in `s`. -/
def Placed (s u : State) : Prop := u.groups = s.groups ∧ u.teams = s.teams

section

variable {s0 s : State}

theorem placed_refl (s : State) : Placed s s := ⟨rfl, rfl⟩

theorem placed_of_kept {u : State} (h : Placed s0 s) (hk : Kept s u) : Placed s0 u := by
  obtain ⟨-, hteams, hgroups, -⟩ := hk
  exact ⟨hgroups.trans h.1, hteams.trans h.2⟩

theorem placed_modSlice (h : Placed s0 s) (id : Nat) (f : Slice → Slice) : Placed s0 (modSlice s id f) := h

theorem placed_holdExports (h : Placed s0 s) (x : Slice) (c : Nat) : Placed s0 (holdExports s x c) := h

/-- The state after a completion's record, where one is due. -/
def closeRecorded (s : State) (x : Slice) (e : Ending) : State :=
  if !x.recorded && x.pkt.crec != 0 then
    modSlice (cpWrite s x.die x.ctx x.priv x.pkt.crec.toNat (recordBytes x e.code e.cause e.tepc e.tval x.tend.toNat)) x.id
      fun x => { x with recorded := true }
  else s

/-- The state after a completion's signal, where one is due. -/
def closeSignalled (s : State) (x : Slice) : State :=
  if x.pkt.signal = 0 then s else cpDecrement s x.die x.ctx x.priv x.pkt.signal.toNat

/-- The state in which a slice has left. -/
def closeOver (s : State) (x : Slice) : State :=
  { releaseSuccessors s x.id with
    slices := (releaseSuccessors s x.id).slices.filter fun y => y.id != x.id
    fab := { s.fab with exports := s.fab.exports.filter fun e => e.slice != x.id }
    gangs := s.gangs.filter fun g => g.2.slice != x.id }

theorem closeSlice_eq (s : State) (x : Slice) (e : Ending) :
    closeSlice s x e =
      if (!x.recorded && x.pkt.crec != 0) && cpHeld s x.ctx x.priv x.pkt.crec.toNat 64 then (s, false)
      else if x.pkt.signal != 0 && cpHeld (closeRecorded s x e) x.ctx x.priv x.pkt.signal.toNat 8 then
        (closeRecorded s x e, false)
      else (closeOver (closeSignalled (closeRecorded s x e) x) x, true) := rfl

theorem closeRecorded_keeps (s : State) (x : Slice) (e : Ending) :
    let u := closeRecorded s x e
    Placed s u ∧ u.rings = s.rings ∧ u.lines = s.lines := by
  unfold closeRecorded
  split
  · obtain ⟨-, hteams, hgroups, -, hrings, hlines, -⟩ := kept_cpWrite (kept_refl s) x.die x.ctx x.priv x.pkt.crec.toNat
      (recordBytes x e.code e.cause e.tepc e.tval x.tend.toNat)
    generalize cpWrite s _ _ _ _ _ = w at *
    exact ⟨⟨hgroups, hteams⟩, hrings, hlines⟩
  · exact ⟨placed_refl s, rfl, rfl⟩

theorem closeSignalled_keeps (s : State) (x : Slice) : Kept s (closeSignalled s x) := by
  unfold closeSignalled
  split
  · exact kept_refl s
  · exact kept_cpDecrement (kept_refl s) _ _ _ _

theorem placed_closeSlice (h : Placed s0 s) (x : Slice) (e : Ending) : Placed s0 (closeSlice s x e).1 := by
  have hrec : Placed s0 (closeRecorded s x e) := by
    obtain ⟨⟨hgroups, hteams⟩, -⟩ := closeRecorded_keeps s x e
    exact ⟨hgroups.trans h.1, hteams.trans h.2⟩
  rw [closeSlice_eq]
  split
  · exact h
  split
  · exact hrec
  · have hsig := placed_of_kept hrec (closeSignalled_keeps (closeRecorded s x e) x)
    generalize closeSignalled _ x = w at hsig
    exact hsig

theorem placed_completeSlice (h : Placed s0 s) (x : Slice) (code cause : Nat) (tepc tval : Dword) :
    Placed s0 (completeSlice s x code cause tepc tval).1 :=
  placed_closeSlice (placed_modSlice h _ _) _ _

theorem placed_takeIn (h : Placed s0 s) (x : Slice) (privOk : Bool) (pred : Option Nat) :
    Placed s0 (takeIn s x privOk pred) := by
  have hp (ss : List Slice) (n : Nat) : Placed s0 { s with slices := ss, nextId := n } := h
  grind [takeIn, rejectSlice, placed_completeSlice, placed_modSlice, placed_holdExports]

theorem placed_takeRings (h : Placed s0 s) (n : Nat) : Placed s0 (takeRings s n) := by
  induction n generalizing s with
  | zero => exact h
  | succ n ih =>
    rw [takeRings]
    cases ht : takeRing s with
    | none => exact h
    | some s1 =>
      refine ih ?_
      simp only [takeRing, Option.bind_eq_some_iff, Option.map_eq_some_iff] at ht
      obtain ⟨r, -, e, -, rfl⟩ := ht
      have hr (rs : List RingRec) (cs : List CtxSt) : Placed s0 { s with rings := rs, ctxs := cs } := h
      exact placed_takeIn (hr _ _) _ _ _

theorem placed_entryFreed {r : State × Bool} (h : Placed s0 r.1) : Placed s0 (entryFreed r) := by
  unfold entryFreed
  split
  · exact placed_takeRings h _
  · exact h

theorem placed_endOfSlice (h : Placed s0 s) (x : Slice) (code cause : Nat) (tepc tval : Dword) :
    Placed s0 (endOfSlice s x code cause tepc tval) :=
  placed_entryFreed (placed_completeSlice h _ _ _ _ _)

theorem placed_sliceOver (h : Placed s0 s) (sid : Nat) : Placed s0 (sliceOver s sid) := by
  grind [sliceOver, placed_endOfSlice]

end

/-! ## A slice whose last team has retired (R320) -/

section

variable {s : State} {x : Slice}

theorem sliceOver_teamsLeft (h : ∃ t ∈ s.teams, t.slice = x.id) : sliceOver s x.id = s := by
  obtain ⟨t, ht, hid⟩ := h
  have hany : (s.teams.any fun t => t.slice == x.id) = true := List.any_eq_true.2 ⟨t, ht, beq_iff_eq.2 hid⟩
  unfold sliceOver
  split
  · rfl
  · dsimp only
    rw [hany, Bool.or_true, if_pos (Or.inr rfl)]

theorem sliceOver_ends (hget : getSlice s x.id = some x) (hst : x.st ≠ .completing) (hend : x.ending = none)
    (hall : x.pkt.nteam ≤ x.nextTeam) (hteams : ∀ t ∈ s.teams, t.slice ≠ x.id) :
    sliceOver s x.id = endOfSlice s x 0 0 0 0 := by
  have hmore : (decide (x.nextTeam < x.pkt.nteam) && x.ending.isNone || s.teams.any fun t => t.slice == x.id) = false := by
    simpa [Nat.not_lt.2 hall] using hteams
  rw [sliceOver, hget]
  dsimp only
  rw [hmore, if_neg (by simpa using hst), hend]

theorem cpHeld_noLines (h : s.lines = []) (ctx : Nat) (lvlS : Bool) (va n : Nat) : cpHeld s ctx lvlS va n = false := by
  rw [cpHeld, h]
  rfl

theorem getSlice_filter (s : State) (id : Nat) (f : Fabric) (gs : List (Nat × Gang)) :
    getSlice { s with slices := s.slices.filter fun y => y.id != id, fab := f, gangs := gs } id = none := by
  simp [getSlice, List.find?_eq_none]

/-- With no copy engine's line in the way a slice's completion is over at once. -/
theorem closeSlice_noLines (hl : s.lines = []) (x : Slice) (e : Ending) :
    (closeSlice s x e).2 = true ∧ (closeSlice s x e).1.rings = s.rings ∧ getSlice (closeSlice s x e).1 x.id = none := by
  obtain ⟨-, hrings, hlines⟩ := closeRecorded_keeps s x e
  have hsig := closeSignalled_keeps (closeRecorded s x e) x
  rw [closeSlice_eq, cpHeld_noLines hl, cpHeld_noLines (hlines.trans hl)]
  simp only [Bool.and_false, Bool.false_eq_true, if_false]
  refine ⟨trivial, ?_, getSlice_filter _ _ _ _⟩
  obtain ⟨-, -, -, -, hsrings, -⟩ := hsig
  exact hsrings.trans hrings

/-- A slice that ends leaves the pool, and with no ring record no other takes its place. -/
theorem endOfSlice_leaves (hl : s.lines = []) (hr : s.rings = []) (x : Slice) (code cause : Nat) (tepc tval : Dword) :
    getSlice (endOfSlice s x code cause tepc tval) x.id = none := by
  have hc : ∃ w y, completeSlice s x code cause tepc tval = closeSlice w y { code, cause, tepc, tval } ∧ y.id = x.id ∧
      w.lines = [] ∧ w.rings = [] :=
    ⟨_, _, rfl, rfl, hl, hr⟩
  obtain ⟨w, y, hc, hid, hwl, hwr⟩ := hc
  obtain ⟨hover, hrings, hgone⟩ := closeSlice_noLines hwl y { code, cause, tepc, tval }
  rw [endOfSlice, entryFreed, hc, if_pos hover, hrings, hwr, ← hid]
  exact hgone

end

/-! ## Groups that retire (R304, R320, R392, R417) -/

section

variable {s : State} {g : Group} {x : Slice}

theorem sliceEnding_eq (hx : sliceOf s g = some x) : sliceEnding s g = x.ending.isSome := by
  rw [sliceEnding, hx]
  rfl

theorem releaseBaton_notHeld (h : ∀ tm, getTeam s g.team = some tm → ∀ c ∈ tm.cores, c.held = false) : releaseBaton s g = s := by
  unfold releaseBaton
  cases htm : getTeam s g.team with
  | none => rfl
  | some tm =>
    refine List.foldlRecOn (motive := fun u => u = s) _ _ rfl fun u hu y hy => ?_
    have hheld : y.1.held = false := h tm htm y.1 ((List.mem_zipIdx' hy).2 ▸ List.getElem_mem _)
    split
    · rw [if_neg (by simp [hheld])]
      exact hu
    · exact hu

/-- The group that leaves gives its cores' slot and queues free; then its team may retire. -/
theorem removeGroup_leaves (hheld : ∀ tm, getTeam s g.team = some tm → ∀ c ∈ tm.cores, c.held = false)
    (hbank : (getSlot s g.core g.slot).bank ≠ some g.id) :
    ∃ u cs, u = { s with groups := s.groups.filter fun h => h.id != g.id, cores := cs } ∧
      removeGroup s g = if u.groups.any fun h => h.team == g.team then u else match getTeam u g.team with
        | some tm => sliceOver (retireTeam u tm) tm.slice
        | none => u := by
  have hno : (g.resident && (getSlot s g.core g.slot).bank == some g.id) = false := by simp [hbank]
  have hsl (gs : List Group) : getSlot { s with groups := gs } g.core g.slot = getSlot s g.core g.slot := rfl
  unfold removeGroup
  rw [releaseBaton_notHeld hheld]
  dsimp only
  rw [hsl, hno]
  cases g.resident
  · exact ⟨_, _, rfl, rfl⟩
  · exact ⟨_, _, rfl, rfl⟩

variable (hg : getGroup s g.id = some g)

include hg

theorem groupRetire_mayReplay (h : mayReplay s g = true) : exec (.groupRetire g.id) s = .next s := by
  show execGroupRetire g.id s = _
  rw [execGroupRetire, hg]
  dsimp only
  rw [if_pos h]

variable (hx : sliceOf s g = some x) (hr : mayReplay s g = false)

include hx hr

theorem groupRetire_dropsPending (he : x.ending.isSome = true) (hb : groupBusy (dropPending s g.id) g.id = true) :
    exec (.groupRetire g.id) s = .next (dropPending s g.id) := by
  show execGroupRetire g.id s = _
  rw [execGroupRetire, hg]
  dsimp only
  rw [hr, sliceEnding_eq hx, if_neg Bool.false_ne_true, if_pos he, if_pos hb]

variable (he : x.ending = none)

include he

theorem groupRetire_goes : exec (.groupRetire g.id) s =
    .next (if g.active = 0 ∧ !groupBusy s g.id ∧ g.gs.isEmpty then removeGroup s g else s) := by
  show execGroupRetire g.id s = _
  rw [execGroupRetire, hg]
  dsimp only
  rw [hr, sliceEnding_eq hx, he, if_neg Bool.false_ne_true]
  rfl

theorem groupRetire_stays (h : g.active ≠ 0 ∨ groupBusy s g.id = true ∨ g.gs ≠ []) : exec (.groupRetire g.id) s = .next s := by
  rw [groupRetire_goes hg hx hr he, if_neg]
  rintro ⟨hactive, hbusy, hgs⟩
  rcases h with h | h | h
  · exact h hactive
  · simp [h] at hbusy
  · exact h (List.isEmpty_iff.1 hgs)

variable (hactive : g.active = 0) (hbusy : groupBusy s g.id = false) (hgs : g.gs = [])

include hactive hbusy hgs

theorem groupRetire_removes : exec (.groupRetire g.id) s = .next (removeGroup s g) := by
  rw [groupRetire_goes hg hx hr he, if_pos ⟨hactive, by simp [hbusy], by simp [hgs]⟩]

variable (hheld : ∀ tm, getTeam s g.team = some tm → ∀ c ∈ tm.cores, c.held = false)
  (hbank : (getSlot s g.core g.slot).bank ≠ some g.id)

include hheld hbank

theorem groupRetire_teamStays (h : ∃ h ∈ s.groups, h.id ≠ g.id ∧ h.team = g.team) :
    ∃ u, exec (.groupRetire g.id) s = .next u ∧ { u with groups := s.groups, cores := s.cores } = s ∧
      u.groups = s.groups.filter fun h => h.id != g.id := by
  obtain ⟨u, cs, hu, hrem⟩ := removeGroup_leaves hheld hbank
  obtain ⟨h, hmem, hid, hteam⟩ := h
  have hany : (u.groups.any fun h => h.team == g.team) = true := by
    rw [hu]
    exact List.any_eq_true.2 ⟨h, List.mem_filter.2 ⟨hmem, bne_iff_ne.2 hid⟩, beq_iff_eq.2 hteam⟩
  rw [groupRetire_removes hg hx hr he hactive hbusy hgs, hrem, if_pos hany, hu]
  exact ⟨_, rfl, rfl, rfl⟩

theorem groupRetire_lastGroup {tm : Team} (hlast : ∀ h ∈ s.groups, h.id ≠ g.id → h.team ≠ g.team)
    (htm : getTeam s g.team = some tm) :
    ∃ u, exec (.groupRetire g.id) s = .next u ∧ u.groups = s.groups.filter (fun h => h.id != g.id) ∧
      u.teams = s.teams.filter (fun t => t.id != tm.id) ∧
      ((∃ t ∈ s.teams, t.id ≠ tm.id ∧ t.slice = x.id) → u.slices = s.slices) ∧
      ((∀ t ∈ s.teams, t.id ≠ tm.id → t.slice ≠ x.id) → x.pkt.nteam ≤ x.nextTeam → s.rings = [] →
        s.lines = [] → x.st ≠ .completing → getSlice u x.id = none) := by
  obtain ⟨v, cs, hv, hrem⟩ := removeGroup_leaves hheld hbank
  have hany : (v.groups.any fun h => h.team == g.team) = false := by
    rw [hv]
    simpa [List.mem_filter] using hlast
  have htv : getTeam v g.team = some tm := hv ▸ htm
  have hslice : getSlice s tm.slice = some x := by
    rw [sliceOf, htm] at hx
    exact hx
  have hxid : tm.slice = x.id := (by simpa using List.find?_some hslice : x.id = tm.slice).symm
  rw [groupRetire_removes hg hx hr he hactive hbusy hgs, hrem, hany, htv]
  dsimp only
  rw [hxid]
  rw [hxid] at hslice
  generalize hw : retireTeam v tm = w
  have hwgroups : w.groups = s.groups.filter fun h => h.id != g.id := by rw [← hw, hv]; rfl
  have hwteams : w.teams = s.teams.filter fun t => t.id != tm.id := by rw [← hw, hv]; rfl
  have hwslices : w.slices = s.slices := by rw [← hw, hv]; rfl
  have hwget : getSlice w x.id = some x := by rw [getSlice, hwslices]; exact hslice
  obtain ⟨hgroups, hteams⟩ := placed_sliceOver (placed_refl w) x.id
  refine ⟨_, rfl, hgroups.trans hwgroups, hteams.trans hwteams, fun ⟨t, ht, hid, hts⟩ => ?_, fun hno hall hrings hlines hst => ?_⟩
  · show (sliceOver w x.id).slices = s.slices
    rw [sliceOver_teamsLeft ⟨t, by rw [hwteams]; exact List.mem_filter.2 ⟨ht, bne_iff_ne.2 hid⟩, hts⟩, hwslices]
  · show getSlice (sliceOver w x.id) x.id = none
    rw [sliceOver_ends hwget hst he hall fun t ht => ?_]
    · exact endOfSlice_leaves (by rw [← hw, hv]; exact hlines) (by rw [← hw, hv]; exact hrings) x 0 0 0 0
    · rw [hwteams] at ht
      obtain ⟨hts, hid⟩ := List.mem_filter.1 ht
      exact hno t hts (bne_iff_ne.1 hid)

end

/-! ## The layout of a save record (R396) -/

section

variable {α β : Type} {f : α → List β} {c : Nat}

theorem length_flatMap_const {xs : List α} (hf : ∀ x ∈ xs, (f x).length = c) : (xs.flatMap f).length = c * xs.length := by
  induction xs with
  | nil => rfl
  | cons x xs ih =>
    rw [List.flatMap_cons, List.length_append, hf x List.mem_cons_self, ih fun y hy => hf y (List.mem_cons_of_mem _ hy),
      List.length_cons, Nat.mul_succ, Nat.add_comm]

/-- One of the equally long pieces that a list is made of. -/
theorem take_drop_flatMap {xs : List α} (hf : ∀ x ∈ xs, (f x).length = c) {i : Nat} {x : α} (hx : xs[i]? = some x)
    (tail : List β) : ((xs.flatMap f ++ tail).drop (c * i)).take c = f x := by
  induction xs generalizing i with
  | nil => simp at hx
  | cons y xs ih =>
    have hy : (f y).length = c := hf y List.mem_cons_self
    rw [List.flatMap_cons, List.append_assoc]
    cases i with
    | zero =>
      simp only [List.getElem?_cons_zero, Option.some.injEq] at hx
      rw [Nat.mul_zero, List.drop_zero, ← hy, List.take_left, hx]
    | succ i =>
      rw [Nat.mul_succ, Nat.add_comm, ← List.drop_drop, ← hy, List.drop_left, hy]
      exact ih (fun z hz => hf z (List.mem_cons_of_mem _ hz)) (by simpa using hx)

end

@[simp] theorem toBytes_length (n k : Nat) : (toBytes n k).length = k := by
  induction k generalizing n with
  | zero => rfl
  | succ k ih => simp [toBytes, ih]

theorem wordBytes_length (w : Word) : (wordBytes w).length = 4 := toBytes_length _ _

theorem jentBytes_length (e : JEnt) : (jentBytes e).length = 32 := by simp [jentBytes, dwordBytes]

theorem openBytes_length (k n : Nat) : (openBytes k n).length = n := by simp [openBytes]

theorem memRead_getElem? (m : Mem) {i n : Nat} (a : Nat) (h : i < n) : (memRead m a n)[i]? = some (memGet m (a + i)) := by
  induction n generalizing a i with
  | zero => omega
  | succ n ih =>
    cases i with
    | zero => rfl
    | succ i =>
      rw [memRead, List.getElem?_cons_succ, ih (a + 1) (by omega)]
      congr 2
      omega

theorem memRead_length (m : Mem) (a n : Nat) : (memRead m a n).length = n := by
  induction n generalizing a with
  | zero => rfl
  | succ n ih => simp [memRead, ih]

/-! ### A core's section -/

theorem bytes_length (tc : TCore) (w : Win) (off n : Nat) : (tc.bytes w off n).length = n := memRead_length _ _ _

theorem bytes_getElem? (tc : TCore) (w : Win) {i n : Nat} (h : i < n) (pre post : List Byte) {k : Nat} (hk : k = pre.length + i) :
    (pre ++ (tc.bytes w 0 n ++ post))[k]? = some (memGet (tc.win w) i) := by
  rw [hk, List.getElem?_append_right (Nat.le_add_right ..), Nat.add_sub_cancel_left,
    List.getElem?_append_left (by rwa [bytes_length]), TCore.bytes, memRead_getElem? _ 0 h, Nat.zero_add]

theorem coreBytes_windows (t : Team) (tc : TCore) (tail : List Byte) :
    let bs := coreBytes t tc ++ tail
    (∀ i < winBytes t .gen, bs[i]? = some (memGet tc.gen i)) ∧
    (∀ i < winBytes t .wgt, bs[winBytes t .gen + i]? = some (memGet tc.wgt i)) ∧
    (∀ i < winBytes t .act, bs[winBytes t .gen + winBytes t .wgt + i]? = some (memGet tc.act i)) ∧
    (∀ i < winBytes t .erg, bs[winBytes t .gen + winBytes t .wgt + winBytes t .act + i]? = some (memGet tc.erg i)) := by
  intro bs
  obtain ⟨post, hbs⟩ : ∃ post, bs = tc.bytes .gen 0 (winBytes t .gen) ++ (tc.bytes .wgt 0 (winBytes t .wgt) ++
      (tc.bytes .act 0 (winBytes t .act) ++ (tc.bytes .erg 0 (winBytes t .erg) ++ post))) :=
    ⟨_, by simp only [bs, coreBytes, winOrder, List.flatMap_cons, List.flatMap_nil, List.append_assoc, List.nil_append]; rfl⟩
  rw [hbs]
  refine ⟨fun i hi => ?_, fun i hi => ?_, fun i hi => ?_, fun i hi => ?_⟩
  · exact bytes_getElem? tc .gen hi [] _ (by simp)
  · exact bytes_getElem? tc .wgt hi _ _ (by rw [bytes_length])
  · rw [← List.append_assoc]
    exact bytes_getElem? tc .act hi _ _ (by simp only [List.length_append, bytes_length])
  · rw [← List.append_assoc, ← List.append_assoc]
    exact bytes_getElem? tc .erg hi _ _ (by simp only [List.length_append, bytes_length])

/-! ### A group's section -/

section

variable {g : Group} (k : Nat) (hg : g.g.length = 24) (hjs : g.js.length ≤ 32)

/-- The resident registers of a lane, RB first. -/
def laneBytes (l : Lane) : List Byte := (List.range l.rz).flatMap fun j => wordBytes (l.stk (l.rb + j))

theorem laneBytes_length (l : Lane) : (laneBytes l).length = 4 * l.rz := by
  rw [laneBytes, length_flatMap_const fun j _ => wordBytes_length _, List.length_range]

include hg hjs

omit hg in
/-- A group's section: its g registers, and from byte 40,960 on its resident registers. -/
theorem groupBytes_eq : ∃ mid, mid.length = 40864 ∧
    groupBytes g k = g.g.flatMap wordBytes ++ (mid ++ g.lanes.flatMap laneBytes) := by
  have hj : (g.js.reverse.flatMap jentBytes).length = 32 * g.js.length := by
    rw [length_flatMap_const fun e _ => jentBytes_length e, List.length_reverse]
  refine ⟨openBytes k 160 ++ ((g.js.reverse.flatMap jentBytes) ++ toBytes 0 (1024 - 32 * g.js.length)) ++
    openBytes (k + 160) (256 + 4096 + 32768) ++ toBytes 0 2560, ?_, ?_⟩
  · simp only [List.length_append, openBytes_length, hj, toBytes_length]
    omega
  · simp only [groupBytes, List.append_assoc]
    rfl

omit hjs in
theorem gBytes_length : (g.g.flatMap wordBytes).length = 96 := by
  rw [length_flatMap_const fun w _ => wordBytes_length w, hg]

theorem groupBytes_length (hl : ∀ l ∈ g.lanes, l.rz = g.rz) :
    (groupBytes g k).length = 40960 + 4 * g.rz * g.lanes.length := by
  obtain ⟨mid, hmid, heq⟩ := groupBytes_eq k hjs
  rw [heq, List.length_append, List.length_append, gBytes_length hg, hmid,
    length_flatMap_const fun l h => by rw [laneBytes_length, hl l h]]
  omega

theorem groupBytes_g {r : Nat} (hr : r < 24) : ((groupBytes g k).drop (4 * r)).take 4 = wordBytes (nth 0 g.g r) := by
  obtain ⟨mid, -, heq⟩ := groupBytes_eq k hjs
  have hget : g.g[r]? = some (nth 0 g.g r) := by
    simp [nth_eq_getD, hg, hr]
  rw [heq]
  exact take_drop_flatMap (fun w _ => wordBytes_length w) hget _

theorem groupBytes_resident (hl : ∀ l ∈ g.lanes, l.rz = g.rz) {i j : Nat} {l : Lane} (hi : g.lanes[i]? = some l) (hj : j < g.rz) :
    ((groupBytes g k).drop (40960 + 4 * (g.rz * i + j))).take 4 = wordBytes (l.stk (l.rb + j)) := by
  obtain ⟨mid, hmid, heq⟩ := groupBytes_eq k hjs
  have hlane : ((g.lanes.flatMap laneBytes).drop (4 * g.rz * i)).take (4 * g.rz) = laneBytes l := by
    simpa using take_drop_flatMap (fun l h => by rw [laneBytes_length, hl l h]) hi []
  have hword : ((laneBytes l).drop (4 * j)).take 4 = wordBytes (l.stk (l.rb + j)) := by
    have hget : (List.range l.rz)[j]? = some j := by
      rw [List.getElem?_range]
      rw [hl l (List.mem_of_getElem? hi)]
      exact hj
    simpa [laneBytes] using take_drop_flatMap (fun j _ => wordBytes_length (l.stk (l.rb + j))) hget []
  have hpre : (g.g.flatMap wordBytes ++ mid).length = 40960 := by
    rw [List.length_append, gBytes_length hg, hmid]
  rw [heq, ← List.append_assoc, ← List.drop_drop, ← hpre, List.drop_left, ← hword, ← hlane, List.drop_take, List.drop_drop,
    List.take_take]
  congr 1
  · omega
  · congr 1
    ring

end

/-! ### The parts of a record -/

theorem groupOffs_getElem? (t : Team) (gs : List Group) {n : Nat} {g : Group} (hn : gs[n]? = some g) :
    (groupOffs t gs)[n]? = some (coreOff t t.cores.length + ((gs.take n).map fun g => roundPage (40960 + 256 * g.rz)).sum, g) := by
  have hfold (gs : List Group) (first : Nat) (acc : List (Nat × Group)) :
      ∃ out : List (Nat × Group), (gs.foldl (fun (acc : Nat × List (Nat × Group)) g =>
        (acc.1 + roundPage (40960 + 256 * g.rz), acc.2 ++ [(acc.1, g)])) (first, acc)).2 = acc ++ out ∧
        ∀ (n : Nat) g, gs[n]? = some g →
          out[n]? = some (first + ((gs.take n).map fun g => roundPage (40960 + 256 * g.rz)).sum, g) := by
    induction gs generalizing first acc with
    | nil => exact ⟨[], by simp, fun n g h => by simp at h⟩
    | cons g gs ih =>
      obtain ⟨out, hout, hall⟩ := ih (first + roundPage (40960 + 256 * g.rz)) (acc ++ [(first, g)])
      refine ⟨(first, g) :: out, ?_, fun n g' h => ?_⟩
      · rw [List.foldl_cons, hout, List.append_assoc]
        rfl
      · cases n with
        | zero => simpa using h
        | succ n => simpa [Nat.add_assoc] using hall n g' (by simpa using h)
  obtain ⟨out, hout, hall⟩ := hfold gs (coreOff t t.cores.length) []
  rw [groupOffs]
  simpa [hout] using hall n g hn

theorem recordParts_skip (t : Team) (gs : List Group) (k : Nat) : (1280, skipBytes t) ∈ recordParts t gs k := by
  simp [recordParts]

theorem recordParts_core {t : Team} {c : Nat} {tc : TCore} (h : t.cores[c]? = some tc) (gs : List Group) (k : Nat) :
    ∃ tail, (coreOff t c, coreBytes t tc ++ tail) ∈ recordParts t gs k := by
  refine ⟨openBytes (k + 512 + 512 * c) 512, List.mem_append_left _ (List.mem_append_right _ (List.mem_map.2 ⟨(tc, c), ?_, rfl⟩))⟩
  exact List.mem_zipIdx_iff_getElem?.2 h

theorem recordParts_group (t : Team) {gs : List Group} {n : Nat} {g : Group} (h : gs[n]? = some g) (k : Nat) :
    (coreOff t t.cores.length + ((gs.take n).map fun g => roundPage (40960 + 256 * g.rz)).sum,
      groupBytes g (k + 4096 + 65536 * n)) ∈ recordParts t gs k :=
  List.mem_append_right _ (List.mem_map.2 ⟨((_, g), n), List.mem_zipIdx_iff_getElem?.2 (groupOffs_getElem? t gs h), rfl⟩)

theorem coreSection_eq (t : Team) :
    coreSection t = winBytes t .gen + winBytes t .wgt + winBytes t .act + winBytes t .erg + 513 * t.k.acc + 512 := by
  simp [coreSection, winOrder]
  omega

/-! ## Pre-emption (R394 to R396) -/

section

variable {s : State} {x : Slice}

/-- The slice is told to stop, or no longer. -/
def slicesTold (s : State) (sid : Nat) (b : Bool) : State :=
  { s with slices := s.slices.map fun y => if y.id = sid then { y with preempting := b } else y }

theorem modSlice_preempting (s : State) (sid : Nat) (b : Bool) :
    modSlice s sid (fun y => { y with preempting := b }) = slicesTold s sid b := by
  simp only [modSlice, slicesTold, beq_iff_eq]

/-- The state in which the waits of a slice's groups are saved. -/
def waitsSaved (s : State) (sid : Nat) : State :=
  (residentGroups (slicesTold s sid true) sid).foldl saveWaits (slicesTold s sid true)

variable (hget : getSlice s x.id = some x)

include hget

theorem preempt_stays (h : live s = false ∨ x.st ≠ .running ∨ x.ending.isSome = true) : exec (.preempt x.id) s = .next s := by
  have hno : (!live s || x.st != .running || x.ending.isSome) = true := by
    rcases h with h | h | h <;> simp [h]
  show execPreempt x.id s = _
  rw [execPreempt, hget]
  dsimp only
  rw [if_pos hno]

variable (hlive : live s = true) (hst : x.st = .running) (he : x.ending = none) {s1 : State} {n : Nat}
  (hcount : stackCount s x = (s1, n))

include hlive hst he hcount

theorem preempt_goes : exec (.preempt x.id) s = .next (
    if (residentTeams s x.id).isEmpty ∨ n < (residentTeams s x.id).length then slicesTold s1 x.id false
    else if (residentGroups (waitsSaved s1 x.id) x.id).all (groupQuiet (waitsSaved s1 x.id)) then
      let s4 := (residentTeams s x.id).foldl (fun s t => meetEntries s x t) (waitsSaved s1 x.id)
      if ((getSlice s4 x.id).bind Slice.ending).isSome then s4
      else settleSaved ((residentTeams s x.id).foldl (fun s t => saveTeam s x t) s4) x.id
    else waitsSaved s1 x.id) := by
  have hgo : (!live s || x.st != .running || x.ending.isSome) = false := by simp [hlive, hst, he]
  show execPreempt x.id s = _
  rw [execPreempt, hget]
  dsimp only
  rw [hgo, hcount, modSlice_preempting, modSlice_preempting]
  rfl

theorem preempt_noRecords (h : residentTeams s x.id = [] ∨ n < (residentTeams s x.id).length) :
    exec (.preempt x.id) s = .next (slicesTold s1 x.id false) := by
  rw [preempt_goes hget hlive hst he hcount, if_pos (h.imp_left List.isEmpty_iff.2)]

variable (hteams : residentTeams s x.id ≠ []) (hroom : (residentTeams s x.id).length ≤ n)

include hteams hroom

theorem preempt_unquiet (h : ∃ g ∈ residentGroups (waitsSaved s1 x.id) x.id, groupQuiet (waitsSaved s1 x.id) g = false) :
    exec (.preempt x.id) s = .next (waitsSaved s1 x.id) := by
  obtain ⟨g, hg, hquiet⟩ := h
  have hall : ¬ (residentGroups (waitsSaved s1 x.id) x.id).all (groupQuiet (waitsSaved s1 x.id)) = true := fun h => by
    rw [List.all_eq_true.1 h g hg] at hquiet
    exact Bool.noConfusion hquiet
  rw [preempt_goes hget hlive hst he hcount, if_neg (by simp [hteams, hroom]), if_neg hall]

omit hget hlive hst he hcount hteams hroom in
theorem saveWaits_keeps (s : State) (g : Group) : (saveWaits s g).slices = s.slices ∧ (saveWaits s g).teams = s.teams := by
  unfold saveWaits
  split <;> exact ⟨rfl, rfl⟩

omit hget hlive hst he hcount hteams hroom in
theorem waitsSaved_keeps (s : State) (sid : Nat) :
    (waitsSaved s sid).slices = (slicesTold s sid true).slices ∧ (waitsSaved s sid).teams = s.teams :=
  List.foldlRecOn _ _ (motive := fun u => u.slices = (slicesTold s sid true).slices ∧ u.teams = s.teams) ⟨rfl, rfl⟩
    fun u ⟨hslices, hts⟩ g _ => ⟨(saveWaits_keeps u g).1.trans hslices, (saveWaits_keeps u g).2.trans hts⟩

omit hget hlive hst he hcount hteams hroom in
theorem meetEntries_clean (hs : s.sram = []) (x : Slice) (t : Team) : meetEntries s x t = s := by
  refine List.foldlRecOn (motive := fun u => u = s) _ _ rfl fun u hu g _ => ?_
  rw [hu, meetArray6, meetUnit, hs]
  rfl

omit hget hlive hst he hcount hteams hroom in
theorem getSlice_told (hget : getSlice s x.id = some x) (b : Bool) :
    getSlice (slicesTold s x.id b) x.id = some { x with preempting := b } := by
  have hid : ((fun y : Slice => y.id == x.id) ∘ fun y => if y.id = x.id then { y with preempting := b } else y) =
      fun y => y.id == x.id := by
    funext y
    simp only [Function.comp]
    split <;> rfl
  rw [getSlice] at hget
  rw [getSlice, slicesTold, List.find?_map, hid, hget, Option.map_some, if_pos rfl]

theorem preempt_saves (hquiet : ∀ g ∈ residentGroups (waitsSaved s1 x.id) x.id, groupQuiet (waitsSaved s1 x.id) g = true)
    (hclean : sramClean (waitsSaved s1 x.id) = true) :
    exec (.preempt x.id) s = .next
      (settleSaved ((residentTeams s x.id).foldl (fun s t => saveTeam s x t) (waitsSaved s1 x.id)) x.id) := by
  have hsram : (waitsSaved s1 x.id).sram = [] := by
    simp only [sramClean, Bool.and_eq_true] at hclean
    exact List.isEmpty_iff.1 hclean.1.1
  have hmeet : (residentTeams s x.id).foldl (fun s t => meetEntries s x t) (waitsSaved s1 x.id) = waitsSaved s1 x.id :=
    List.foldlRecOn (motive := fun u => u = waitsSaved s1 x.id) _ _ rfl fun u hu t _ => by
      rw [hu]
      exact meetEntries_clean hsram x t
  have hget1 : getSlice s1 x.id = some x := by
    have hk := kept_stackCount (kept_refl s) x
    rw [hcount] at hk
    rw [getSlice, hk.1]
    exact hget
  have hend : ((getSlice (waitsSaved s1 x.id) x.id).bind Slice.ending).isSome = false := by
    rw [getSlice, (waitsSaved_keeps s1 x.id).1]
    show ((getSlice (slicesTold s1 x.id true) x.id).bind Slice.ending).isSome = false
    rw [getSlice_told hget1]
    simp [he]
  rw [preempt_goes hget hlive hst he hcount, if_neg (by simp [hteams, hroom]), if_pos (List.all_eq_true.2 hquiet)]
  dsimp only
  rw [hmeet, hend]
  rfl

end

/-! ### A team that is saved (R396) -/

section

variable {s s4 : State} {x : Slice} {t : Team} {k a : Nat} (htop : topRecord s x = (s4, some (k, a)))

include htop

theorem saveTeam_held (h : stackHeld s4 x 0 = true ∨ recordHeld s4 x t a = true) : saveTeam s x t = s4 := by
  rw [saveTeam, htop]
  dsimp only
  rw [if_pos (by simpa using h)]

omit htop in
theorem meetTeam_clean (hclean : sramClean s4 = true) (ht : getTeam s4 t.id = some t) : meetTeam s4 t = s4 := by
  have hsave := hclean
  simp only [sramClean, Bool.and_eq_true, List.all_eq_true, List.isEmpty_iff] at hclean
  obtain ⟨⟨-, hteams⟩, -⟩ := hclean
  have hcores : t.cores.zipIdx.foldl (fun s x => x.1.errs.foldl (fun s e => meetPart s t.id x.2 e.1 e.2.1) s) s4 = s4 :=
    List.foldlRecOn (motive := fun u => u = s4) _ _ rfl fun u hu y hy => by
      rw [hteams t (List.mem_of_find?_eq_some ht) y.1 ((List.mem_zipIdx' hy).2 ▸ List.getElem_mem _)]
      exact hu
  rw [meetTeam, hcores]
  refine List.foldlRecOn (motive := fun u => u = s4) _ _ rfl fun u hu g _ => ?_
  rw [hu, meetRegs, if_pos hsave]

theorem saveTeam_saves (hstack : stackHeld s4 x 0 = false) (hrec : recordHeld s4 x t a = false)
    (hclean : sramClean s4 = true) (ht : getTeam s4 t.id = some t) :
    saveTeam s x t = liftTeam (writeRecord (stackWrite s4 x 0 k) x t a) t a := by
  rw [saveTeam, htop]
  dsimp only
  rw [hstack, hrec, meetTeam_clean hclean ht, ht]
  rfl

/-- A group of a team that is taken off its cores. -/
def groupOff (t : Team) (g : Group) : Group := if g.team == t.id then { g with resident := false, early := [] } else g

/-- The team that is taken off its cores, in the place of the team of its handle. -/
def teamOff (s : State) (t : Team) (a : Nat) (z : Team) : Team :=
  if z.id == t.id then
    { z with
      st := .saved, record := BitVec.ofNat 64 a, mxPend := pendingMx s t, ergPend := pendingErg s t
      cores := z.cores.zipIdx.map fun x => { x.1 with latch := savedLatch s (pendingMx s t) z x } }
  else z

omit htop in
theorem liftTeam_lifts (s : State) (t : Team) (a : Nat) :
    ∃ cs, liftTeam s t a = { s with
      cores := cs, groups := s.groups.map (groupOff t), teams := s.teams.map (teamOff s t a) } := by
  obtain ⟨cs, hcs⟩ := modCores_cores (fun _ c => { c.forget t.id with
    mxq := c.mxq.filter fun m => m.team != t.id
    ergq := c.ergq.filter fun e => e.team != t.id }) (t.cores.map TCore.phys) s
  refine ⟨cs, ?_⟩
  unfold liftTeam
  dsimp only
  rw [hcs]
  rfl

omit htop in
theorem groupOff_off (t : Team) (g : Group) (h : (groupOff t g).team = t.id) : (groupOff t g).resident = false := by
  unfold groupOff at h ⊢
  split at h
  · next hg => rw [if_pos hg]
  · next hg => exact absurd (beq_iff_eq.2 h) hg

omit htop in
theorem teamOff_off (s : State) (t : Team) (a : Nat) (z : Team) (h : (teamOff s t a z).id = t.id) :
    (teamOff s t a z).st = .saved ∧ (teamOff s t a z).record = BitVec.ofNat 64 a := by
  unfold teamOff at h ⊢
  split at h
  · next hz =>
    rw [if_pos hz]
    exact ⟨rfl, rfl⟩
  · next hz => exact absurd (beq_iff_eq.2 h) hz

omit htop in
/-- Once the one team that ran is off its cores none runs. -/
theorem residentTeams_off {u v : State} (sid : Nat) (hv : v.teams = u.teams.map (teamOff u t a))
    (h : residentTeams u sid = [t]) : residentTeams v sid = [] := by
  refine List.filter_eq_nil_iff.2 fun z hz hrun => ?_
  rw [hv] at hz
  obtain ⟨y, hy, rfl⟩ := List.mem_map.1 hz
  simp only [Bool.and_eq_true, beq_iff_eq] at hrun
  by_cases hid : y.id = t.id
  · have hsaved : (teamOff u t a y).st = .saved := by rw [teamOff, if_pos (beq_iff_eq.2 hid)]
    rw [hsaved] at hrun
    exact TeamSt.noConfusion hrun.2
  · rw [teamOff, if_neg (by simpa using hid)] at hrun
    have hmem : y ∈ residentTeams u sid := List.mem_filter.2 ⟨hy, by simp [hrun]⟩
    rw [h, List.mem_singleton] at hmem
    exact hid (congrArg Team.id hmem)

/-- What the save of a slice's one team leaves. -/
theorem saveTeam_one (hstack : stackHeld s4 x 0 = false) (hrec : recordHeld s4 x t a = false)
    (hclean : sramClean s4 = true) (ht : getTeam s4 t.id = some t) (hone : residentTeams s x.id = [t]) :
    let u := settleSaved (saveTeam s x t) x.id
    u.mem = (writeRecord (stackWrite s4 x 0 k) x t a).mem ∧
      (∀ z ∈ u.teams, z.id = t.id → z.st = .saved ∧ z.record = BitVec.ofNat 64 a) ∧
      (∀ h ∈ u.groups, h.team = t.id → h.resident = false) ∧
      ∀ y ∈ u.slices, y.id = x.id → y.st = .saved ∧ y.preempting = false := by
  have hk4 : Kept s s4 := by
    have hk := kept_topRecord (kept_refl s) x
    rwa [htop] at hk
  have hkw : Kept s (writeRecord (stackWrite s4 x 0 k) x t a) := kept_writeRecord (kept_stackWrite hk4 x 0 k) x t a
  rw [saveTeam_saves htop hstack hrec hclean ht]
  generalize writeRecord (stackWrite s4 x 0 k) x t a = w at hkw
  obtain ⟨cs, hlift⟩ := liftTeam_lifts w t a
  have honew : residentTeams w x.id = [t] := by
    rw [residentTeams, hkw.2.1]
    exact hone
  have hnone : (residentTeams (liftTeam w t a) x.id).isEmpty = true :=
    List.isEmpty_iff.2 (residentTeams_off (u := w) (a := a) x.id (by rw [hlift]) honew)
  rw [settleSaved, if_pos hnone, hlift]
  refine ⟨rfl, fun z hz hid => ?_, fun h hh hteam => ?_, fun y hy hid => ?_⟩
  · obtain ⟨z, -, rfl⟩ := List.mem_map.1 hz
    exact teamOff_off w t a z hid
  · obtain ⟨g, -, rfl⟩ := List.mem_map.1 hh
    exact groupOff_off t g hteam
  · obtain ⟨y, -, rfl⟩ := List.mem_map.1 hy
    split at hid
    · next h =>
      rw [if_pos h]
      exact ⟨rfl, rfl⟩
    · next h => exact absurd (beq_iff_eq.2 hid) h

end

/-! ## What a team's arrays and its held requests leave unchanged

Reads of a window, requests that land in it and signals that are counted at its barriers leave slices and groups, and of a team its
place. -/

/-- A team's handle, its state, its cluster and its context. -/
def Team.standing (t : Team) : Nat × TeamSt × Nat × CtxDesc := (t.id, t.st, t.cluster, t.desc)

/-- Slices and groups stand in `u` as they stand in `s`, and each team in its place. -/
def Standing (s u : State) : Prop :=
  u.slices = s.slices ∧ u.groups = s.groups ∧ u.teams.map Team.standing = s.teams.map Team.standing

section

variable {s0 s : State}

theorem standing_refl (s : State) : Standing s s := ⟨rfl, rfl, rfl⟩

theorem standing_of_kept {u : State} (h : Standing s0 s) (hk : Kept s u) : Standing s0 u := by
  obtain ⟨hslices, hteams, hgroups, -⟩ := hk
  obtain ⟨hslices0, hgroups0, hteams0⟩ := h
  exact ⟨hslices.trans hslices0, hgroups.trans hgroups0, hteams ▸ hteams0⟩

theorem standing_foldl {α : Type} (f : State → α → State) (xs : List α) (h : Standing s0 s)
    (hf : ∀ s x, Standing s0 s → Standing s0 (f s x)) : Standing s0 (xs.foldl f s) :=
  List.foldlRecOn xs f h fun s hs x _ => hf s x hs

theorem standing_modCore (h : Standing s0 s) (c : Nat) (f : Core → Core) : Standing s0 (modCore s c f) := h

theorem standing_modFab (h : Standing s0 s) (f : Fabric → Fabric) : Standing s0 (modFab s f) := h

theorem standing_modOp (h : Standing s0 s) (id : Nat) (f : Op → Op) : Standing s0 (modOp s id f) := h

theorem standing_modTeam (h : Standing s0 s) (id : Nat) (f : Team → Team)
    (hf : ∀ t, (f t).standing = t.standing := by intros; rfl) : Standing s0 (modTeam s id f) := by
  obtain ⟨hslices, hgroups, hteams⟩ := h
  refine ⟨hslices, hgroups, Eq.trans ?_ hteams⟩
  rw [modTeam, List.map_map]
  refine List.map_congr_left fun t _ => ?_
  simp only [Function.comp]
  split
  · exact hf t
  · rfl

theorem standing_modTCore (h : Standing s0 s) (team core : Nat) (f : TCore → TCore) : Standing s0 (modTCore s team core f) :=
  standing_modTeam h _ _

theorem standing_modBar (h : Standing s0 s) (team core off : Nat) (f : Bar → Bar) : Standing s0 (modBar s team core off f) :=
  standing_modTCore h _ _ _

theorem standing_meetPart (h : Standing s0 s) (team core : Nat) (w : Option Win) (n : Nat) :
    Standing s0 (meetPart s team core w n) := by
  have hreport {s : State} (hs : Standing s0 s) (island ctx array : Nat) : Standing s0 (sramReport s island ctx array) :=
    standing_of_kept hs (kept_sramReport (kept_refl s) _ _ _)
  have hcount {s : State} (hs : Standing s0 s) (island : Nat) : Standing s0 (countIsland s island) :=
    standing_of_kept hs (kept_countIsland (kept_refl s) _)
  grind [meetPart, standing_modTCore]

theorem standing_meetScratch (h : Standing s0 s) (team core : Nat) (w : Win) (off n : Nat) :
    Standing s0 (meetScratch s team core w off n) := by
  unfold meetScratch
  split
  · exact h
  · exact standing_foldl _ _ h fun _ _ hs => standing_meetPart hs _ _ _ _

/-! ### Barriers and their waits (R203 to R208, R219) -/

theorem standing_settleWait (h : Standing s0 s) (o : Op) : Standing s0 (settleWait s o) := by
  grind [settleWait, standing_modTCore, standing_modOp]

theorem standing_notifyWaits (h : Standing s0 s) (team core off : Nat) : Standing s0 (notifyWaits s team core off) :=
  standing_foldl _ _ h fun _ o hs => standing_settleWait hs o

theorem standing_notifyBytes (h : Standing s0 s) (team core : Nat) (w : Win) (off n : Nat) :
    Standing s0 (notifyBytes s team core w off n) := by
  unfold notifyBytes
  split
  · exact standing_foldl _ _ h fun _ _ hs => standing_notifyWaits hs _ _ _
  · exact h

theorem standing_endSignals (h : Standing s0 s) (team core off : Nat) : Standing s0 (endSignals s team core off) :=
  standing_modTeam (standing_modFab h _) _ _

theorem standing_meetBar (h : Standing s0 s) (team core off : Nat) : Standing s0 (meetBar s team core off) :=
  standing_meetScratch h _ _ _ _ _

theorem standing_changeBar (h : Standing s0 s) (team core off : Nat) (f : Bar → Bar) :
    Standing s0 (changeBar s team core off f) :=
  standing_notifyWaits (standing_modBar (standing_meetBar h _ _ _) _ _ _ _) _ _ _

theorem standing_applyBar (h : Standing s0 s) (team core off n add landed : Nat) :
    Standing s0 (applyBar s team core off n add landed) := by
  grind [applyBar, standing_modBar, standing_notifyWaits, standing_endSignals, standing_meetBar]

theorem standing_setFault (h : Standing s0 s) (team c off copy low : Nat) : Standing s0 (setFault s team c off copy low) := by
  have hmark (low : Nat) : Standing s0 (markFault s team c off copy low) := standing_modTeam (standing_changeBar h _ _ _ _) _ _
  grind [setFault]

/-! ### Requests and signals that a team held (R230, R252, R265) -/

theorem standing_putScratch (h : Standing s0 s) (team c : Nat) (w : Win) (off n : Nat) (reduce pois : Bool)
    (f : List Byte → List Byte) : Standing s0 (putScratch s team c w off n reduce pois f) := by
  have hmeet : Standing s0 (if reduce then meetScratch s team c w off n else s) := by
    split
    · exact standing_meetScratch h _ _ _ _ _
    · exact h
  exact standing_notifyBytes (standing_modTCore hmeet _ _ _) _ _ _ _ _

theorem standing_faultAt (h : Standing s0 s) (tm : Team) (core off : Nat) (r : PeerReq) (low : Nat) :
    Standing s0 (faultAt s tm core off r low) := by
  grind [faultAt, standing_setFault]

theorem standing_landPart (h : Standing s0 s) (tm : Team) (core : Nat) (r : PeerReq) : Standing s0 (landPart tm core s r) := by
  grind [landPart, standing_putScratch]

theorem standing_landParts (h : Standing s0 s) (tm : Team) (core : Nat) (rs : List PeerReq) :
    Standing s0 (landParts s tm core rs) := by
  have hcount (rs : List PeerReq) (off n : Nat) : Standing s0 (countAt (rs.foldl (landPart tm core) s) tm core off n) := by
    have hland : Standing s0 (rs.foldl (landPart tm core) s) := standing_foldl _ _ h fun _ _ hs => standing_landPart hs _ _ _
    grind [countAt, standing_applyBar]
  unfold landParts
  grind [standing_faultAt]

theorem standing_performScratch (h : Standing s0 s) (tm : Team) (core : Nat) (r : PeerReq) :
    Standing s0 (performScratch s tm core r) := by
  have hreceive : Standing s0 (receivePart s tm core r) := by
    grind [receivePart, standing_modFab, standing_landParts]
  grind [performScratch, standing_meetScratch, standing_faultAt]

theorem standing_performSignal (h : Standing s0 s) (tm : Team) (core : Nat) (m : Marker) :
    Standing s0 (performSignal s tm core m) := by
  unfold performSignal
  split
  · exact standing_applyBar (standing_modTeam h _ _) _ _ _ _ _ _
  · exact h

theorem standing_settleSignal (h : Standing s0 s) (m : Marker) : Standing s0 (settleSignal s m) := by
  have hdrop : Standing s0 (dropMarkers s m) := h
  have hrefuse : Standing s0 (countRefuse (dropMarkers s m)) := h
  have hheld (id : Nat) : Standing s0 (modTeam (dropMarkers s m) id fun t =>
      { t with heldSigs := t.heldSigs ++ [(t.heldReqs.length, m)] }) := standing_modTeam hdrop _ _
  grind [settleSignal, standing_performSignal]

theorem standing_releaseSigs (h : Standing s0 s) (sigs : List (Nat × Marker)) (k : Nat) :
    Standing s0 (releaseSigs sigs s k) :=
  standing_foldl _ _ h fun _ _ hs => standing_settleSignal hs _

theorem standing_releaseReq (h : Standing s0 s) (team : Nat) (r : PeerReq) : Standing s0 (releaseReq team s r) := by
  grind [releaseReq, standing_performScratch]

theorem standing_performHeld (h : Standing s0 s) (team : Nat) : Standing s0 (performHeld s team) := by
  unfold performHeld
  split
  · exact h
  · exact standing_releaseSigs (standing_foldl _ _ (standing_modTeam h _ _)
      fun _ _ hs => standing_releaseReq (standing_releaseSigs hs _ _) _ _) _ _

/-! ### The weight latch (R150) -/

theorem standing_reloadLatch (h : Standing s0 s) (core team cn : Nat) : Standing s0 (reloadLatch s core team cn) := by
  have hfill (l : Latch) (whole : Option Nat) : Standing s0 (fillBuffer s core team cn l whole) := by
    have hmeet : Standing s0 ((latchRanges l.ty l.k l.wbase l.sbase).foldl (fun s r => meetScratch s team cn r.win r.off r.n) s) :=
      standing_foldl _ _ h fun _ _ hs => standing_meetScratch hs _ _ _ _ _
    grind [fillBuffer, standing_modCore]
  grind [reloadLatch]

theorem standing_reloadTeam (h : Standing s0 s) (t : Team) (cores : List Nat) : Standing s0 (reloadTeam s t cores) :=
  standing_foldl _ _ h fun _ _ hs => by
    split
    · exact hs
    · exact standing_reloadLatch hs _ _ _

theorem standing_resumePending (h : Standing s0 s) (t : Team) (cores : List Nat) : Standing s0 (resumePending s t cores) :=
  standing_foldl _ _ (standing_foldl _ _ h fun _ _ hs => standing_modCore hs _ _) fun _ _ hs => standing_modCore hs _ _

theorem standing_dropFetch (h : Standing s0 s) (asid : BitVec 16) (cores : List Nat) : Standing s0 (dropFetch s asid cores) :=
  standing_foldl _ _ h fun _ _ hs => standing_modCore hs _ _

end

/-! ## Restore (R397) -/

section

variable {s : State}

/-- What tells a group's place in its team. -/
def Group.seat (g : Group) : Nat × Nat × Nat := (g.id, g.team, g.grp)

theorem seats_modGroup (s : State) (id : Nat) (f : Group → Group) (hf : ∀ g, (f g).seat = g.seat) :
    (modGroup s id f).groups.map Group.seat = s.groups.map Group.seat := by
  rw [modGroup, List.map_map]
  refine List.map_congr_left fun g _ => ?_
  simp only [Function.comp]
  split
  · exact hf g
  · rfl

theorem readPart_groups (s : State) (x : Slice) (va n : Nat) : (readPart s x va n).1.groups = s.groups :=
  (kept_readPart (kept_refl s) x va n).2.2.1

/-- What a restore reads back leaves the groups in their teams. -/
theorem loadRecord_seats (s : State) (x : Slice) (t : Team) :
    (loadRecord s x t).groups.map Group.seat = s.groups.map Group.seat := by
  have hread {u : State} (hu : u.groups = s.groups) (va n : Nat) : (readPart u x va n).1.groups = s.groups :=
    (readPart_groups u x va n).trans hu
  unfold loadRecord
  extract_lets a s1 s2
  have h1 : s1.groups = s.groups := by
    have h := hread rfl (a + 1280) 528
    unfold s1
    split <;> next heq => exact (congrArg (fun r => r.1.groups) heq).symm.trans h
  have h2 : s2.groups = s.groups := by
    refine List.foldlRecOn (motive := fun u : State => u.groups = s.groups) _ _ h1 fun u hu c _ => ?_
    have h := hread hu (a + coreOff t c) (coreSection t - 512)
    split <;> next heq => exact (congrArg (fun r => r.1.groups) heq).symm.trans h
  refine List.foldlRecOn (motive := fun u : State => u.groups.map Group.seat = s.groups.map Group.seat) _ _
    (congrArg (List.map Group.seat) h2) fun u hu y _ => ?_
  have h : (readPart u x (a + y.1) 96).1.groups.map Group.seat = s.groups.map Group.seat :=
    (congrArg (List.map Group.seat) (readPart_groups u x (a + y.1) 96)).trans hu
  dsimp only
  split
  · next s1 _ _ _ _ _ heq _ _ =>
    rw [heq] at h
    refine Eq.trans (seats_modGroup s1 _ _ ?_) h
    exact fun _ => rfl
  · next heq _ =>
    rw [heq] at h
    exact h

/-- A group stands on a core again, with no age and no choice. -/
def Group.Back (g : Group) : Prop := g.resident = true ∧ g.pass = 0 ∧ g.chosen = none

theorem restoreGroup_restores (s : State) (cores : List Nat) (g : Group) :
    ∃ f : Group → Group, restoreGroup s cores g = modGroup s g.id f ∧ ∀ h, (f h).Back ∧ (f h).seat = h.seat :=
  ⟨_, rfl, fun _ => ⟨⟨rfl, rfl, rfl⟩, rfl⟩⟩

/-- Groups that are put back one after the other all stand on their cores. -/
theorem restoreGroups_restore (cores : List Nat) (team : Nat) (gs : List Group) (s : State)
    (h : ∀ h ∈ s.groups, h.team = team → h.Back ∨ ∃ g ∈ gs, g.id = h.id) :
    let u := gs.foldl (fun s g => restoreGroup s cores g) s
    u.teams = s.teams ∧ ∀ h ∈ u.groups, h.team = team → h.Back := by
  induction gs generalizing s with
  | nil => exact ⟨rfl, fun k hk ht => (h k hk ht).resolve_right fun ⟨_, hg, _⟩ => List.not_mem_nil hg⟩
  | cons g gs ih =>
    obtain ⟨f, hf, hback⟩ := restoreGroup_restores s cores g
    have hseat (k : Group) : (f k).id = k.id ∧ (f k).team = k.team := by
      have hs := (hback k).2
      simp only [Group.seat, Prod.mk.injEq] at hs
      exact ⟨hs.1, hs.2.1⟩
    have hgo := ih (modGroup s g.id f) fun k hk ht => by
      obtain ⟨k, hmem, rfl⟩ := List.mem_map.1 hk
      split at ht
      · next hid =>
        rw [if_pos hid]
        exact Or.inl (hback k).1
      · next hid =>
        rw [if_neg hid]
        refine (h k hmem ht).imp_right fun ⟨y, hy, hyid⟩ => ?_
        rcases List.mem_cons.1 hy with rfl | hy
        · exact absurd (beq_iff_eq.2 hyid.symm) hid
        · exact ⟨y, hy, hyid⟩
    rw [List.foldl_cons, hf]
    exact hgo

theorem mem_groupsOf {g : Group} {team : Nat} (h : g ∈ s.groups) (ht : g.team = team) (hg : g.grp < 64) :
    g ∈ groupsOf s team :=
  List.mem_flatMap.2 ⟨g.grp, List.mem_range.2 hg,
    List.mem_filter.2 ⟨List.mem_filter.2 ⟨h, beq_iff_eq.2 ht⟩, beq_self_eq_true _⟩⟩

/-- The slice runs again, with its context's descriptor as state `s0` has it. -/
def sliceBack (s0 s : State) (x : Slice) : State :=
  modSlice s x.id fun x => { x with st := .running, quantCount := 0, desc := some (ctxDesc s0 x.ctx) }

/-- The team on its cores again. -/
def Team.put (d : CtxDesc) (cl : Nat) (way : List Nat × List (List Nat)) (t : Team) : Team :=
  { t with
    st := .running, cluster := cl, desc := d, mxPend := [], ergPend := []
    cores := (t.cores.zip (way.1.zip way.2)).map fun y => { y.1 with phys := y.2.1, pos := y.2.2 } }

/-- The team is put on its cores. -/
def teamPut (s : State) (x : Slice) (t : Team) (cl : Nat) (way : List Nat × List (List Nat)) (d : CtxDesc) : State :=
  ageGang (modTeam s t.id (Team.put d cl way)) cl (x.id, t.no)

theorem teamPut_teams (s : State) (x : Slice) (t : Team) (cl : Nat) (way : List Nat × List (List Nat)) (d : CtxDesc) :
    ∀ z ∈ (teamPut s x t cl way d).teams, z.id = t.id → z.st = .running ∧ z.cluster = cl ∧ z.desc = d := fun z hz hid => by
  obtain ⟨k, -, rfl⟩ := List.mem_map.1 hz
  split at hid
  · next h =>
    rw [if_pos h]
    exact ⟨rfl, rfl, rfl⟩
  · next h => exact absurd (beq_iff_eq.2 hid) h

/-- The groups of a team stand on its cores again. -/
def groupsBack (s : State) (team : Nat) (cores : List Nat) : State :=
  (groupsOf s team).foldl (fun s g => restoreGroup s cores g) s

theorem groupsBack_back {team : Nat} (cores : List Nat) (h : ∀ h ∈ s.groups, h.team = team → h.grp < 64) :
    (groupsBack s team cores).teams = s.teams ∧ ∀ h ∈ (groupsBack s team cores).groups, h.team = team → h.Back :=
  restoreGroups_restore cores team (groupsOf s team) s fun k hk ht => Or.inr ⟨k, mem_groupsOf hk ht (h k hk ht), rfl⟩

/-- The engines of the team's cores go on. -/
def enginesBack (s : State) (t : Team) (cores : List Nat) (asid : BitVec 16) : State :=
  dropFetch (resumePending (reloadTeam s t cores) t cores) asid cores

theorem standing_enginesBack (s : State) (t : Team) (cores : List Nat) (asid : BitVec 16) :
    Standing s (enginesBack s t cores asid) :=
  standing_dropFetch (standing_resumePending (standing_reloadTeam (standing_refl s) t cores) t cores) _ _

theorem restoreOn_eq {x : Slice} {t : Team} {cl : Nat} {ways : List (List Nat × List (List Nat))}
    (hh : hbmClean s = true) (hs : s.sram = []) {w : List Nat × List (List Nat)} {d : CtxDesc}
    (hw : nth ([], []) ways (Config.choice s.fresh % ways.length) = w) (hd : ctxDesc s x.ctx = d) :
    restoreOn s x t cl ways = performHeld (sliceBack s (pushRecord (enginesBack (groupsBack
      (teamPut (takeCores (loadRecord (bump s) x t) x w.1) x t cl w d) t.id w.1) t w.1 d.asid) x t.record.toNat) x) t.id := by
  unfold restoreOn enginesBack groupsBack teamPut sliceBack Team.put
  rw [meetCtx_clean hh hs]
  dsimp only
  rw [hw, hd]

theorem takeCores_groups (s : State) (x : Slice) (cores : List Nat) : (takeCores s x cores).groups = s.groups :=
  (standing_foldl _ _ (standing_refl s) fun _ _ hs => standing_modCore hs _ _).2.1

/-- A saved team with its groups on a way that it fits. -/
theorem restoreOn_restores {x : Slice} {t : Team} {cl : Nat} {ways : List (List Nat × List (List Nat))}
    (hh : hbmClean s = true) (hs : s.sram = []) (hgrp : ∀ h ∈ s.groups, h.team = t.id → h.grp < 64) :
    let u := restoreOn s x t cl ways
    (∀ z ∈ u.teams, z.id = t.id → z.st = .running ∧ z.cluster = cl ∧ z.desc = ctxDesc s x.ctx) ∧
      (∀ h ∈ u.groups, h.team = t.id → h.Back) ∧
      ∀ y ∈ u.slices, y.id = x.id → y.st = .running ∧ y.quantCount = 0 := by
  generalize hw : nth ([], []) ways (Config.choice s.fresh % ways.length) = w
  generalize hd : ctxDesc s x.ctx = d
  rw [restoreOn_eq hh hs hw hd]
  dsimp only
  have hseats : (takeCores (loadRecord (bump s) x t) x w.1).groups.map Group.seat = s.groups.map Group.seat := by
    rw [takeCores_groups, loadRecord_seats]
    rfl
  generalize takeCores (loadRecord (bump s) x t) x w.1 = s0 at hseats
  have hput := teamPut_teams s0 x t cl w d
  have hgrp0 : ∀ h ∈ (teamPut s0 x t cl w d).groups, h.team = t.id → h.grp < 64 := fun h hmem ht => by
    have hin : h.seat ∈ s.groups.map Group.seat := hseats ▸ List.mem_map_of_mem hmem
    obtain ⟨k, hk, hkey⟩ := List.mem_map.1 hin
    simp only [Group.seat, Prod.mk.injEq] at hkey
    obtain ⟨-, hteam, hgrpk⟩ := hkey
    exact hgrpk ▸ hgrp k hk (hteam.trans ht)
  generalize teamPut s0 x t cl w d = s1 at hput hgrp0
  obtain ⟨hteams2, hback⟩ := groupsBack_back w.1 hgrp0
  generalize groupsBack s1 t.id w.1 = s2 at hteams2 hback
  have h4 := standing_of_kept (standing_enginesBack s2 t w.1 d.asid)
    (kept_pushRecord (kept_refl (enginesBack s2 t w.1 d.asid)) x t.record.toNat)
  generalize pushRecord (enginesBack s2 t w.1 d.asid) x t.record.toNat = s4 at h4
  obtain ⟨hslices, hgroups, hteams⟩ := standing_performHeld (standing_refl (sliceBack s s4 x)) t.id
  generalize performHeld (sliceBack s s4 x) t.id = u at hslices hgroups hteams
  refine ⟨fun z hz hid => ?_, fun h hmem ht => ?_, fun y hy hid => ?_⟩
  · have hkey : z.standing ∈ s1.teams.map Team.standing := by
      rw [← hteams2, ← h4.2.2]
      exact hteams ▸ List.mem_map_of_mem hz
    obtain ⟨y, hy, hey⟩ := List.mem_map.1 hkey
    simp only [Team.standing, Prod.mk.injEq] at hey
    obtain ⟨hyid, hst, hcl, hdesc⟩ := hey
    rw [← hst, ← hcl, ← hdesc]
    exact hput y hy (hyid.trans hid)
  · rw [hgroups] at hmem
    exact hback h (h4.2.1 ▸ hmem) ht
  · rw [hslices] at hy
    obtain ⟨k, -, rfl⟩ := List.mem_map.1 hy
    split at hid
    · next h =>
      rw [if_pos h]
      exact ⟨rfl, rfl⟩
    · next h => exact absurd (beq_iff_eq.2 hid) h

variable {t : Team} {x : Slice} {cl : Nat} (ht : getTeam s t.id = some t) (hx : getSlice s t.slice = some x)

include ht hx

theorem contextRestore_stays (h : live s = false ∨ t.st ≠ .saved ∨ x.ending.isSome = true ∨ x.preempting = true ∨ 96 ≤ cl ∨
    ballastMay s x = false) : exec (.contextRestore t.id cl) s = .next s := by
  have hno : (!live s || t.st != .saved || x.ending.isSome || x.preempting || cl ≥ 96 || !ballastMay s x) = true := by
    rcases h with h | h | h | h | h | h <;> simp [h]
  show execContextRestore t.id cl s = _
  rw [execContextRestore, ht]
  dsimp only
  rw [hx]
  dsimp only
  rw [if_pos hno]

variable (hlive : live s = true) (hst : t.st = .saved) (he : x.ending = none) (hp : x.preempting = false) (hcl : cl < 96)
  (hb : ballastMay s x = true)

include hlive hst he hp hcl hb

theorem contextRestore_goes : exec (.contextRestore t.id cl) s = .next (match fitsIn s (x.id, t.no) t.k cl with
    | [] => if fitsAnywhere s (x.id, t.no) t.k then s else makeGang s (x.id, t.no) t.k cl
    | ways =>
      if stackHeld s x 0 || stackHeld s x ((stackCount s x).2 + 1) || recordHeld s x t t.record.toNat then s
      else restoreOn s x t cl ways) := by
  have hgo : (!live s || t.st != .saved || x.ending.isSome || x.preempting || cl ≥ 96 || !ballastMay s x) = false := by
    simp [hlive, hst, he, hp, hcl, hb]
  show execContextRestore t.id cl s = _
  rw [execContextRestore, ht]
  dsimp only
  rw [hx]
  dsimp only
  rw [hgo] <;> rfl

theorem contextRestore_gang (hfits : fitsIn s (x.id, t.no) t.k cl = []) : exec (.contextRestore t.id cl) s =
    .next (if fitsAnywhere s (x.id, t.no) t.k then s else makeGang s (x.id, t.no) t.k cl) := by
  rw [contextRestore_goes ht hx hlive hst he hp hcl hb, hfits]

/-- Does a line that a restore writes or reads belong to a copy engine? -/
def restoreWaits (s : State) (x : Slice) (t : Team) : Prop :=
  stackHeld s x 0 = true ∨ stackHeld s x ((stackCount s x).2 + 1) = true ∨ recordHeld s x t t.record.toNat = true

theorem contextRestore_waits (hfits : fitsIn s (x.id, t.no) t.k cl ≠ []) (hw : restoreWaits s x t) :
    exec (.contextRestore t.id cl) s = .next s := by
  have hwait : (stackHeld s x 0 || stackHeld s x ((stackCount s x).2 + 1) || recordHeld s x t t.record.toNat) = true := by
    rcases hw with h | h | h <;> simp [h]
  rw [contextRestore_goes ht hx hlive hst he hp hcl hb]
  split
  · next h => exact absurd h hfits
  · rw [if_pos hwait]

theorem contextRestore_restores {way : List Nat × List (List Nat)} {ways : List (List Nat × List (List Nat))}
    (hfits : fitsIn s (x.id, t.no) t.k cl = way :: ways) (hw : ¬ restoreWaits s x t) :
    exec (.contextRestore t.id cl) s = .next (restoreOn s x t cl (way :: ways)) := by
  have hgo : ¬ (stackHeld s x 0 || stackHeld s x ((stackCount s x).2 + 1) || recordHeld s x t t.record.toNat) = true := by
    simpa [restoreWaits, and_assoc] using hw
  rw [contextRestore_goes ht hx hlive hst he hp hcl hb, hfits]
  dsimp only
  rw [if_neg hgo]

end

/-! ## Packets, placement, retirement, pre-emption and restore -/

/-- Settles O53: one lemma for each outcome of the five events, and the layout of the record by the lengths of its parts. -/
theorem slicesAreTakenInPlacedAndRetired : Obligations.SlicesAreTakenInPlacedAndRetired := by
  unfold Obligations.SlicesAreTakenInPlacedAndRetired
  refine ⟨?packet, ?place, ?retire, ?preempt, ?restore, ?record⟩
  case packet =>
    intro s ctx q x d e va turn s0
    refine ⟨execPacketTakeIn_other, packetTakeIn_refused, packetTakeIn_held, fun hc hd hv hh => ?_⟩
    obtain ⟨hinvalid, hfatal, htakes⟩ := packetTakeIn_looks hc hd hv hh
    have hexec : exec e s = .next (packetTakeIn s q) := execPacketTakeIn_due hc
    refine ⟨fun s1 hdr h1 hvalid => hexec.trans (congrArg _ (hinvalid s1 hdr h1 hvalid)),
      fun s1 c a h1 => ⟨_, hexec, hfatal s1 c a h1⟩, fun s1 s2 hdr rest h1 hvalid h2 => ?_⟩
    intro p x2 d2 cleared
    have htake : exec e s = .next (takePacket s2 q (hdr ++ rest)) :=
      hexec.trans (congrArg _ (htakes s1 s2 hdr rest h1 hvalid h2))
    obtain ⟨hnop, hslice⟩ := takePacket_takes s2 q (hdr ++ rest)
    refine ⟨fun hk => htake.trans (congrArg _ (hnop hk)), fun n pred hk hf hnone hsome => ?_⟩
    intro y
    obtain ⟨hplain, hexports⟩ := hslice n pred hk hf hnone hsome
    refine ⟨fun hexp hcause => ?_, fun c hexp hk2 hcores hfit hfree hcause hnew => ?_⟩
    · obtain ⟨u, rfl, hu⟩ := hplain hexp hcause
      exact ⟨_, htake, hu⟩
    · obtain ⟨u, rfl, hu⟩ := hexports c hexp hk2 hcores hfit hfree hcause hnew
      exact ⟨_, htake, hu⟩
  case place =>
    intro s x cl hget hs e
    refine ⟨fun f => teamPlace_fin hget, teamPlace_marker hget hs, fun hfin hm => ?_⟩
    refine ⟨fun hk hst => ?_, fun hk hst => ?_, fun k => teamPlace_waits hget hs hfin hm, fun k => teamPlace_gang hget hs hfin hm,
      fun k way ways bytes s1 hk hu hcl ht hfits htok hver htiles hwait huniq hh hs1 hread => ?_⟩
    · exact (teamPlace_unread hget hs hfin hm hk).trans (by rw [if_neg hst])
    · exact (teamPlace_unread hget hs hfin hm hk).trans (by rw [if_pos hst])
    · have hplace := teamPlace_placeTeam hget hs hfin hm hk hu hcl ht hfits
      rw [placeTeam_starts htok hver htiles hwait huniq hread] at hplace
      have hway : nth ([], []) (way :: ways) (Config.choice s.fresh % (way :: ways).length) ∈ way :: ways := by
        rw [nth_eq_getD, List.getD_eq_getElem _ _ (Nat.mod_lt _ (List.length_pos_of_ne_nil (List.cons_ne_nil way ways)))]
        exact List.getElem_mem _
      obtain ⟨tm, htm⟩ := startTeam_state hh hs1 x k cl hway bytes
      exact ⟨_, tm, hplace, htm⟩
  case retire =>
    intro s g x hg hx e
    refine ⟨groupRetire_mayReplay hg, groupRetire_dropsPending hg hx, groupRetire_stays hg hx,
      fun hr he hactive hbusy hgs hheld hbank => ⟨groupRetire_teamStays hg hx hr he hactive hbusy hgs hheld hbank, fun tm =>
        groupRetire_lastGroup hg hx hr he hactive hbusy hgs hheld hbank⟩⟩
  case preempt =>
    intro s s1 x n hget e
    refine ⟨preempt_stays hget, fun hlive hst he hcount => ⟨preempt_noRecords hget hlive hst he hcount, fun hteams hroom => ?_⟩⟩
    intro s2 s3
    have hs3 : s3 = waitsSaved s1 x.id := rfl
    refine ⟨preempt_unquiet hget hlive hst he hcount hteams hroom, fun hquiet hclean => ?_⟩
    have hsaves := preempt_saves hget hlive hst he hcount hteams hroom hquiet hclean
    refine ⟨hsaves, fun t s4 k a hone htop hheld => ?_, fun t s4 k a hone htop hstack hrec hclean4 ht => ?_⟩
    · rw [hone] at hsaves
      exact hsaves.trans (congrArg (fun u => Host.Outcome.next (settleSaved u x.id)) (saveTeam_held htop hheld))
    · have hkept : Kept s s1 := by
        have hk := kept_stackCount (kept_refl s) x
        rwa [hcount] at hk
      have hone3 : residentTeams s3 x.id = [t] := by
        rw [hs3, residentTeams, (waitsSaved_keeps s1 x.id).2, hkept.2.1]
        exact hone
      rw [hone] at hsaves
      exact ⟨_, hsaves, saveTeam_one htop hstack hrec hclean4 ht hone3⟩
  case restore =>
    intro s t x cl ht hx e
    refine ⟨contextRestore_stays ht hx, fun hlive hst he hp hcl hb => ⟨contextRestore_gang ht hx hlive hst he hp hcl hb, ?_⟩⟩
    intro waits
    refine ⟨contextRestore_waits ht hx hlive hst he hp hcl hb, fun way ways hfits hw hgrp hh hs =>
      ⟨_, contextRestore_restores ht hx hlive hst he hp hcl hb hfits hw, restoreOn_restores hh hs hgrp⟩⟩
  case record =>
    intro t gs k up size groupAt
    have hsize : coreSection t = size := coreSection_eq t
    have hat (n : Nat) : coreOff t t.cores.length + ((gs.take n).map fun g => roundPage (40960 + 256 * g.rz)).sum = groupAt n := by
      rw [coreOff, hsize]
      rfl
    refine ⟨⟨_, recordParts_skip t gs k, rfl⟩, fun c tc hc => ?_, fun n g hn hg hjs hl => ?_⟩
    · obtain ⟨tail, hpart⟩ := recordParts_core hc gs k
      rw [coreOff, hsize] at hpart
      exact ⟨_, hpart, coreBytes_windows t tc tail⟩
    · have hpart := recordParts_group t hn k
      rw [hat n] at hpart
      exact ⟨_, hpart, groupBytes_length _ hg hjs hl, fun r hr => groupBytes_g _ hg hjs hr,
        fun i j l hi hj => groupBytes_resident _ hg hjs hl hi hj⟩

end Sys2Proof.Machine

/-! SUPPORT. Decoding and encoding agree (R42 to R71): each code of an operand, type, scope, size or length stands for one value;
the fields of a word are those that its bits are made of; and each form of the opcode map reads back what it writes. -/

namespace Sys2Proof

open Sys2Proof.Safety

/-! ## Codes of operands, types, scopes, sizes and lengths -/

theorem Opd.ofCode_code (o : Opd) : Opd.ofCode o.code = some o := by
  cases o with
  | v n => revert n; decide
  | g n => revert n; decide
  | p n => revert n; decide
  | sp s => cases s <;> rfl
  | imm => rfl

theorem Opd.code_of_ofCode {c : BitVec 8} {o : Opd} (h : Opd.ofCode c = some o) : o.code = c := by
  have hall : ∀ c : BitVec 8, ∀ o ∈ Opd.ofCode c, o.code = c := by decide
  exact hall c o h

theorem Ty.ofCode_code {t : Ty} (h : t.legal = true) : Ty.ofCode t.code = some t := by
  cases t with
  | b8 p u f => revert p u f; decide
  | _ => rfl

theorem Ty.code_of_ofCode {c : BitVec 6} {t : Ty} (h : Ty.ofCode c = some t) : t.code = c := by
  have hall : ∀ c : BitVec 6, ∀ t ∈ Ty.ofCode c, t.code = c := by decide
  exact hall c t h

theorem MemOrd.ofCode_code (o : MemOrd) : MemOrd.ofCode o.code = o := by cases o <;> rfl

theorem MemOrd.code_ofCode : ∀ c : BitVec 2, (MemOrd.ofCode c).code = c := by decide

theorem Scope.ofCode_code (s : Scope) : Scope.ofCode s.code = some s := by cases s <;> rfl

theorem Scope.code_of_ofCode {c : BitVec 3} {s : Scope} (h : Scope.ofCode c = some s) : s.code = c := by
  have hall : ∀ c : BitVec 3, ∀ s ∈ Scope.ofCode c, s.code = c := by decide
  exact hall c s h

theorem Size.ofCode_code (s : Size) : Size.ofCode s.code = some s := by cases s <;> rfl

theorem Size.code_of_ofCode {c : BitVec 3} {s : Size} (h : Size.ofCode c = some s) : s.code = c := by
  have hall : ∀ c : BitVec 3, ∀ s ∈ Size.ofCode c, s.code = c := by decide
  exact hall c s h

theorem Len.ofCode_code (l : Len) : Len.ofCode l.code = some l := by cases l <;> rfl

theorem Len.code_of_ofCode {c : BitVec 2} {l : Len} (h : Len.ofCode c = some l) : l.code = c := by
  have hall : ∀ c : BitVec 2, ∀ l ∈ Len.ofCode c, l.code = c := by decide
  exact hall c l h

theorem Len.ofCode_eq_none {c : BitVec 2} : Len.ofCode c = none ↔ c = 3 := by revert c; decide

/-! ## Fields of a word (R42 to R44) -/

theorem toNat_append_eq {n m : Nat} (x : BitVec n) (y : BitVec m) : (x ++ y).toNat = x.toNat * 2 ^ m + y.toNat := by
  rw [BitVec.toNat_append, ← Nat.shiftLeft_add_eq_or_of_lt y.isLt, Nat.shiftLeft_eq]

theorem toNat_extract {n : Nat} (w : BitVec n) (start len : Nat) :
    (w.extractLsb' start len).toNat = w.toNat / 2 ^ start % 2 ^ len := by
  rw [BitVec.extractLsb'_toNat, Nat.shiftRight_eq_div_pow]

theorem toNat_getLsbD {n : Nat} (w : BitVec n) (i : Nat) : (w.getLsbD i).toNat = w.toNat / 2 ^ i % 2 := by
  rw [← BitVec.testBit_toNat, Nat.toNat_testBit]

/-- The bits above 63, up to the length. -/
theorem toNat_extBits (l : Len) (w : BitVec 128) : (extBits l w).toNat = w.toNat % 2 ^ (8 * l.bytes) / 2 ^ 64 := by
  have hw := w.isLt
  cases l with
  | two => exact (Nat.div_eq_of_lt (Nat.mod_lt _ (by decide))).symm
  | three =>
    simp only [extBits, Len.bytes, BitVec.toNat_setWidth, toNat_extract]
    omega
  | four =>
    simp only [extBits, Len.bytes, toNat_extract]
    omega

theorem Len.eight_le_bytes (l : Len) : 8 ≤ l.bytes := by cases l <;> decide

theorem mod_mod_len (n : Nat) (l : Len) : n % 2 ^ (8 * l.bytes) % 2 ^ 64 = n % 2 ^ 64 := by
  have h := l.eight_le_bytes
  exact Nat.mod_mod_of_dvd n (Nat.pow_dvd_pow 2 (by omega))

theorem Raw.toNat_bits (r : Raw) : r.bits.toNat =
    r.h.len.code.toNat + 2 ^ 2 * r.opc.toNat + 2 ^ 12 * r.h.stall.toNat + 2 ^ 16 * r.h.pred.toNat + 2 ^ 19 * r.h.neg.toNat +
      2 ^ 20 * r.d.code.toNat + 2 ^ 28 * r.a.code.toNat + 2 ^ 36 * r.b.code.toNat + 2 ^ 44 * r.c.code.toNat +
      2 ^ 52 * r.mod.toNat + 2 ^ 64 * r.h.ext.toNat := by
  unfold Raw.bits
  iterate 10 rw [toNat_append_eq]
  rw [BitVec.toNat_ofBool]
  omega

/-- A word with a length and four operands is cut into the fields that make up its bits, up to that length. -/
theorem toNat_bits_of_rawOf {w : BitVec 128} {r : Raw} (h : rawOf w = .ok r) :
    r.bits.toNat = w.toNat % 2 ^ (8 * r.h.len.bytes) := by
  unfold rawOf at h
  split at h
  · cases h
  next l hl =>
  split at h
  next hd ha hb hc =>
    cases h
    have hlow := mod_mod_len w.toNat l
    rw [Raw.toNat_bits]
    simp only [Len.code_of_ofCode hl, Opd.code_of_ofCode hd, Opd.code_of_ofCode ha, Opd.code_of_ofCode hb, Opd.code_of_ofCode hc,
      toNat_extract, toNat_getLsbD, toNat_extBits]
    omega
  · cases h

theorem extract_eq {n len : Nat} {w : BitVec n} {start : Nat} {x : BitVec len} (h : w.toNat / 2 ^ start % 2 ^ len = x.toNat) :
    w.extractLsb' start len = x :=
  BitVec.eq_of_toNat_eq ((toNat_extract w start len).trans h)

theorem getLsbD_eq {n : Nat} {w : BitVec n} {i : Nat} {b : Bool} (h : w.toNat / 2 ^ i % 2 = b.toNat) : w.getLsbD i = b := by
  rw [← toNat_getLsbD] at h
  cases b with
  | false => exact Bool.toNat_eq_zero.1 h
  | true => exact Bool.toNat_eq_one.1 h

/-- The fields whose bits are those of a word, up to their length, are the fields of the word. -/
theorem rawOf_of_toNat_bits {w : BitVec 128} {r : Raw} (h : r.bits.toNat = w.toNat % 2 ^ (8 * r.h.len.bytes)) :
    rawOf w = .ok r := by
  have hlow := mod_mod_len w.toNat r.h.len
  have hext := toNat_extBits r.h.len w
  rw [← h, Raw.toNat_bits] at hlow hext
  obtain ⟨⟨len, stall, neg, pred, ext⟩, opc, mod, d, a, b, c⟩ := r
  dsimp only at hlow hext
  have hn : neg.toNat < 2 := neg.toNat_lt
  clear h
  have hlen : w.extractLsb' 0 2 = len.code := extract_eq (by omega)
  have hstall : w.extractLsb' 12 4 = stall := extract_eq (by omega)
  have hpred : w.extractLsb' 16 3 = pred := extract_eq (by omega)
  have hneg : w.getLsbD 19 = neg := getLsbD_eq (by omega)
  have hopc : w.extractLsb' 2 10 = opc := extract_eq (by omega)
  have hd : w.extractLsb' 20 8 = d.code := extract_eq (by omega)
  have ha : w.extractLsb' 28 8 = a.code := extract_eq (by omega)
  have hb : w.extractLsb' 36 8 = b.code := extract_eq (by omega)
  have hc : w.extractLsb' 44 8 = c.code := extract_eq (by omega)
  have hmod : w.extractLsb' 52 12 = mod := extract_eq (by omega)
  have hx : extBits len w = ext := BitVec.eq_of_toNat_eq (by omega)
  simp only [rawOf, hlen, hstall, hpred, hneg, hopc, hd, ha, hb, hc, hmod, hx, Len.ofCode_code, Opd.ofCode_code]

theorem rawOf_eq_ok_iff {w : BitVec 128} {r : Raw} : rawOf w = .ok r ↔ r.bits.toNat = w.toNat % 2 ^ (8 * r.h.len.bytes) :=
  ⟨toNat_bits_of_rawOf, rawOf_of_toNat_bits⟩

/-! ## MOD layouts (R66, R70, R71) -/

theorem TI.toNat_modBits (t : TI) : t.modBits.toNat = 2 ^ 10 * t.var.toNat + 2 ^ 6 * t.mode.toNat + t.ty.code.toNat := by
  unfold TI.modBits
  iterate 2 rw [toNat_append_eq]
  omega

theorem MI.toNat_modBits (t : MI) : t.modBits.toNat =
    2 ^ 8 * t.opx.toNat + 2 ^ 6 * t.ord.code.toNat + 2 ^ 3 * t.scope.code.toNat + t.size.code.toNat := by
  unfold MI.modBits
  iterate 3 rw [toNat_append_eq]
  omega

theorem TI.ofRaw_toRaw {t : TI} (opc : BitVec 10) (h : t.ty.legal = true) : TI.ofRaw (t.toRaw opc) = some t := by
  have hm := t.toNat_modBits
  have hvar : t.modBits.extractLsb' 10 2 = t.var := extract_eq (by omega)
  have hmode : t.modBits.extractLsb' 6 4 = t.mode := extract_eq (by omega)
  have hty : t.modBits.extractLsb' 0 6 = t.ty.code := extract_eq (by omega)
  simp only [TI.ofRaw, TI.toRaw, hvar, hmode, hty, Ty.ofCode_code h, Option.map_some]

theorem TI.toRaw_of_ofRaw {r : Raw} {t : TI} (h : TI.ofRaw r = some t) : t.toRaw r.opc = r := by
  obtain ⟨ty, hty, rfl⟩ := Option.map_eq_some_iff.1 h
  refine congrArg (fun m => { r with mod := m }) (BitVec.eq_of_toNat_eq ?_)
  simp only [TI.toNat_modBits, Ty.code_of_ofCode hty, toNat_extract]
  omega

theorem MI.ofRaw_toRaw (t : MI) (opc : BitVec 10) : MI.ofRaw (t.toRaw opc) = some t := by
  have hm := t.toNat_modBits
  have hopx : t.modBits.extractLsb' 8 4 = t.opx := extract_eq (by omega)
  have hord : t.modBits.extractLsb' 6 2 = t.ord.code := extract_eq (by omega)
  have hscope : t.modBits.extractLsb' 3 3 = t.scope.code := extract_eq (by omega)
  have hsize : t.modBits.extractLsb' 0 3 = t.size.code := extract_eq (by omega)
  simp only [MI.ofRaw, MI.toRaw, hopx, hord, hscope, hsize, MemOrd.ofCode_code, Scope.ofCode_code, Size.ofCode_code]

theorem MI.toRaw_of_ofRaw {r : Raw} {t : MI} (h : MI.ofRaw r = some t) : t.toRaw r.opc = r := by
  unfold MI.ofRaw at h
  split at h
  next hscope hsize =>
    cases h
    refine congrArg (fun m => { r with mod := m }) (BitVec.eq_of_toNat_eq ?_)
    simp only [MI.toNat_modBits, Scope.code_of_ofCode hscope, Size.code_of_ofCode hsize, MemOrd.code_ofCode, toNat_extract]
    omega
  · cases h

/-! ## The opcode map, from fields to instructions (R64) -/

/-- What a layout gives, or the refusal of a MOD code without a meaning (R66 to R71). -/
def orBadMod (o : Option Instr) : Except DecodeErr Instr :=
  match o with
  | some i => .ok i
  | none => .error .badMod

theorem orBadMod_eq_ok {o : Option Instr} {i : Instr} : orBadMod o = .ok i ↔ o = some i := by
  cases o <;> simp [orBadMod]

theorem opc_of_toNat {r : Raw} {n : Nat} (h : r.opc.toNat = n) : r.opc = BitVec.ofNat 10 n := by
  rw [← h, BitVec.ofNat_toNat, BitVec.setWidth_eq]

theorem toRaw_typed {r : Raw} {n : Nat} {f : TI → Instr} {i : Instr} (ho : r.opc.toNat = n)
    (h : orBadMod ((TI.ofRaw r).map f) = .ok i) (hf : ∀ t, (f t).toRaw = some (t.toRaw (BitVec.ofNat 10 n))) :
    i.toRaw = some r := by
  obtain ⟨t, ht, rfl⟩ := Option.map_eq_some_iff.1 (orBadMod_eq_ok.1 h)
  rw [hf, ← opc_of_toNat ho, TI.toRaw_of_ofRaw ht]

theorem toRaw_memory {r : Raw} {n : Nat} {f : MI → Instr} {i : Instr} (ho : r.opc.toNat = n)
    (h : orBadMod ((MI.ofRaw r).map f) = .ok i) (hf : ∀ t, (f t).toRaw = some (t.toRaw (BitVec.ofNat 10 n))) :
    i.toRaw = some r := by
  obtain ⟨t, ht, rfl⟩ := Option.map_eq_some_iff.1 (orBadMod_eq_ok.1 h)
  rw [hf, ← opc_of_toNat ho, MI.toRaw_of_ofRaw ht]

/-- The form, where there is one, has its fields under operation code `n`. -/
def FormOf (n : Nat) : Option (EI → Instr) → Prop
  | some f => ∀ t, (f t).toRaw = some (t.toRaw (BitVec.ofNat 10 n))
  | none => True

theorem FormOf.toRaw {r : Raw} {n : Nat} {f : Option (EI → Instr)} {i : Instr} (hf : FormOf n f) (ho : r.opc.toNat = n)
    (h : f.map (· (EI.ofRaw r)) = some i) : i.toRaw = some r := by
  obtain ⟨f, rfl, rfl⟩ := Option.map_eq_some_iff.1 h
  rw [hf, ← opc_of_toNat ho]
  rfl

theorem toRaw_entry {r : Raw} {n : Nat} {f : EI → Instr} {i : Instr} (ho : r.opc.toNat = n)
    (h : (.ok (f (EI.ofRaw r)) : Except DecodeErr Instr) = .ok i) (hf : FormOf n (some f)) : i.toRaw = some r :=
  hf.toRaw ho (congrArg some (Except.ok.inj h))

/-- The forms of one operation code that MOD [63:62] picks. -/
theorem toRaw_variant {r : Raw} {n : Nat} {f0 f1 f2 f3 : Option (EI → Instr)} {i : Instr} (ho : r.opc.toNat = n)
    (h : orBadMod (byVar (EI.ofRaw r) f0 f1 f2 f3) = .ok i)
    (h0 : FormOf n f0) (h1 : FormOf n f1) (h2 : FormOf n f2) (h3 : FormOf n f3) : i.toRaw = some r := by
  have h := orBadMod_eq_ok.1 h
  unfold byVar at h
  split at h
  · exact h0.toRaw ho h
  · exact h1.toRaw ho h
  · exact h2.toRaw ho h
  · exact h3.toRaw ho h

theorem toRaw_cwrOf (t : EI) : (cwrOf t).toRaw = some (t.toRaw 0x381) := by
  simp only [cwrOf, apply_ite Instr.toRaw]
  simp only [Instr.toRaw, ite_self]

/-- CVT, whose source TYPE stands in the C field (R123). -/
theorem toRaw_cvt {r : Raw} {i : Instr} (ho : r.opc.toNat = 0x0C0) (h : orBadMod (cvtOfRaw r) = .ok i) : i.toRaw = some r := by
  have h := orBadMod_eq_ok.1 h
  unfold cvtOfRaw at h
  split at h
  next t n ht hc =>
    obtain ⟨src, hsrc, rfl⟩ := Option.map_eq_some_iff.1 h
    have hr := TI.toRaw_of_ofRaw ht
    have ho : r.opc = 0x0C0 := BitVec.eq_of_toNat_eq ho
    simp only [Instr.toRaw, Ty.code_of_ofCode hsrc, ← hc, ← ho]
    rw [← hr]
    rfl
  · cases h

/-- Each form of the opcode map has the fields from which it is read. -/
theorem toRaw_of_classify {r : Raw} {i : Instr} (h : classify r = .ok i) : i.toRaw = some r := by
  unfold classify at h
  dsimp only at h
  split at h
  -- the typed layout, the memory layout, and those of a single form by entry
  any_goals exact toRaw_typed ‹_› h fun _ => rfl
  any_goals exact toRaw_memory ‹_› h fun _ => rfl
  any_goals exact toRaw_entry ‹_› h fun _ => rfl
  -- CVT; BARV and SCRB; MXFLG and HALTC; ERGK, ERGM and CRD; CWR; the codes that R64 leaves unassigned
  case h_51 ho => exact toRaw_cvt ho h
  case h_110 ho | h_140 ho => exact toRaw_variant ho h (fun _ => rfl) (fun _ => rfl) trivial trivial
  case h_131 ho | h_143 ho => exact toRaw_variant ho h (fun _ => rfl) (fun _ => rfl) (fun _ => rfl) trivial
  case h_133 ho | h_135 ho | h_138 ho => exact toRaw_variant ho h (fun _ => rfl) (fun _ => rfl) (fun _ => rfl) (fun _ => rfl)
  case h_139 ho => exact toRaw_variant ho h toRaw_cwrOf (fun _ => rfl) (fun _ => rfl) (fun _ => rfl)
  case h_144 => cases h

/-! ## What a well-formed instruction has (R45 to R57) -/

theorem wf_inv {i : Instr} (hw : i.wf = true) :
    ∃ s h o, sig i = some s ∧ hdrOf i = some h ∧ opdsOf i = some o ∧ wfSig h s o = true ∧ tyLegal i = true := by
  unfold Instr.wf at hw
  split at hw
  next s h o hs hh ho => exact ⟨s, h, o, hs, hh, ho, Bool.and_eq_true_iff.1 hw⟩
  · cases hw

theorem wf_tyLegal {i : Instr} (hw : i.wf = true) : tyLegal i = true := by
  obtain ⟨_, _, _, _, _, _, _, hty⟩ := wf_inv hw
  exact hty

theorem wf_mod {i : Instr} {s : Sig} (hw : i.wf = true) (hs : sig i = some s) : s.mod = true := by
  obtain ⟨s', h, o, hs', -, -, hsig, -⟩ := wf_inv hw
  cases hs.symm.trans hs'
  simp only [wfSig, Bool.and_eq_true] at hsig
  tauto

theorem wf_c {i : Instr} {s : Sig} {d a b c : Opd} (hw : i.wf = true) (hs : sig i = some s) (ho : opdsOf i = some (d, a, b, c)) :
    s.c.ok c = true := by
  obtain ⟨s', h, o', hs', -, ho', hsig, -⟩ := wf_inv hw
  cases hs.symm.trans hs'
  cases ho.symm.trans ho'
  simp only [wfSig, Bool.and_eq_true] at hsig
  tauto

/-- Nothing stands above the length of a well-formed instruction. -/
theorem wf_ext {i : Instr} {h : Hdr} (hw : i.wf = true) (hh : hdrOf i = some h) : 2 ^ 64 * h.ext.toNat < 2 ^ (8 * h.len.bytes) := by
  obtain ⟨s, h', o, -, hh', -, hsig, -⟩ := wf_inv hw
  cases hh.symm.trans hh'
  simp only [wfSig, extOk, Bool.and_eq_true] at hsig
  obtain ⟨-, hfits, -⟩ := hsig
  have hx := h.ext.isLt
  cases hl : h.len with
  | two =>
    rw [hl] at hfits
    rw [beq_iff_eq.1 hfits]
    decide
  | three =>
    rw [hl] at hfits
    have hhigh : h.ext.toNat / 2 ^ 32 % 2 ^ 32 = 0 :=
      (toNat_extract h.ext 32 32).symm.trans (congrArg BitVec.toNat (beq_iff_eq.1 hfits))
    simp only [Len.bytes]
    omega
  | four =>
    simp only [Len.bytes]
    omega

/-! ## The opcode map, from instructions to fields (R64) -/

theorem hdrOf_of_toRaw {i : Instr} {r : Raw} (h : i.toRaw = some r) : hdrOf i = some r.h := by
  cases i <;> cases h <;> rfl

theorem assigned_of_toRaw {i : Instr} {r : Raw} (h : i.toRaw = some r) :
    assigned (r.opc.extractLsb' 6 4).toNat (r.opc.extractLsb' 0 6).toNat := by
  cases i <;> cases h <;> simp [assigned, TI.toRaw, MI.toRaw, EI.toRaw]

theorem toRaw_of_wf {i : Instr} (hw : i.wf = true) : ∃ r, i.toRaw = some r := by
  cases hr : i.toRaw with
  | some r => exact ⟨r, rfl⟩
  | none => cases i <;> cases hr <;> cases hw

theorem classify_typed {t : TI} {f : TI → Instr} {opc : BitVec 10} {r : Raw} (hr : some (t.toRaw opc) = some r)
    (hty : t.ty.legal = true) (hc : classify (t.toRaw opc) = orBadMod ((TI.ofRaw (t.toRaw opc)).map f)) :
    classify r = .ok (f t) := by
  cases hr
  rw [hc, TI.ofRaw_toRaw opc hty]
  rfl

theorem classify_memory {t : MI} {f : MI → Instr} {opc : BitVec 10} {r : Raw} (hr : some (t.toRaw opc) = some r)
    (hc : classify (t.toRaw opc) = orBadMod ((MI.ofRaw (t.toRaw opc)).map f)) : classify r = .ok (f t) := by
  cases hr
  rw [hc, MI.ofRaw_toRaw]
  rfl

theorem classify_entry {t : EI} {f : EI → Instr} {opc : BitVec 10} {r : Raw} (hr : some (t.toRaw opc) = some r)
    (hc : classify (t.toRaw opc) = .ok (f (EI.ofRaw (t.toRaw opc)))) : classify r = .ok (f t) := by
  cases hr
  exact hc

theorem classify_variant {t : EI} {opc : BitVec 10} {r : Raw} {f0 f1 f2 f3 : Option (EI → Instr)} {i : Instr}
    (hr : some (t.toRaw opc) = some r) (hi : byVar t f0 f1 f2 f3 = some i)
    (hc : classify (t.toRaw opc) = orBadMod (byVar (EI.ofRaw (t.toRaw opc)) f0 f1 f2 f3)) : classify r = .ok i := by
  cases hr
  exact hc.trans (orBadMod_eq_ok.2 hi)

theorem byVar_zero {t : EI} (h : (t.var == 0) = true) (f : EI → Instr) (f1 f2 f3 : Option (EI → Instr)) :
    byVar t (some f) f1 f2 f3 = some (f t) := by
  simp [byVar, beq_iff_eq.1 h]

theorem byVar_one {t : EI} (h : (t.var == 1) = true) (f : EI → Instr) (f0 f2 f3 : Option (EI → Instr)) :
    byVar t f0 (some f) f2 f3 = some (f t) := by
  simp [byVar, beq_iff_eq.1 h]

theorem byVar_two {t : EI} (h : (t.var == 2) = true) (f : EI → Instr) (f0 f1 f3 : Option (EI → Instr)) :
    byVar t f0 f1 (some f) f3 = some (f t) := by
  simp [byVar, beq_iff_eq.1 h]

theorem byVar_three {t : EI} (h : (t.var == 3) = true) (f : EI → Instr) (f0 f1 f2 : Option (EI → Instr)) :
    byVar t f0 f1 f2 (some f) = some (f t) := by
  simp [byVar, beq_iff_eq.1 h]

theorem var_of_mod {t : EI} {m : BitVec 12} (h : (t.mod == m) = true) : (t.var == m.extractLsb' 10 2) = true := by
  rw [EI.var, beq_iff_eq.1 h, beq_self_eq_true]

theorem mxflg_var {t : EI} {v : BitVec 2} {p q : Bool} (h : (t.var == v && p && q) = true) : (t.var == v) = true := by
  simp only [Bool.and_eq_true] at h
  tauto

theorem cwrOf_skipw {t : EI} (h : (0x140 ≤ t.h.crnum && t.h.crnum ≤ 0x17F) = true) : cwrOf t = .cwrSkipw t := by
  grind [cwrOf]

theorem cwrOf_plane {t : EI} (h : (0x218 ≤ t.h.crnum && t.h.crnum ≤ 0x21F) = true) : cwrOf t = .cwrPlane t := by
  grind [cwrOf]

theorem cwrOf_unnamed {t : EI} (h : (!crNamed t.h.crnum) = true) : cwrOf t = .cwr t := by
  grind [cwrOf, crNamed]

theorem classify_cwr {t : EI} {r : Raw} {named : Bool} {i : Instr} (hr : some (t.toRaw 0x381) = some r)
    (hm : (t.mod == 0 && named) = true) (hi : named = true → cwrOf t = i) : classify r = .ok i := by
  obtain ⟨h0, hn⟩ := Bool.and_eq_true_iff.1 hm
  exact classify_variant hr ((byVar_zero (var_of_mod h0) cwrOf _ _ _).trans (congrArg some (hi hn))) rfl

/-- The C field holds the source TYPE, so an instruction whose own C field is unused keeps it zero (R123). -/
theorem classify_cvt {t : TI} {src : Ty} {r : Raw} (hr : (Instr.cvt t src).toRaw = some r) (hty : t.ty.legal = true)
    (hsrc : src.legal = true) (hc : t.c = .v 0) : classify r = .ok (.cvt t src) := by
  have hfields : TI.ofRaw r = some { t with c := .v src.code } := by
    cases hr
    exact TI.ofRaw_toRaw (t := { t with c := .v src.code }) 0x0C0 hty
  have hcode : r.c = .v src.code := by
    cases hr
    rfl
  have hcvt : cvtOfRaw r = some (.cvt t src) := by
    rw [cvtOfRaw, hfields, hcode, ← hc]
    simp only [Ty.ofCode_code hsrc, Option.map_some]
  have hclass : classify r = orBadMod (cvtOfRaw r) := by
    cases hr
    rfl
  rw [hclass, hcvt]
  rfl

/-- A well-formed instruction is what the opcode map reads from its fields. -/
theorem classify_toRaw {i : Instr} {r : Raw} (hw : i.wf = true) (hr : i.toRaw = some r) : classify r = .ok i := by
  have hty := wf_tyLegal hw
  have hm {s : Sig} (hs : sig i = some s) : s.mod = true := wf_mod hw hs
  cases i
  -- CVT, whose source TYPE stands in the C field
  case cvt t src =>
    obtain ⟨hty, hsrc⟩ := Bool.and_eq_true_iff.1 hty
    exact classify_cvt hr hty hsrc (beq_iff_eq.1 (wf_c hw rfl rfl))
  -- codes whose MOD [63:62] picks the form
  case scrbRow t | ergmRd t | crd t => exact classify_variant hr (byVar_zero (var_of_mod (hm rfl)) _ _ _ _) rfl
  case scrbQry t | ergmWr t | crdStk t | cwrStk t => exact classify_variant hr (byVar_one (var_of_mod (hm rfl)) _ _ _ _) rfl
  case ergmClr t | crdJs t | cwrJs t => exact classify_variant hr (byVar_two (var_of_mod (hm rfl)) _ _ _ _) rfl
  case ergmDesc t | crdTs t | cwrTs t => exact classify_variant hr (byVar_three (var_of_mod (hm rfl)) _ _ _ _) rfl
  case barvOne t => exact classify_variant hr (byVar_zero (Bool.and_eq_true_iff.1 (hm rfl)).2 _ _ _ _) rfl
  case barvEach t => exact classify_variant hr (byVar_one (Bool.and_eq_true_iff.1 (hm rfl)).2 _ _ _ _) rfl
  case ergkIn t | haltcHalt t => exact classify_variant hr (byVar_zero (Bool.and_eq_true_iff.1 (hm rfl)).1 _ _ _ _) rfl
  case ergkOut t | haltcResume t => exact classify_variant hr (byVar_one (Bool.and_eq_true_iff.1 (hm rfl)).1 _ _ _ _) rfl
  case ergkRst t | haltcStep t => exact classify_variant hr (byVar_two (Bool.and_eq_true_iff.1 (hm rfl)).1 _ _ _ _) rfl
  case ergkInv t => exact classify_variant hr (byVar_three (Bool.and_eq_true_iff.1 (hm rfl)).1 _ _ _ _) rfl
  case mxflgRd t => exact classify_variant hr (byVar_zero (mxflg_var (hm rfl)) _ _ _ _) rfl
  case mxflgClr t => exact classify_variant hr (byVar_one (mxflg_var (hm rfl)) _ _ _ _) rfl
  case mxflgOrr t => exact classify_variant hr (byVar_two (mxflg_var (hm rfl)) _ _ _ _) rfl
  -- CWR, whose register picks the row
  case cwr t => exact classify_cwr hr (hm rfl) cwrOf_unnamed
  case cwrSkipw t => exact classify_cwr hr (hm rfl) cwrOf_skipw
  case cwrPlane t => exact classify_cwr hr (hm rfl) cwrOf_plane
  case cwrSrseed t | cwrFstat t | cwrMxcad t | cwrChecksb t | cwrUven t | cwrSiteal t | cwrSlew t | cwrPriced t
      | cwrCrwrej t | cwrFabstat t | cwrHealth t | cwrSpconf t =>
    exact classify_cwr hr (hm rfl) fun h => by simp [cwrOf, beq_iff_eq.1 h]
  -- the memory layout, the typed one, and those of a single form by entry
  case ld t | st t | lds t | sts t | ldsr t | stsr t | pref t | gath t | qpop t | atom t | red t | atoms t | fence t =>
    exact classify_memory hr rfl
  any_goals exact classify_typed hr hty rfl
  any_goals exact classify_entry hr rfl
  -- the events, which have no fields
  all_goals cases hr

/-! ## The word of an instruction (R42 to R44, R65) -/

theorem len_of_toRaw {i : Instr} {r : Raw} (hr : i.toRaw = some r) : i.len = r.h.len.bytes := by
  rw [Instr.len, hdrOf_of_toRaw hr]

theorem toNat_bits_lt {i : Instr} {r : Raw} (hw : i.wf = true) (hr : i.toRaw = some r) : r.bits.toNat < 2 ^ (8 * i.len) := by
  have hx := wf_ext hw (hdrOf_of_toRaw hr)
  have hn : r.h.neg.toNat < 2 := r.h.neg.toNat_lt
  rw [len_of_toRaw hr, Raw.toNat_bits]
  revert hx
  cases r.h.len <;> simp only [Len.bytes] <;> omega

theorem decode_eq_ok {w : BitVec 128} {i : Instr} :
    decode w = .ok i ↔ ∃ r, rawOf w = .ok r ∧ classify r = .ok i ∧ i.wf = true := by
  unfold decode
  constructor
  · intro h
    split at h
    · cases h
    next r hr =>
    split at h
    · cases h
    next j hj =>
    split at h
    next hw =>
      cases h
      exact ⟨r, hr, hj, hw⟩
    · cases h
  · rintro ⟨r, hr, hc, hw⟩
    simp only [hr, hc, hw, if_true]

/-- A word decodes to an instruction exactly if that is well-formed and its bits are those of the word, up to its length. -/
theorem decode_eq_ok_iff_bits {w : BitVec 128} {i : Instr} :
    decode w = .ok i ↔ i.wf = true ∧ ∃ r, i.toRaw = some r ∧ r.bits.toNat = w.toNat % 2 ^ (8 * i.len) := by
  rw [decode_eq_ok]
  constructor
  · rintro ⟨r, hraw, hclass, hw⟩
    have hr := toRaw_of_classify hclass
    exact ⟨hw, r, hr, len_of_toRaw hr ▸ rawOf_eq_ok_iff.1 hraw⟩
  · rintro ⟨hw, r, hr, hbits⟩
    exact ⟨r, rawOf_eq_ok_iff.2 (len_of_toRaw hr ▸ hbits), classify_toRaw hw hr, hw⟩

theorem toNat_or_shiftLeft_mod (w above : BitVec 128) {k : Nat} (hk : k ≤ 128) :
    (w ||| above <<< k).toNat % 2 ^ k = w.toNat % 2 ^ k := by
  have hshift : (above <<< k).toNat % 2 ^ k = 0 := by
    rw [BitVec.toNat_shiftLeft, Nat.mod_mod_of_dvd _ (Nat.pow_dvd_pow 2 hk), Nat.shiftLeft_eq, Nat.mul_mod_left]
  rw [BitVec.toNat_or, Nat.or_mod_two_pow, hshift, Nat.or_zero]

theorem Len.bytes_le (l : Len) : l.bytes ≤ 16 := by cases l <;> decide

theorem encode_eq_some {i : Instr} {r : Raw} (hr : i.toRaw = some r) : encode i = some r.bits := by
  rw [encode, hr, Option.map_some]

/-- A well-formed instruction has a word within its length, which decodes to it whatever stands above. -/
theorem decode_encode {i : Instr} (hw : i.wf = true) :
    ∃ w, encode i = some w ∧ w.toNat < 2 ^ (8 * i.len) ∧
      ∀ above : BitVec 128, decode (w ||| above <<< (8 * i.len)) = .ok i := by
  obtain ⟨r, hr⟩ := toRaw_of_wf hw
  have hlt := toNat_bits_lt hw hr
  have hk : 8 * i.len ≤ 128 := by
    have := r.h.len.bytes_le
    rw [len_of_toRaw hr]
    omega
  refine ⟨r.bits, encode_eq_some hr, hlt, fun above => decode_eq_ok_iff_bits.2 ⟨hw, r, hr, ?_⟩⟩
  rw [toNat_or_shiftLeft_mod _ _ hk, Nat.mod_eq_of_lt hlt]

theorem encode_of_decode {w : BitVec 128} {i : Instr} (h : decode w = .ok i) :
    i.wf = true ∧ encode i = some (BitVec.ofNat 128 (w.toNat % 2 ^ (8 * i.len))) := by
  obtain ⟨hw, r, hr, hbits⟩ := decode_eq_ok_iff_bits.1 h
  rw [encode_eq_some hr, ← hbits, BitVec.ofNat_toNat, BitVec.setWidth_eq]
  exact ⟨hw, rfl⟩

theorem rawOf_len_opc {w : BitVec 128} {r : Raw} (h : rawOf w = .ok r) :
    w.extractLsb' 0 2 = r.h.len.code ∧ w.extractLsb' 2 10 = r.opc := by
  unfold rawOf at h
  split at h
  · cases h
  next l hl =>
  split at h
  · cases h
    exact ⟨(Len.code_of_ofCode hl).symm, rfl⟩
  · cases h

theorem Len.toNat_code_lt (l : Len) : l.code.toNat < 3 := by cases l <;> decide

/-- No word with LEN 0b11, nor one of a class and function that R64 does not assign, decodes (R42, R65). -/
theorem assigned_of_decode {w : BitVec 128} {i : Instr} (h : decode w = .ok i) :
    (w.extractLsb' 0 2).toNat < 3 ∧ assigned (w.extractLsb' 8 4).toNat (w.extractLsb' 2 6).toNat := by
  obtain ⟨r, hraw, hclass, -⟩ := decode_eq_ok.1 h
  obtain ⟨hlen, hopc⟩ := rawOf_len_opc hraw
  have hcls : r.opc.extractLsb' 6 4 = w.extractLsb' 8 4 := by
    refine extract_eq ?_
    rw [← hopc]
    simp only [toNat_extract]
    omega
  have hfn : r.opc.extractLsb' 0 6 = w.extractLsb' 2 6 := by
    refine extract_eq ?_
    rw [← hopc]
    simp only [toNat_extract]
    omega
  rw [hlen, ← hcls, ← hfn]
  exact ⟨r.h.len.toNat_code_lt, assigned_of_toRaw (toRaw_of_classify hclass)⟩

theorem decode_badLength {w : BitVec 128} (h : w.extractLsb' 0 2 = 3) : decode w = .error .badLength := by
  simp only [decode, rawOf, Len.ofCode_eq_none.2 h]

/-- Settles O56: a word decodes to an instruction exactly if that is well-formed and its bits are the word's, up to its length. -/
theorem decodingAndEncodingAgree : Obligations.DecodingAndEncodingAgree :=
  ⟨fun _ => decode_encode,
    fun _ _ h => ⟨(encode_of_decode h).1, (encode_of_decode h).2, assigned_of_decode h⟩,
    fun _ => decode_badLength⟩

/-- Settles O55: each word is decoded as it stands. -/
theorem wordsOfTheSpecDecodeToTheirInstructions : Obligations.WordsOfTheSpecDecodeToTheirInstructions := by
  unfold Obligations.WordsOfTheSpecDecodeToTheirInstructions
  refine ⟨?_, ?_, ?_, ?_, ?_, ?_, ?_, ?_, ?_, ?_, ?_, ?_, ?_, ?_, ?_, ?_⟩ <;> decide

end Sys2Proof

/-! SUPPORT. Rounding and NaN operands (R87, R94, R98, R102, R104): a value that a format holds is a whole number of units of its
own binade, so that nothing is rounded away; a NaN among the operands is the exact result, and the flags are those of the signals
and of an invalid product. -/

namespace Sys2Proof.Machine

/-! ## Values that a format holds -/

@[simp] theorem splitAt_zero (n : Nat) : splitAt n 0 = (n, -1) := by simp [splitAt]

/-- A whole number of units is kept in every mode; a draw of SR carries nothing into it (R94). -/
theorem roundUnits_zero {mode : Rnd} {neg : Bool} {n r : Nat} {odd : Nat → Bool} (hr : r < 2 ^ 16) :
    roundUnits mode neg n 0 odd r = (n, false) := by
  cases mode with
  | sr =>
    have hcarry : (n * 2 ^ 16 + r) / 2 ^ 16 = n := by omega
    simpa [roundUnits] using hcarry
  | _ => simp [roundUnits]

/-- A count of units of exponent `q` whose code `c` lies in the range is rounded to that code. -/
theorem roundNarrow_fin {f : Fmt} {mode : Rnd} {neg sat : Bool} {n c r : Nat} {q : Int} (hn : n ≠ 0)
    (hq : max ((n.log2 : Int) + q) f.emin - (f.p - 1 : Nat) = q)
    (hcode : (q - f.qmin).toNat * 2 ^ (f.p - 1) + n = c) (hmax : c ≤ f.maxCode) (huns : (f.uns && neg) = false)
    (hr : r < 2 ^ 16) : roundNarrow (.fin neg n q) f mode sat r = ⟨f.sign neg c, 0⟩ := by
  simp [roundNarrow, log2, hn, hq, roundUnits_zero hr, hcode, huns, Nat.not_lt.2 hmax, flIf]

/-- The value of a magnitude code is rounded to that code: a subnormal has the exponent of the least unit, a normal one
a count of exactly `p` bits (R90, R104). -/
theorem roundNarrow_mag {f : Fmt} {mode : Rnd} {neg sat : Bool} {c r : Nat} (hmax : c ≤ f.maxCode)
    (huns : (f.uns && neg) = false) (hr : r < 2 ^ 16) :
    roundNarrow (f.mag neg c) f mode sat r = ⟨f.sign neg c, 0⟩ := by
  have hu : 0 < 2 ^ (f.p - 1) := Nat.two_pow_pos _
  by_cases hzero : c = 0
  · simp [hzero, Fmt.mag, roundNarrow]
  by_cases hsub : c < 2 ^ (f.p - 1)
  · have hlog : c.log2 < f.p - 1 := (Nat.log2_lt hzero).2 hsub
    rw [Fmt.mag, if_pos hsub]
    refine roundNarrow_fin hzero ?_ (by simp) hmax huns hr
    simp only [Fmt.qmin]
    omega
  · have hmod : c % 2 ^ (f.p - 1) < 2 ^ (f.p - 1) := Nat.mod_lt _ hu
    have hbinade : 1 ≤ c / 2 ^ (f.p - 1) := Nat.div_pos (Nat.not_lt.1 hsub) hu
    have hne : 2 ^ (f.p - 1) + c % 2 ^ (f.p - 1) ≠ 0 := by omega
    have hlog : (2 ^ (f.p - 1) + c % 2 ^ (f.p - 1)).log2 = f.p - 1 :=
      (Nat.log2_eq_iff hne).2 ⟨by omega, by rw [Nat.pow_succ]; omega⟩
    rw [Fmt.mag, if_neg hsub]
    refine roundNarrow_fin hne ?_ ?_ hmax huns hr
    · rw [hlog]
      simp only [Fmt.qmin]
      omega
    · have hexp : (f.qmin + (c / 2 ^ (f.p - 1) : Nat) - 1 - f.qmin).toNat + 1 = c / 2 ^ (f.p - 1) := by omega
      calc _ = ((f.qmin + (c / 2 ^ (f.p - 1) : Nat) - 1 - f.qmin).toNat + 1) * 2 ^ (f.p - 1) + c % 2 ^ (f.p - 1) := by
            rw [Nat.succ_mul, Nat.add_assoc]
        _ = c := by rw [hexp, Nat.div_add_mod']

/-- The code `c` is a sign, where the format has one, and a magnitude code in the range, and its value is theirs. -/
def Fmt.FiniteCode (f : Fmt) (c : Nat) : Prop :=
  ∃ neg m, f.decode c = f.mag neg m ∧ m ≤ f.maxCode ∧ (f.uns && neg) = false ∧ f.sign neg m = c

/-- The value of an IEEE code by its sign bit and the magnitude below it (R85). -/
theorem Fmt.decode_of_ieee {f : Fmt} {c : Nat} (hieee : f.ieee = true) (hc : c < 2 ^ f.w) :
    f.decode c =
      if c % 2 ^ (f.w - 1) ≤ f.maxCode then f.mag (decide (2 ^ (f.w - 1) ≤ c)) (c % 2 ^ (f.w - 1))
      else if c % 2 ^ (f.w - 1) = f.maxCode + 1 then .inf (decide (2 ^ (f.w - 1) ≤ c))
      else .nan (c % 2 ^ (f.w - 1) / 2 ^ (f.p - 2) % 2 == 0) := by
  simp [Fmt.decode, hieee, Nat.mod_eq_of_lt hc]

/-- DecodeB8 of an unsigned format (R102). -/
theorem decode_fmtB8_uns {p c : Nat} {fin : Bool} (hc : c < 2 ^ 8) :
    (fmtB8 p true fin).decode c =
      if c = 0xFF then .nan false
      else if c ≤ (fmtB8 p true fin).maxCode then (fmtB8 p true fin).mag false c else .inf false := by
  simp [Fmt.decode, fmtB8, Nat.mod_eq_of_lt (show c < 256 from hc)]

/-- DecodeB8 of a signed format (R102). -/
theorem decode_fmtB8_signed {p c : Nat} {fin : Bool} (hc : c < 2 ^ 8) :
    (fmtB8 p false fin).decode c =
      if c = 0x80 then .nan false
      else if c % 128 ≤ (fmtB8 p false fin).maxCode then (fmtB8 p false fin).mag (decide (128 ≤ c)) (c % 128)
      else .inf (decide (128 ≤ c)) := by
  simp [Fmt.decode, fmtB8, Nat.mod_eq_of_lt (show c < 256 from hc)]

/-- A sign bit and the magnitude below it make up an IEEE code. -/
theorem finiteCode_of_ieee {f : Fmt} {c : Nat} (hieee : f.ieee = true) (huns : f.uns = false) (hw : 0 < f.w)
    (hc : c < 2 ^ f.w) (hnan : (f.decode c).isNan = false) (hinf : (f.decode c).isInf = false) : f.FiniteCode c := by
  have hpow : 2 * 2 ^ (f.w - 1) = 2 ^ f.w := by rw [← Nat.pow_succ', Nat.succ_eq_add_one, Nat.sub_add_cancel hw]
  have hdec := Fmt.decode_of_ieee hieee hc
  split at hdec
  next hmax =>
    refine ⟨_, _, hdec, hmax, by simp [huns], ?_⟩
    by_cases hneg : 2 ^ (f.w - 1) ≤ c
    · have hsum : 2 ^ (f.w - 1) + c % 2 ^ (f.w - 1) = c := by
        rw [Nat.mod_eq_sub_mod hneg, Nat.mod_eq_of_lt (by omega), Nat.add_sub_cancel' hneg]
      simpa [Fmt.sign, hieee, huns, hneg] using hsum
    · simp [Fmt.sign, hneg, Nat.mod_eq_of_lt (Nat.not_le.1 hneg)]
  next =>
    split at hdec
    · simp [hdec, FVal.isInf] at hinf
    · simp [hdec, FVal.isNan] at hnan

/-- An unsigned binary8 code is its own magnitude. -/
theorem finiteCode_fmtB8_uns {p c : Nat} {fin : Bool} (hc : c < 2 ^ 8)
    (hnan : ((fmtB8 p true fin).decode c).isNan = false) (hinf : ((fmtB8 p true fin).decode c).isInf = false) :
    (fmtB8 p true fin).FiniteCode c := by
  have hdec := decode_fmtB8_uns (p := p) (fin := fin) hc
  split at hdec
  · simp [hdec, FVal.isNan] at hnan
  split at hdec
  next hmax => exact ⟨false, c, hdec, hmax, Bool.and_false _, by simp [Fmt.sign]⟩
  next => simp [hdec, FVal.isInf] at hinf

/-- A signed binary8 format has no negative zero: the code it would have is the NaN (R91). -/
theorem finiteCode_fmtB8_signed {p c : Nat} {fin : Bool} (hc : c < 2 ^ 8)
    (hnan : ((fmtB8 p false fin).decode c).isNan = false) (hinf : ((fmtB8 p false fin).decode c).isInf = false) :
    (fmtB8 p false fin).FiniteCode c := by
  have hdec := decode_fmtB8_signed (p := p) (fin := fin) hc
  split at hdec
  · simp [hdec, FVal.isNan] at hnan
  next hne =>
  split at hdec
  next hmax =>
    refine ⟨_, _, hdec, hmax, rfl, ?_⟩
    by_cases hneg : 128 ≤ c
    · have hm : c % 128 ≠ 0 := by omega
      have hsum : 128 + c % 128 = c := by omega
      simpa [Fmt.sign, fmtB8, hneg, hm] using hsum
    · simp [Fmt.sign, hneg, Nat.mod_eq_of_lt (Nat.not_le.1 hneg)]
  next => simp [hdec, FVal.isInf] at hinf

theorem finiteCode_tyFmt {t : Ty} {c : Nat} (ht : tyIsFloat t = true) (hc : c < 2 ^ (tyFmt t).w)
    (hnan : ((tyFmt t).decode c).isNan = false) (hinf : ((tyFmt t).decode c).isInf = false) : (tyFmt t).FiniteCode c := by
  cases t with
  | f32 | f16 | bf16 => exact finiteCode_of_ieee rfl rfl (by decide) hc hnan hinf
  | b8 p uns fin =>
    cases uns with
    | true => exact finiteCode_fmtB8_uns hc hnan hinf
    | false => exact finiteCode_fmtB8_signed hc hnan hinf
  | i32 | z32 | i64 | z64 | i8 => cases ht

/-- The value of a finite code is rounded to that code and no flag is raised. -/
theorem roundNarrow_decode {f : Fmt} {c r : Nat} {mode : Rnd} {sat : Bool} (hfin : f.FiniteCode c) (hr : r < 2 ^ 16) :
    roundNarrow (f.decode c) f mode sat r = ⟨c, 0⟩ := by
  obtain ⟨neg, m, hdec, hmax, huns, hsign⟩ := hfin
  rw [hdec, roundNarrow_mag hmax huns hr, hsign]

/-! ## NaN operands and invalid products -/

theorem FVal.isNan_of_isSig {a : FVal} (h : a.isSig = true) : a.isNan = true := by
  cases a with
  | nan s => rfl
  | inf s | fin s n q => cases h

theorem FVal.isSig_eq_false {a : FVal} (h : a.isNan = false) : a.isSig = false := by
  cases a with
  | nan s => cases h
  | inf s | fin s n q => rfl

/-- An infinity times a zero (R87). -/
def invalidProduct (a b : FVal) : Bool := a.isInf && b.isZero || a.isZero && b.isInf

/-- A NaN operand makes the sum a NaN, and only a signalling one sets IV. -/
theorem addExact_of_isNan {mode : Rnd} {a b : FVal} (h : (a.isNan || b.isNan) = true) :
    addExact mode a b = ⟨.nan false, flIf (a.isSig || b.isSig) flIV⟩ := by
  cases a with
  | nan s => cases b <;> simp [addExact, FVal.isSig]
  | inf s | fin s n q =>
    cases b with
    | nan t => simp [addExact, FVal.isSig]
    | inf t | fin t m q' => cases h

/-- A NaN operand or an invalid product makes the product a NaN; a signalling one, or that the product is invalid, sets IV. -/
theorem mulExact_of_isNan {a b : FVal} (h : (a.isNan || b.isNan || invalidProduct a b) = true) :
    mulExact a b = ⟨.nan false, flIf (a.isSig || b.isSig || invalidProduct a b) flIV⟩ := by
  cases a with
  | nan s => cases b <;> simp [mulExact, invalidProduct, FVal.isSig, FVal.isInf, FVal.isZero]
  | inf s =>
    cases b with
    | nan t => simp [mulExact, invalidProduct, FVal.isSig, FVal.isInf, FVal.isZero]
    | inf t => cases h
    | fin t m q' =>
      have hm : m = 0 := by simpa [invalidProduct, FVal.isNan, FVal.isInf, FVal.isZero] using h
      simp [mulExact, invalidProduct, FVal.isSig, FVal.isInf, FVal.isZero, hm, flIf]
  | fin s n q =>
    cases b with
    | nan t => simp [mulExact, invalidProduct, FVal.isSig, FVal.isInf, FVal.isZero]
    | inf t =>
      have hn : n = 0 := by simpa [invalidProduct, FVal.isNan, FVal.isInf, FVal.isZero] using h
      simp [mulExact, invalidProduct, FVal.isSig, FVal.isInf, FVal.isZero, hn, flIf]
    | fin t m q' => simp [invalidProduct, FVal.isNan, FVal.isInf] at h

/-- Any other product is a number and sets no flag. -/
theorem mulExact_of_number {a b : FVal} (h : (a.isNan || b.isNan || invalidProduct a b) = false) :
    (mulExact a b).v.isNan = false ∧ (mulExact a b).flags = 0 := by
  cases a with
  | nan s => cases h
  | inf s =>
    cases b with
    | nan t => cases h
    | inf t => exact ⟨rfl, rfl⟩
    | fin t m q' =>
      have hm : m ≠ 0 := by simpa [invalidProduct, FVal.isNan, FVal.isInf, FVal.isZero] using h
      simp [mulExact, hm, FVal.isNan]
  | fin s n q =>
    cases b with
    | nan t => cases h
    | inf t =>
      have hn : n ≠ 0 := by simpa [invalidProduct, FVal.isNan, FVal.isInf, FVal.isZero] using h
      simp [mulExact, hn, FVal.isNan]
    | fin t m q' => exact ⟨rfl, rfl⟩

/-- An infinity and a zero are no NaNs, so that a product with a NaN factor is not an invalid one. -/
theorem invalidProduct_eq_false_of_isNan {a b : FVal} (h : (a.isNan || b.isNan) = true) : invalidProduct a b = false := by
  cases a with
  | nan s => rfl
  | inf s | fin s n q =>
    cases b with
    | nan t => simp [invalidProduct, FVal.isInf, FVal.isZero]
    | inf t | fin t m q' => cases h

/-- A NaN operand or an invalid product makes the fused product a NaN, also where both occur; IV is set by a signal and by the
invalid product (R119). -/
theorem fmaExact_of_isNan {mode : Rnd} {a b c : FVal} (h : (a.isNan || b.isNan || c.isNan || invalidProduct a b) = true) :
    fmaExact mode a b c = ⟨.nan false, flIf (a.isSig || b.isSig || c.isSig || invalidProduct a b) flIV⟩ := by
  cases hp : a.isNan || b.isNan || invalidProduct a b with
  | true =>
    have hsum : addExact mode (.nan false) c = ⟨.nan false, flIf c.isSig flIV⟩ := addExact_of_isNan rfl
    rw [fmaExact, mulExact_of_isNan hp, hsum]
    cases a.isSig || b.isSig <;> cases c.isSig <;> cases invalidProduct a b <;> rfl
  | false =>
    obtain ⟨hnum, hfl⟩ := mulExact_of_number hp
    obtain ⟨⟨ha, hb⟩, hinv⟩ : (a.isNan = false ∧ b.isNan = false) ∧ invalidProduct a b = false := by simpa using hp
    have hc : c.isNan = true := by simpa [ha, hb, hinv] using h
    have hsum := addExact_of_isNan (mode := mode) (a := (mulExact a b).v) (b := c) (by rw [hc, Bool.or_true])
    simp [fmaExact, hsum, hfl, hinv, FVal.isSig_eq_false hnum, FVal.isSig_eq_false ha, FVal.isSig_eq_false hb]

theorem fscaleVal_of_isNan {a : FVal} {n : Int} (h : a.isNan = true) : fscaleVal a n = ⟨.nan false, flIf a.isSig flIV⟩ := by
  cases a with
  | nan s => rfl
  | inf s | fin s m q => cases h

/-- An exact result that is a NaN is rounded to the canonical NaN and keeps its flags. -/
theorem FExact.round_nan (fl : BitVec 5) (f : Fmt) (mode : Rnd) (sat : Bool) (r : Nat) :
    FExact.round ⟨.nan false, fl⟩ f mode sat r = ⟨f.nan, fl⟩ := by
  simp [FExact.round, roundNarrow, flIf]

/-- Settles O9: the value of a finite code is a whole number of units, and every NaN result is rounded to the canonical NaN with
the flags of its signals and invalid products. -/
theorem roundingKeepsCodesAndNansAreCanonical : Obligations.RoundingKeepsCodesAndNansAreCanonical := by
  unfold Obligations.RoundingKeepsCodesAndNansAreCanonical
  refine ⟨fun t c mode sat r ht _ hc hr hnan hinf => roundNarrow_decode (finiteCode_tyFmt ht hc hnan hinf) hr,
    fun f mode sat r a b c => ⟨fun h => ?_, fun h => ?_, ⟨fun h => ?_, fun h hsig hinv => ?_⟩, fun n h => ?_⟩⟩
  · have hnan : (a.isNan || b.isNan) = true := by simpa using h
    have hmul := mulExact_of_isNan (a := a) (b := b) (by rw [hnan, Bool.true_or])
    rw [invalidProduct_eq_false_of_isNan hnan, Bool.or_false] at hmul
    simp only [addExact_of_isNan hnan, hmul, FExact.round_nan, and_self]
  · have hnan : (a.isNan || b.isNan || c.isNan) = true := by simpa using h
    rw [fmaExact_of_isNan (by rw [hnan, Bool.true_or]), FExact.round_nan]
  · have hset : (a.isSig || b.isSig || c.isSig || invalidProduct a b) = true := by simpa [invalidProduct] using h
    have hnan : (a.isNan || b.isNan || c.isNan || invalidProduct a b) = true := by
      simp only [Bool.or_eq_true] at hset ⊢
      exact hset.imp_left (Or.imp (Or.imp FVal.isNan_of_isSig FVal.isNan_of_isSig) FVal.isNan_of_isSig)
    rw [fmaExact_of_isNan hnan, FExact.round_nan, hset]
    exact BitVec.and_self
  · have hvalid : invalidProduct a b = false := by simpa [invalidProduct] using hinv
    rw [fmaExact_of_isNan (by rw [h, Bool.true_or]), FExact.round_nan, hsig, hvalid]
    rfl
  · simp only [fscaleVal_of_isNan h, FExact.round_nan, and_self]

end Sys2Proof.Machine

/-! SUPPORT. Instructions of the lanes by their entries: the D operand and the MOD codes that an entry allows (R45 to R57) give
the places of the results and the types under which they are stored. -/

namespace Sys2Proof.Machine

open Sys2Proof.Safety

/-! ## Completion by the entry -/

section Entry
variable {i : Instr} {t : TI} {h : Hdr} {g : Sig} {lat : Nat}

/-- A completion says no more of the results than their values in a well-formed instruction. -/
theorem laneWrites_congr {ws ws' : View → Nat → List (Dst × Word)} (hw : LaneWrites i h lat ws)
    (he : i.wf = true → ∀ v l, ws v l = ws' v l) : LaneWrites i h lat ws' := by
  intro s v hr
  rw [← funext (he hr.legal v)]
  exact hw s v hr

/-- The same of results and flags. -/
theorem laneLands_congr {ws ws' : View → Nat → List (Dst × Word)} {fl fl' : View → Nat → BitVec 5}
    (hl : LaneLands i h lat ws fl) (hw : i.wf = true → ∀ v l, ws v l = ws' v l)
    (hf : i.wf = true → ∀ v l, fl v l = fl' v l) : LaneLands i h lat ws' fl' := by
  intro s v hr
  rw [← funext (hw hr.legal v), ← funext (hf hr.legal v)]
  exact hl s v hr

variable (hs : sig i = some g) (ho : opdsOf i = some (t.d, t.a, t.b, t.c))
include hs ho

/-- The D operand of a well-formed instruction, of a kind that belongs to a lane. -/
theorem laneDest_of_wf {n : Nat} (hwf : i.wf = true) (hk : laneKind g.d = true) (hn : g.d.regs = n) :
    laneDest n t.d = true :=
  hn ▸ laneDest_ok g.d t.d hk (wf_dest hwf hs ho)

/-- A 32-bit result and flags in each participant. -/
theorem laneLands_put32 {w : View → Nat → Word} {fl : View → Nat → BitVec 5}
    (he : ∀ s, exec i s = .next (laneOp s t.h lat fun v l => { ws := v.g.put32 l t.d (w v l), flags := fl v l }))
    (hk : laneKind g.d = true) (hn : g.d.regs = 1) : LaneLands i t.h lat (fun v l => v.g.put32 l t.d (w v l)) fl :=
  laneLands_of i t.h lat _ he fun hwf v l hsh hwin hl =>
    places_put32 v.g l t.d _ hsh hwin hl (laneDest_of_wf hs ho hwf hk hn)

/-- A 32-bit result in each participant, and no flag. -/
theorem laneWrites_put32 {w : View → Nat → Word}
    (he : ∀ s, exec i s = .next (laneOp s t.h lat fun v l => { ws := v.g.put32 l t.d (w v l) }))
    (hk : laneKind g.d = true) (hn : g.d.regs = 1) : LaneWrites i t.h lat fun v l => v.g.put32 l t.d (w v l) :=
  laneWrites_of i t.h lat _ he (fun _ _ => rfl) fun hwf v l hsh hwin hl =>
    places_put32 v.g l t.d _ hsh hwin hl (laneDest_of_wf hs ho hwf hk hn)

/-- A 64-bit result in each participant, and no flag. -/
theorem laneWrites_put64 {w : View → Nat → Dword}
    (he : ∀ s, exec i s = .next (laneOp s t.h lat fun v l => { ws := v.g.put64 l t.d (w v l) }))
    (hk : laneKind g.d = true) (hn : g.d.regs = 2) : LaneWrites i t.h lat fun v l => v.g.put64 l t.d (w v l) :=
  laneWrites_of i t.h lat _ he (fun _ _ => rfl) fun hwf v l hsh hwin hl =>
    places_put64 v.g l t.d _ hsh hwin hl (laneDest_of_wf hs ho hwf hk hn)

variable (hk : laneKind g.d = true) (hn : g.d.regs = 1)
include hk hn

/-- A result of class 0x0 from A, B and C, where the entry's MOD codes are legal. -/
theorem intResult_lane3 {f f' : Word → Word → Word → Word} (he : ∀ s, exec i s = .next (lane3 s t latInt f'))
    (hf : g.mod = true → ∀ a b c, f' a b c = f a b c) : IntResult i t f :=
  laneWrites_congr (laneWrites_put32 hs ho he hk hn) fun hwf _ _ => by rw [hf (wf_mod hwf hs ho)]

/-- The same from A and B. -/
theorem intResult_lane2 {f : Word → Word → Word → Word} {f' : Word → Word → Word}
    (he : ∀ s, exec i s = .next (lane2 s t latInt f')) (hf : g.mod = true → ∀ a b c, f' a b = f a b c) : IntResult i t f :=
  intResult_lane3 (f' := fun a b _ => f' a b) hs ho hk hn he hf

/-- The same from A. -/
theorem intResult_lane1 {f : Word → Word → Word → Word} {f' : Word → Word}
    (he : ∀ s, exec i s = .next (lane1 s t latInt f')) (hf : g.mod = true → ∀ a b c, f' a = f a b c) : IntResult i t f :=
  intResult_lane3 (f' := fun a _ _ => f' a) hs ho hk hn he hf

end Entry

/-! ## The types that entries allow -/

theorem isInt32_iff {ty : Ty} : ty.isInt32 = true ↔ ty = .i32 ∨ ty = .z32 := by cases ty <;> simp [Ty.isInt32]

theorem is64_iff {ty : Ty} : ty.is64 = true ↔ ty = .i64 ∨ ty = .z64 := by cases ty <;> simp [Ty.is64]

theorem sigInt2_isInt32 {t : TI} {sat : Bool} (h : (sigInt2 t sat).mod = true) : t.ty.isInt32 = true := by
  simp only [sigInt2, Bool.and_eq_true] at h
  exact h.1.1

/-- The store of a 32-bit integer type (R83). -/
theorem store32_eq_stored {ty : Ty} (h : ty.isInt32 = true) (sat : Bool) (x : Int) :
    store32 ty sat x = stored 32 ty.signed sat x := by
  rcases isInt32_iff.1 h with rfl | rfl <;> cases sat <;> rfl

/-- The store of a 64-bit integer type (R83). -/
theorem store64_eq_stored {ty : Ty} (h : ty.is64 = true) (sat : Bool) (x : Int) :
    store64 ty sat x = stored 64 ty.signed sat x := by
  rcases is64_iff.1 h with rfl | rfl <;> cases sat <;> rfl

/-! ## Arithmetic (R113) -/

/-- The high half of a product, whatever its sign. -/
theorem ofInt_div_eq_extractLsb' (x : Int) : BitVec.ofInt 32 (x / (2 ^ 32 : Nat)) = (BitVec.ofInt 64 x).extractLsb' 32 32 := by
  apply BitVec.eq_of_toNat_eq
  simp only [BitVec.toNat_ofInt, BitVec.extractLsb'_toNat, Nat.shiftRight_eq_div_pow]
  omega

/-- Settles O1: each result is an exact integer stored under R83, or one of the operands. -/
theorem laneIntegerArithmeticIsExactThenWrapsOrClamps : Obligations.LaneIntegerArithmeticIsExactThenWrapsOrClamps := by
  unfold Obligations.LaneIntegerArithmeticIsExactThenWrapsOrClamps
  intro t
  have store {b : Bool} (hm : (sigInt2 t b).mod = true) (x : Int) := store32_eq_stored (sigInt2_isInt32 hm) t.sat x
  refine ⟨?iadd, ?isub, ?imul, ?imulh, ?imad, ?imin, ?imax, ?iabs, ?ineg⟩
  case iadd => exact intResult_lane2 rfl rfl rfl rfl (fun _ => rfl) fun hm _ _ _ => store hm _
  case isub => exact intResult_lane2 rfl rfl rfl rfl (fun _ => rfl) fun hm _ _ _ => store hm _
  case imul => exact intResult_lane2 rfl rfl rfl rfl (fun _ => rfl) fun hm _ _ _ => store hm _
  case imulh => exact intResult_lane2 rfl rfl rfl rfl (fun _ => rfl) fun _ _ _ _ => ofInt_div_eq_extractLsb' _
  case imad =>
    refine intResult_lane3 rfl rfl rfl rfl (fun _ => rfl) fun hm _ _ _ => ?_
    exact store (b := true) hm _
  case imin => exact intResult_lane2 rfl rfl rfl rfl (fun _ => rfl) fun _ _ _ _ => rfl
  case imax => exact intResult_lane2 rfl rfl rfl rfl (fun _ => rfl) fun _ _ _ _ => rfl
  case iabs =>
    refine intResult_lane1 rfl rfl rfl rfl (fun _ => rfl) fun _ a _ _ => ?_
    rw [store32_eq_stored rfl, Int.natCast_natAbs]
    rfl
  case ineg => exact intResult_lane1 rfl rfl rfl rfl (fun _ => rfl) fun _ _ _ _ => store32_eq_stored rfl _ _

end Sys2Proof.Machine

/-! SUPPORT. Bits of the results of class 0x0 (R113, R114): shifts at and beyond the width, counts of bits, and fields. -/

namespace Sys2Proof.Machine

open Sys2Proof.Safety

/-! ## Bits gathered one by one -/

/-- A word to which a fold has joined `b i` for each `i` that passes a test. -/
theorem getLsbD_foldl_or {n : Nat} (p : Nat → Bool) (b : Nat → BitVec n) (k : Nat) (ls : List Nat) :
    ∀ w : BitVec n, (ls.foldl (fun m i => if p i then m ||| b i else m) w).getLsbD k =
      (w.getLsbD k || ls.any fun i => p i && (b i).getLsbD k) := by
  induction ls with
  | nil => intro w; simp
  | cons i ls ih => intro w; cases hp : p i <;> simp [ih, hp, Bool.or_assoc]

theorem getLsbD_ofNat_two_pow {n j k : Nat} (hk : k < n) : (BitVec.ofNat n (2 ^ j)).getLsbD k = decide (k = j) := by
  rw [BitVec.getLsbD_ofNat, Nat.testBit_two_pow]
  simp [hk, eq_comm]

theorem getLsbD_bitReverse (a : Word) {n : Nat} (hn : n < 32) : (bitReverse a).getLsbD n = a.getLsbD (31 - n) := by
  rw [bitReverse, getLsbD_foldl_or, Bool.eq_iff_iff]
  simp only [BitVec.ofNat_eq_ofNat, BitVec.getLsbD_zero, Bool.false_or, List.any_eq_true, List.mem_range, Bool.and_eq_true,
    getLsbD_ofNat_two_pow hn, decide_eq_true_eq]
  constructor
  · rintro ⟨i, hi, ha, rfl⟩
    rwa [Nat.sub_sub_self (by omega)]
  · exact fun ha => ⟨31 - n, by omega, ha, by omega⟩

/-! ## Shifts -/

/-- A right shift by the width or more leaves copies of the top bit, as one by the width less 1 does. -/
theorem sarBy_eq {n : Nat} (hn : 0 < n) (w : BitVec n) (k : Nat) : sarBy w k = w.sshiftRight (min (n - 1) k) := by
  apply BitVec.eq_of_getLsbD_eq
  intro i hi
  simp only [sarBy, BitVec.getLsbD_sshiftRight, BitVec.msb_eq_getLsbD_last]
  by_cases hk : k < n
  · rw [Nat.min_eq_left hk.le, Nat.min_eq_right (by omega)]
  · rw [Nat.min_eq_right (by omega), Nat.min_eq_left (by omega)]
    by_cases h0 : i = 0
    · simp [h0, show n - 1 < n by omega]
    · rw [if_neg (by omega), if_neg (by omega)]

theorem sarBy_of_le {w : Word} {k : Nat} (hk : 32 ≤ k) : sarBy w k = if w.getLsbD 31 then 0xFFFFFFFF else 0 := by
  rw [sarBy, Nat.min_eq_right hk, show (0xFFFFFFFF : Word) = BitVec.allOnes 32 from rfl]
  apply BitVec.eq_of_getLsbD_eq
  intro i hi
  rw [BitVec.getLsbD_sshiftRight, if_neg (by omega), BitVec.msb_eq_getLsbD_last]
  cases w.getLsbD 31 with
  | true => rw [if_pos rfl, BitVec.getLsbD_allOnes, decide_eq_true hi, decide_eq_false (by omega)]; rfl
  | false => simp

/-! ## Counts -/

theorem popCount_eq_countP {n : Nat} (w : BitVec n) : popCount w = (List.range n).countP fun i => w.getLsbD i :=
  List.countP_eq_length_filter.symm

/-- The bits above the highest 1 bit are counted. -/
theorem countLeading_spec (a : Word) : countLeading a ≤ 32 ∧ (∀ k < countLeading a, a.getLsbD (31 - k) = false) ∧
    (countLeading a < 32 → a.getLsbD (31 - countLeading a) = true) := by
  unfold countLeading
  by_cases h0 : a.toNat = 0
  · have ha : a = 0 := BitVec.eq_of_toNat_eq h0
    simp [ha]
  · have hlog : a.toNat.log2 < 32 := (Nat.log2_lt h0).2 a.isLt
    rw [if_neg h0]
    refine ⟨by omega, fun k hk => ?_, fun _ => ?_⟩
    · rw [← BitVec.testBit_toNat]
      exact Nat.testBit_lt_two_pow ((Nat.log2_lt h0).1 (by omega))
    · rw [← BitVec.testBit_toNat, show 31 - (32 - 1 - a.toNat.log2) = a.toNat.log2 by omega]
      exact Nat.testBit_log2 h0

/-- The bits below the lowest 1 bit are counted. -/
theorem countTrailing_spec (a : Word) : countTrailing a ≤ 32 ∧ (∀ k < countTrailing a, a.getLsbD k = false) ∧
    (countTrailing a < 32 → a.getLsbD (countTrailing a) = true) := by
  unfold countTrailing
  cases hf : (List.range 32).find? fun i => a.getLsbD i with
  | none =>
    rw [List.find?_range_eq_none] at hf
    exact ⟨le_rfl, fun k hk => by simpa using hf k hk, fun h => absurd h (by simp)⟩
  | some i =>
    obtain ⟨hbit, hi, hbelow⟩ := List.find?_range_eq_some.1 hf
    exact ⟨(List.mem_range.1 hi).le, fun k hk => by simpa using hbelow k hk, fun _ => hbit⟩

/-- Settles O2: the operations of the model are those of the table but for shifts by the width or more, and the counts are
characterised by the bits that they pass. -/
theorem laneBitwiseShiftsAndCountsLand : Obligations.LaneBitwiseShiftsAndCountsLand := by
  unfold Obligations.LaneBitwiseShiftsAndCountsLand
  refine ⟨fun t => ⟨?and, ?or, ?xor, ?andn, ?shl, ?shr, ?sar, ?rot, ?popc, ?clz, ?ctz, ?brev, ?mov⟩,
    countLeading_spec, countTrailing_spec, fun a n hn => getLsbD_bitReverse a hn⟩
  case sar =>
    refine intResult_lane2 rfl rfl rfl rfl (fun _ => rfl) fun _ a b _ => ?_
    split
    next hb => exact sarBy_of_le hb
    next hb => rw [sarBy, Nat.min_eq_left (by omega)]
  case popc =>
    exact intResult_lane1 rfl rfl rfl rfl (fun _ => rfl) fun _ a _ _ => by rw [popCount_eq_countP]
  case clz | ctz | brev | mov => exact intResult_lane1 rfl rfl rfl rfl (fun _ => rfl) fun _ _ _ _ => rfl
  all_goals exact intResult_lane2 rfl rfl rfl rfl (fun _ => rfl) fun _ _ _ _ => rfl

/-! ## Fields -/

/-- BFX takes the bits of A from the position on, as many as there are up to the length, and extends them by the type. -/
theorem bfxVal_eq (ty : Ty) (a b c : Word) :
    bfxVal ty a b c =
      if 32 ≤ b.toNat % 256 ∨ c.toNat % 256 = 0 then 0
      else
        let x := a.extractLsb' (b.toNat % 256) (min (c.toNat % 256) (32 - b.toNat % 256))
        if ty = .i32 then x.signExtend 32 else x.setWidth 32 := by
  unfold bfxVal
  generalize b.toNat % 256 = pos
  generalize c.toNat % 256 = n
  dsimp only
  split
  · rfl
  next h =>
  obtain ⟨hpos, hn⟩ := not_or.1 h
  set len := min n (32 - pos) with hlen
  have hx : (a.extractLsb' pos len).toNat = a.toNat / 2 ^ pos % 2 ^ len := by
    rw [BitVec.extractLsb'_toNat, Nat.shiftRight_eq_div_pow]
  have hhalf : 2 ^ len = 2 * 2 ^ (len - 1) := by rw [← Nat.pow_succ', Nat.succ_eq_add_one, Nat.sub_add_cancel (by omega)]
  rw [← hx]
  by_cases hs : ty = .i32
  · rw [if_pos hs, BitVec.signExtend, BitVec.toInt_eq_toNat_cond]
    split
    next hge => rw [if_neg (by omega)]
    next hlt =>
      rw [if_pos (by have := not_and.1 hlt hs; omega), BitVec.ofInt_natCast]
  · rw [if_neg hs, if_neg fun k => hs k.1, BitVec.ofNat_toNat]

theorem getLsbD_bfxVal (ty : Ty) (a b c : Word) {i : Nat} (hi : i < 32) :
    (bfxVal ty a b c).getLsbD i =
      if 32 ≤ b.toNat % 256 ∨ c.toNat % 256 = 0 then false
      else if i < min (c.toNat % 256) (32 - b.toNat % 256) then a.getLsbD (b.toNat % 256 + i)
      else decide (ty = .i32) && a.getLsbD (b.toNat % 256 + min (c.toNat % 256) (32 - b.toNat % 256) - 1) := by
  rw [bfxVal_eq]
  generalize b.toNat % 256 = pos
  generalize c.toNat % 256 = n
  split
  · simp
  next h =>
  obtain ⟨hpos, hn⟩ := not_or.1 h
  set len := min n (32 - pos) with hlen
  have hlast : pos + (len - 1) = pos + len - 1 := by omega
  by_cases hs : ty = .i32
  · rw [if_pos hs, BitVec.getLsbD_signExtend, BitVec.msb_eq_getLsbD_last, BitVec.getLsbD_extractLsb',
      BitVec.getLsbD_extractLsb', hlast]
    by_cases hin : i < len <;> simp [hi, hs, hin, show 0 < len by omega]
  · rw [if_neg hs, BitVec.getLsbD_setWidth, BitVec.getLsbD_extractLsb']
    by_cases hin : i < len <;> simp [hi, hs, hin]

/-- A field of a number replaced: the bits of the field are those of the new value, all others stand. -/
theorem testBit_replaceField (x v pos len i : Nat) :
    (x - x / 2 ^ pos % 2 ^ len * 2 ^ pos + v % 2 ^ len * 2 ^ pos).testBit i =
      if pos ≤ i ∧ i < pos + len then v.testBit (i - pos) else x.testBit i := by
  have hlow : x % 2 ^ pos < 2 ^ pos := Nat.mod_lt _ (Nat.two_pow_pos _)
  have hfield : v % 2 ^ len < 2 ^ len := Nat.mod_lt _ (Nat.two_pow_pos _)
  have hsplit : x - x / 2 ^ pos % 2 ^ len * 2 ^ pos + v % 2 ^ len * 2 ^ pos =
      2 ^ pos * (2 ^ len * (x / 2 ^ pos / 2 ^ len) + v % 2 ^ len) + x % 2 ^ pos := by
    have h1 := Nat.div_add_mod x (2 ^ pos)
    have h2 := Nat.div_add_mod (x / 2 ^ pos) (2 ^ len)
    generalize x / 2 ^ pos / 2 ^ len = hi at *
    generalize x / 2 ^ pos % 2 ^ len = mid at *
    rw [← h2] at h1
    have h3 : 2 ^ pos * (2 ^ len * hi + mid) = 2 ^ pos * (2 ^ len * hi) + mid * 2 ^ pos := by ring
    have h4 : 2 ^ pos * (2 ^ len * hi + v % 2 ^ len) = 2 ^ pos * (2 ^ len * hi) + v % 2 ^ len * 2 ^ pos := by ring
    omega
  rw [hsplit, Nat.testBit_two_pow_mul_add _ hlow]
  by_cases hi : i < pos
  · rw [if_pos hi, if_neg (by omega), Nat.testBit_mod_two_pow]
    simp [hi]
  · rw [if_neg hi, Nat.testBit_two_pow_mul_add _ hfield]
    by_cases hin : i - pos < len
    · rw [if_pos hin, if_pos (by omega), Nat.testBit_mod_two_pow]
      simp [hin]
    · rw [if_neg hin, if_neg (by omega), Nat.testBit_div_two_pow, Nat.testBit_div_two_pow]
      congr 1
      omega

theorem getLsbD_bfiVal (a b c : Word) {i : Nat} (hi : i < 32) :
    (bfiVal a b c).getLsbD i =
      if c.toNat % 256 ≤ i ∧ i < c.toNat % 256 + c.toNat / 256 % 256 then b.getLsbD (i - c.toNat % 256)
      else a.getLsbD i := by
  unfold bfiVal
  generalize c.toNat % 256 = pos
  generalize c.toNat / 256 % 256 = n
  dsimp only
  split
  next h => rw [if_neg (by omega)]
  next h =>
    rw [BitVec.getLsbD_ofNat, testBit_replaceField, decide_eq_true hi, Bool.true_and, BitVec.testBit_toNat, BitVec.testBit_toNat]
    congr 1
    apply propext
    omega

/-- Settles O3: BFX extends the bits of a field, and BFI replaces one. -/
theorem fieldExtractAndInsertFollowTheirLowBytes : Obligations.FieldExtractAndInsertFollowTheirLowBytes := by
  unfold Obligations.FieldExtractAndInsertFollowTheirLowBytes
  refine ⟨fun t => ⟨?bfx, ?bfi⟩, fun ty a b c i _ hi => getLsbD_bfxVal ty a b c hi, fun a b c i hi => getLsbD_bfiVal a b c hi⟩
  case bfx => exact intResult_lane3 rfl rfl rfl rfl (fun _ => rfl) fun _ _ _ _ => rfl
  case bfi => exact intResult_lane3 rfl rfl rfl rfl (fun _ => rfl) fun _ _ _ _ => rfl

end Sys2Proof.Machine

/-! SUPPORT. Sums of bytes, compares, pairs and SPMAP (R115 to R118). -/

namespace Sys2Proof.Machine

open Sys2Proof.Safety

/-! ## Bytes (R116) -/

/-- A byte of a register as an integer (R84). -/
theorem byteInt_eq_asInt (uns : Bool) (w : Word) (i : Nat) : byteInt uns w i = asInt (!uns) (w.extractLsb' (8 * i) 8) := by
  cases uns <;> rfl

/-- Saturation of a sum that is not negative bounds it above only. -/
theorem store32_z32_of_nonneg (sat : Bool) {x : Int} (h : 0 ≤ x) :
    store32 .z32 sat x = BitVec.ofInt 32 (if sat then min x (2 ^ 32 - 1) else x) := by
  cases sat with
  | false => rfl
  | true =>
    have hclamp : clampInt .z32 x = max 0 (min (2 ^ 32 - 1) x) := rfl
    rw [store32, if_pos rfl, if_pos rfl, hclamp, min_comm, max_eq_right (le_min h (by decide))]

theorem sum_range_four (f : Nat → Int) : ((List.range 4).map f).sum = f 0 + f 1 + f 2 + f 3 := by
  simp [List.range_succ, add_assoc]

/-- Settles O4: the four terms of a sum are those of the bytes under the two VAR bits. -/
theorem byteSumsAddFourBytesAndTheAccumulator : Obligations.ByteSumsAddFourBytesAndTheAccumulator := by
  unfold Obligations.ByteSumsAddFourBytesAndTheAccumulator
  refine fun t => ⟨?sad, ?dp4⟩
  case sad =>
    refine intResult_lane3 rfl rfl rfl rfl (fun _ => rfl) fun _ a b c => ?_
    have hsum (ua ub : Bool) : (0 : Int) ≤ c.toNat +
        ((List.range 4).map fun i => ((byteInt ua a i - byteInt ub b i).natAbs : Int)).sum := by
      rw [sum_range_four]
      omega
    rw [sadVal, store32_z32_of_nonneg _ (hsum _ _), sum_range_four]
    simp only [byteInt_eq_asInt, Int.natCast_natAbs, add_assoc]
  case dp4 =>
    refine intResult_lane3 rfl rfl rfl rfl (fun _ => rfl) fun _ a b c => ?_
    rw [dp4Val, store32_eq_stored rfl, sum_range_four]
    simp only [byteInt_eq_asInt, add_assoc]
    rfl

/-! ## Compares (R69, R115) -/

/-- The relations of integers, .ORD and .UNO never holding. -/
theorem bit32_cmpInt (c : Cmp) (x y : Int) :
    bit32 (cmpInt c x y) =
      if (match c with
        | .eq => x == y
        | .ne => x != y
        | .lt => decide (x < y)
        | .le => decide (x ≤ y)
        | .gt => decide (y < x)
        | .ge => decide (y ≤ x)
        | .ord | .uno => false) then 1 else 0 := by
  cases c with
  | ne => by_cases h : x = y <;> simp [cmpInt, bit32, h]
  | _ => rfl

/-- The codes of the integer relations are neither that of .ORD nor that of .UNO. -/
theorem cmp_of_intCmp {t : TI} (h : t.intCmp = true) : t.cmp ≠ .ord ∧ t.cmp ≠ .uno := by
  have codes : ∀ m : BitVec 4, m.toNat ≤ 5 → (Cmp.ofCode m).getD .eq ≠ .ord ∧ (Cmp.ofCode m).getD .eq ≠ .uno := by decide
  exact codes t.mode (by simpa [TI.intCmp] using h)

/-- What a well-formed instruction's source operands are. -/
theorem wf_sources {i : Instr} {g : Sig} {o : Opd × Opd × Opd × Opd} (h : i.wf = true) (hs : sig i = some g)
    (ho : opdsOf i = some o) : g.a.ok o.2.1 = true ∧ g.b.ok o.2.2.1 = true ∧ g.c.ok o.2.2.2 = true := by
  obtain ⟨d, a, b, c⟩ := o
  unfold Instr.wf at h
  rw [hs, ho] at h
  cases hh : hdrOf i with
  | none => simp [hh] at h
  | some hd =>
    simp only [hh, wfSig, Bool.and_eq_true] at h
    obtain ⟨⟨⟨⟨⟨⟨⟨⟨-, ha⟩, hb⟩, hc⟩, -⟩, -⟩, -⟩, -⟩, -⟩ := h
    exact ⟨ha, hb, hc⟩

theorem pred_of_ok {o : Opd} (h : Kind.pred.ok o = true) : ∃ n, o = .p n := by
  cases o <;> simp [Kind.ok] at h ⊢

/-- Settles O5: the relation of a legal code, in the signedness of the type; SEL's C is a predicate. -/
theorem integerComparesAndSelectWriteTheirChoice : Obligations.IntegerComparesAndSelectWriteTheirChoice := by
  unfold Obligations.IntegerComparesAndSelectWriteTheirChoice
  refine fun t => ⟨?icmp, ?icmp64, ?sel, ?codes, fun h => pred_of_ok (wf_sources h rfl rfl).2.2⟩
  case icmp => exact intResult_lane2 rfl rfl rfl rfl (fun _ => rfl) fun _ a b _ => bit32_cmpInt _ _ _
  case icmp64 =>
    refine laneWrites_congr (laneWrites_put32 (i := .icmp64 t) rfl rfl (fun _ => rfl) rfl rfl) fun _ v l => ?_
    exact congrArg (v.g.put32 l t.d) (bit32_cmpInt _ _ _)
  case sel => exact laneWrites_put32 rfl rfl (fun _ => rfl) rfl rfl
  case codes =>
    have legal {i : Instr} {g : Sig} {d a b c : Opd} (hs : sig i = some g) (ho : opdsOf i = some (d, a, b, c))
        (hm : g.mod = true → t.intCmp = true) (h : i.wf = true) : t.cmp ≠ .ord ∧ t.cmp ≠ .uno :=
      cmp_of_intCmp (hm (wf_mod h hs ho))
    exact fun h => h.elim (legal rfl rfl fun hm => (Bool.and_eq_true_iff.1 hm).2)
      (legal rfl rfl fun hm => (Bool.and_eq_true_iff.1 hm).2)

/-! ## Pairs (R117) -/

/-- The product of an integer and a power of 2 is the shift of its bits. -/
theorem ofInt_mul_two_pow {n : Nat} (x : Int) (k : Nat) : BitVec.ofInt n (x * (2 ^ k : Nat)) = BitVec.ofInt n x <<< k := by
  have hpow : BitVec.ofNat n (2 ^ k) = BitVec.twoPow n k :=
    BitVec.eq_of_toNat_eq (by rw [BitVec.toNat_ofNat, BitVec.toNat_twoPow])
  rw [BitVec.ofInt_mul, BitVec.ofInt_natCast, hpow, BitVec.shiftLeft_eq_mul_twoPow]

/-- A register extended under a 64-bit type. -/
theorem ofInt_extInt (ty : Ty) (w : Word) :
    BitVec.ofInt 64 (extInt ty w) = if ty.signed then w.signExtend 64 else w.setWidth 64 := by
  unfold extInt
  split
  · rfl
  · rw [BitVec.ofInt_natCast, BitVec.ofNat_toNat]

/-- Settles O6: sums and products are stored under R83, shifts by 64 or more leave zeros or copies of the top bit, and LEA's
scale is a shift. -/
theorem longArithmeticActsOnPairs : Obligations.LongArithmeticActsOnPairs := by
  unfold Obligations.LongArithmeticActsOnPairs
  intro t
  have store (hm : (sigLong2 t).mod = true) (x : Int) : store64 t.ty t.sat x = stored 64 t.ty.signed t.sat x := by
    simp only [sigLong2, Bool.and_eq_true] at hm
    exact store64_eq_stored hm.1.1 t.sat x
  refine ⟨?iadd64, ?isub64, ?imad64, ?shl64, ?shr64, ?lea, ?mov64⟩
  case iadd64 =>
    exact laneWrites_congr (laneWrites_put64 (i := .iadd64 t) rfl rfl (fun _ => rfl) rfl rfl) fun hwf v l =>
      congrArg (v.g.put64 l t.d) (store (wf_mod hwf rfl rfl) _)
  case isub64 =>
    exact laneWrites_congr (laneWrites_put64 (i := .isub64 t) rfl rfl (fun _ => rfl) rfl rfl) fun hwf v l =>
      congrArg (v.g.put64 l t.d) (store (wf_mod hwf rfl rfl) _)
  case imad64 =>
    refine laneWrites_congr (laneWrites_put64 (i := .imad64 t) rfl rfl (fun _ => rfl) rfl rfl) fun hwf v l => ?_
    have hm := wf_mod hwf rfl rfl
    exact congrArg (v.g.put64 l t.d) (store hm _)
  case shr64 =>
    refine laneWrites_congr (laneWrites_put64 (i := .shr64 t) rfl rfl (fun _ => rfl) rfl rfl) fun _ v l => congrArg (v.g.put64 l t.d) ?_
    dsimp only
    rw [sarBy_eq (n := 64) (by decide)]
    rfl
  case lea =>
    refine laneWrites_congr (laneWrites_put64 (i := .lea t) rfl rfl (fun _ => rfl) rfl rfl) fun _ v l => congrArg (v.g.put64 l t.d) ?_
    dsimp only
    rw [ofInt_mul_two_pow, ofInt_extInt]
    rfl
  case shl64 | mov64 => exact laneWrites_put64 rfl rfl (fun _ => rfl) rfl rfl

/-! ## SPMAP (R118) -/

/-- Inside the window, row, byte and bank stand apart in the word. -/
theorem toNat_spmapVal {x : Word} (h : x.toNat ≤ 0x85FFFF) :
    (spmapVal x).toNat = x.toNat / 8 / 67 * 2 ^ 16 + x.toNat % 8 * 2 ^ 8 + x.toNat / 8 % 67 := by
  rw [spmapVal, if_neg (by omega), BitVec.toNat_ofNat]
  simp only [rowOf, bankOf]
  omega

theorem spmapVal_beyond {x : Word} (h : 0x85FFFF < x.toNat) : spmapVal x = 0xFFFFFFFF := by
  rw [spmapVal, if_pos h]

/-- Settles O7: the fields of the word are read off as digits of its value. -/
theorem spmapWritesRowByteAndBank : Obligations.SpmapWritesRowByteAndBank := by
  unfold Obligations.SpmapWritesRowByteAndBank
  refine ⟨fun t => laneWrites_put32 rfl rfl (fun _ => rfl) rfl rfl, fun x hx => ?_, fun x => spmapVal_beyond⟩
  have hval := toNat_spmapVal hx
  have hrow : x.toNat / 8 / 67 < 2 ^ 14 := by omega
  have hbyte : x.toNat % 8 < 2 ^ 3 := Nat.mod_lt _ (by decide)
  have hbank : x.toNat / 8 % 67 < 2 ^ 7 := by omega
  generalize spmapVal x = w at hval ⊢
  generalize x.toNat / 8 / 67 = row at *
  generalize x.toNat % 8 = byte at *
  generalize x.toNat / 8 % 67 = bank at *
  refine ⟨BitVec.eq_of_toNat_eq ?_, ?_, BitVec.eq_of_toNat_eq ?_, ?_, getLsbD_eq ?_, ?_⟩
  all_goals simp only [BitVec.extractLsb'_toNat, Nat.shiftRight_eq_div_pow, BitVec.ofNat_eq_ofNat, BitVec.toNat_ofNat,
    Bool.toNat_false, Nat.reducePow]
  all_goals omega

end Sys2Proof.Machine

/-! SUPPORT. Float results of the lanes (R119 to R122): the choices of FMIN and FMAX, and the elements and classes that FCMP and
FCLASS see. -/

namespace Sys2Proof.Machine

open Sys2Proof.Safety

/-- Settles O8: each form rounds the exact value of its operation, once for each element. -/
theorem floatArithmeticRoundsTheExactResultOnce : Obligations.FloatArithmeticRoundsTheExactResultOnce := by
  unfold Obligations.FloatArithmeticRoundsTheExactResultOnce
  refine fun t => ⟨?fadd, ?fsub, ?fmul, ?ffma, ?fscale, ?frnd, ?hadd2, ?hmul2, ?hfma2⟩
  all_goals exact laneLands_put32 rfl rfl (fun _ => rfl) rfl rfl

/-! ## FMIN and FMAX (R120) -/

/-- The order of FMIN and FMAX is that of the values, with -0 below +0. -/
theorem below_eq (a b : FVal) : below a b = (cmpVal a b == .lt || (cmpVal a b == .eq && a.neg && !b.neg)) := by
  unfold below
  cases cmpVal a b <;> simp

/-- The code that FMIN and FMAX choose: an operand's own bits, or the canonical NaN. -/
theorem ofNat_minMax_code (isMax : Bool) (a b : Word) :
    BitVec.ofNat 32 (minMax fmtF32 isMax a.toNat b.toNat).code =
      (let x := fmtF32.decode a.toNat
       let y := fmtF32.decode b.toNat
       if x.isNan && y.isNan then 0x7FC00000
       else if x.isNan then b
       else if y.isNan then a
       else if (cmpVal x y == .lt || (cmpVal x y == .eq && x.neg && !y.neg)) != isMax then a else b) := by
  have bits (w : Word) : BitVec.ofNat 32 w.toNat = w := by rw [BitVec.ofNat_toNat, BitVec.setWidth_eq]
  simp only [minMax, below_eq]
  cases (fmtF32.decode a.toNat).isNan <;> cases (fmtF32.decode b.toNat).isNan
  · simp only [Bool.false_and, Bool.false_eq_true, if_false]
    split <;> exact bits _
  · exact bits a
  · exact bits b
  · rfl

/-- Only a signalling NaN sets a flag. -/
theorem minMax_flags (f : Fmt) (isMax : Bool) (a b : Nat) :
    (minMax f isMax a b).flags = if (f.decode a).isSig || (f.decode b).isSig then 16 else 0 := by
  simp only [minMax]
  cases (f.decode a).isNan <;> cases (f.decode b).isNan <;> rfl

/-! ## FCMP and FCLASS (R121, R122) -/

/-- The types of FCMP and FCLASS and the element that VAR names in them. -/
theorem elem_of_mod {t : TI} (h : (t.ty == .f32 && t.var == 0 || t.ty.isHalf && decide (t.var.toNat ≤ 1)) = true) :
    (t.ty = .f32 ∨ t.ty = .f16 ∨ t.ty = .bf16) ∧ t.var.getLsbD 1 = false := by
  have codes : ∀ x : BitVec 2, x.toNat ≤ 1 → x.getLsbD 1 = false := by decide
  rcases Bool.or_eq_true_iff.1 h with h | h
  · obtain ⟨hty, hvar⟩ := Bool.and_eq_true_iff.1 h
    exact ⟨.inl (eq_of_beq hty), codes _ (by rw [eq_of_beq hvar]; decide)⟩
  · obtain ⟨hty, hvar⟩ := Bool.and_eq_true_iff.1 h
    refine ⟨.inr ?_, codes _ (of_decide_eq_true hvar)⟩
    cases ht : t.ty <;> simp [ht, Ty.isHalf] at hty ⊢

/-- The value of the element that FCMP and FCLASS look at. -/
theorem decode_elemSel {t : TI} (h : t.ty = .f32 ∨ t.ty = .f16 ∨ t.ty = .bf16) (w : Word) :
    (tyFmt t.ty).decode (elemSel t w) =
      match t.ty with
      | .f16 => fmtF16.decode (w.extractLsb' (16 * t.var.toNat) 16).toNat
      | .bf16 => fmtBF16.decode (w.extractLsb' (16 * t.var.toNat) 16).toNat
      | _ => fmtF32.decode w.toNat := by
  unfold elemSel
  rcases h with h | h | h <;> rw [h] <;> rfl

/-- The class of a value, one bit of ten. -/
theorem ofNat_fclassVal (f : Fmt) (c : Nat) :
    BitVec.ofNat 32 (fclassVal f c) =
      match f.decode c with
      | .nan true => 0x100
      | .nan false => 0x200
      | .inf true => 0x001
      | .inf false => 0x080
      | .fin s 0 _ => if s then 0x008 else 0x010
      | .fin s n q =>
          if (n.log2 : Int) + q < f.emin then (if s then 0x004 else 0x020) else if s then 0x002 else 0x040 := by
  unfold fclassVal
  cases f.decode c with
  | nan sig => cases sig <;> rfl
  | inf s => cases s <;> rfl
  | fin s n q =>
    cases n with
    | zero => cases s <;> rfl
    | succ n =>
      simp only [Nat.succ_ne_zero, if_false]
      cases s <;> split <;> rfl

/-- Settles O10: the tables of FMIN and FMAX, and the relation or the class of the element that VAR names. -/
theorem floatMinMaxCompareAndClassFollowTheirTables : Obligations.FloatMinMaxCompareAndClassFollowTheirTables := by
  unfold Obligations.FloatMinMaxCompareAndClassFollowTheirTables
  intro t f32 less pick sig elem
  have fcmpElem (h : (Instr.fcmp t).wf = true) := elem_of_mod (Bool.and_eq_true_iff.1 (wf_mod h rfl rfl)).2
  have fclassElem (h : (Instr.fclass t).wf = true) := elem_of_mod (Bool.and_eq_true_iff.1 (wf_mod h rfl rfl)).2
  refine ⟨fun h => h.elim (fun h => (fcmpElem h).2) fun h => (fclassElem h).2, ?fmin, ?fmax, ?fcmp, ?fclass⟩
  case fmin =>
    exact laneLands_congr (laneLands_put32 (i := .fmin t) rfl rfl (fun _ => rfl) rfl rfl)
      (fun _ v l => congrArg (v.g.put32 l t.d) (ofNat_minMax_code false _ _)) fun _ v l => minMax_flags _ _ _ _
  case fmax =>
    exact laneLands_congr (laneLands_put32 (i := .fmax t) rfl rfl (fun _ => rfl) rfl rfl)
      (fun _ v l => congrArg (v.g.put32 l t.d) (ofNat_minMax_code true _ _)) fun _ v l => minMax_flags _ _ _ _
  case fcmp =>
    have value (h : (Instr.fcmp t).wf = true) (v : View) (l : Nat) (o : Opd) :
        (tyFmt t.ty).decode (elemSel t (v.src32 t.h l o)) = elem v l o := decode_elemSel (fcmpElem h).1 _
    refine laneLands_congr (laneLands_put32 (i := .fcmp t) rfl rfl (fun _ => rfl) rfl rfl) (fun h v l => ?_) fun h v l => ?_
    · rw [value h, value h]
      rfl
    · rw [value h, value h]
      rfl
  case fclass =>
    refine laneWrites_congr (laneWrites_put32 (i := .fclass t) rfl rfl (fun _ => rfl) rfl rfl) fun h v l =>
      congrArg (v.g.put32 l t.d) ?_
    have value : (tyFmt t.ty).decode (elemSel t (v.src32 t.h l t.a)) = elem v l t.a := decode_elemSel (fclassElem h).1 _
    rw [← value]
    exact ofNat_fclassVal _ _

end Sys2Proof.Machine

/-! SUPPORT. Lane exchange (R112, R129 to R132): masks of participants, the source lanes of shuffles, folds over the participants,
and the results that VOTE writes for the lanes and for the group together. -/

namespace Sys2Proof.Machine

open Sys2Proof.Safety

/-! ## Masks of lanes -/

theorem has_maskOf (f : Nat → Bool) (k : Nat) : (maskOf f).has k = (decide (k < 64) && f k) := by
  unfold maskOf Mask.has
  by_cases hk : k < 64
  · rw [getLsbD_foldl_or, Bool.eq_iff_iff]
    simp only [BitVec.ofNat_eq_ofNat, BitVec.getLsbD_zero, Bool.false_or, List.any_eq_true, List.mem_range, Bool.and_eq_true,
      getLsbD_ofNat_two_pow hk, decide_eq_true_eq]
    exact ⟨fun ⟨i, hi, hf, e⟩ => ⟨hk, e ▸ hf⟩, fun ⟨hi, hf⟩ => ⟨k, hi, hf, rfl⟩⟩
  · rw [BitVec.getLsbD_of_ge _ _ (Nat.not_lt.1 hk), decide_eq_false hk, Bool.false_and]

/-- A mask has lanes below 64 only. -/
theorem lt_and_has (m : Mask) (l : Nat) : (decide (l < 64) && m.has l) = m.has l := by
  by_cases hl : l < 64
  · rw [decide_eq_true hl, Bool.true_and]
  · rw [Mask.has, BitVec.getLsbD_of_ge _ _ (Nat.not_lt.1 hl), Bool.and_false]

theorem mem_lanesOf {m : Mask} {l : Nat} : l ∈ lanesOf m ↔ m.has l = true := by
  rw [lanesOf, List.mem_filter, List.mem_range]
  refine ⟨And.right, fun h => ⟨?_, h⟩⟩
  rw [← lt_and_has, Bool.and_eq_true, decide_eq_true_eq] at h
  exact h.1

theorem lanesOf_eq_nil {m : Mask} : lanesOf m = [] ↔ m = 0 := by
  rw [List.eq_nil_iff_forall_not_mem]
  simp only [mem_lanesOf, Bool.not_eq_true]
  exact ⟨fun h => BitVec.eq_of_getLsbD_eq fun i _ => by simpa using h i, fun h l => by simp [h]⟩

/-- The participants of a cross-lane instruction (R112). -/
theorem has_sharers (v : View) (h : Hdr) (l : Nat) : (v.sharers h).has l = (decide (l < 64) &&
    if v.g.converged v.pc then v.g.active.has l && v.g.scope.has l && v.guard h l else v.carried.has l && v.guard h l) := by
  unfold View.sharers View.parts
  split <;> exact has_maskOf _ _

/-- The participants whose predicate holds. -/
theorem has_ballot (v : View) (t : TI) (l : Nat) :
    (v.ballot t).has l = ((v.sharers t.h).has l && v.pred l t.a) := by
  rw [View.ballot, has_maskOf, ← Bool.and_assoc, lt_and_has]

/-! ## Shuffles (R129) -/

theorem segWidth_eq (t : TI) :
    segWidth t = match t.var.toNat with
      | 0 => 64
      | 1 => 32
      | 2 => 16
      | _ => 8 := by
  have codes : ∀ x : BitVec 2, 64 / 2 ^ x.toNat = match x.toNat with
      | 0 => 64
      | 1 => 32
      | 2 => 16
      | _ => 8 := by decide
  exact codes t.var

/-- A shuffle writes A of the lane that its rule names, or of the own lane where that one does not take part. -/
theorem laneWrites_shuffle {i : Instr} {t : TI} {src : Nat → Nat → Nat → Nat} (hs : sig i = some (sigShfl t))
    (ho : opdsOf i = some (t.d, t.a, t.b, t.c)) (he : ∀ s, exec i s = .next (shuffle s t src)) :
    LaneWrites i t.h 6 fun v l =>
      let k := src (segWidth t) l (v.src32 t.h l t.b).toNat
      let m := if (v.sharers t.h).has k then k else l
      if t.ty.is64 then v.g.put64 l t.d (v.src64 t.h m (t.ty == .i64) t.a) else v.g.put32 l t.d (v.src32 t.h m t.a) := by
  refine laneWrites_of i t.h latExch _ he (fun _ _ => rfl) fun hwf v l hsh hwin hl => ?_
  dsimp only
  by_cases h64 : t.ty.is64 = true
  · have hd : laneDest 2 t.d = true := laneDest_of_wf hs ho hwf (by rw [sigShfl, if_pos h64]; rfl) (by rw [sigShfl, if_pos h64]; rfl)
    rw [if_pos h64]
    exact places_put64 v.g l t.d _ hsh hwin hl hd
  · have hd : laneDest 1 t.d = true := laneDest_of_wf hs ho hwf (by rw [sigShfl, if_neg h64]; rfl) (by rw [sigShfl, if_neg h64]; rfl)
    rw [if_neg h64]
    exact places_put32 v.g l t.d _ hsh hwin hl hd

/-! ## REDUX (R132) -/

/-- The fold of a choice between two values, by the order that it keeps: one of the values, and below or equal to each. -/
theorem foldl_choose {α : Type} (f : α → α → α) (r : α → α → Prop) (hrefl : ∀ a, r a a) (htrans : ∀ a b c, r a b → r b c → r a c)
    (hf : ∀ a b, (f a b = a ∨ f a b = b) ∧ r (f a b) a ∧ r (f a b) b) (xs : List α) :
    ∀ x, xs.foldl f x ∈ x :: xs ∧ ∀ y ∈ x :: xs, r (xs.foldl f x) y := by
  induction xs with
  | nil => intro x; simp [hrefl]
  | cons z xs ih =>
    intro x
    obtain ⟨hmem, hle⟩ := ih (f x z)
    obtain ⟨hor, hx, hz⟩ := hf x z
    have hfirst := hle (f x z) (by simp)
    rw [List.foldl_cons]
    refine ⟨?_, fun y hy => ?_⟩
    · rcases List.mem_cons.1 hmem with h | h
      · rw [h]
        rcases hor with e | e <;> simp [e]
      · simp [h]
    · rcases List.mem_cons.1 hy with rfl | hy
      · exact htrans _ _ _ hfirst hx
      · rcases List.mem_cons.1 hy with rfl | hy
        · exact htrans _ _ _ hfirst hz
        · exact hle y (by simp [hy])

/-- The least of several registers under the type. -/
theorem foldl_iminVal (ty : Ty) (x : Word) (xs : List Word) :
    xs.foldl (iminVal ty) x ∈ x :: xs ∧ ∀ y ∈ x :: xs, int32 ty (xs.foldl (iminVal ty) x) ≤ int32 ty y := by
  refine foldl_choose (iminVal ty) (fun a b => int32 ty a ≤ int32 ty b) (fun _ => le_rfl) (fun _ _ _ => le_trans)
    (fun a b => ?_) xs x
  unfold iminVal
  split
  next h => exact ⟨.inl rfl, le_rfl, h⟩
  next h => exact ⟨.inr rfl, (not_le.1 h).le, le_rfl⟩

/-- The greatest. -/
theorem foldl_imaxVal (ty : Ty) (x : Word) (xs : List Word) :
    xs.foldl (imaxVal ty) x ∈ x :: xs ∧ ∀ y ∈ x :: xs, int32 ty y ≤ int32 ty (xs.foldl (imaxVal ty) x) := by
  refine foldl_choose (imaxVal ty) (fun a b => int32 ty b ≤ int32 ty a) (fun _ => le_rfl) (fun _ _ _ h k => le_trans k h)
    (fun a b => ?_) xs x
  unfold imaxVal
  split
  next h => exact ⟨.inr rfl, h, le_rfl⟩
  next h => exact ⟨.inl rfl, le_rfl, (not_le.1 h).le⟩

theorem getLsbD_foldl_and (i : Nat) (xs : List Word) :
    ∀ x : Word, (xs.foldl (· &&& ·) x).getLsbD i = true ↔ ∀ y ∈ x :: xs, y.getLsbD i = true := by
  induction xs with
  | nil => intro x; simp
  | cons z xs ih => intro x; simp [ih, and_assoc]

theorem getLsbD_foldl_orAll (i : Nat) (xs : List Word) :
    ∀ x : Word, (xs.foldl (· ||| ·) x).getLsbD i = true ↔ ∃ y ∈ x :: xs, y.getLsbD i = true := by
  induction xs with
  | nil => intro x; simp
  | cons z xs ih => intro x; simp [ih, or_assoc]

theorem getLsbD_foldl_xor (i : Nat) (xs : List Word) :
    ∀ x : Word, (xs.foldl (· ^^^ ·) x).getLsbD i = true ↔ ((x :: xs).countP fun y => y.getLsbD i) % 2 = 1 := by
  induction xs with
  | nil => intro x; cases h : x.getLsbD i <;> simp [h]
  | cons z xs ih =>
    intro x
    rw [List.foldl_cons, ih]
    simp only [List.countP_cons, BitVec.getLsbD_xor]
    cases x.getLsbD i <;> cases z.getLsbD i <;> simp
    omega

/-- REDUX of an integer type raises no flag, and its code is a 32-bit word. -/
theorem reduxVal_int {t : TI} (ht : t.ty ≠ .f32) (x : Word) (xs : List Word) : ∃ w : Word,
    reduxVal t (x :: xs) = ⟨w.toNat, 0⟩ ∧
    (t.rndBits = 0 → w = store32 t.ty t.sat (((x :: xs).map (int32 t.ty)).sum)) ∧
    (t.rndBits = 1 → w = xs.foldl (iminVal t.ty) x) ∧ (t.rndBits = 2 → w = xs.foldl (imaxVal t.ty) x) ∧
    (t.rndBits = 3 → w = xs.foldl (· &&& ·) x) ∧ (t.rndBits = 4 → w = xs.foldl (· ||| ·) x) ∧
    (t.rndBits = 5 → w = xs.foldl (· ^^^ ·) x) := by
  simp only [reduxVal, if_neg ht]
  refine ⟨_, rfl, ?_, ?_, ?_, ?_, ?_, ?_⟩ <;> (intro h; rw [h]; rfl)

/-- One element more of an F32 fold: an addition, or a choice of FMIN or FMAX. -/
theorem foldFloat_eq (k : BitVec 3) (acc : FRes) (y : Word) :
    foldFloat k.toNat acc y =
      (let n := if k = 0 then (addExact .rne (fmtF32.decode acc.code) (fmtF32.decode y.toNat)).round fmtF32 .rne false 0
        else minMax fmtF32 (decide (k ≠ 1)) acc.code y.toNat
       ⟨n.code, acc.flags ||| n.flags⟩) := by
  unfold foldFloat
  by_cases h0 : k = 0
  · subst h0; rfl
  by_cases h1 : k = 1
  · subst h1; rfl
  have hk : ∀ k : BitVec 3, k ≠ 0 → k ≠ 1 → 2 ≤ k.toNat := by decide
  obtain ⟨n, hn⟩ := Nat.exists_eq_add_of_le' (hk k h0 h1)
  simp only [hn, if_neg h0, h1, ne_eq, not_false_eq_true, decide_true]

theorem reduxVal_f32_append {t : TI} (ht : t.ty = .f32) {xs : List Word} (hxs : xs ≠ []) (y : Word) :
    reduxVal t (xs ++ [y]) = foldFloat t.rndBits.toNat (reduxVal t xs) y := by
  obtain ⟨x, rest, rfl⟩ := List.exists_cons_of_ne_nil hxs
  simp only [reduxVal, List.cons_append, if_pos ht, List.foldl_append, List.foldl_cons, List.foldl_nil]

/-- Settles O13: shuffles read the lane of their rule, masks hold the participants that pass, and REDUX folds over the
participants. -/
theorem shufflesAndMasksReadTheParticipants : Obligations.ShufflesAndMasksReadTheParticipants := by
  unfold Obligations.ShufflesAndMasksReadTheParticipants
  intro t w from_ moves
  have hw : segWidth t = w := segWidth_eq t
  have eq_setWidth (x y : Word) : (x.setWidth 64 == y.setWidth 64) = (x == y) := by
    rw [Bool.eq_iff_iff, beq_iff_eq, beq_iff_eq]
    exact ⟨fun h => by simpa using congrArg (BitVec.setWidth 32) h, congrArg _⟩
  refine ⟨?idx, ?up, ?dn, ?xor, ?ballot, ?mpopc, ?matchOp, ?redux, fun v l => has_sharers v t.h l, ?int, ?float⟩
  case idx =>
    have h := laneWrites_shuffle (i := .shflIdx t) rfl rfl fun _ => rfl
    simp only [shflIdxLane, hw, Nat.div_mul_self_eq_mod_sub_self] at h
    exact h
  case up =>
    have h := laneWrites_shuffle (i := .shflUp t) rfl rfl fun _ => rfl
    simp only [shflUpLane, hw, Nat.div_mul_self_eq_mod_sub_self] at h
    exact h
  case dn =>
    have h := laneWrites_shuffle (i := .shflDn t) rfl rfl fun _ => rfl
    simp only [shflDnLane, hw, Nat.div_mul_self_eq_mod_sub_self] at h
    exact h
  case xor =>
    have h := laneWrites_shuffle (i := .shflXor t) rfl rfl fun _ => rfl
    simp only [shflXorLane, hw] at h
    exact h
  case ballot =>
    refine ⟨fun v => v.ballot t, fun v l => ?_, laneWrites_put64 rfl rfl (fun _ => rfl) rfl rfl⟩
    rw [has_ballot, lt_and_has]
  case mpopc =>
    exact laneWrites_congr (laneWrites_put32 (i := .mpopc t) rfl rfl (fun _ => rfl) rfl rfl) fun _ v l => by
      rw [← List.countP_eq_length_filter]
  case matchOp =>
    refine ⟨_, fun v l k => ?_, laneWrites_put64 rfl rfl (fun _ => rfl) rfl rfl⟩
    rw [has_maskOf, Bool.and_assoc]
    split
    · rfl
    · rw [eq_setWidth]
  case redux => exact laneLands_put32 rfl rfl (fun _ => rfl) rfl rfl
  case int =>
    intro ht x xs
    have hint : t.ty.isInt32 = true := isInt32_iff.2 ht
    obtain ⟨w, hval, hsum, hmin, hmax, hand, hor, hxor⟩ := reduxVal_int (t := t) (by rintro h; simp [h] at ht) x xs
    have hcode : BitVec.ofNat 32 w.toNat = w := by rw [BitVec.ofNat_toNat, BitVec.setWidth_eq]
    simp only [hval, hcode]
    refine ⟨trivial, w.isLt, fun h => ?_, fun h => ?_, fun h => ?_, fun i _ => ⟨fun h => ?_, fun h => ?_, fun h => ?_⟩⟩
    · rw [hsum h, store32_eq_stored hint]
      rfl
    · rw [hmin h]
      exact foldl_iminVal t.ty x xs
    · rw [hmax h]
      exact foldl_imaxVal t.ty x xs
    · rw [hand h]
      exact getLsbD_foldl_and i xs x
    · rw [hor h]
      exact getLsbD_foldl_orAll i xs x
    · rw [hxor h]
      exact getLsbD_foldl_xor i xs x
  case float =>
    refine fun ht x => ⟨?_, fun xs y hxs => ?_⟩
    · simp only [reduxVal, if_pos ht]
      rfl
    · rw [reduxVal_f32_append ht hxs]
      exact foldFloat_eq _ _ _

end Sys2Proof.Machine

/-! SUPPORT. Results that an issue writes for its group: VOTE (R131) and the group pipe (R133 to R137). -/

namespace Sys2Proof.Machine

open Sys2Proof.Safety

/-! ## Issues that write fixed-latency results -/

/-- An instruction that ends as a list of fixed-latency results in its own group. -/
theorem writesFixed_lands {i : Instr} {s : State} {v : View} {f : Group → Group} {lat len : Nat} {ws : List (Dst × Word)}
    (hexec : exec i s = .next (issueDone (modGroup s v.g.id f) len)) (hv : viewOf s = some v) (hf : ∀ g, (f g).id = g.id)
    (hws : f v.g = v.g.writesFixed v.cyc lat ws) (he : Exist v.g ws) (ha : Apart v.g ws) :
    ∃ u g', exec i s = .next u ∧ OnlyGroup s u v.g.id ∧ getGroup u v.g.id = some g' ∧ LandsFixed v.g g' v.cyc lat ws ∧
      bareGroup g' = bareGroup (stepOn v.g v.carried len) := by
  obtain ⟨hown, hget⟩ := onlyGroup_done s v f len hv hf
  obtain ⟨hlands, hothers⟩ := landsFixed_writesFixed v.cyc lat ws v.g he ha
  refine ⟨_, _, hexec, hown, hget, ⟨fun x hx hr c hc => ?_, fun d hd c hc => ?_⟩, ?_⟩
  · rw [read_advance, hws]
    exact hlands x hx hr c hc
  · rw [read_advance, hws]
    exact hothers d hd c hc
  · rw [bareGroup_advance, hws]
    exact bareGroup_stepOn _ _ (bareGroup_writesFixed _ _ _ _)

/-! ## VOTE (R131) -/

theorem ballot_eq_sharers {v : View} {t : TI} :
    v.ballot t = v.sharers t.h ↔ ∀ l ∈ lanesOf (v.sharers t.h), v.pred l t.a = true := by
  simp only [mem_lanesOf]
  refine ⟨fun h l hl => ?_, fun h => BitVec.eq_of_getLsbD_eq fun l _ => (has_ballot v t l).trans ?_⟩
  · have hb := has_ballot v t l
    rw [h, hl, Bool.true_and] at hb
    exact hb.symm
  · by_cases hl : (v.sharers t.h).has l = true
    · rw [h l hl, Bool.and_true]
    · rw [Bool.not_eq_true] at hl
      rw [hl, Bool.false_and, ← hl]

theorem ballot_eq_zero {v : View} {t : TI} :
    v.ballot t = 0 ↔ ∀ l ∈ lanesOf (v.sharers t.h), v.pred l t.a = false := by
  rw [← lanesOf_eq_nil, List.eq_nil_iff_forall_not_mem]
  simp only [mem_lanesOf, has_ballot, Bool.and_eq_true, not_and, Bool.not_eq_true]

/-- All participants, one of them, or all alike. -/
theorem voteVal_ballot (v : View) (t : TI) :
    (t.var = 0 → (voteVal t.var.toNat (v.sharers t.h) (v.ballot t) = true ↔
      ∀ l ∈ lanesOf (v.sharers t.h), v.pred l t.a = true)) ∧
    (t.var = 1 → (voteVal t.var.toNat (v.sharers t.h) (v.ballot t) = true ↔
      ∃ l ∈ lanesOf (v.sharers t.h), v.pred l t.a = true)) ∧
    (t.var = 2 → (voteVal t.var.toNat (v.sharers t.h) (v.ballot t) = true ↔
      ∀ l ∈ lanesOf (v.sharers t.h), ∀ k ∈ lanesOf (v.sharers t.h), v.pred l t.a = v.pred k t.a)) := by
  refine ⟨fun h => ?_, fun h => ?_, fun h => ?_⟩ <;> rw [h]
  · exact beq_iff_eq.trans ballot_eq_sharers
  · refine bne_iff_ne.trans ((not_congr ballot_eq_zero).trans ?_)
    simp only [not_forall, Bool.not_eq_false, exists_prop]
  · refine Bool.or_eq_true_iff.trans ((or_congr (beq_iff_eq.trans ballot_eq_zero) (beq_iff_eq.trans ballot_eq_sharers)).trans ?_)
    refine ⟨fun h l hl k hk => ?_, fun h => ?_⟩
    · rcases h with h | h <;> rw [h l hl, h k hk]
    · by_cases hne : ∃ l ∈ lanesOf (v.sharers t.h), v.pred l t.a = true
      · obtain ⟨l, hl, hp⟩ := hne
        exact .inr fun k hk => (h k hk l hl).trans hp
      · exact .inl fun k hk => Bool.eq_false_iff.2 fun hp => hne ⟨k, hk, hp⟩

/-- Z is set when the result is 0 and MZ when no participant's predicate holds. -/
theorem gfVote_setWidth (v : View) (t : TI) (r : Bool) :
    (gfVote r (v.ballot t != 0)).setWidth 32 =
      (if r then 0 else 1) + (if (lanesOf (v.sharers t.h)).any fun l => v.pred l t.a then 0 else 16) := by
  have hany : (v.ballot t != 0) = (lanesOf (v.sharers t.h)).any fun l => v.pred l t.a := by
    rw [Bool.eq_iff_iff, bne_iff_ne, ne_eq, ballot_eq_zero]
    simp only [List.any_eq_true, not_forall, Bool.not_eq_false, exists_prop]
  rw [hany]
  cases r <;> cases (lanesOf (v.sharers t.h)).any fun l => v.pred l t.a <;> decide

/-- GF and the results of lanes are different cells. -/
theorem places_vote {g : Group} {f : Nat → List (Dst × Word)} {m : Mask} (b : Bool) (w : Word)
    (h : ∀ l ∈ lanesOf m, LanePlaces g l (f l)) :
    Exist g ((lanesOf m).flatMap f ++ [(.gf b, w)]) ∧ Apart g ((lanesOf m).flatMap f ++ [(.gf b, w)]) := by
  obtain ⟨he, ha⟩ := places_lanes g f (lanesOf m) (lanesOf_nodup m) h
  refine ⟨fun x hx => ?_, List.pairwise_append.2 ⟨ha, List.pairwise_singleton _ _, fun a hmem x hx _ _ => ?_⟩⟩
  · rcases List.mem_append.1 hx with hx | hx
    · exact he x hx
    · rw [List.mem_singleton.1 hx]
      exact fun _ => rfl
  · obtain ⟨l, hl, hal⟩ := List.mem_flatMap.1 hmem
    have hlane := (h l hl).own a hal
    rw [List.mem_singleton.1 hx]
    cases hd : a.1 <;> simp [hd, laneOfDst] at hlane <;> rfl

theorem modGroup_self (s : State) (id : Nat) : modGroup s id (fun g => g) = s := by
  simp [modGroup]

/-- Settles O14: the result is a fold of the ballot, and GF a cell of its own beside the lanes' predicates. -/
theorem voteWritesItsResultAndGF : Obligations.VoteWritesItsResultAndGF := by
  unfold Obligations.VoteWritesItsResultAndGF
  refine ⟨fun t hwf => ?_, fun t s v hr => ?_⟩
  · have hmod := wf_mod hwf rfl rfl
    simp only [Bool.and_eq_true, beq_iff_eq, bne_iff_ne] at hmod
    exact ⟨hmod.1.2, hmod.1.1, pred_of_ok (wf_sources hwf rfl rfl).1, pred_of_ok (wf_dest hwf rfl rfl)⟩
  · have hexec : exec (.vote t) s = execVote t s := rfl
    simp only [execVote, hr.view] at hexec
    by_cases hnone : v.parts t.h = 0
    · have hdone : issueDone s t.h.len.bytes = issueDone (modGroup s v.g.id fun g => g) t.h.len.bytes := by rw [modGroup_self]
      rw [if_pos hnone, hdone] at hexec
      obtain ⟨u, g', hnext, hown, hget, hland, hbare⟩ := writesFixed_lands (lat := latExch) (ws := []) hexec hr.view
        (fun _ => rfl) rfl (by simp [Exist]) List.Pairwise.nil
      exact ⟨u, g', hnext, hown, hget, hbare, fun _ d c hc => hland.others d (by simp) c hc, fun h => absurd hnone h⟩
    · have hdest : laneDest 1 t.d = true := laneDest_of_wf (i := .vote t) rfl rfl hr.legal rfl rfl
      rw [if_neg hnone] at hexec
      obtain ⟨he, ha⟩ := places_vote (g := v.g) (m := v.parts t.h) v.g.onBank
        ((gfVote (voteVal t.var.toNat (v.sharers t.h) (v.ballot t)) (v.ballot t != 0)).setWidth 32) fun l hl =>
          places_put32 v.g l t.d (bit32 (voteVal t.var.toNat (v.sharers t.h) (v.ballot t))) hr.shaped hr.windows
            (lt_of_mem_lanesOf hl) hdest
      obtain ⟨u, g', hnext, hown, hget, hland, hbare⟩ :=
        writesFixed_lands hexec hr.view (fun _ => writesFixed_id _ _ _ _) rfl he ha
      obtain ⟨hall, hany, hsame⟩ := voteVal_ballot v t
      rw [gfVote_setWidth] at hland
      exact ⟨u, g', hnext, hown, hget, hbare, fun h => absurd h hnone, fun _ => ⟨_, hall, hany, hsame, hland⟩⟩

/-! ## The group pipe (R134 to R137) -/

/-- An instruction of the group pipe completes for a converged group: its results are readable 2 cycles later, and nothing else
changes. -/
def GroupLands (i : Instr) (h : Hdr) (ws : View → List (Dst × Word)) : Prop :=
  ∀ s v, Ready i s v → v.g.converged v.pc = true → ∃ u g', exec i s = .next u ∧ OnlyGroup s u v.g.id ∧
    getGroup u v.g.id = some g' ∧ LandsFixed v.g g' v.cyc 2 (ws v) ∧
    bareGroup g' = bareGroup (stepOn v.g v.carried h.len.bytes)

/-- Results whose places exist and do not overlap land. -/
theorem groupLands_of {i : Instr} {h : Hdr} {ws : View → List (Dst × Word)}
    (he : ∀ s, exec i s = .next (groupOp s h ws))
    (hp : i.wf = true → ∀ v : View, groupShaped v.g = true → Exist v.g (ws v) ∧ Apart v.g (ws v)) : GroupLands i h ws := by
  intro s v hr hconv
  have hexec := he s
  simp only [groupOp, hr.view, hconv, if_true] at hexec
  obtain ⟨hexist, hapart⟩ := hp hr.legal v hr.shaped
  exact writesFixed_lands hexec hr.view (fun _ => writesFixed_id _ _ _ _) rfl hexist hapart

theorem groupLands_congr {i : Instr} {h : Hdr} {ws ws' : View → List (Dst × Word)} (hl : GroupLands i h ws)
    (he : i.wf = true → ∀ v, ws v = ws' v) : GroupLands i h ws' := by
  intro s v hr
  rw [← he hr.legal v]
  exact hl s v hr

/-- A group register exists, on either bank. -/
theorem gPlace_exists {g : Group} (hs : groupShaped g = true) {k : Nat} (hk : k < 24) : placeExists g (g.gPlace k) = true := by
  simp only [groupShaped, Bool.and_eq_true, beq_iff_eq] at hs
  obtain ⟨⟨⟨-, hg⟩, hbg⟩, -⟩ := hs
  unfold Group.gPlace
  split
  · simp [placeExists, hbg, hk]
  · simp [placeExists, hg, hk]

theorem gPlace_apart (g : Group) {j k : Nat} (h : j ≠ k) : sameCell g (g.gPlace j) (g.gPlace k) = false := by
  unfold Group.gPlace
  split <;> simp [sameCell, h]

/-- A group register takes a 32-bit result. -/
theorem places_gReg {g : Group} (hs : groupShaped g = true) {d : Opd} (hd : Kind.gReg.ok d = true) (l : Nat) (w : Word) :
    Exist g (g.put32 l d w) ∧ Apart g (g.put32 l d w) := by
  cases d <;> simp [Kind.ok] at hd
  next k =>
  have hput : g.put32 l (.g k) w = [(g.gPlace k.val, w)] := rfl
  rw [hput]
  refine ⟨fun x hx _ => ?_, List.pairwise_singleton _ _⟩
  rw [List.mem_singleton.1 hx]
  exact gPlace_exists hs k.isLt

/-- A group pair takes a 64-bit result: its first register is even, so that the second exists too. -/
theorem places_gPair {g : Group} (hs : groupShaped g = true) {d : Opd} (hd : Kind.gPair.ok d = true) (l : Nat) (w : Dword) :
    Exist g (g.put64 l d w) ∧ Apart g (g.put64 l d w) := by
  cases d <;> simp [Kind.ok] at hd
  next k =>
  have hk := k.isLt
  have hput : g.put64 l (.g k) w = [(g.gPlace k.val, w.lo), (g.gPlace (k.val + 1), w.hi)] := rfl
  rw [hput]
  refine ⟨fun x hx _ => ?_, List.pairwise_pair.2 fun _ _ => gPlace_apart g (by omega)⟩
  rcases List.mem_cons.1 hx with rfl | hx
  · exact gPlace_exists hs hk
  · rw [List.mem_singleton.1 hx]
    exact gPlace_exists hs (by omega)

section Pipe
variable {i : Instr} {t : TI} {g : Sig} {x : View → Dword}
variable (he : ∀ s, exec i s = .next (groupOp s t.h fun v => groupPut v t (x v)))
variable (hs : sig i = some g) (ho : opdsOf i = some (t.d, t.a, t.b, t.c)) (hd : g.d = gdst t)
include he hs ho hd

/-- A result of the type's width lands in D. -/
theorem groupLands_put : GroupLands i t.h fun v => groupPut v t (x v) := by
  refine groupLands_of he fun hwf v hsh => ?_
  have hok := wf_dest hwf hs ho
  rw [hd, gdst] at hok
  unfold groupPut
  by_cases h64 : t.ty.is64 = true
  · rw [if_pos h64] at hok ⊢
    exact places_gPair hsh hok 0 _
  · rw [if_neg h64] at hok ⊢
    exact places_gReg hsh hok 0 _

/-- The same, with the result given apart for either width. -/
theorem groupLands_width {w : View → Word} {p : View → Dword} (h64 : t.ty.is64 = true → ∀ v, x v = p v)
    (h32 : g.mod = true → t.ty.is64 = false → ∀ v, (x v).lo = w v) :
    GroupLands i t.h fun v => if t.ty.is64 then v.g.put64 0 t.d (p v) else v.g.put32 0 t.d (w v) := by
  refine groupLands_congr (groupLands_put he hs ho hd) fun hwf v => ?_
  unfold groupPut
  by_cases h : t.ty.is64 = true
  · rw [if_pos h, if_pos h, h64 h]
  · rw [if_neg h, if_neg h, h32 (wf_mod hwf hs ho) (Bool.not_eq_true _ ▸ h)]

end Pipe

/-- The low register of a 32-bit value held in a pair. -/
theorem lo_setWidth (w : Word) : Dword.lo (w.setWidth 64) = w := by simp

section Values
variable {t : TI}

theorem groupBits_of_is64 (h : t.ty.is64 = true) (v : View) (o : Opd) : v.groupBits t o = v.src64 t.h 0 (t.ty == .i64) o :=
  if_pos h

theorem groupBits_of_not_is64 (h : t.ty.is64 = false) (v : View) (o : Opd) :
    v.groupBits t o = (v.src32 t.h 0 o).setWidth 64 := by rw [View.groupBits, h]; rfl

/-- The type of a group-pipe instruction is an integer type. -/
theorem isInt32_of_sigG2 {b : Bool} (h : (sigG2 t b).mod = true) (h64 : t.ty.is64 = false) : t.ty.isInt32 = true := by
  simp only [sigG2, Ty.isInt, h64, Bool.or_false, Bool.and_eq_true] at h
  exact h.1

/-- Arithmetic of the group pipe is exact, then stored under R83. -/
theorem groupLands_arith {i : Instr} {f : Int → Int → Int} (he : ∀ s, exec i s = .next (groupArith s t f))
    (hs : sig i = some (sigG2 t (t.var == 0 && t.satMode))) (ho : opdsOf i = some (t.d, t.a, t.b, t.c)) :
    GroupLands i t.h fun v =>
      if t.ty.is64 then v.g.put64 0 t.d (stored 64 t.ty.signed t.sat
        (f (asInt t.ty.signed (v.src64 t.h 0 (t.ty == .i64) t.a)) (asInt t.ty.signed (v.src64 t.h 0 (t.ty == .i64) t.b))))
      else v.g.put32 0 t.d (stored 32 t.ty.signed t.sat
        (f (asInt t.ty.signed (v.src32 t.h 0 t.a)) (asInt t.ty.signed (v.src32 t.h 0 t.b)))) := by
  refine groupLands_width he hs ho rfl (fun h64 v => ?_) fun hm h64 v => ?_
  · simp only [groupStore, View.groupInt, h64, if_true, store64_eq_stored h64]
    rfl
  · simp only [groupStore, View.groupInt, h64, Bool.false_eq_true, if_false, lo_setWidth,
      store32_eq_stored (isInt32_of_sigG2 hm h64)]
    rfl

/-- GLOG of an operation that acts on the low registers as it does on pairs. -/
theorem groupLands_glog {f : {n : Nat} → BitVec n → BitVec n → BitVec n} (hf : ∀ a b : Dword, glogVal t.var.toNat a b = f a b)
    (hlo : ∀ a b : Word, Dword.lo (f (a.setWidth 64) (b.setWidth 64)) = f a b) :
    GroupLands (.glog t) t.h fun v =>
      if t.ty.is64 then v.g.put64 0 t.d (f (v.src64 t.h 0 (t.ty == .i64) t.a) (v.src64 t.h 0 (t.ty == .i64) t.b))
      else v.g.put32 0 t.d (f (v.src32 t.h 0 t.a) (v.src32 t.h 0 t.b)) := by
  refine groupLands_width (i := .glog t) (fun _ => rfl) rfl rfl rfl (fun h64 v => ?_) fun _ h64 v => ?_
  · rw [hf, groupBits_of_is64 h64, groupBits_of_is64 h64]
  · rw [hf, groupBits_of_not_is64 h64, groupBits_of_not_is64 h64, hlo]

end Values

/-- A 2-bit variant is one of four. -/
theorem toNat_var (x : BitVec 2) : x.toNat = 0 ∨ x.toNat = 1 ∨ x.toNat = 2 ∨ x.toNat = 3 := by
  have := x.isLt
  omega

/-- The shifts of GSHF at a width. -/
theorem gshfVal_eq {n : Nat} (hn : 0 < n) (op : Nat) (a : BitVec n) (k : Nat) :
    gshfVal op a k = match op with
      | 0 => if n ≤ k then 0 else a <<< k
      | 1 => if n ≤ k then 0 else a >>> k
      | 2 => a.sshiftRight (min (n - 1) k)
      | _ => a.rotateLeft (k % n) := by
  match op with
  | 0 => rfl
  | 1 => rfl
  | 2 => exact sarBy_eq hn a k
  | _ + 3 => rfl

/-- Bits of GF. -/
theorem getLsbD_gfOf (z n c v mz : Bool) : (gfOf z n c v mz).getLsbD 0 = z ∧ (gfOf z n c v mz).getLsbD 1 = n ∧
    (gfOf z n c v mz).getLsbD 2 = c ∧ (gfOf z n c v mz).getLsbD 3 = v ∧ (gfOf z n c v mz).getLsbD 4 = mz := by
  revert z n c v mz
  decide

/-- Settles O15: the pipe's results are those of the lanes' operations at the type's width; GCMP's flags are those of A - B. -/
theorem theGroupPipeWritesOnceForTheGroup : Obligations.TheGroupPipeWritesOnceForTheGroup := by
  unfold Obligations.TheGroupPipeWritesOnceForTheGroup
  refine ⟨fun t => ⟨?gadd, ?gsub, ?gmul, ?glog, ?gshf, ?gmov, ?source, ?rdln, ?gcmp⟩, fun n a b old hn => ?flags⟩
  case gadd => exact groupLands_arith (i := .gadd t) (fun _ => rfl) rfl rfl
  case gsub => exact groupLands_arith (i := .gsub t) (fun _ => rfl) rfl rfl
  case gmul => exact groupLands_arith (i := .gmul t) (fun _ => rfl) rfl rfl
  case glog =>
    rcases toNat_var t.var with h | h | h | h <;> rw [h]
    · exact groupLands_glog (f := fun a b => a &&& b) (fun a b => by rw [h]; rfl) fun a b => by simp
    · exact groupLands_glog (f := fun a b => a ||| b) (fun a b => by rw [h]; rfl) fun a b => by simp
    · exact groupLands_glog (f := fun a b => a ^^^ b) (fun a b => by rw [h]; rfl) fun a b => by simp
    · exact groupLands_glog (f := fun a b => a &&& ~~~b) (fun a b => by rw [h]; rfl) fun a b => by simp
  case gshf =>
    refine groupLands_congr (groupLands_put (i := .gshf t) (fun _ => rfl) rfl rfl rfl) fun _ v => ?_
    simp only [groupPut, gshfVal_eq (show 0 < 32 by decide), gshfVal_eq (show 0 < 64 by decide)]
    rcases toNat_var t.var with h | h | h | h <;> rw [h] <;> by_cases h64 : t.ty.is64 = true <;>
      simp only [h64, Bool.false_eq_true, if_true, if_false, lo_setWidth] <;> rfl
  case gmov =>
    refine groupLands_width (i := .gmov t) (fun _ => rfl) rfl rfl rfl (fun h64 v => ?_) fun _ h64 v => ?_
    · exact groupBits_of_is64 h64 v t.a
    · rw [groupBits_of_not_is64 h64, lo_setWidth]
  case source =>
    intro hwf
    have hok := (wf_sources hwf rfl rfl).1
    by_cases h64 : t.ty.is64 = true
    · rw [if_pos h64] at hok
      cases ha : t.a <;> simp [ha, Kind.ok] at hok ⊢
    · rw [if_neg h64] at hok
      cases ha : t.a <;> simp [ha, Kind.ok] at hok ⊢
  case rdln =>
    intro k ha
    refine groupLands_width (i := .rdln t) (fun _ => rfl) rfl rfl rfl (fun h64 v => ?_) fun _ h64 v => ?_
    · rw [if_pos h64, ha]
      rfl
    · rw [h64, ha]
      exact lo_setWidth _
  case gcmp =>
    refine groupLands_of (i := .gcmp t) (fun _ => rfl) fun _ v _ => ⟨fun x hx _ => ?_, List.pairwise_singleton _ _⟩
    rw [List.mem_singleton.1 hx]
    rfl
  case flags =>
    obtain ⟨hz, hneg, hc, hv, hmz⟩ := getLsbD_gfOf (a == b) (a - b).msb (decide (b.toNat ≤ a.toNat))
      (decide (a.toInt - b.toInt < -(2 ^ (n - 1) : Nat)) || decide (a.toInt - b.toInt > (2 ^ (n - 1) - 1 : Nat))) (gfMZ old)
    have hrange : (((2 ^ (n - 1) - 1 : Nat) : Int)) = 2 ^ (n - 1) - 1 := by
      rw [Nat.cast_sub Nat.one_le_two_pow]
      push_cast
      rfl
    refine ⟨hz, hneg.trans (BitVec.msb_eq_getLsbD_last _), hc, hv.trans ?_, hmz⟩
    rw [hrange, Bool.eq_iff_iff]
    simp only [Bool.or_eq_true, decide_eq_true_eq]
    push_cast
    omega

end Sys2Proof.Machine

/-! SUPPORT. The special functions (R127, R128): what each gives for the classes of an F32 argument, and the order of finite values
in fixed point. -/

namespace Sys2Proof.Machine

open Sys2Proof.Safety

/-! ## Finite values in fixed point -/

/-- No finite value has a unit below that of the subnormals (R90). -/
theorem qmin_le_of_mag {f : Fmt} {neg s : Bool} {c n : Nat} {q : Int} (h : f.mag neg c = .fin s n q) : f.qmin ≤ q := by
  have hu : 0 < 2 ^ (f.p - 1) := Nat.two_pow_pos _
  simp only [Fmt.mag] at h
  split at h
  · injection h with _ _ hq
    exact hq.le
  next hnormal =>
    injection h with _ _ hq
    have hbinade : 1 ≤ c / 2 ^ (f.p - 1) := Nat.div_pos (Nat.not_lt.1 hnormal) hu
    omega

/-- A finite F32 value is a multiple of 2^-149. -/
theorem exponent_of_decode {a : Word} {neg : Bool} {n : Nat} {q : Int} (h : fmtF32.decode a.toNat = .fin neg n q) :
    -149 ≤ q := by
  rw [Fmt.decode_of_ieee rfl a.isLt] at h
  split at h
  · exact qmin_le_of_mag h
  · split at h <;> cases h

/-- A finite value in fixed point by its units of any exponent in between. -/
theorem fxOf_eq_unitsAt (neg : Bool) (n : Nat) {q m : Int} (hm : -256 ≤ m) (hq : m ≤ q) :
    fxOf neg n q = unitsAt neg n (q - m).toNat * 2 ^ (m + 256).toNat := by
  have hexp : (q + 256).toNat = (q - m).toNat + (m + 256).toNat := by omega
  unfold fxOf unitsAt
  rw [hexp, pow_add]
  cases neg <;> push_cast <;> simp [mul_assoc]

/-- Finite values are ordered as their fixed points. -/
theorem cmpVal_fin (s1 s2 : Bool) (n1 n2 : Nat) {q1 q2 : Int} (h1 : -256 ≤ q1) (h2 : -256 ≤ q2) :
    cmpVal (.fin s1 n1 q1) (.fin s2 n2 q2) = compare (fxOf s1 n1 q1) (fxOf s2 n2 q2) := by
  have hm : -256 ≤ min q1 q2 := le_min h1 h2
  rw [fxOf_eq_unitsAt s1 n1 hm (min_le_left _ _), fxOf_eq_unitsAt s2 n2 hm (min_le_right _ _), ← cmp_eq_compare,
    cmp_mul_pos_right (by positivity), cmp_eq_compare]
  rfl

theorem fxOne_pos : 0 < fxOne := by decide

/-- The whole numbers that bound EXP2, in fixed point. -/
theorem cmpVal_lt_128 {neg : Bool} {n : Nat} {q : Int} (hq : -149 ≤ q) :
    cmpVal (.fin neg n q) (.fin false 128 0) = .lt ↔ fxOf neg n q < 128 * fxOne := by
  rw [cmpVal_fin _ _ _ _ (by omega) (by decide), compare_lt_iff_lt]
  rfl

theorem cmpVal_lt_neg_150 {neg : Bool} {n : Nat} {q : Int} (hq : -149 ≤ q) :
    cmpVal (.fin neg n q) (.fin true 150 0) = .lt ↔ fxOf neg n q < -150 * fxOne := by
  rw [cmpVal_fin _ _ _ _ (by omega) (by decide), compare_lt_iff_lt]
  rfl

/-! ## The rows of R128 -/

section Rows
variable {a : Word} {neg : Bool} {n : Nat} {q : Int}

theorem eval_nan {sig : Bool} (f : Sfu) (h : fmtF32.decode a.toNat = .nan sig) : f.eval a = ⟨fmtF32.nan, flIf sig flIV⟩ := by
  rw [Sfu.eval, h]

theorem isPow2_two_pow (k : Nat) : isPow2 (2 ^ k) = true := by
  rw [isPow2, Nat.log2_two_pow, beq_self_eq_true]

/-- An argument that is finite and not zero. -/
def FiniteArg (a : Word) (neg : Bool) (n : Nat) (q : Int) : Prop := fmtF32.decode a.toNat = .fin neg n q ∧ n ≠ 0

variable (h : FiniteArg a neg n q)
include h

theorem eval_rcp_overflow (ho : cmpVal (.fin false n q) (.fin false 1 (-128)) ≠ .gt) :
    Sfu.rcp.eval a = ⟨infF neg, flOF ||| flNX⟩ := by
  rw [Sfu.eval, h.1]
  dsimp only
  rw [if_neg h.2, if_pos (bne_iff_ne.2 ho)]

theorem eval_rcp_pow2 {k : Nat} (hk : n = 2 ^ k) (ho : cmpVal (.fin false n q) (.fin false 1 (-128)) = .gt) :
    Sfu.rcp.eval a = ⟨(roundF32 (.fin neg 1 (-(k + q))) .rne).code, 0⟩ := by
  rw [Sfu.eval, h.1]
  dsimp only
  rw [if_neg h.2, if_neg (by rw [ho]; decide), hk, if_pos (isPow2_two_pow k), Nat.log2_two_pow]

theorem eval_log2_pow2 {k : Nat} (hk : n = 2 ^ k) (hneg : neg = false) :
    Sfu.log2.eval a = ⟨(roundF32 (.fin (decide (k + q < 0)) (k + q).natAbs 0) .rne).code, 0⟩ := by
  rw [Sfu.eval, h.1]
  dsimp only
  rw [if_neg h.2, hneg, if_neg Bool.false_ne_true, hk, if_pos (isPow2_two_pow k), Nat.log2_two_pow]
  rfl

/-- A negative number has no root and no logarithm. -/
theorem eval_negative (hneg : neg = true) :
    Sfu.rsq.eval a = badArg ∧ Sfu.sqrt.eval a = badArg ∧ Sfu.log2.eval a = badArg := by
  subst hneg
  simp only [Sfu.eval, h.1, if_neg h.2, if_true, and_self]

theorem eval_exp2_overflow (ho : cmpVal (.fin neg n q) (.fin false 128 0) ≠ .lt) :
    Sfu.exp2.eval a = ⟨infF false, flOF ||| flNX⟩ := by
  rw [Sfu.eval, h.1]
  dsimp only
  rw [if_neg h.2, if_pos (bne_iff_ne.2 ho)]

theorem eval_exp2_underflow (hu : cmpVal (.fin neg n q) (.fin true 150 0) = .lt) :
    Sfu.exp2.eval a = ⟨zeroF false, flUF ||| flNX⟩ := by
  have hq := exponent_of_decode h.1
  have hlow := (cmpVal_lt_neg_150 hq).1 hu
  have ho : cmpVal (.fin neg n q) (.fin false 128 0) = .lt := (cmpVal_lt_128 hq).2 (by have := fxOne_pos; omega)
  rw [Sfu.eval, h.1]
  dsimp only
  rw [if_neg h.2, ho, hu]
  rfl

theorem eval_exp2_whole {k : Int} (hmin : -149 ≤ k) (hmax : k ≤ 127) (hk : fxOf neg n q = k * fxOne) :
    Sfu.exp2.eval a = ⟨(roundF32 (.fin false 1 k) .rne).code, 0⟩ := by
  have hq := exponent_of_decode h.1
  have hpos := fxOne_pos
  have ho : cmpVal (.fin neg n q) (.fin false 128 0) = .lt :=
    (cmpVal_lt_128 hq).2 (by rw [hk]; exact Int.mul_lt_mul_of_pos_right (by omega) hpos)
  have hu : cmpVal (.fin neg n q) (.fin true 150 0) ≠ .lt := fun hu => by
    have hlow := (cmpVal_lt_neg_150 hq).1 hu
    rw [hk] at hlow
    have := Int.lt_of_mul_lt_mul_right hlow hpos.le
    omega
  have hdiv : k * fxOne / fxOne = k := Int.mul_ediv_cancel k hpos.ne'
  have hmod : k * fxOne % fxOne = 0 := Int.mul_emod_left k fxOne
  rw [Sfu.eval, h.1]
  dsimp only
  rw [if_neg h.2, hk, hdiv, hmod, ho, if_neg (by decide), if_neg (by simpa using hu), if_pos ⟨rfl, hmin⟩]

/-- SINT at a quarter of a turn depends on the fraction alone, but for the sign of a zero. -/
theorem eval_sint_quarter :
    Sfu.sint.eval a =
      if fxFrac neg n q % (fxOne / 2) = 0 then ⟨zeroF neg, 0⟩
      else if fxFrac neg n q % (fxOne / 4) = 0 then
        ⟨oneF (decide (fxFrac neg n q = -(fxOne / 4) ∨ fxFrac neg n q = 3 * (fxOne / 4))), 0⟩
      else Sfu.other .sint a neg n q := by
  rw [Sfu.eval, h.1]
  dsimp only
  rw [if_neg h.2]

theorem eval_cost_quarter :
    Sfu.cost.eval a =
      if fxFrac neg n q = 0 then ⟨oneF false, 0⟩
      else if fxFrac neg n q % (fxOne / 2) = 0 then ⟨oneF true, 0⟩
      else if fxFrac neg n q % (fxOne / 4) = 0 then ⟨zeroF false, 0⟩
      else Sfu.other .cost a neg n q := by
  rw [Sfu.eval, h.1]
  dsimp only
  rw [if_neg h.2]

end Rows

/-- The value of an input outside the table: the part's own bits within the bound, else the nearest number. -/
theorem other_code (f : Sfu) (a : Word) (neg : Bool) (n : Nat) (q : Int) :
    (f.other a neg n q).code =
      if f.within neg n q (fmtF32.decode (Config.sfuBits f.code a).toNat) then (Config.sfuBits f.code a).toNat
      else (roundF32 (.fin (decide (f.approx neg n q < 0)) (f.approx neg n q).natAbs (-256)) .rne).code := rfl

/-- Settles O12: every special function lands its value, and the rows of R128 are branches of it. -/
theorem specialFunctionsLandTheirResults : Obligations.SpecialFunctionsLandTheirResults := by
  unfold Obligations.SpecialFunctionsLandTheirResults
  refine ⟨⟨fun f a neg n q => ⟨fun h => ?_, fun h => ?_⟩, fun t => ?lands⟩, fun a neg => ⟨?nan, ?inf, ?zero, ?finite⟩⟩
  · rw [other_code, if_pos h]
  · rw [other_code, h]
    rfl
  case lands =>
    refine ⟨?_, ?_, ?_, ?_, ?_, ?_, ?_, ?_⟩
    all_goals exact laneLands_put32 rfl rfl (fun _ => rfl) rfl rfl
  case nan => exact fun f sig h => eval_nan f h
  case inf =>
    intro h
    simp only [Sfu.eval, h]
    cases neg <;> decide
  case zero =>
    intro q h
    simp only [Sfu.eval, h, if_true]
    cases neg <;> decide
  case finite =>
    intro n q hdec hn
    have h : FiniteArg a neg n q := ⟨hdec, hn⟩
    refine ⟨eval_negative h, eval_exp2_overflow h, eval_exp2_underflow h, eval_rcp_overflow h,
      fun k hk => ⟨eval_rcp_pow2 h hk, eval_log2_pow2 h hk⟩, fun k => eval_exp2_whole h, fun k hk => ?_⟩
    rw [eval_sint_quarter h, eval_cost_quarter h, hk]
    refine ⟨?_, ?_, ?_, ?_, ?_, ?_⟩
    · rintro (rfl | rfl | rfl) <;> exact if_pos (by decide)
    · rintro (rfl | rfl) <;> rw [if_neg (by decide), if_pos (by decide)] <;> decide
    · rintro (rfl | rfl) <;> rw [if_neg (by decide), if_pos (by decide)] <;> decide
    · rintro rfl
      exact if_pos (by decide)
    · rintro (rfl | rfl) <;> rw [if_neg (by decide)] <;> exact if_pos (by decide)
    · rintro (rfl | rfl | rfl | rfl) <;> rw [if_neg (by decide), if_neg (by decide)] <;> exact if_pos (by decide)

end Sys2Proof.Machine

/-! SUPPORT. The issue of the matrix instructions (R141, R151, R152): the checks of each form, in R152's order, and its entry of
the engine queue. -/

namespace Sys2Proof.Machine

open Sys2Proof.Safety

/-! ## Any matrix instruction -/

/-- The entry of the engine queue that the issue in hand makes. -/
def mxEntry (s : State) (v : View) (i : Instr) (m : Mask) (y : EngSpec) : MxOp :=
  { id := s.nextId, grp := v.g.id, team := v.g.team, i := i, pc := v.pc, mask := m, carried := v.carried
    args := y.args, data := y.data, started := false, doneLanes := 0, dsts := y.dsts, sys := v.g.onBank, cyc := v.cyc }

/-- A matrix instruction makes the checks of its list, and then enters the engine queue unless 16 operations fill it. -/
theorem engineIssue_of_mxIssue {i : Instr} {h : Hdr} {s : State} {v : View} {tm : Team} {checks : View → Team → List Check}
    {x : View → Mask → EngSpec} {cs : List ((Nat → Bool) × Nat × (Nat → Dword))} (hv : viewOf s = some v)
    (ht : getTeam s v.g.team = some tm) (hexec : exec i s = .next (mxIssue s h i checks x))
    (hcs : holderCheck s v :: checks v tm = cs.map asCheck) :
    EngineIssue i s v h true cs (mxFull s v.g.core)
      fun k => { k with mxq := k.mxq ++ [mxEntry s v i (v.parts h) (x v (v.parts h))] } := by
  obtain ⟨hg, hid, hcarried, -⟩ := viewOf_some hv
  simp only [mxIssue, hv, ht, hcs] at hexec
  refine ⟨fun hc => by simpa [hc] using hexec, fun hc => ⟨fun hm => ?_, fun _ hty => (nomatch hty), fun hm _ => ?_⟩⟩
  · refine ownGroup_of_done (fun g => g) _ hv (fun _ => rfl) ?_
    rw [modGroup_self]
    simpa [hc, hm] using hexec
  · simp only [hc, hm, Bool.not_true, Bool.false_eq_true, if_false] at hexec
    refine ⟨fun cause tv hf => ?_, fun hf => ?_⟩
    · rw [hexec, firstFail_of_firstFailure hf]
    · rw [firstFail_of_firstFailure hf] at hexec
      refine ⟨fun hfull => by rw [hexec, if_pos hfull]; rfl, fun hroom => ?_⟩
      simp only [hroom, Bool.false_eq_true, if_false] at hexec
      refine ⟨_, hexec, rfl, rfl, rfl, rfl, fun k hk => ?_, ?_⟩
      · exact getGroup_modGroup_other _ _ _ _ (hid ▸ hk) fun _ => rfl
      · rw [hid, hcarried]
        exact getGroup_modGroup_same _ _ _ _ hg fun _ => rfl

/-! ## The checks of R152 -/

/-- A check that one condition fails. -/
theorem check_eq_asCheck {check : Check} {p : Nat → Prop} [DecidablePred p] {f : Nat → Bool} {c : Nat} {tv : Nat → Dword}
    (h : check = fun l => if p l then some (c, tv l) else none) (hf : ∀ l, p l ↔ f l = true) :
    check = asCheck (f, c, tv) := by
  subst h
  funext l
  exact if_congr (hf l) rfl rfl

/-- A check of two conditions, the value of the first coming first where both fail. -/
theorem check_eq_asCheck_or {check : Check} {p q : Nat → Prop} [DecidablePred p] [DecidablePred q] {f : Nat → Bool} {c : Nat}
    {tv tv' : Nat → Dword} (h : check = fun l => if p l then some (c, tv l) else if q l then some (c, tv' l) else none)
    (hf : ∀ l, p l ∨ q l ↔ f l = true) : check = asCheck (f, c, fun l => if p l then tv l else tv' l) := by
  subst h
  funext l
  have hfl := hf l
  by_cases hp : p l
  · simp [asCheck, hp, ← hfl]
  · by_cases hq : q l <;> simp [asCheck, hp, hq, ← hfl]

/-- Check 1: another group holds the baton, or none does (R152, R156). -/
theorem holderCheck_eq (s : State) (v : View) :
    holderCheck s v = asCheck (fun _ => ((getTCore s v.g.team v.g.coreNo).bind TCore.baton).isSome &&
        !(getTCore s v.g.team v.g.coreNo).any fun tc => tc.held && tc.holder == v.g.grp, 0x12,
      fun _ => BitVec.ofNat 64 (((getTCore s v.g.team v.g.coreNo).bind TCore.baton).getD 0)) := by
  funext l
  unfold holderCheck asCheck
  cases getTCore s v.g.team v.g.coreNo with
  | none => rfl
  | some tc =>
    cases hb : tc.baton with
    | none => simp [hb]
    | some b =>
      by_cases hh : tc.held = true ∧ tc.holder = v.g.grp
      · simp [hb, hh]
      · simp [hb, hh, arg]

/-- Check 4: the stride, then each participant's offset (R152). -/
theorem strideChecks_eq (stride : Nat) (off : Nat → Nat) :
    strideChecks stride off =
      [ (fun _ => decide (stride % 8 ≠ 0), 0x07, fun _ => BitVec.ofNat 64 stride),
        (fun l => decide (off l % 8 ≠ 0), 0x07, fun l => BitVec.ofNat 64 (off l)) ].map asCheck :=
  congrArg₂ (fun x y => [x, y]) (check_eq_asCheck rfl fun _ => by simp) (check_eq_asCheck rfl fun _ => by simp)

/-- Check 5 of a row of ACT: its bytes inside the window, then the accumulator row (R152). -/
theorem boundCheck_eq (tm : Team) (w : Win) (off n row : Nat → Nat) :
    boundCheck tm w off n row =
      asCheck (fun l => decide (winBytes tm w < off l + n l) || decide (tm.k.acc ≤ row l), 0x12,
        fun l => if winBytes tm w < off l + n l then BitVec.ofNat 64 (off l) else BitVec.ofNat 64 (row l)) :=
  check_eq_asCheck_or rfl fun _ => by simp

theorem rowCheck_eq (tm : Team) (row : Nat → Nat) :
    rowCheck tm row = asCheck (fun l => decide (tm.k.acc ≤ row l), 0x12, fun l => BitVec.ofNat 64 (row l)) :=
  check_eq_asCheck rfl fun _ => by simp

theorem runCheck_eq (tm : Team) (a n : Nat) :
    runCheck tm a n = asCheck (fun _ => decide (n ≠ 0) && decide (tm.k.acc ≤ a + n - 1), 0x12,
      fun _ => BitVec.ofNat 64 (a + n - 1)) :=
  check_eq_asCheck rfl fun _ => by simp

theorem colCheck_eq (w x : Nat) :
    colCheck w x = asCheck (fun _ => decide (x % w ≠ 0) || decide (128 ≤ x), 0x12, fun _ => BitVec.ofNat 64 x) :=
  check_eq_asCheck rfl fun _ => by simp

/-- MXROW needs a latch, of integers exactly if its own type is I8 (R152). -/
theorem latchChecks_eq (latch : Option (Ty × Nat)) (ty : Ty) :
    [ fun _ => if latch.isNone then some (0x01, 1) else none,
      fun _ => if (latch.map fun x => x.1 == .i8) != some (ty == .i8) then some (0x01, 2) else none ] =
    [ (fun _ => latch.isNone, 0x01, fun _ => (1 : Dword)),
      (fun _ => (latch.map fun x => x.1 == .i8) != some (ty == .i8), 0x01, fun _ => 2) ].map asCheck :=
  rfl

/-- MXLW: the offsets of its weights and scales, then their ends (R152, R153). -/
theorem mxlwChecks_eq (tm : Team) (b8 : Bool) (a b n ns : Nat) :
    ([ fun _ => if a % 8 ≠ 0 then some (0x07, arg a) else if b % 8 ≠ 0 then some (0x07, arg b) else none,
       fun _ =>
         if a + n > winBytes tm .wgt then some (0x12, arg a)
         else if b8 = true ∧ b + ns > winBytes tm .wgt then some (0x12, arg b)
         else none ] : List Check) =
    [ (fun _ => decide (a % 8 ≠ 0) || decide (b % 8 ≠ 0), 0x07,
        fun _ => if a % 8 ≠ 0 then BitVec.ofNat 64 a else BitVec.ofNat 64 b),
      (fun _ => decide (winBytes tm .wgt < a + n) || (b8 && decide (winBytes tm .wgt < b + ns)), 0x12,
        fun _ => if winBytes tm .wgt < a + n then BitVec.ofNat 64 a else BitVec.ofNat 64 b) ].map asCheck :=
  congrArg₂ (fun x y => [x, y]) (check_eq_asCheck_or rfl fun _ => by simp) (check_eq_asCheck_or rfl fun _ => by simp)

/-- Settles O39: every form is issued in the same way (`engineIssue_of_mxIssue`), and its checks are those of R152's table, one
lemma each. -/
theorem matrixInstructionsCheckThenQueue : Obligations.MatrixInstructionsCheckThenQueue := by
  unfold Obligations.MatrixInstructionsCheckThenQueue
  intro t s v tm hv ht
  extract_lets m a b c n64 off baton mine does stride inAct row run col sb wn latch depth
  have hmine : (getTCore s v.g.team v.g.coreNo).any (fun tc => tc.held && tc.holder == v.g.grp) = mine := by
    unfold mine
    cases getTCore s v.g.team v.g.coreNo <;> rfl
  have hholder := holderCheck_eq s v
  rw [hmine] at hholder
  have issue {i : Instr} {checks : View → Team → List Check} {x : View → Mask → EngSpec}
      {cs : List ((Nat → Bool) × Nat × (Nat → Dword))} {args : List Dword} {data : List (Nat × List Word)} {dsts : List Dst}
      (hexec : exec i s = .next (mxIssue s t.h i checks x)) (hx : x v m = { args := args, data := data, dsts := dsts })
      (hcs : checks v tm = cs.map asCheck) : does i cs args data dsts := by
    have h := engineIssue_of_mxIssue (cs := (_, _, _) :: cs) hv ht hexec (congrArg₂ List.cons hholder hcs)
    rw [hx] at h
    exact h
  refine ⟨?_, ?_, ?_, ?_, ?_, ?_, ?_, ?_, ?_⟩
  · exact issue rfl rfl (mxlwChecks_eq tm t.ty.isB8 a sb wn (128 * (mxK t / 16)))
  · exact issue rfl rfl (congrArg₂ (· ++ ·) (congrArg₂ (· ++ ·) (latchChecks_eq latch t.ty) (strideChecks_eq b off))
      (congrArg (fun x => [x]) (boundCheck_eq tm .act off (fun _ => rowBytes t.ty depth) fun l => c + l)))
  · exact issue rfl rfl (congrArg (fun x => [x]) (runCheck_eq tm a b))
  · exact issue rfl rfl (congrArg₂ (fun x y => [x, y]) (colCheck_eq t.mxWidth b) (rowCheck_eq tm fun l => a + l))
  · exact issue rfl rfl (congrArg₂ (fun x y => [x, y]) (colCheck_eq t.mxWidth c) (rowCheck_eq tm fun l => b + l))
  · exact issue rfl rfl (congrArg₂ (· ++ ·) (strideChecks_eq b off)
      (congrArg (fun x => [x]) (boundCheck_eq tm .act off (fun _ => storeBytes t.ty) fun l => c + l)))
  · exact issue rfl rfl (congrArg (fun x => [x]) (rowCheck_eq tm fun l => a + l))
  · exact issue rfl rfl (congrArg (fun x => [x]) (runCheck_eq tm a b))
  · exact issue rfl rfl (congrArg (fun x => [x]) (runCheck_eq tm a b))

end Sys2Proof.Machine

/-! SUPPORT. Shares of teams, and operations in flight that end (R61, R417): what a change of one share leaves, and what an
operation changes that writes its destinations, lets its fibres go on and is gone. -/

namespace Sys2Proof.Machine

open Sys2Proof.Safety

/-! ## Teams and their shares of cores -/

theorem modNth_eq_modify {α : Type} (f : α → α) : ∀ (xs : List α) (n : Nat), modNth xs n f = xs.modify n f
  | [], _ => by simp [modNth]
  | _ :: _, 0 => rfl
  | x :: xs, n + 1 => by simp [modNth, modNth_eq_modify f xs n]

theorem getTeam_modTeam_same {s : State} {id : Nat} {y : Team} (h : getTeam s id = some y) {f : Team → Team}
    (hf : ∀ x, (f x).id = x.id) : getTeam (modTeam s id f) id = some (f y) := by
  unfold getTeam modTeam at *
  rw [List.find?_map, show ((fun x : Team => x.id == id) ∘ fun x => if x.id == id then f x else x) =
    fun x => x.id == id from funext fun x => by dsimp only [Function.comp]; split <;> simp [hf], h]
  have hy : y.id = id := by simpa using List.find?_some h
  simp [hy]

theorem getTeam_modTeam_other {s : State} {id k : Nat} (hk : k ≠ id) {f : Team → Team} (hf : ∀ x, (f x).id = x.id) :
    getTeam (modTeam s id f) k = getTeam s k := by
  unfold getTeam modTeam
  rw [List.find?_map, show ((fun x : Team => x.id == k) ∘ fun x => if x.id == id then f x else x) = fun x => x.id == k from
    funext fun x => by dsimp only [Function.comp]; split <;> simp [hf]]
  cases h : s.teams.find? fun x => x.id == k with
  | none => rfl
  | some x =>
    have hx : x.id = k := by simpa using List.find?_some h
    simp [hx, hk]

/-- A team whose share of one core is changed. -/
theorem getTeam_modTCore {s : State} {team core : Nat} {y : Team} (h : getTeam s team = some y) (f : TCore → TCore) :
    getTeam (modTCore s team core f) team = some { y with cores := modNth y.cores core f } :=
  getTeam_modTeam_same h fun _ => rfl

theorem getTCore_modTCore_same {s : State} {team core : Nat} {tc : TCore} (h : getTCore s team core = some tc)
    (f : TCore → TCore) : getTCore (modTCore s team core f) team core = some (f tc) := by
  obtain ⟨y, hy, hc⟩ := Option.bind_eq_some_iff.1 h
  simp [getTCore, getTeam_modTCore hy, modNth_eq_modify, hc]

theorem getTCore_modTCore_other (s : State) (team : Nat) {core k : Nat} (hk : k ≠ core) (f : TCore → TCore) :
    getTCore (modTCore s team core f) team k = getTCore s team k := by
  cases hy : getTeam s team with
  | none =>
    have hnone : getTeam (modTCore s team core f) team = none := by
      unfold getTeam at *
      rw [modTCore_teams_new, List.find?_eq_none] at *
      intro x hx
      obtain ⟨t, ht, rfl⟩ := List.mem_map.1 hx
      have := hy t ht
      split <;> simp_all
    simp [getTCore, hy, hnone]
  | some y => simp [getTCore, hy, getTeam_modTCore hy, modNth_eq_modify, Ne.symm hk]

/-- Teams that differ in one share differ there alone. -/
theorem onlyShare_modTCore (s : State) (team core : Nat) (f : TCore → TCore) :
    onlyShare s (modTCore s team core f) team core :=
  ⟨fun _ hk => getTeam_modTeam_other hk fun _ => rfl, fun _ hk => getTCore_modTCore_other s team hk f,
    fun _ hy => ⟨_, getTeam_modTCore hy f, rfl, length_modNth f _ _⟩⟩

/-- Shares depend on the teams alone. -/
theorem onlyShare_of_teams {s p u : State} {team core : Nat} (h : onlyShare s p team core) (hu : u.teams = p.teams) :
    onlyShare s u team core := by
  unfold onlyShare getTCore getTeam at *
  rwa [hu]

/-! ## The end of an operation in flight -/

/-- Nothing has changed beside the operations, while the cores and the groups stand. -/
theorem onlyOpAndGroup_of_ops {s u : State} (id : Nat) (h : { u with ops := s.ops } = s) : onlyOpAndGroup s u id := by
  have hg : u.groups = s.groups := (congrArg State.groups h :)
  have hc : u.cores = s.cores := (congrArg State.cores h :)
  refine ⟨?_, ?_, fun k _ => ?_⟩
  · rw [← hg, ← hc]
    exact h
  · rw [coresKept_iff, hc]
  · unfold getGroup
    rw [hg]

/-- A change of the group since an operation changes the group and records for a replay. -/
theorem onlyOpAndGroup_modGroupSince {s p : State} {gid : Nat} (id : Nat) {f : Group → Group}
    (h : onlyOpAndGroup s p gid) (hf : ∀ x, (f x).id = x.id) : onlyOpAndGroup s (modGroupSince p gid id f) gid := by
  obtain ⟨hrest, hcores, hgroups⟩ := h
  refine ⟨?_, ?_, fun k hk => ?_⟩
  · exact (modGroupSince_besides s p gid id f).trans hrest
  · rw [coresKept_iff, modGroupSince_coresKept]
    exact hcores
  · rw [getGroup_modGroupSince, getGroup_modGroup_other _ _ _ _ hk hf, hgroups k hk]

theorem opGone_of_ops {s p u : State} {id : Nat} (h : opGone s p id) (hu : u.ops = p.ops) : opGone s u id := by
  unfold opGone getOp at *
  rwa [hu]

/-- What the statements ask of an operation that has ended: it is gone, and its group is `g'`. -/
structure OpEnds (s u : State) (o : Op) (g' : Group) : Prop where
  rest : onlyOpAndGroup s u o.grp
  gone : opGone s u o.id
  group : getGroup u o.grp = some g'

/-- An operation is dropped. -/
theorem opEnds_dropOp {s : State} {o : Op} {g : Group} (hg : getGroup s o.grp = some g) : OpEnds s (dropOp s o.id) o g :=
  ⟨onlyOpAndGroup_of_ops _ rfl, opGone_filter rfl, hg⟩

/-- An operation that is gone changes its group. -/
theorem OpEnds.modGroupSince {s u : State} {o : Op} {g' : Group} {f : Group → Group} (h : OpEnds s u o g')
    (hf : ∀ x, (f x).id = x.id) : OpEnds s (modGroupSince u o.grp o.id f) o (f g') :=
  ⟨onlyOpAndGroup_modGroupSince _ h.rest hf, opGone_of_ops h.gone (modGroupSince_ops ..), by
    rw [getGroup_modGroupSince]
    exact getGroup_modGroup_same _ _ _ _ h.group hf⟩

/-- It writes its destinations. -/
theorem OpEnds.landRegs {s u : State} {o : Op} {g' : Group} (h : OpEnds s u o g') (ws : List (Dst × Word)) :
    OpEnds s (landRegs u o ws) o (g'.writes ws) := h.modGroupSince (writes_id ws)

/-- It lets the fibres that it holds go on. -/
theorem OpEnds.passOp {s u : State} {o : Op} {g' : Group} (h : OpEnds s u o g') :
    OpEnds s (passOp u o) o (stepOn g' o.carried o.i.len) := h.modGroupSince fun _ => rfl

end Sys2Proof.Machine

/-! SUPPORT. The ends of waits, tests, fences and drains (R156, R208, R219, R221, R222): what a registered wait sees, case by case,
and what looking at a wait comes to while no other wait is there. -/

namespace Sys2Proof.Machine

open Sys2Proof.Safety

/-! ## How far a wait is -/

/-- A wait that is `n` far. -/
def waitAt (n : Dword) (o : Op) : Op := { o with args := setNth o.args 4 n }

theorem waitAt_waitAt (n k : Dword) (o : Op) : waitAt k (waitAt n o) = waitAt k o := by
  simp [waitAt, setNth_eq_set]

theorem waitAt_arg {n : Dword} {o : Op} (h : o.args.length = 5) : (waitAt n o).arg 4 = n.toNat := by
  rw [Op.arg, waitAt, nth_setNth_same _ _ _ _ (by omega)]

theorem waitAt_arg_other (n : Dword) (o : Op) {k : Nat} (h : 4 ≠ k) : (waitAt n o).arg k = o.arg k := by
  rw [Op.arg, waitAt, nth_setNth_other _ _ _ _ _ h]
  rfl

/-- A wait is marked as `n` far. -/
def markWait (s : State) (id : Nat) (n : Dword) : State := modOp s id (waitAt n)

theorem markWait_markWait (s : State) (id : Nat) (n k : Dword) : markWait (markWait s id n) id k = markWait s id k := by
  have hop : ∀ x : Op, (if (if x.id == id then waitAt n x else x).id == id then
      waitAt k (if x.id == id then waitAt n x else x) else if x.id == id then waitAt n x else x) =
      if x.id == id then waitAt k x else x := by
    intro x
    by_cases hx : x.id = id
    · have hn : (waitAt n x).id = id := hx
      simp [hx, hn, waitAt_waitAt]
    · simp [hx]
  simp only [markWait, modOp, List.map_map, Function.comp_def, hop]

theorem getOp_markWait {s : State} {o : Op} (h : getOp s o.id = some o) (n : Dword) :
    getOp (markWait s o.id n) o.id = some (waitAt n o) := getOp_modOp_same h fun _ => rfl

/-! ## What a registered wait sees (R156, R208) -/

section Sees
variable {s : State} {o : Op}

theorem settleWait_waits (hp : (getBar s o.team (o.arg 0) (o.arg 1)).phase ≠ o.arg 2)
    (hf : (getBar s o.team (o.arg 0) (o.arg 1)).frozen = false) : settleWait s o = s := by
  simp [settleWait, hp, hf]

theorem settleWait_freezes (hp : (getBar s o.team (o.arg 0) (o.arg 1)).phase ≠ o.arg 2)
    (hf : (getBar s o.team (o.arg 0) (o.arg 1)).frozen = true) : settleWait s o = markWait s o.id 3 := by
  simp only [settleWait, if_neg hp, hf, if_true]
  rfl

variable {tc : TCore} (htc : getTCore s o.team (o.arg 0) = some tc)
include htc

theorem settleWait_sees (hp : (getBar s o.team (o.arg 0) (o.arg 1)).phase = o.arg 2) (hb : tc.baton ≠ some (o.arg 1)) :
    settleWait s o = markWait s o.id 2 := by
  simp only [settleWait, if_pos hp, htc, if_neg hb]
  rfl

theorem settleWait_held (hp : (getBar s o.team (o.arg 0) (o.arg 1)).phase = o.arg 2) (hb : tc.baton = some (o.arg 1))
    (hh : tc.held = true) : settleWait s o = s := by
  simp [settleWait, hp, htc, hb, hh]

/-- The share of a core whose baton the group of a wait has taken. -/
def takenBy (s : State) (o : Op) (tc : TCore) : TCore := { tc with held := true, holder := grpNo s o.grp }

theorem settleWait_takes (hp : (getBar s o.team (o.arg 0) (o.arg 1)).phase = o.arg 2) (hb : tc.baton = some (o.arg 1))
    (hh : tc.held = false) :
    settleWait s o = modTCore (markWait s o.id 2) o.team (o.arg 0) (takenBy s o) := by
  simp only [settleWait, if_pos hp, htc, if_pos hb, hh, Bool.false_eq_true, if_false]
  rfl

end Sees

/-- What a wait sees it does not see once more: it looks at its barrier and its baton alone, and its mark is no part of them. -/
theorem settleWait_settleWait {s : State} {o : Op} {tc : TCore} (htc : getTCore s o.team (o.arg 0) = some tc) :
    settleWait (settleWait s o) o = settleWait s o := by
  by_cases hp : (getBar s o.team (o.arg 0) (o.arg 1)).phase = o.arg 2
  · by_cases hb : tc.baton = some (o.arg 1)
    · cases hh : tc.held with
      | true => simp only [settleWait_held htc hp hb hh]
      | false =>
        rw [settleWait_takes htc hp hb hh]
        have htaken : getTCore (modTCore (markWait s o.id 2) o.team (o.arg 0) (takenBy s o)) o.team (o.arg 0) =
          some (takenBy s o tc) := getTCore_modTCore_same (s := markWait s o.id 2) htc _
        refine settleWait_held htaken ?_ hb rfl
        rw [← hp]
        simp only [getBar, htaken, htc]
        rfl
    · rw [settleWait_sees htc hp hb, settleWait_sees (s := markWait s o.id 2) htc hp hb, markWait_markWait]
  · cases hf : (getBar s o.team (o.arg 0) (o.arg 1)).frozen with
    | true => rw [settleWait_freezes hp hf, settleWait_freezes (s := markWait s o.id 3) hp hf, markWait_markWait]
    | false => simp only [settleWait_waits hp hf]

/-! ## Looking at a wait -/

/-- Where no other wait is registered, a barrier's waits see its word as the one wait does. -/
theorem notifyWaits_alone {s : State} {o : Op} (honce : settleWait (settleWait s o) o = settleWait s o) (hmem : o ∈ s.ops)
    (hb : isBwait o.i = true) (h4 : o.arg 4 = 1) (halone : ∀ p ∈ s.ops, isBwait p.i = true → p = o) :
    notifyWaits s o.team (o.arg 0) (o.arg 1) = settleWait s o := by
  have hfold : ∀ ps : List Op, ps ≠ [] → (∀ p ∈ ps, p = o) → ps.foldl settleWait s = settleWait s o := by
    intro ps hne hps
    have hrep : ∀ n, (List.replicate (n + 1) o).foldl settleWait s = settleWait s o := by
      intro n
      induction n with
      | zero => rfl
      | succ n ih => rw [List.replicate_succ', List.foldl_append, ih, List.foldl_cons, List.foldl_nil, honce]
    rw [List.eq_replicate_of_mem hps]
    obtain ⟨n, hn⟩ := Nat.exists_eq_succ_of_ne_zero (fun h => hne (List.length_eq_zero_iff.1 h))
    rw [hn]
    exact hrep n
  refine hfold _ (List.ne_nil_of_mem (List.mem_filter.2 ⟨hmem, by simp [hb, h4]⟩)) fun p hp => ?_
  obtain ⟨hp, hw⟩ := List.mem_filter.1 hp
  simp only [Bool.and_eq_true] at hw
  exact halone p hp hw.1.1.1.1

theorem mem_of_getOp {s : State} {id : Nat} {o : Op} (h : getOp s id = some o) : o ∈ s.ops := List.mem_of_find?_eq_some h

/-- A wait on its way that reaches its unit registers and looks at its barrier (R208). -/
theorem lookWait_arrives {s : State} {o : Op} {tc : TCore} (ho : getOp s o.id = some o) (hb : isBwait o.i = true)
    (h4 : o.arg 4 = 0) (hlen : o.args.length = 5) (hturn : barTurn s o (o.arg 0, o.arg 1) = true)
    (hclean : sramClean s = true) (halone : ∀ p ∈ s.ops, isBwait p.i = true → p = o)
    (htc : getTCore s o.team (o.arg 0) = some tc) :
    lookWait s o = settleWait (markWait s o.id 1) (waitAt 1 o) := by
  have hmeet : meetBar s o.team (o.arg 0) (o.arg 1) = s := by simp [meetBar, meetScratch, hclean]
  have h0 := waitAt_arg_other 1 o (k := 0) (by decide)
  have h1 := waitAt_arg_other 1 o (k := 1) (by decide)
  have harr : waitArrives s o = true := by simp [waitArrives, h4, hturn]
  have hlook : lookWait s o = notifyWaits (markWait s o.id 1) (waitAt 1 o).team ((waitAt 1 o).arg 0) ((waitAt 1 o).arg 1) := by
    unfold lookWait
    rw [if_pos harr, hmeet, h0, h1]
    rfl
  rw [hlook]
  refine notifyWaits_alone (settleWait_settleWait (tc := tc) (by rw [h0]; exact htc)) (mem_of_getOp (getOp_markWait ho 1)) hb
    (waitAt_arg hlen) fun p hp hpb => ?_
  obtain ⟨q, hq, rfl⟩ := List.mem_map.1 hp
  have hqb : isBwait q.i = true := by
    split at hpb <;> exact hpb
  rw [halone q hq hqb]
  simp

/-- A registered wait for which nothing holds looks at its barrier and waits on (R208). -/
theorem lookWait_waits {s : State} {o : Op} (ho : getOp s o.id = some o) (hb : isBwait o.i = true) (h4 : o.arg 4 = 1)
    (hp : (getBar s o.team (o.arg 0) (o.arg 1)).phase ≠ o.arg 2)
    (hf : (getBar s o.team (o.arg 0) (o.arg 1)).frozen = false) (halone : ∀ p ∈ s.ops, isBwait p.i = true → p = o) :
    lookWait s o = s := by
  have hsettle := settleWait_waits hp hf
  have hlook : lookWait s o = notifyWaits s o.team (o.arg 0) (o.arg 1) := by simp [lookWait, waitArrives, h4]
  rw [hlook, notifyWaits_alone (by rw [hsettle, hsettle]) (mem_of_getOp ho) hb h4 halone, hsettle]

/-- A wait that has seen its phase or a freeze flag looks no more. -/
theorem lookWait_over {s : State} {o : Op} (h0 : o.arg 4 ≠ 0) (h1 : o.arg 4 ≠ 1) : lookWait s o = s := by
  simp [lookWait, waitArrives, h0, h1]

/-- An event of a wait acts on it as it is once it has looked at its barrier. -/
theorem onWait_of_lookWait {s u : State} {o o' : Op} (ho : getOp s o.id = some o) (hb : isBwait o.i = true)
    (hlook : lookWait s o = u) (ho' : getOp u o.id = some o') (f : State → Op → State) : onWait s o.id f = f u o' := by
  unfold onWait
  simp only [ho, hb, if_true, hlook, ho']

/-! ## Ends -/

/-- How far a wait is has no part in its end. -/
theorem endWait_markWait (s : State) (o : Op) (n k : Dword) (r : Bool) :
    endWait (markWait s o.id n) (waitAt k o) r = endWait s o r := by
  have hdrop : dropOp (markWait s o.id n) o.id = dropOp s o.id := dropOp_modOp s o.id fun _ => rfl
  show passOp (landRegs (dropOp (markWait s o.id n) o.id) o _) o = _
  rw [hdrop]
  rfl

/-- A wait that ends writes its destinations, its fibres go on, and it is gone. -/
theorem opEnds_endWait {s : State} {o : Op} {g : Group} (hg : getGroup s o.grp = some g) (r : Bool) :
    OpEnds s (endWait s o r) o (stepOn (g.writes (o.dsts.map fun d => (d, bit32 r))) o.carried o.i.len) :=
  ((opEnds_dropOp hg).landRegs _).passOp

/-! ## The events of a wait -/

/-- BWAIT_COMPLETE of a wait that is `n` far once it has looked at its barrier. -/
theorem exec_bwaitComplete_of_look {s u : State} {o : Op} {n : Dword} (ho : getOp s o.id = some o)
    (hb : isBwait o.i = true) (hlen : o.args.length = 5) (hlook : lookWait s o = markWait u o.id n)
    (hu : getOp u o.id = some o) :
    exec (.bwaitComplete o.id) s = .next (if n.toNat = 2 then endWait u o true else markWait u o.id n) := by
  show Host.Outcome.next (onWait s o.id _) = _
  rw [onWait_of_lookWait ho hb hlook (getOp_markWait hu n), waitAt_arg hlen, endWait_markWait]

/-- A wait that has seen its phase has nothing more to look at. -/
theorem exec_bwaitComplete_of_seen {s : State} {o : Op} (ho : getOp s o.id = some o) (hb : isBwait o.i = true)
    (h4 : o.arg 4 = 2) : exec (.bwaitComplete o.id) s = .next (endWait s o true) := by
  show Host.Outcome.next (onWait s o.id _) = _
  rw [onWait_of_lookWait ho hb (lookWait_over (by omega) (by omega)) ho, if_pos h4]

/-- A wait that a freeze flag has ended traps. -/
theorem exec_bwaitBarfault_of_frozen {s : State} {o : Op} (ho : getOp s o.id = some o) (hb : isBwait o.i = true)
    (h4 : o.arg 4 = 3) (hfree : trapFree s o = true) :
    exec (.bwaitBarfault o.id) s = .next (trapOp s o 0x0C (arg (o.arg 1))) := by
  show Host.Outcome.next (onWait s o.id _) = _
  rw [onWait_of_lookWait ho hb (lookWait_over (by omega) (by omega)) ho, if_pos ⟨h4, hfree⟩]

section Arrives
variable {s : State} {o : Op} {tc : TCore} (ho : getOp s o.id = some o) (hb : isBwait o.i = true) (h4 : o.arg 4 = 0)
  (hlen : o.args.length = 5) (hturn : barTurn s o (o.arg 0, o.arg 1) = true) (hclean : sramClean s = true)
  (halone : ∀ p ∈ s.ops, isBwait p.i = true → p = o) (htc : getTCore s o.team (o.arg 0) = some tc)
include ho hb h4 hlen hturn hclean halone htc

/-- A wait that reaches its unit registers; what it then sees is what `settleWait` says of a registered wait. -/
theorem exec_bwaitComplete_arrives :
    let b := getBar s o.team (o.arg 0) (o.arg 1)
    let e := Instr.bwaitComplete o.id
    (b.phase ≠ o.arg 2 → b.frozen = false → exec e s = .next (markWait s o.id 1)) ∧
    (b.phase ≠ o.arg 2 → b.frozen = true → exec e s = .next (markWait s o.id 3)) ∧
    (b.phase = o.arg 2 → tc.baton ≠ some (o.arg 1) → exec e s = .next (endWait s o true)) ∧
    (b.phase = o.arg 2 → tc.baton = some (o.arg 1) → tc.held = true → exec e s = .next (markWait s o.id 1)) ∧
    (b.phase = o.arg 2 → tc.baton = some (o.arg 1) → tc.held = false →
      exec e s = .next (endWait (modTCore s o.team (o.arg 0) (takenBy s o)) o true)) := by
  intro b e
  have h0 := waitAt_arg_other 1 o (k := 0) (by decide)
  have h1 := waitAt_arg_other 1 o (k := 1) (by decide)
  have h2 := waitAt_arg_other 1 o (k := 2) (by decide)
  have hlook := lookWait_arrives ho hb h4 hlen hturn hclean halone htc
  have htc1 : getTCore (markWait s o.id 1) (waitAt 1 o).team ((waitAt 1 o).arg 0) = some tc := by
    rw [h0]
    exact htc
  have hbar : getBar (markWait s o.id 1) (waitAt 1 o).team ((waitAt 1 o).arg 0) ((waitAt 1 o).arg 1) = b := by
    rw [h0, h1]
    rfl
  have hmark : ∀ n, markWait (markWait s o.id 1) (waitAt 1 o).id n = markWait s o.id n := markWait_markWait s o.id 1
  refine ⟨fun hp hf => ?_, fun hp hf => ?_, fun hp ht => ?_, fun hp ht hh => ?_, fun hp ht hh => ?_⟩
  · rw [settleWait_waits (by rw [hbar, h2]; exact hp) (by rw [hbar]; exact hf)] at hlook
    exact exec_bwaitComplete_of_look ho hb hlen hlook ho
  · rw [settleWait_freezes (by rw [hbar, h2]; exact hp) (by rw [hbar]; exact hf), hmark] at hlook
    exact exec_bwaitComplete_of_look ho hb hlen hlook ho
  · rw [settleWait_sees htc1 (by rw [hbar, h2]; exact hp) (by rw [h1]; exact ht), hmark] at hlook
    exact exec_bwaitComplete_of_look ho hb hlen hlook ho
  · rw [settleWait_held htc1 (by rw [hbar, h2]; exact hp) (by rw [h1]; exact ht) hh] at hlook
    exact exec_bwaitComplete_of_look ho hb hlen hlook ho
  · rw [settleWait_takes htc1 (by rw [hbar, h2]; exact hp) (by rw [h1]; exact ht) hh, hmark, h0] at hlook
    exact exec_bwaitComplete_of_look (u := modTCore s o.team (o.arg 0) (takenBy s o)) ho hb hlen hlook ho

end Arrives

section Waits
variable {s : State} {o : Op} (ho : getOp s o.id = some o) (hb : isBwait o.i = true) (h4 : o.arg 4 = 1)
  (hlook : lookWait s o = s)
include ho hb h4 hlook

theorem exec_bwaitComplete_of_waits : exec (.bwaitComplete o.id) s = .next s := by
  show Host.Outcome.next (onWait s o.id _) = _
  rw [onWait_of_lookWait ho hb hlook ho, if_neg (by omega)]

theorem exec_bwaitBarfault_of_waits : exec (.bwaitBarfault o.id) s = .next s := by
  show Host.Outcome.next (onWait s o.id _) = _
  rw [onWait_of_lookWait ho hb hlook ho, if_neg (by omega)]

/-- The limit of a registered wait: its end once the time is over, and nothing before. -/
theorem exec_bwaitLimitExpire_of_waits : exec (.bwaitLimitExpire o.id) s =
    .next (if o.arg 3 ≠ 0 ∧ o.at_ + o.arg 3 ≤ s.tb then endWait s o false else s) := by
  show Host.Outcome.next (onWait s o.id _) = _
  rw [onWait_of_lookWait ho hb hlook ho]
  exact congrArg _ (if_congr (by simp [h4]) rfl rfl)

end Waits

/-- Settles O35: each event of a wait by what the wait sees when it looks at its barrier; every end is one of `OpEnds`. -/
theorem waitsEndOnPhaseFreezeOrLimit : Obligations.WaitsEndOnPhaseFreezeOrLimit := by
  unfold Obligations.WaitsEndOnPhaseFreezeOrLimit
  intro s o g ho hg passed
  have hpass {e : Instr} {u : State} {ws : List (Dst × Word)} (hexec : exec e s = .next u)
      (h : OpEnds s u o (stepOn (g.writes ws) o.carried o.i.len)) : passed e ws := ⟨u, hexec, h.rest, h.gone, h.group⟩
  refine ⟨fun t hi => ?_, fun t hi hturn hready hclean => ?_, fun t hi hmet => ?_, fun t hi hmet => ?_⟩
  · have hb : isBwait o.i = true := by rw [hi]; rfl
    refine ⟨fun h4 hlen hturn hclean halone tc htc => ?_, fun h4 => ?_, fun h4 hfree => ?_,
      fun h4 hlen hp hf halone => ?_⟩
    · obtain ⟨hwaits, hfreezes, hsees, hheld, htakes⟩ :=
        exec_bwaitComplete_arrives ho hb h4 hlen hturn hclean halone htc
      refine ⟨hwaits, hfreezes, fun hp ht => hpass (hsees hp ht) (opEnds_endWait hg true), hheld, fun hp ht hh => ?_⟩
      obtain ⟨⟨hrest, hcores, hgroups⟩, hgone, hgroup⟩ :=
        opEnds_endWait (s := modTCore s o.team (o.arg 0) (takenBy s o)) hg true
      have hteams := (congrArg State.teams hrest :)
      have hshare := getTCore_modTCore_same htc (takenBy s o)
      refine ⟨_, htakes hp ht hh, ?_, hcores, hgone, hgroups, hgroup, ?_, ?_⟩
      · exact (congrArg (fun x : State => { x with teams := s.teams }) hrest :)
      · exact onlyShare_of_teams (onlyShare_modTCore s o.team (o.arg 0) _) hteams
      · rw [show takenBy s o tc = { tc with held := true, holder := g.grp } by simp [takenBy, grpNo, hg]] at hshare
        rw [← hshare]
        exact congrArg (fun ts => (ts.find? fun t : Team => t.id == o.team).bind fun t => t.cores[o.arg 0]?) hteams
    · exact hpass (exec_bwaitComplete_of_seen ho hb h4) (opEnds_endWait hg true)
    · exact exec_bwaitBarfault_of_frozen ho hb h4 hfree
    · have hlook := lookWait_waits ho hb h4 hp hf halone
      have hlimit := exec_bwaitLimitExpire_of_waits ho hb h4 hlook
      refine ⟨fun h3 htb => ?_, exec_bwaitComplete_of_waits ho hb h4 hlook, exec_bwaitBarfault_of_waits ho hb h4 hlook,
        fun h => ?_⟩
      · rw [if_pos ⟨h3, htb⟩] at hlimit
        exact hpass hlimit (opEnds_endWait hg false)
      · rwa [if_neg (by omega)] at hlimit
  · have hends := (opEnds_dropOp hg).landRegs (o.dsts.map fun d =>
      (d, if (getBar s o.team (o.arg 0) (o.arg 1)).phase = o.arg 2 then 1 else 0))
    refine ⟨_, ?_, hends.rest, hends.gone, hends.group⟩
    show Host.Outcome.next (barrierApply s o.id) = _
    have hmeet : meetBar s o.team (o.arg 0) (o.arg 1) = s := by simp [meetBar, meetScratch, hclean]
    simp only [barrierApply, ho, hi, hturn, hready, hmeet, Bool.and_self, if_true, bit32, decide_eq_true_eq]
  · refine hpass ?_ (opEnds_dropOp hg).passOp
    show Host.Outcome.next (fenceEnd s o.id) = _
    simp [fenceEnd, ho, hi, hmet]
  · refine hpass ?_ (opEnds_dropOp hg).passOp
    show Host.Outcome.next (drainEnd s o.id) = _
    simp [drainEnd, ho, hi, hmet]

end Sys2Proof.Machine

/-! SUPPORT. The load of an MXLW (R144, R153) and the engine queue: each entry under its handle takes the lanes of its own mask as
done. -/

namespace Sys2Proof.Machine

/-! ## The load of an MXLW -/

/-- With no SRAM error a read of window bytes meets none. -/
theorem foldl_meetScratch_of_clean {s : State} (h : sramClean s = true) (team core : Nat) (rs : List Range) :
    rs.foldl (fun s r => meetScratch s team core r.win r.off r.n) s = s := by
  have hmeet : ∀ w off n, meetScratch s team core w off n = s := fun _ _ _ => if_pos h
  induction rs with
  | nil => rfl
  | cons r rs ih => rw [List.foldl_cons, hmeet, ih]

/-- With no SRAM error a load changes the filling buffer alone. -/
theorem fillBuffer_of_clean {s : State} {core team cn : Nat} {tc : TCore} (h : sramClean s = true)
    (htc : getTCore s team cn = some tc) (l : Latch) (whole : Option Nat) : fillBuffer s core team cn l whole =
      modCore s core fun k => { k with filling := loadLatch tc l, filled := whole } := by
  simp only [fillBuffer, foldl_meetScratch_of_clean h, htc]

/-- An MXLW reads no row and meets nothing before its load. -/
theorem mxMeet_of_mxlw {m : MxOp} {t : EI} (hi : m.i = .mxlw t) (s : State) (cn : Nat) : mxMeet s cn m = s := by
  simp [mxMeet, MxOp.rowsRead, hi]

theorem latch_of_mxlw {m : MxOp} {t : EI} (hi : m.i = .mxlw t) :
    m.latch = some { ty := t.ty, k := mxK t, wbase := m.arg 0, sbase := m.arg 1 } := by
  simp only [MxOp.latch, hi]

/-- The one operation that is ready does its work. -/
theorem mxComplete_one {s : State} {c : Nat} {m : MxOp} (h : mxReady s c = [m]) :
    mxComplete s c = noteRow (mxWork (bump s) c m) c m := by
  simp [mxComplete, h, Nat.mod_one]

/-- The queue after the load of an MXLW: every entry under its handle has the lanes of that entry's mask done. -/
theorem mxq_mxComplete_load {s : State} {c : Nat} {m : MxOp} {tc : TCore} {t : EI} (hc : c < s.cores.length)
    (hready : mxReady s c = [m]) (hclean : sramClean s = true) (htc : getTCore s m.team (coreNoOf s m.grp) = some tc)
    (hi : m.i = .mxlw t) (hdue : m.due ≠ []) : (getCore (mxComplete s c) c).mxq =
      (getCore s c).mxq.map fun x => if x.id == m.id then { x with doneLanes := x.mask } else x := by
  have hshare : getTCore (bump s) m.team (coreNoOf (bump s) m.grp) = some tc := htc
  have hfill := fillBuffer_of_clean (s := bump s) (core := c) (team := m.team) hclean hshare
  have hrow : isMxrow m.i = false := by rw [hi]; rfl
  have hwork : mxComplete s c = mxWork (bump s) c m := by rw [mxComplete_one hready, noteRow, hrow]; rfl
  have hdue' : m.due.isEmpty = false := by simpa using hdue
  rw [hwork]
  simp only [mxWork, mxMeet_of_mxlw hi, hshare, hi, hdue', latch_of_mxlw hi, hfill, modMx, modCore, modNth_modNth,
    Bool.false_eq_true, if_false]
  exact congrArg Core.mxq (nth_modNth_same Core.reset _ _ _ hc)

/-! ## Two entries under one handle -/

/-- An MXLW of lanes 0 and 1 that has started and has its load to do. -/
def loadingOp : MxOp := Tests.mxOp (.mxlw (Tests.ei (.v 0) (.g 0) (.v 0) (.v 0) 0xC4)) [0, 0] true

/-- A core whose queue holds that operation and, under the same handle, one of lane 0 alone that has not started. No reachable
state has such a queue, but nothing that O41 assumes shuts it out. -/
def twinQueue : State := Tests.engined [loadingOp, { loadingOp with mask := 1, started := false }] [] id

theorem mxReady_twinQueue : mxReady twinQueue 0 = [loadingOp] := by decide

theorem share_twinQueue : ∃ tc, getTCore twinQueue loadingOp.team (coreNoOf twinQueue loadingOp.grp) = some tc :=
  Option.isSome_iff_exists.1 (by decide +kernel)

/-- Refutes O41: an MXLW under whose handle the queue holds a second entry, of other lanes. At the load the statement has both
entries take the lanes of the first as done; the model has each take its own. -/
theorem not_matrixEngineStartsAndCompletesOperations : ¬ Obligations.MatrixEngineStartsAndCompletesOperations := by
  unfold Obligations.MatrixEngineStartsAndCompletesOperations
  rintro ⟨-, -, -, -, -, hcompletes⟩
  obtain ⟨tc, htc⟩ := share_twinQueue
  have hcore : 0 < twinQueue.cores.length := by decide +kernel
  have hclean : sramClean twinQueue = true := by decide
  have hdue : loadingOp.due ≠ [] := by decide
  obtain ⟨-, -, -, -, -, -, hload, -⟩ := hcompletes twinQueue 0 loadingOp tc hcore mxReady_twinQueue hclean htc
  obtain ⟨u, hu, -, -, hq, -⟩ := hload _ rfl hdue
  have hstep : mxComplete twinQueue 0 = u := Host.Outcome.next.inj hu
  have hmodel := mxq_mxComplete_load hcore mxReady_twinQueue hclean htc rfl hdue
  rw [hstep, hq] at hmodel
  have hmasks : (3 : Mask) = 1 := congrArg (fun q : List MxOp => (q.getD 1 loadingOp).doneLanes) hmodel
  exact absurd hmasks (by decide)

end Sys2Proof.Machine

/-! SUPPORT. The issue of the Erg instructions (R169, R173 to R177): the checks of each form, in R173's order, and its entry of
the Erg queue. -/

namespace Sys2Proof.Machine

open Sys2Proof.Safety

/-! ## Any Erg instruction -/

/-- The entry of the Erg queue that the issue in hand makes. -/
def ergEntry (s : State) (v : View) (i : Instr) (m : Mask) (y : EngSpec) : ErgOp :=
  { id := s.nextId, grp := v.g.id, team := v.g.team, i := i, pc := v.pc, mask := m, carried := v.carried
    args := y.args, started := false, ta := 0, tr := 0, doneLanes := 0, dsts := y.dsts, sys := v.g.onBank, cyc := v.cyc }

/-- An Erg instruction makes the check of its TYPE and those of its list, and then enters the Erg queue unless 8 operations fill
it. -/
theorem engineIssue_of_ergIssue {i : Instr} {h : Hdr} {s : State} {v : View} {tm : Team} {checks : View → Team → List Check}
    {x : View → Mask → EngSpec} {cs : List ((Nat → Bool) × Nat × (Nat → Dword))} (hv : viewOf s = some v)
    (ht : getTeam s v.g.team = some tm) (hexec : exec i s = .next (ergIssue s h i checks x))
    (hcs : checks v tm = cs.map asCheck) :
    EngineIssue i s v h (ergTypeOk i) cs (ergFull s v.g.core)
      fun k => { k with ergq := k.ergq ++ [ergEntry s v i (v.parts h) (x v (v.parts h))] } := by
  obtain ⟨hg, hid, hcarried, -⟩ := viewOf_some hv
  simp only [ergIssue, hv, ht, hcs] at hexec
  refine ⟨fun hc => by simpa [hc] using hexec, fun hc => ⟨fun hm => ?_, fun hm hty => ?_, fun hm hty => ?_⟩⟩
  · refine ownGroup_of_done (fun g => g) _ hv (fun _ => rfl) ?_
    rw [modGroup_self]
    simpa [hc, hm] using hexec
  · simp only [hc, hm, hty, Bool.not_true, Bool.not_false, Bool.false_eq_true, if_false, if_true] at hexec
    exact ⟨_, _, hexec⟩
  · simp only [hc, hm, hty, Bool.not_true, Bool.false_eq_true, if_false] at hexec
    refine ⟨fun cause tv hf => ?_, fun hf => ?_⟩
    · rw [hexec, firstFail_of_firstFailure hf]
    · rw [firstFail_of_firstFailure hf] at hexec
      refine ⟨fun hfull => by rw [hexec, if_pos hfull]; rfl, fun hroom => ?_⟩
      simp only [hroom, Bool.false_eq_true, if_false] at hexec
      refine ⟨_, hexec, rfl, rfl, rfl, rfl, fun k hk => ?_, ?_⟩
      · exact getGroup_modGroup_other _ _ _ _ (hid ▸ hk) fun _ => rfl
      · rw [hid, hcarried]
        exact getGroup_modGroup_same _ _ _ _ hg fun _ => rfl

/-! ## The checks of R173 -/

/-- Checks 2 and 3 of a tile form: its stride, its bases, and each participant's tile before its slot. -/
theorem tileChecks_eq (v : View) (tm : Team) (t : EI) :
    tileChecks v tm t =
      [ (fun _ => decide (v.uniN t t.b % 8 ≠ 0), 0x07, fun _ => BitVec.ofNat 64 (v.uniN t t.b)),
        (fun l => decide (rowOff v t l % 8 ≠ 0), 0x07, fun l => BitVec.ofNat 64 (rowOff v t l)),
        (fun l => decide (winBytes tm .act < rowOff v t l + (15 * ergPitch t + 128)) ||
            decide (slotCount tm ≤ v.uniN t t.c + l), 0x12,
          fun l => if winBytes tm .act < rowOff v t l + (15 * ergPitch t + 128) then BitVec.ofNat 64 (rowOff v t l)
            else BitVec.ofNat 64 (v.uniN t t.c + l)) ].map asCheck :=
  congrArg₂ (· ++ ·) (strideChecks_eq (v.uniN t t.b) (rowOff v t))
    (congrArg (fun x => [x]) (check_eq_asCheck_or rfl fun _ => by simp))

theorem slotCheck_eq (tm : Team) (slot : Nat → Nat) :
    (fun l => if slot l ≥ slotCount tm then some (0x12, arg (slot l)) else none) =
      asCheck (fun l => decide (slotCount tm ≤ slot l), 0x12, fun l => BitVec.ofNat 64 (slot l)) :=
  check_eq_asCheck rfl fun _ => by simp

theorem bitCheck_eq (bit : Nat → Nat) :
    bitCheck bit = asCheck (fun l => decide (4095 < bit l), 0x12, fun l => BitVec.ofNat 64 (bit l)) :=
  check_eq_asCheck rfl fun _ => by simp

theorem skipWordCheck_eq (n : Nat) :
    skipWordCheck n = asCheck (fun _ => decide (63 < n), 0x12, fun _ => BitVec.ofNat 64 n) :=
  check_eq_asCheck rfl fun _ => by simp

/-- ERGM.CLR: the last bit of its run, if there is one (R177). -/
theorem clearCheck_eq (a n : Nat) :
    (fun _ => if n ≠ 0 ∧ a + n - 1 > 4095 then some (0x12, arg (a + n - 1)) else none) =
      asCheck (fun _ => decide (n ≠ 0) && decide (4095 < a + n - 1), 0x12, fun _ => BitVec.ofNat 64 (a + n - 1)) :=
  check_eq_asCheck rfl fun _ => by simp

/-- Settles O40: every form is issued in the same way (`engineIssue_of_ergIssue`), the tile forms with the checks of
`tileChecks_eq` and each other form with one check, of WINDOW. -/
theorem ergInstructionsCheckThenQueue : Obligations.ErgInstructionsCheckThenQueue := by
  unfold Obligations.ErgInstructionsCheckThenQueue
  intro t s v tm hv ht
  extract_lets m a b c n64 off tile slots accepted typed does tiles one bit
  have issue {i : Instr} {checks : View → Team → List Check} {x : View → Mask → EngSpec}
      {cs : List ((Nat → Bool) × Nat × (Nat → Dword))} {args : List Dword} {dsts : List Dst}
      (hexec : exec i s = .next (ergIssue s t.h i checks x)) (hx : x v m = { args := args, dsts := dsts })
      (hcs : checks v tm = cs.map asCheck) : typed i (ergTypeOk i) cs args dsts := by
    have h := engineIssue_of_ergIssue hv ht hexec hcs
    rw [hx] at h
    exact h
  have hty : t.ergType = accepted := rfl
  refine ⟨?_, ?_, ?_, ?_, ?_, ?_, ?_, ?_, ?_, ?_⟩
  · exact hty ▸ issue (i := .ergc t) rfl rfl (tileChecks_eq v tm t)
  · exact hty ▸ issue (i := .ergkIn t) rfl rfl (tileChecks_eq v tm t)
  · exact hty ▸ issue (i := .ergkOut t) rfl rfl (tileChecks_eq v tm t)
  · exact issue (i := .ergkRst t) rfl rfl (tileChecks_eq v tm t)
  · exact issue (i := .ergkInv t) rfl rfl (congrArg (fun x => [x]) (slotCheck_eq tm fun l => c + l))
  · exact issue (i := .ergt t) rfl rfl (congrArg (fun x => [x]) (bitCheck_eq bit))
  · exact issue (i := .ergmRd t) rfl rfl (congrArg (fun x => [x]) (skipWordCheck_eq a))
  · exact issue (i := .ergmWr t) rfl rfl (congrArg (fun x => [x]) (skipWordCheck_eq a))
  · exact issue (i := .ergmClr t) rfl rfl (congrArg (fun x => [x]) (clearCheck_eq a b))
  · exact issue (i := .ergmDesc t) rfl rfl (congrArg (fun x => [x]) (slotCheck_eq tm fun _ => a))

end Sys2Proof.Machine

/-! SUPPORT. What the Erg unit computes (R161 to R168, R174, R175): skip bits, the sums and distances of tiles, the test against
the thresholds, and the slots that tiles are kept in and restored from. -/

namespace Sys2Proof.Machine

open Sys2Proof.Safety

/-! ## The Skip map (R166) -/

theorem getLsbD_bit {i k : Nat} (hk : k < 64) : (Mask.bit i).getLsbD k = decide (i = k) := by
  rw [BitVec.getLsbD_ofNat, Nat.testBit_two_pow, decide_eq_true hk, Bool.true_and]

/-- One bit of a word set or cleared. -/
theorem getLsbD_putBit (w : Dword) (x : Bool) (i : Nat) {k : Nat} (hk : k < 64) :
    (if x then w ||| Mask.bit i else w &&& ~~~Mask.bit i).getLsbD k = if i = k then x else w.getLsbD k := by
  cases x with
  | true =>
    rw [if_pos rfl, BitVec.getLsbD_or, getLsbD_bit hk]
    by_cases hik : i = k <;> simp [hik]
  | false =>
    rw [if_neg Bool.false_ne_true, BitVec.getLsbD_and, BitVec.getLsbD_not, getLsbD_bit hk]
    by_cases hik : i = k <;> simp [hik, hk]

/-- A skip bit that is set or cleared holds its value, and every other bit what it held. -/
theorem skipBit_setSkip {tm : Team} (hlen : tm.skip.length = 64) (j : Nat) {k : Nat} (hk : k < 4096) (x : Bool) :
    skipBit (setSkip tm j x) k = if k = j then x else skipBit tm k := by
  unfold skipBit setSkip
  by_cases hw : j / 64 = k / 64
  · rw [hw, nth_modNth_same _ _ _ _ (by omega), getLsbD_putBit _ _ _ (Nat.mod_lt _ (by decide))]
    exact if_congr (by omega) rfl rfl
  · rw [nth_modNth_other _ _ _ _ _ hw, if_neg (by rintro rfl; exact hw rfl)]

theorem clearSkips_succ (tm : Team) (a n : Nat) : clearSkips tm a (n + 1) = setSkip (clearSkips tm a n) (a + n) false := by
  simp [clearSkips, List.range_succ]

/-- Clearing skip bits changes the Skip map alone. -/
theorem clearSkips_eq (tm : Team) (a n : Nat) : clearSkips tm a n = { tm with skip := (clearSkips tm a n).skip } := by
  induction n with
  | zero => rfl
  | succ n ih =>
    rw [clearSkips_succ, ih]
    rfl

theorem length_clearSkips (tm : Team) (a n : Nat) : (clearSkips tm a n).skip.length = tm.skip.length := by
  induction n with
  | zero => rfl
  | succ n ih => rw [clearSkips_succ, setSkip, length_modNth, ih]

theorem skipBit_clearSkips {tm : Team} (hlen : tm.skip.length = 64) (a n : Nat) {k : Nat} (hk : k < 4096) :
    skipBit (clearSkips tm a n) k = if a ≤ k ∧ k < a + n then false else skipBit tm k := by
  induction n with
  | zero => rw [if_neg (by omega)]; rfl
  | succ n ih =>
    rw [clearSkips_succ, skipBit_setSkip (by rw [length_clearSkips, hlen]) _ hk, ih]
    by_cases hlast : k = a + n
    · rw [if_pos hlast, if_pos (by omega)]
    · rw [if_neg hlast]
      exact if_congr (by omega) rfl rfl

/-! ## Elements of a tile (R161, R165) -/

theorem elemCodes_one : ∀ bs : List Byte, elemCodes 1 bs = bs.map BitVec.toNat
  | [] => rfl
  | [_] => rfl
  | a :: b :: bs => by simp [elemCodes, elemCodes_one bs]

theorem elemCodes_two : ∀ (n : Nat) (bs : List Byte), bs.length = 2 * n →
    elemCodes 2 bs = (List.range n).map fun k => (bs.getD (2 * k) 0).toNat + 256 * (bs.getD (2 * k + 1) 0).toNat
  | 0, bs, h => by simp [List.length_eq_zero_iff.1 h, elemCodes]
  | n + 1, [], h => by simp at h
  | n + 1, [_], h => by simp at h; omega
  | n + 1, a :: b :: bs, h => by
    have hlen : bs.length = 2 * n := by simpa [Nat.mul_succ] using h
    simp [elemCodes, elemCodes_two n bs hlen, List.range_succ_eq_map, Nat.mul_succ]

/-- The codes of a tile's bytes are its packed elements. -/
theorem elemCodes_eq_packed (ty : Ty) {bs : List Byte} (h : bs.length = 2048) :
    elemCodes (elemSize ty) bs = (List.range (2048 / elemSize ty)).map (packedCode ty bs) := by
  unfold elemSize packedCode
  by_cases hh : ty.isHalf = true
  · simp only [hh, if_true]
    exact elemCodes_two 1024 bs h
  · simp only [hh, if_false, Bool.false_eq_true, Nat.div_one, elemCodes_one, ← h]
    refine List.ext_getElem (by simp) fun i hi _ => ?_
    simp [show i < bs.length by simpa using hi]

theorem tileBytes_length (tc : TCore) (base pitch : Nat) : (tileBytes tc base pitch).length = 2048 := by
  simp [tileBytes, List.length_flatMap, bytes_length]

/-- An element of a tile in units of the format, none for an infinity or a NaN. -/
def elemUnits (ty : Ty) (bs : List Byte) (k : Nat) : Option Int := ergUnits (tyFmt ty) (packedCode ty bs k)

theorem ergUnits_eq (f : Fmt) (code : Nat) : ergUnits f code = match f.decode code with
    | .fin neg n q => some ((if neg then -1 else 1) * ((n * 2 ^ (q - f.qmin).toNat : Nat) : Int))
    | _ => none := by
  unfold ergUnits
  cases f.decode code with
  | fin neg n q => cases neg <;> simp [unitsAt]
  | _ => rfl

/-! ## Sums of magnitudes (R165) -/

/-- A sum of magnitudes: it is held at 2^80 - 1 once it would pass that. -/
def magnitude (n : Nat) : SatSum := if n < 2 ^ 80 then ⟨n, false⟩ else ⟨l1Max, true⟩

theorem magnitude_add (n d : Nat) : (magnitude n).add 0 l1Max d = magnitude (n + d) := by
  have hmax : l1Max = 2 ^ 80 - 1 := by decide
  unfold magnitude SatSum.add
  by_cases hn : n < 2 ^ 80
  · by_cases hd : n + d < 2 ^ 80
    · simp only [if_pos hn, if_pos hd, Bool.false_eq_true, if_false]
      rw [if_neg (by omega), if_neg (by omega), Nat.cast_add]
    · simp only [if_pos hn, if_neg hd, Bool.false_eq_true, if_false]
      rw [if_pos (by omega)]
  · simp only [if_neg hn, if_neg (show ¬ n + d < 2 ^ 80 by omega), if_true]

theorem magnitude_sat (n : Nat) : (magnitude n).sat = decide (2 ^ 80 ≤ n) := by
  unfold magnitude
  split <;> simp <;> omega

theorem magnitude_val {n : Nat} (h : n < 2 ^ 80) : (magnitude n).val = n := by rw [magnitude, if_pos h]

/-- The units between two elements; where one is an infinity or a NaN there are none. -/
def unitDist (a b : Option Int) : Nat :=
  match a, b with
  | some a, some b => (a - b).natAbs
  | _, _ => 0

/-- The distance of two tiles, not yet held at its limit (R168). -/
def distOf (ty : Ty) (xs ys : List Byte) : Nat :=
  ((List.range (2048 / elemSize ty)).map fun k => unitDist (elemUnits ty xs k) (elemUnits ty ys k)).sum

/-- Does either of two tiles hold an infinity or a NaN? -/
def specialIn (ty : Ty) (xs ys : List Byte) : Bool :=
  (List.range (2048 / elemSize ty)).any fun k => (elemUnits ty xs k).isNone || (elemUnits ty ys k).isNone

/-- A pair of elements joins a distance. -/
def addPair (acc : SatSum × Bool) (x y : Option Int) : SatSum × Bool :=
  match x, y with
  | some x, some y => (acc.1.add 0 l1Max (x - y).natAbs, acc.2)
  | _, _ => (acc.1, true)

theorem addPair_magnitude (n : Nat) (b : Bool) (x y : Option Int) :
    addPair (magnitude n, b) x y = (magnitude (n + unitDist x y), b || (x.isNone || y.isNone)) := by
  cases x <;> cases y <;> simp [addPair, unitDist, ← magnitude_add]

theorem foldl_addPair (x y : Nat → Option Int) (ks : List Nat) (n : Nat) (b : Bool) :
    ks.foldl (fun acc k => addPair acc (x k) (y k)) (magnitude n, b) =
      (magnitude (n + (ks.map fun k => unitDist (x k) (y k)).sum), b || ks.any fun k => (x k).isNone || (y k).isNone) := by
  induction ks generalizing n b with
  | nil => simp
  | cons k ks ih => simp [addPair_magnitude, ih, Nat.add_assoc, Bool.or_assoc]

theorem tileDist_eq (ty : Ty) {xs ys : List Byte} (hx : xs.length = 2048) (hy : ys.length = 2048) :
    tileDist ty xs ys = (magnitude (distOf ty xs ys), specialIn ty xs ys) := by
  have hfold := foldl_addPair (elemUnits ty xs) (elemUnits ty ys) (List.range (2048 / elemSize ty)) 0 false
  rw [Nat.zero_add, Bool.false_or] at hfold
  rw [tileDist, elemCodes_eq_packed ty hx, elemCodes_eq_packed ty hy, List.zip_map', List.foldl_map]
  exact hfold

/-! ## SUM and L1 of a kept tile (R165) -/

/-- While the magnitudes stay below 2^79 no limit is met. -/
theorem signedSum_add {a u : Int} (h : a.natAbs + u.natAbs < 2 ^ 79) :
    (SatSum.mk a false).add sumMin sumMax u = ⟨a + u, false⟩ := by
  have hmin : sumMin = -2 ^ 79 := by decide
  have hmax : sumMax = 2 ^ 79 - 1 := by decide
  unfold SatSum.add
  rw [if_neg Bool.false_ne_true, if_neg (by dsimp only; omega), if_neg (by dsimp only; omega)]

/-- An element joins the sums of a tile. -/
def addElem (acc : SatSum × SatSum × Bool) (x : Option Int) : SatSum × SatSum × Bool :=
  match x with
  | none => (acc.1, acc.2.1, true)
  | some u => (acc.1.add sumMin sumMax u, acc.2.1.add 0 l1Max u.natAbs, acc.2.2)

theorem foldl_addElem (xs : List (Option Int)) (a : Int) (n : Nat) (b : Bool)
    (h : a.natAbs + ((xs.filterMap id).map Int.natAbs).sum < 2 ^ 79) :
    xs.foldl addElem (⟨a, false⟩, magnitude n, b) =
      (⟨a + (xs.filterMap id).sum, false⟩, magnitude (n + ((xs.filterMap id).map Int.natAbs).sum),
        b || xs.any Option.isNone) := by
  induction xs generalizing a n b with
  | nil => simp
  | cons x xs ih =>
    cases x with
    | none => simpa [addElem] using ih a n true (by simpa using h)
    | some u =>
      simp only [List.filterMap_cons_some (f := id) (a := some u) rfl, List.map_cons, List.sum_cons] at h ⊢
      have hstep : addElem (⟨a, false⟩, magnitude n, b) (some u) = (⟨a + u, false⟩, magnitude (n + u.natAbs), b) := by
        rw [addElem, signedSum_add (by omega), magnitude_add]
      rw [List.foldl_cons, hstep, ih _ _ _ (by omega)]
      simp [add_assoc]

/-- The elements of a tile in units, infinities and NaNs left out. -/
def finiteUnits (ty : Ty) (bs : List Byte) : List Int := (List.range (2048 / elemSize ty)).filterMap (elemUnits ty bs)

theorem any_isNone_iff {α β : Type} (f : α → Option β) (xs : List α) :
    xs.any (fun x => (f x).isNone) = decide ((xs.filterMap f).length < xs.length) := by
  induction xs with
  | nil => rfl
  | cons x xs ih =>
    have hle := List.length_filterMap_le f xs
    cases hx : f x <;> simp [hx, ih]; omega

theorem tileSums_eq {ty : Ty} {bs : List Byte} (hlen : bs.length = 2048)
    (h : ((finiteUnits ty bs).map Int.natAbs).sum < 2 ^ 79) :
    tileSums ty bs = (⟨(finiteUnits ty bs).sum, false⟩, ⟨((finiteUnits ty bs).map Int.natAbs).sum, false⟩,
      decide ((finiteUnits ty bs).length < 2048 / elemSize ty)) := by
  have hunits : ((List.range (2048 / elemSize ty)).map (elemUnits ty bs)).filterMap id = finiteUnits ty bs := by
    rw [List.filterMap_map]
    rfl
  have hfold := foldl_addElem ((List.range (2048 / elemSize ty)).map (elemUnits ty bs)) 0 0 false (by rw [hunits]; simpa using h)
  have hany := any_isNone_iff (elemUnits ty bs) (List.range (2048 / elemSize ty))
  rw [hunits, List.any_map, Function.comp_def, hany, List.length_range, List.foldl_map] at hfold
  rw [tileSums, elemCodes_eq_packed ty hlen, List.foldl_map]
  refine Eq.trans ?_ (hfold.trans ?_)
  · rfl
  · rw [magnitude, if_pos (by omega), zero_add, zero_add, Bool.false_or]
    rfl

/-! ## The test against the thresholds (R168) -/

theorem unitsAt_value (n : Nat) {m q : Int} (h : m ≤ q) :
    ((unitsAt false n (q - m).toNat : Int) : ℚ) * 2 ^ m = n * 2 ^ q := by
  have hq : q = ((q - m).toNat : Int) + m := by omega
  rw [unitsAt, if_neg Bool.false_ne_true]
  conv_rhs => rw [hq, zpow_add₀ two_ne_zero, zpow_natCast]
  push_cast
  ring

/-- Two values that are not negative compare as rational numbers. -/
theorem cmpVal_le_iff (n1 n2 : Nat) (q1 q2 : Int) :
    (cmpVal (.fin false n1 q1) (.fin false n2 q2) != .gt) = true ↔ (n1 : ℚ) * 2 ^ q1 ≤ n2 * 2 ^ q2 := by
  have hpos : (0 : ℚ) < 2 ^ min q1 q2 := by positivity
  rw [← unitsAt_value n1 (min_le_left q1 q2), ← unitsAt_value n2 (min_le_right q1 q2), mul_le_mul_iff_left₀ hpos,
    Int.cast_le, cmpVal, bne_iff_ne, ne_eq, compare_gt_iff_gt, not_lt]

/-- The sum of two values that are not negative is exact. -/
theorem addFin_value (n1 n2 : Nat) (q1 q2 : Int) :
    ∃ n q, addFin .rne false n1 q1 false n2 q2 = .fin false n q ∧ (n : ℚ) * 2 ^ q = n1 * 2 ^ q1 + n2 * 2 ^ q2 := by
  have hsum : ((unitsAt false n1 (q1 - min q1 q2).toNat + unitsAt false n2 (q2 - min q1 q2).toNat : Int) : ℚ) * 2 ^ min q1 q2 =
      n1 * 2 ^ q1 + n2 * 2 ^ q2 := by
    rw [Int.cast_add, add_mul, unitsAt_value n1 (min_le_left _ _), unitsAt_value n2 (min_le_right _ _)]
  have hnonneg : 0 ≤ unitsAt false n1 (q1 - min q1 q2).toNat + unitsAt false n2 (q2 - min q1 q2).toNat := by
    simp only [unitsAt, Bool.false_eq_true, if_false]
    positivity
  unfold addFin
  dsimp only
  generalize unitsAt false n1 (q1 - min q1 q2).toNat + unitsAt false n2 (q2 - min q1 q2).toNat = t at hsum hnonneg
  by_cases ht : t = 0
  · refine ⟨0, 0, by simp [ht], ?_⟩
    rw [← hsum, ht]
    simp
  · refine ⟨t.natAbs, min q1 q2, ?_, ?_⟩
    · simp only [if_neg ht, decide_eq_false (not_lt.2 hnonneg)]
    · rw [← hsum, ← Int.cast_natCast, Int.natAbs_of_nonneg hnonneg]

/-- With finite thresholds the test compares the distance with TA + TR times the sum of magnitudes. -/
theorem withinThreshold_iff {ta tr : Word} {n m : Nat} {q r : Int} (hta : fmtF32.decode (ta.toNat % 2 ^ 31) = .fin false n q)
    (htr : fmtF32.decode (tr.toNat % 2 ^ 31) = .fin false m r) (q0 : Int) (dist l1 : Nat) :
    withinThreshold ta tr q0 dist l1 = true ↔ (dist : ℚ) * 2 ^ q0 ≤ n * 2 ^ q + m * 2 ^ r * l1 * 2 ^ q0 := by
  obtain ⟨k, p, ht, hval⟩ : ∃ (k : Nat) (p : Int),
      (if l1 = 0 then FVal.fin false 0 q0 else (mulExact (.fin false m r) (.fin false l1 q0)).v) = .fin false k p ∧
        (k : ℚ) * 2 ^ p = m * 2 ^ r * l1 * 2 ^ q0 := by
    by_cases h : l1 = 0
    · exact ⟨0, q0, if_pos h, by simp [h]⟩
    · refine ⟨m * l1, r + q0, if_neg h, ?_⟩
      rw [zpow_add₀ two_ne_zero, Nat.cast_mul]
      ring
  obtain ⟨b, w, hb, hsum⟩ := addFin_value n k q p
  unfold withinThreshold
  rw [hta, htr]
  dsimp only
  rw [ht, addExact, hb, cmpVal_le_iff, hsum, hval]

/-! ## ERGC (R168, R174) -/

/-- Does a slot hold no kept input tile of a TYPE? -/
def slotOther (tc : TCore) (ty : Ty) (j : Nat) : Bool :=
  !(slotDesc tc j).testBit 63 || (slotDesc tc j).testBit 62 || slotDesc tc j / 2 ^ 32 % 64 != ty.code.toNat

/-- The distance of a tile in ACT and a slot's. -/
def slotDist (tc : TCore) (ty : Ty) (base pitch j : Nat) : Nat :=
  distOf ty (tileBytes tc base pitch) (tc.bytes .erg (slotOff j) 2048)

/-- A comparison reads an infinity, a NaN or poison. -/
def compareBad (tc : TCore) (ty : Ty) (base pitch j : Nat) : Bool :=
  specialIn ty (tileBytes tc base pitch) (tc.bytes .erg (slotOff j) 2048) || tilePoisoned tc base pitch ||
    (tc.poisoned .erg (slotOff j) 2048 || tc.poisoned .erg (slotOff j + 0x810) 16) || tc.poisoned .erg (slotOff j + 0x820) 8

/-- The skip test of a comparison with a slot that holds an input tile of its TYPE (R168). -/
def compareSkip (tc : TCore) (ty : Ty) (ta tr : Word) (base pitch j : Nat) : Bool :=
  !compareBad tc ty base pitch j && !(slotDesc tc j).testBit 58 && !decide (2 ^ 80 ≤ slotDist tc ty base pitch j) &&
    !thrNan ta && !thrNan tr && !(decide (tr.toNat % 2 ^ 31 ≠ 0 ∧ slotL1 tc j ≠ 0) && (slotDesc tc j).testBit 57) &&
    withinThreshold ta tr (tyFmt ty).qmin (magnitude (slotDist tc ty base pitch j)).val.toNat (slotL1 tc j)

theorem slotOther_iff (tc : TCore) (ty : Ty) (j : Nat) : slotOther tc ty j = true ↔ ((!(slotDesc tc j).testBit 63) = true ∨
    (slotDesc tc j).testBit 62 = true ∨ slotDesc tc j / 2 ^ 32 % 64 ≠ ty.code.toNat) := by
  simp only [slotOther, Bool.or_eq_true, bne_iff_ne, or_assoc]

section Compare

variable {tc : TCore} {ty : Ty} {ta tr : Word} {base pitch j : Nat}

theorem ergCompare_of_other (h : slotOther tc ty j = true) :
    ergCompare tc ty ta tr base pitch j = 8 + bitNat (tc.poisoned .erg (slotOff j + 0x820) 8) 1 :=
  if_pos ((slotOther_iff ..).1 h)

theorem ergCompare_of_like (h : slotOther tc ty j = false) : ergCompare tc ty ta tr base pitch j =
    bitNat (compareSkip tc ty ta tr base pitch j) 0 + bitNat (compareBad tc ty base pitch j) 1 +
      bitNat (decide (2 ^ 80 ≤ slotDist tc ty base pitch j)) 2 := by
  have hno := (slotOther_iff tc ty j).not.1 (by simp [h])
  have hbad (a b c d e : Bool) : (a || b || c || d || e) = (b || c || (d || e) || a) := by
    cases a <;> simp [Bool.or_assoc]
  unfold ergCompare
  dsimp only
  rw [if_neg hno, tileDist_eq ty (tileBytes_length tc base pitch) (bytes_length tc .erg (slotOff j) 2048)]
  dsimp only
  rw [hbad, magnitude_sat]
  rfl

/-- What a status of three bits tells. -/
theorem status_bits (a b c : Bool) : bitNat a 0 + bitNat b 1 + bitNat c 2 < 8 ∧
    (bitNat a 0 + bitNat b 1 + bitNat c 2).testBit 0 = a ∧ (bitNat a 0 + bitNat b 1 + bitNat c 2).testBit 1 = b ∧
    (bitNat a 0 + bitNat b 1 + bitNat c 2).testBit 2 = c := by
  revert a b c
  decide

theorem compareSkip_of_hindered (h : compareBad tc ty base pitch j = true ∨ 2 ^ 80 ≤ slotDist tc ty base pitch j ∨
    (slotDesc tc j).testBit 58 = true) : compareSkip tc ty ta tr base pitch j = false := by
  rcases h with h | h | h
  · simp [compareSkip, h]
  · simp only [compareSkip, decide_eq_true h, Bool.not_true, Bool.and_false, Bool.false_and]
  · simp [compareSkip, h]

theorem thrNan_of_fin {w : Word} {neg : Bool} {n : Nat} {q : Int} (h : fmtF32.decode (w.toNat % 2 ^ 31) = .fin neg n q) :
    thrNan w = false := by
  rw [thrNan, h]
  rfl

theorem compareSkip_iff {n m : Nat} {q r : Int} (hbad : compareBad tc ty base pitch j = false)
    (hdist : slotDist tc ty base pitch j < 2 ^ 80) (hnf : (slotDesc tc j).testBit 58 = false)
    (hta : fmtF32.decode (ta.toNat % 2 ^ 31) = .fin false n q) (htr : fmtF32.decode (tr.toNat % 2 ^ 31) = .fin false m r) :
    compareSkip tc ty ta tr base pitch j = true ↔
      (tr.toNat % 2 ^ 31 ≠ 0 → slotL1 tc j ≠ 0 → (slotDesc tc j).testBit 57 = false) ∧
        (slotDist tc ty base pitch j : ℚ) * 2 ^ (tyFmt ty).qmin ≤
          n * 2 ^ q + m * 2 ^ r * slotL1 tc j * 2 ^ (tyFmt ty).qmin := by
  rw [compareSkip, hbad, hnf, decide_eq_false (not_le.2 hdist), thrNan_of_fin hta, thrNan_of_fin htr, magnitude_val hdist,
    Int.toNat_natCast]
  simp only [Bool.not_false, Bool.true_and, Bool.and_eq_true, withinThreshold_iff hta htr, Bool.not_eq_true',
    Bool.and_eq_false_imp, decide_eq_true_eq, and_imp]

/-- The bits of a comparison's status, with a slot that holds an input tile of its TYPE. -/
theorem ergCompare_bits (h : slotOther tc ty j = false) :
    ergCompare tc ty ta tr base pitch j < 8 ∧
      (ergCompare tc ty ta tr base pitch j).testBit 0 = compareSkip tc ty ta tr base pitch j ∧
      (ergCompare tc ty ta tr base pitch j).testBit 1 = compareBad tc ty base pitch j ∧
      (ergCompare tc ty ta tr base pitch j).testBit 2 = decide (2 ^ 80 ≤ slotDist tc ty base pitch j) := by
  rw [ergCompare_of_like h]
  exact status_bits ..

end Compare

/-! ## ERGK (R175) -/

/-- A tile kept while no sum meets a limit. -/
theorem keepTile_eq (tc : TCore) {ty : Ty} (kind : Bool) (base pitch j : Nat)
    (h : ((finiteUnits ty (tileBytes tc base pitch)).map Int.natAbs).sum < 2 ^ 79) :
    keepTile tc ty kind base pitch j = tc.write .erg (slotOff j) (tileBytes tc base pitch ++
      toBytes (BitVec.ofInt 128 (finiteUnits ty (tileBytes tc base pitch)).sum).toNat 16 ++
      toBytes ((finiteUnits ty (tileBytes tc base pitch)).map Int.natAbs).sum 16 ++
      toBytes ((if tilePoisoned tc base pitch then 0 else 2 ^ 63) + (if kind then 2 ^ 62 else 0) +
        (if (finiteUnits ty (tileBytes tc base pitch)).length < 2048 / elemSize ty then 2 ^ 58 else 0) +
        ty.code.toNat * 2 ^ 32 + (slotDesc tc j + 1) % 2 ^ 32) 8) := by
  have hseq : (slotDesc tc j % 2 ^ 32 + 1) % 2 ^ 32 = (slotDesc tc j + 1) % 2 ^ 32 := by omega
  unfold keepTile
  dsimp only
  rw [tileSums_eq (tileBytes_length tc base pitch) h]
  simp only [descWord, hseq, bitNat, Int.toNat_natCast, Bool.false_eq_true, if_false, Nat.add_zero, decide_eq_true_eq,
    Bool.not_eq_true', ← Bool.not_eq_true, ite_not]

/-- Bytes that lie among others touch granules of theirs. -/
theorem granules_subset {off n off' n' : Nat} (h : off ≤ off') (h' : off' + n' ≤ off + n) {g : Nat}
    (hg : g ∈ granules off' n') : g ∈ granules off n := by
  unfold granules at *
  split at hg
  · cases hg
  · simp only [List.mem_map, List.mem_range] at hg
    obtain ⟨i, hi, rfl⟩ := hg
    rw [if_neg (by omega)]
    exact List.mem_map.2 ⟨off' / 8 + i - off / 8, List.mem_range.2 (by omega), by omega⟩

theorem not_poisoned_within {tc : TCore} {w : Win} {off n off' n' : Nat} (hp : tc.poisoned w off n = false) (h : off ≤ off')
    (h' : off' + n' ≤ off + n) : tc.poisoned w off' n' = false := by
  unfold TCore.poisoned at *
  rw [List.any_eq_false] at *
  exact fun g hg => hp g (granules_subset h h' hg)

/-- A write of ACT leaves the bytes of ERG and their poison. -/
theorem poisoned_erg_write_act (tc : TCore) (a : Nat) (bs : List Byte) (off n : Nat) :
    (tc.write .act a bs).poisoned .erg off n = tc.poisoned .erg off n := by
  unfold TCore.poisoned
  congr 1
  funext g
  simp [TCore.write]

theorem bytes_erg_write_act (tc : TCore) (a : Nat) (bs : List Byte) (off n : Nat) :
    (tc.write .act a bs).bytes .erg off n = tc.bytes .erg off n := rfl

theorem restoreTile_of_invalid {tc : TCore} {j : Nat} (h : (slotDesc tc j).testBit 63 = false) (base pitch : Nat) :
    restoreTile tc base pitch j = tc := by
  rw [restoreTile, h, if_neg Bool.false_ne_true]

/-- One row of a kept tile is written back, with its poison. -/
def restoreRow (base pitch j : Nat) (tc : TCore) (r : Nat) : TCore :=
  let row := tc.write .act (base + r * pitch) (tc.bytes .erg (slotOff j + 128 * r) 128)
  if tc.poisoned .erg (slotOff j + 128 * r) 128 then row.poison .act (base + r * pitch) 128 else row

theorem restoreTile_eq_foldl {tc : TCore} {j : Nat} (h : (slotDesc tc j).testBit 63 = true) (base pitch : Nat) :
    restoreTile tc base pitch j = (List.range 16).foldl (restoreRow base pitch j) tc :=
  if_pos h

/-- While the slot stands as in `tc`, without poison, the rows that are written are its own. -/
theorem foldl_restoreRow {tc : TCore} {j : Nat} (hp : tc.poisoned .erg (slotOff j) 2048 = false) (base pitch : Nat)
    (rs : List Nat) (hrs : ∀ r ∈ rs, r < 16) (z : TCore) (hb : ∀ off n, z.bytes .erg off n = tc.bytes .erg off n)
    (hz : ∀ off n, z.poisoned .erg off n = tc.poisoned .erg off n) : rs.foldl (restoreRow base pitch j) z =
      rs.foldl (fun z r => z.write .act (base + r * pitch) (tc.bytes .erg (slotOff j + 128 * r) 128)) z := by
  induction rs generalizing z with
  | nil => rfl
  | cons r rs ih =>
    have hr : r < 16 := hrs r List.mem_cons_self
    have hclean : tc.poisoned .erg (slotOff j + 128 * r) 128 = false := not_poisoned_within hp (by omega) (by omega)
    have hrow : restoreRow base pitch j z r =
        z.write .act (base + r * pitch) (tc.bytes .erg (slotOff j + 128 * r) 128) := by
      rw [restoreRow, hz, hclean, hb, if_neg Bool.false_ne_true]
    rw [List.foldl_cons, List.foldl_cons, hrow]
    exact ih (fun x hx => hrs x (List.mem_cons_of_mem _ hx)) _ (fun off n => (bytes_erg_write_act ..).trans (hb off n))
      fun off n => (poisoned_erg_write_act ..).trans (hz off n)

/-- A kept tile without poison is written back row by row, from the slot as it stands. -/
theorem restoreTile_of_valid {tc : TCore} {j : Nat} (h : (slotDesc tc j).testBit 63 = true)
    (hp : tc.poisoned .erg (slotOff j) 2048 = false) (base pitch : Nat) :
    restoreTile tc base pitch j = (List.range 16).foldl (fun z r =>
      z.write .act (base + r * pitch) (tc.bytes .erg (slotOff j + 128 * r) 128)) tc :=
  (restoreTile_eq_foldl h base pitch).trans
    (foldl_restoreRow hp base pitch _ (fun _ hr => List.mem_range.1 hr) tc (fun _ _ => rfl) fun _ _ => rfl)

end Sys2Proof.Machine

/-! SUPPORT. What ERG_OP_COMPLETE does (R167, R169 to R172): the head of an Erg queue starts, or does its next participant's work
or the whole of it, and what that leaves unchanged. -/

namespace Sys2Proof.Machine

open Sys2Proof.Safety

/-! ## What an operation may change -/

/-- A state in which operation `e` of an Erg queue has acted: its team is `tm'`, its group holds `ws`, and of the cores only the
records for a replay have changed. -/
structure ErgActed (s p : State) (e : ErgOp) (tm' : Team) (ws : List (Dst × Word)) : Prop where
  besides : { p with cores := s.cores, teams := s.teams, groups := s.groups } = s
  cores : coresKept s p
  team : getTeam p e.team = some tm'
  teams : ∀ k, k ≠ e.team → getTeam p k = getTeam s k
  groups : ∀ k, k ≠ e.grp → getGroup p k = getGroup s k
  group : ∀ g, getGroup s e.grp = some g → getGroup p e.grp = some (g.writes ws)

/-- Of a team the Skip map is now `skip`, and the share of core `cn` is `tc'`. -/
structure OneShare (tm tm' : Team) (cn : Nat) (tc' : TCore) (skip : List Dword) : Prop where
  skips : tm'.skip = skip
  rest : { tm' with cores := tm.cores, skip := tm.skip } = tm
  length : tm'.cores.length = tm.cores.length
  others : ∀ k, k ≠ cn → tm'.cores[k]? = tm.cores[k]?
  share : tm'.cores[cn]? = some tc'

section Acts

variable {s p : State} {e : ErgOp} {tm tm' : Team} {tc : TCore} {cn : Nat}

theorem ergActed_self (ht : getTeam s e.team = some tm) : ErgActed s s e tm [] :=
  ⟨rfl, (coresKept_iff s s).2 rfl, ht, fun _ _ => rfl, fun _ _ => rfl, fun _ hg => hg⟩

theorem ergActed_modTeam (ht : getTeam s e.team = some tm) {f : Team → Team} (hf : ∀ x, (f x).id = x.id) :
    ErgActed s (modTeam s e.team f) e (f tm) [] :=
  ⟨rfl, (coresKept_iff s _).2 rfl, getTeam_modTeam_same ht hf, fun _ hk => getTeam_modTeam_other hk hf, fun _ _ => rfl,
    fun _ hg => hg⟩

theorem ergActed_modTCore (ht : getTeam s e.team = some tm) (cn : Nat) (f : TCore → TCore) :
    ErgActed s (modTCore s e.team cn f) e { tm with cores := modNth tm.cores cn f } [] :=
  ergActed_modTeam ht (f := fun x => { x with cores := modNth x.cores cn f }) fun _ => rfl

/-- An operation that changes the Skip map alone. -/
theorem ergActed_skip (ht : getTeam s e.team = some tm) (f : Team → Team) (hf : ∀ x, f x = { x with skip := (f x).skip }) :
    ErgActed s (modTeam s e.team f) e { tm with skip := (f tm).skip } [] :=
  hf tm ▸ ergActed_modTeam ht fun x => by rw [hf]

theorem modGroupSince_rest (s p : State) (gid id : Nat) (f : Group → Group) :
    { modGroupSince p gid id f with cores := s.cores, teams := s.teams, groups := s.groups } =
      { p with cores := s.cores, teams := s.teams, groups := s.groups } := by
  unfold modGroupSince
  split
  · rfl
  · split <;> rfl

/-- The operation writes its destinations. -/
theorem ErgActed.put (h : ErgActed s p e tm' []) (ws : List (Dst × Word)) :
    ErgActed s (modGroupSince p e.grp e.id fun g => g.writes ws) e tm' ws := by
  refine ⟨(modGroupSince_rest ..).trans h.besides, ?_, ?_, fun k hk => ?_, fun k hk => ?_, fun g hg => ?_⟩
  · rw [coresKept_iff, modGroupSince_coresKept]
    exact h.cores
  · rw [getTeam, modGroupSince_teams]
    exact h.team
  · rw [getTeam, modGroupSince_teams]
    exact h.teams k hk
  · rw [getGroup_modGroupSince, getGroup_modGroup_other _ _ _ _ hk (writes_id ws), h.groups k hk]
  · rw [getGroup_modGroupSince]
    exact getGroup_modGroup_same _ _ _ _ (h.group g hg) (writes_id ws)

theorem oneShare_skip (htc : tm.cores[cn]? = some tc) (skip : List Dword) : OneShare tm { tm with skip := skip } cn tc skip :=
  ⟨rfl, rfl, rfl, fun _ _ => rfl, htc⟩

theorem oneShare_modNth (htc : tm.cores[cn]? = some tc) (f : TCore → TCore) :
    OneShare tm { tm with cores := modNth tm.cores cn f } cn (f tc) tm.skip :=
  ⟨rfl, rfl, length_modNth f _ _, fun k hk => by simp [modNth_eq_modify, Ne.symm hk], by simp [modNth_eq_modify, htc]⟩

end Acts

/-! ## The head of the queue -/

section Head

variable {s p : State} {c : Nat} {e : ErgOp} {es q : List ErgOp} {tm tm' : Team} {tc tc' : TCore} {skip : List Dword}
  {ws : List (Dst × Word)}

/-- The event answers a state in which the head has acted and core `c`'s Erg queue is `q`. -/
def ErgEnds (s : State) (c : Nat) (e : ErgOp) (tm : Team) (q : List ErgOp) (tc' : TCore) (skip : List Dword)
    (ws : List (Dst × Word)) : Prop :=
  ∃ u tm', exec (.ergOpComplete c) s = .next u ∧
    { u with cores := s.cores, teams := s.teams, groups := s.groups } = s ∧ (getCore u c).ergq = q ∧
    (getCore u c).mxq = (getCore s c).mxq ∧ otherCoresKept s u c ∧
    (∀ k, k ≠ e.team → getTeam u k = getTeam s k) ∧ getTeam u e.team = some tm' ∧ tm'.skip = skip ∧
    { tm' with cores := tm.cores, skip := tm.skip } = tm ∧ tm'.cores.length = tm.cores.length ∧
    (∀ k, k ≠ coreNoOf s e.grp → tm'.cores[k]? = tm.cores[k]?) ∧
    tm'.cores[coreNoOf s e.grp]? = some tc' ∧ (∀ k, k ≠ e.grp → getGroup u k = getGroup s k) ∧
    (∀ g, getGroup s e.grp = some g → getGroup u e.grp = some (g.writes ws))

/-- The head has acted, and its queue changes. -/
theorem ErgActed.ends (h : ErgActed s p e tm' ws) (hs : OneShare tm tm' (coreNoOf s e.grp) tc' skip) (hc : c < s.cores.length)
    {f : List ErgOp → List ErgOp} (hexec : exec (.ergOpComplete c) s = .next (modCore p c fun k => { k with ergq := f k.ergq }))
    (hf : f (getCore s c).ergq = q) : ErgEnds s c e tm q tc' skip ws := by
  have hcores := (coresKept_iff s p).1 h.cores
  have hlen : c < p.cores.length := by
    have := congrArg List.length hcores
    simp only [List.length_map] at this
    omega
  have hbare := bareCore_getCore h.cores
  have hhead : getCore (modCore p c fun k => { k with ergq := f k.ergq }) c = { getCore p c with ergq := f (getCore p c).ergq } :=
    nth_modNth_same _ _ _ _ hlen
  have hergq : (getCore p c).ergq = (getCore s c).ergq := (congrArg Core.ergq (hbare c) :)
  have hmxq : (getCore p c).mxq = (getCore s c).mxq := (congrArg Core.mxq (hbare c) :)
  refine ⟨_, tm', hexec, h.besides, ?_, ?_, fun k hk => ?_, h.teams, h.team, hs.skips, hs.rest, hs.length, hs.others, hs.share,
    h.groups, h.group⟩
  · rw [hhead, hergq, hf]
  · rw [hhead, hmxq]
  · rw [show getCore (modCore p c fun k => { k with ergq := f k.ergq }) k = getCore p k from
      nth_modNth_other _ _ _ _ _ (Ne.symm hk)]
    exact hbare k

/-- The entries that are left once the head has done its next participant. -/
def leftAfterLane (e : ErgOp) (es : List ErgOp) : List ErgOp :=
  if e.due.length ≤ 1 then es else { e with doneLanes := e.doneLanes ||| Mask.bit (e.due.headD 0) } :: es

section Queue

variable (h : ErgActed s p e tm' ws) (hs : OneShare tm tm' (coreNoOf s e.grp) tc' skip) (hc : c < s.cores.length)
  (hq : (getCore s c).ergq = e :: es)

include h hs hc hq

theorem ErgActed.ends_drop (hexec : exec (.ergOpComplete c) s = .next (dropErgHead p c)) : ErgEnds s c e tm es tc' skip ws :=
  h.ends hs hc hexec (by rw [hq]; rfl)

theorem ErgActed.ends_modHead {f : ErgOp → ErgOp} (hexec : exec (.ergOpComplete c) s = .next (modErgHead p c f)) :
    ErgEnds s c e tm (f e :: es) tc' skip ws :=
  h.ends hs hc (f := fun q => match q with
    | m :: ms => f m :: ms
    | [] => []) hexec (by rw [hq])

theorem ErgActed.ends_laneDone (hexec : exec (.ergOpComplete c) s = .next (ergLaneDone p c e (e.due.headD 0))) :
    ErgEnds s c e tm (leftAfterLane e es) tc' skip ws := by
  unfold ergLaneDone at hexec
  unfold leftAfterLane
  split at hexec
  next hlast =>
    rw [if_pos hlast]
    exact h.ends_drop hs hc hq hexec
  next hmore =>
    rw [if_neg hmore]
    exact h.ends_modHead hs hc hq hexec

end Queue

/-! ## The event -/

/-- With no SRAM error a participant's work meets none. -/
theorem ergMeet_of_clean (h : sramClean s = true) (cn : Nat) (e : ErgOp) : ergMeet s cn e = s := by
  have hmeet : ∀ w off n, meetScratch s e.team cn w off n = s := fun _ _ _ => if_pos h
  have hfold (os : List Nat) (n : Nat) : os.foldl (fun s off => meetScratch s e.team cn .erg off n) s = s := by
    induction os with
    | nil => rfl
    | cons o os ih => rw [List.foldl_cons, hmeet, ih]
  unfold ergMeet
  dsimp only
  rw [foldl_meetScratch_of_clean h, hfold, hfold]

theorem exec_ergOpComplete_of_started (hq : (getCore s c).ergq = e :: es) (hst : e.started = true) :
    exec (.ergOpComplete c) s = .next (ergWork s c e) := by
  show Host.Outcome.next (ergComplete s c) = _
  simp only [ergComplete, hq, hst, Bool.not_true, Bool.false_eq_true, if_false]

theorem exec_ergOpComplete_of_held (hq : (getCore s c).ergq = e :: es) (hst : e.started = false)
    (h : engineHeld s c e.team e.id = true ∨ gateHolds s c e.cyc = true ∨ ergBytesFree s c e = false) :
    exec (.ergOpComplete c) s = .next s := by
  show Host.Outcome.next (ergComplete s c) = _
  rcases h with h | h | h <;> simp [ergComplete, hq, hst, h]

theorem exec_ergOpComplete_of_starts (hq : (getCore s c).ergq = e :: es) (hst : e.started = false)
    (ht : getTeam s e.team = some tm) (hheld : engineHeld s c e.team e.id = false) (hgate : gateHolds s c e.cyc = false)
    (hfree : ergBytesFree s c e = true) :
    exec (.ergOpComplete c) s = .next (modErgHead s c fun e => { e with started := true, ta := tm.ergta, tr := tm.ergtr }) := by
  show Host.Outcome.next (ergComplete s c) = _
  simp [ergComplete, hq, hst, hheld, hgate, hfree, ht]

end Head

/-! ## The statement -/

/-- Settles O42: the arithmetic is that of the lemmas on skip bits, statuses and slots; every outcome of the event is one of
`ErgEnds`, the head having acted as `ErgActed` says. -/
theorem ergEngineReadsThresholdsThenDoesItsHead : Obligations.ErgEngineReadsThresholdsThenDoesItsHead := by
  unfold Obligations.ErgEngineReadsThresholdsThenDoesItsHead
  refine ⟨fun _ j _ x hlen _ hk => skipBit_setSkip hlen j hk x, fun _ a n _ hlen hk => skipBit_clearSkips hlen a n hk, ?_, ?_⟩
  · intro tc ty ta tr base pitch j _
    extract_lets f count unit tile kept x y desc l1 tileBad slotBad descBad st dist other special us
    have hx : x = elemUnits ty tile := funext fun _ => (ergUnits_eq ..).symm
    have hy : y = elemUnits ty kept := funext fun _ => (ergUnits_eq ..).symm
    have hdist : dist = slotDist tc ty base pitch j := by
      unfold dist
      rw [hx, hy]
      rfl
    have hbad : (special || tileBad || slotBad || descBad) = compareBad tc ty base pitch j := by
      unfold special
      rw [hx, hy]
      rfl
    refine ⟨ergCompare_of_other, fun h => ?_, fun kind hus => ?_, fun h => restoreTile_of_invalid h base pitch,
      fun h hp => restoreTile_of_valid h hp base pitch⟩
    · obtain ⟨hlt, h0, h1, h2⟩ := ergCompare_bits h
      rw [hbad, hdist]
      refine ⟨hlt, h1, h2, fun hno => ?_, fun n q m r h1' h2' h58 hta htr => ?_⟩
      · rw [h1, h2, decide_eq_true_eq] at hno
        exact h0.trans (compareSkip_of_hindered hno)
      · rw [h1] at h1'
        rw [h2, decide_eq_false_iff_not, not_le] at h2'
        rw [h0]
        exact compareSkip_iff h1' h2' h58 hta htr
    · have hunits : us = finiteUnits ty tile := by
        unfold us
        rw [hx]
        rfl
      rw [hunits] at hus ⊢
      exact keepTile_eq tc kind base pitch j hus
  · intro s c e es tm tc hc hq ht htc hclean i base j rest ends
    have hshare : getTCore s e.team (coreNoOf s e.grp) = some tc := by rw [getTCore, ht]; exact htc
    have hself := ergActed_self ht
    have hkept : OneShare tm tm (coreNoOf s e.grp) tc tm.skip := oneShare_skip htc _
    refine ⟨exec_ergOpComplete_of_held hq, fun hst hheld hgate hfree => ?_, fun hst => ?_⟩
    · exact hself.ends_modHead hkept hc hq (exec_ergOpComplete_of_starts hq hst ht hheld hgate hfree)
    have hwork := exec_ergOpComplete_of_started hq hst
    have hmeet := ergMeet_of_clean hclean (coreNoOf s e.grp) e
    have share (f : TCore → TCore) (h : ergWork s c e = ergLaneDone (modTCore s e.team (coreNoOf s e.grp) f) c e i) :
        ends rest (f tc) tm.skip [] :=
      (ergActed_modTCore ht _ f).ends_laneDone (oneShare_modNth htc f) hc hq (hwork.trans (congrArg _ h))
    refine ⟨fun t hi => ?_, fun t hi => ?_, fun t hi => ?_, fun t hi => ?_, fun t hi => ?_, fun t hi => ?_, fun t hi => ?_,
      fun t hi => ?_, fun t hi => ?_, fun t hi => ?_⟩
    · refine ((ergActed_skip ht (fun tm => setSkip tm j _) fun _ => rfl).put _).ends_laneDone (oneShare_skip htc _) hc hq ?_
      rw [hwork]
      simp only [ergWork, hmeet, ht, hi, hshare]
      rfl
    · exact share (fun tc => keepTile tc t.ty false base (ergPitch t) j) (by simp only [ergWork, hmeet, ht, hi]; rfl)
    · exact share (fun tc => keepTile tc t.ty true base (ergPitch t) j) (by simp only [ergWork, hmeet, ht, hi]; rfl)
    · exact share (fun tc => restoreTile tc base (ergPitch t) j) (by simp only [ergWork, hmeet, ht, hi]; rfl)
    · exact share (fun tc => tc.write .erg (2144 * j + 0x820) (List.replicate 8 0)) (by simp only [ergWork, hmeet, ht, hi]; rfl)
    · refine (hself.put _).ends_drop hkept hc hq ?_
      rw [hwork]
      simp only [ergWork, hmeet, ht, hi]
      rfl
    · refine (hself.put _).ends_drop hkept hc hq ?_
      rw [hwork]
      simp only [ergWork, hmeet, ht, hi, nth_eq_getD]
    · refine (ergActed_skip ht (fun tm => { tm with skip := tm.skip.set (e.arg 0) (e.args.getD 1 0) }) fun _ => rfl).ends_drop
        (oneShare_skip htc _) hc hq ?_
      rw [hwork]
      simp only [ergWork, hmeet, ht, hi, nth_eq_getD, setNth_eq_set]
    · refine (ergActed_skip ht (fun tm => clearSkips tm (e.arg 0) (e.arg 1)) fun _ => clearSkips_eq ..).ends_drop
        (oneShare_skip htc _) hc hq ?_
      rw [hwork]
      simp only [ergWork, hmeet, ht, hi]
    · refine (hself.put _).ends_drop hkept hc hq ?_
      rw [hwork]
      simp only [ergWork, hmeet, ht, hi, hshare]
      rfl

end Sys2Proof.Machine
